-- ==== Sys2Proof/Word.lean ====
section
/-!
DEFINITION. The word types of the machine and their plainest arithmetic.
-/
namespace Sys2Proof

/-- A 64-bit register or address (R4, R69). -/
abbrev Word64 := BitVec 64
/-- One vector register, 8,192 bits (R69). -/
abbrev VBits := BitVec 8192
/-- One mask register, one bit per element (R69, R72). -/
abbrev MBits := BitVec 4096
/-- One byte. -/
abbrev Byte := BitVec 8

/-- Scalar register number. -/
abbrev XReg := Fin 32
/-- Vector register number (R69: 48 to 63 fault RESERVED_REG before a number of this type exists). -/
abbrev VReg := Fin 48
/-- Mask register number. -/
abbrev MReg := Fin 12
/-- Weight register number. -/
abbrev WReg := Fin 8
/-- Feed slot number. -/
abbrev FeedIx := Fin 4
/-- Accumulator number. -/
abbrev AccIx := Fin 4
/-- Die of the module. -/
abbrev DieIx := Fin 4
/-- Quad of the module: die × 12 + quad. -/
abbrev QuadIx := Fin 48
/-- Core of the module: die × 48 + quad × 4 + core. -/
abbrev CoreIx := Fin 192
/-- Hardware context of the module: core × 8 + context. -/
abbrev CtxIx := Fin 1536
/-- Narrows port. -/
abbrev PortIx := Fin 8

/-- The core a context belongs to. -/
def CtxIx.core (c : CtxIx) : CoreIx := ⟨c.val / 8, by omega⟩
/-- The quad a core belongs to. -/
def CoreIx.quad (c : CoreIx) : QuadIx := ⟨c.val / 4, by omega⟩
/-- The die a quad belongs to. -/
def QuadIx.die (q : QuadIx) : DieIx := ⟨q.val / 12, by omega⟩
/-- The die a core belongs to. -/
def CoreIx.die (c : CoreIx) : DieIx := ⟨c.val / 48, by omega⟩
/-- The die a context belongs to. -/
def CtxIx.die (c : CtxIx) : DieIx := ⟨c.val / 384, by omega⟩
/-- The quad a context belongs to. -/
def CtxIx.quad (c : CtxIx) : QuadIx := ⟨c.val / 32, by omega⟩

end Sys2Proof
end

