-- ==== Sys2Proof/Config.lean ====
section
/-!
DEFINITION. What the manual leaves open. Every constant is opaque and has no body: no proof can see its value.
Each is applied to a counter that the machine advances (`State.freeCtr`) or to the data the open value depends on,
so that a claim holds for every value (assumption log, entry 6).
-/
namespace Sys2Proof.Config

/-- An undefined register content of `w` bits, the `n`-th the run meets (R31, R75, R242). -/
opaque freeBits : (w : Nat) → (n : Nat) → BitVec w
/-- The public keys held in ROM (R358): the point of ECDSA P-384, and the identifier and the root of LMS. -/
opaque romEcdsaKey : BitVec 384 × BitVec 384
opaque romLmsId : BitVec 128
opaque romLmsRoot : BitVec 256
/-- The signatures of the boot report under the device's attestation keys (R360): ECDSA P-384, and of LMS with a leaf index the
randomiser, the 34 chain values and the 15 nodes of the path. -/
opaque attestEcdsa : (msg : List (BitVec 8)) → BitVec 768
opaque attestLms : (leaf : Nat) → (msg : List (BitVec 8)) → BitVec 12800
/-- The ROM's digest, and the device's unique id (R360). -/
opaque romDigest : BitVec 384
opaque deviceId : BitVec 128
/-- The 64-byte header of a transfer (R332) or completion: the manual names its fields and gives no layout. `kind` is 0 NSEND
write, 1 NSEND reduce-add, 2 VRRED, 3 VRRED.ORD, 4 PACE, 5 completion, 6 failure completion. -/
opaque xferHeader (kind source peer id : Nat) (remote : BitVec 64) (count fmt tid : Nat) : BitVec 512
/-- What a dispatch unit reads of an address-space entry at `pa` that meets an uncorrectable error (R41 gives the case no outcome), the
`n`-th index of the run. -/
opaque lostEntry : (pa n : Nat) → BitVec 256
/-- What a weight element becomes that is restored with `x`, above 0x8000 (R73 bounds the value and does not name it). -/
opaque weightAbove : (x : Nat) → BitVec 16
/-- The LPDDR channel that carries line `n` of the tier (R250: the manual gives no placement). -/
opaque lpddrChannel : (line : Nat) → Nat

end Sys2Proof.Config
end

