-- ==== Sys2Proof/Syntax.lean ====
section
/-!
DEFINITION. The instruction set: one constructor of `Instr` per row of spec/opcode_table.json. Register numbers and
code fields are values of closed types; no raw encoding reaches the machine. The 69 device events have no encoding:
their constructors carry the inputs of the event.
-/
namespace Sys2Proof

/-- Scope (R115, Table 7-2). -/
inductive Scope where
  | core | quad | die | pkg | sys
  deriving DecidableEq, Repr

/-- Element type (R116, Table 7-3). -/
inductive EType where
  | f64 | f32 | f16 | bf16 | e5m2 | e4m3 | e2m1 | e8m0
  | s64 | s32 | s16 | s8 | s4 | s2
  | n64 | n32 | n16 | n8
  deriving DecidableEq, Repr

/-- Scalar floating-point type (R115). -/
inductive FpT where
  | f64 | f32 | f16 | bf16
  deriving DecidableEq, Repr

/-- Matrix element type (R115). -/
inductive MatT where
  | bf16 | f16 | e4m3 | e5m2 | e2m1 | s8 | s4 | s2
  deriving DecidableEq, Repr

/-- Rounding field: a mode of Table 6-6, or FRM (R115). -/
inductive Rnd where
  | rne | rtz | rdn | rup | rmm | frm
  deriving DecidableEq, Repr

/-- The ew field of an SV word (R115): a width, or the captured VT.EW. -/
inductive EwSel where
  | w2 | w4 | w8 | w16 | w32 | w64 | vt
  deriving DecidableEq, Repr

/-- Load size (R120): .B .BN .H .HN .W .WN .D; the N forms zero-extend. -/
inductive LdSize where
  | b | bn | h | hn | w | wn | d
  deriving DecidableEq, Repr

/-- Store size (R120). -/
inductive StSize where
  | b | h | w | d
  deriving DecidableEq, Repr

/-- Size of SEXT and ZEXT (R119). -/
inductive ExtSize where
  | b | h | w
  deriving DecidableEq, Repr

/-- Atomic operation (R121). -/
inductive AmoOp where
  | add | and | or | xor | swap | min | max | minn | maxn
  deriving DecidableEq, Repr

/-- Ordering of an atomic (R121). -/
inductive AOrd where
  | none | acq | rel | ar
  deriving DecidableEq, Repr

/-- Operation of VSRED (R124): 0 to 3, 5 to 8 of R121, or 9 for FP add. -/
inductive SredOp where
  | add | and | or | xor | min | max | minn | maxn | fadd
  deriving DecidableEq, Repr

/-- Destination type of VRRED (R124). -/
inductive RredT where
  | f32 | bf16 | s32 | s64
  deriving DecidableEq, Repr

/-- Compare condition (R123). -/
inductive Cond where
  | eq | ne | lt | le | gt | ge
  deriving DecidableEq, Repr

/-- Quantiser of NSEND (R124). -/
inductive NQuant where
  | raw | mx4 | mx8
  deriving DecidableEq, Repr

/-- A mask field: a mask register, or `none` for unmasked, all rows or all columns (code 15, R115). -/
abbrev MSel := Option MReg

/-- A source vector register with its chain bit. -/
structure VSrc where
  r  : VReg
  ch : Bool
  deriving DecidableEq, Repr

/-- xd, xa, xb. -/
structure X3 where
  d : XReg
  a : XReg
  b : XReg
  deriving DecidableEq, Repr

/-- xd, xa. -/
structure X2 where
  d : XReg
  a : XReg
  deriving DecidableEq, Repr

/-- xd, xa and a 6-bit shift amount. -/
structure XSh where
  d : XReg
  a : XReg
  n : Fin 64
  deriving DecidableEq, Repr

/-- xd, xa and a size. -/
structure XExt where
  d : XReg
  a : XReg
  s : ExtSize
  deriving DecidableEq, Repr

/-- xd, xa and a 16-bit immediate. -/
structure XImm where
  d : XReg
  a : XReg
  i : BitVec 16
  deriving DecidableEq, Repr

/-- Two compared registers and a 16-bit word offset. -/
structure Br where
  a : XReg
  b : XReg
  o : BitVec 16
  deriving DecidableEq, Repr

/-- Scalar FP operation with two register sources. -/
structure Fp3 where
  d : XReg
  a : XReg
  b : XReg
  t : FpT
  r : Rnd
  deriving DecidableEq, Repr

/-- Scalar FMIN and FMAX: no rounding. -/
structure Fp3n where
  d : XReg
  a : XReg
  b : XReg
  t : FpT
  deriving DecidableEq, Repr

/-- Scalar FP conversion: the FP type and the other type (R123). -/
structure FpCvt where
  d : XReg
  a : XReg
  t : FpT
  o : EType
  r : Rnd
  deriving DecidableEq, Repr

/-- Operands of AMO. -/
structure AmoArgs where
  d : XReg
  a : XReg
  b : XReg
  scope : Scope
  ord : AOrd
  dword : Bool
  op : AmoOp
  deriving DecidableEq, Repr

/-- Operands of CAS. -/
structure CasArgs where
  d : XReg
  a : XReg
  b : XReg
  scope : Scope
  ord : AOrd
  dword : Bool
  deriving DecidableEq, Repr

/-- A vector register accessed through memory: v, address xa, mask, element width. -/
structure VMem where
  v : VReg
  a : XReg
  m : MSel
  e : EwSel
  deriving DecidableEq, Repr

/-- A store of v: `ch` is the chain bit on v. -/
structure VStore where
  v : VReg
  a : XReg
  m : MSel
  ch : Bool
  e : EwSel
  deriving DecidableEq, Repr

/-- Operands of VST. -/
structure VstArgs where
  v : VReg
  a : XReg
  m : MSel
  ch : Bool
  e : EwSel
  scope : Scope
  rel : Bool
  ntf : Bool
  deriving DecidableEq, Repr

/-- Operands of VAMO. -/
structure VamoArgs where
  v : VReg
  a : XReg
  m : MSel
  op : AmoOp
  ord : AOrd
  scope : Scope
  dword : Bool
  deriving DecidableEq, Repr

/-- Operands of NSEND. -/
structure NsendArgs where
  d : XReg
  a : XReg
  b : XReg
  q : NQuant
  ef : Bool
  rfBf16 : Bool
  bar : Bool
  compl : Bool
  srcBf16 : Bool
  deriving DecidableEq, Repr

/-- Operands of a scalar queue form: xd, xa, xb, scope, blocking. -/
structure QArgs where
  d : XReg
  a : XReg
  b : XReg
  scope : Scope
  blk : Bool
  deriving DecidableEq, Repr

/-- Operands of a vector queue form. -/
structure QvArgs where
  d : XReg
  a : XReg
  v : VReg
  scope : Scope
  blk : Bool
  deriving DecidableEq, Repr

/-- acc, shape record register, row and column predicates. -/
structure MsArgs where
  acc : AccIx
  a : XReg
  mr : MSel
  mc : MSel
  deriving DecidableEq, Repr

/-- Element-block operation on two vectors, with rounding. -/
structure VE2r where
  d : VReg
  a : VSrc
  b : VSrc
  m : MSel
  t : EType
  r : Rnd
  deriving DecidableEq, Repr

/-- Element-block operation on three vectors, with rounding. -/
structure VE3r where
  d : VReg
  a : VSrc
  b : VSrc
  c : VSrc
  m : MSel
  t : EType
  r : Rnd
  deriving DecidableEq, Repr

/-- Element-block operation on one vector, with rounding. -/
structure VE1r where
  d : VReg
  a : VSrc
  m : MSel
  t : EType
  r : Rnd
  deriving DecidableEq, Repr

/-- Element-block operation on two vectors. -/
structure VE2 where
  d : VReg
  a : VSrc
  b : VSrc
  m : MSel
  t : EType
  deriving DecidableEq, Repr

/-- Element-block operation on one vector. -/
structure VE1 where
  d : VReg
  a : VSrc
  m : MSel
  t : EType
  deriving DecidableEq, Repr

/-- Compare into mask m8 + `d`. -/
structure VCmpArgs where
  d : Fin 4
  a : VSrc
  b : VSrc
  m : MSel
  t : EType
  c : Cond
  deriving DecidableEq, Repr

/-- Mask operation into mask m8 + `d`. -/
structure MOp where
  d : Fin 4
  a : MReg
  b : MReg
  m : MSel
  deriving DecidableEq, Repr

/-- Conversion: destination type, source type. -/
structure VCvtArgs where
  d : VReg
  a : VSrc
  m : MSel
  t : EType
  st : EType
  r : Rnd
  deriving DecidableEq, Repr

/-- MX quantisation: codes to d, scales to sd. -/
structure VQmxArgs where
  d : VReg
  a : VSrc
  sd : VReg
  m : MSel
  t : EType
  st : EType
  r : Rnd
  deriving DecidableEq, Repr

/-- Dot product into d: accumulator type t, source type st. -/
structure VDotArgs where
  d : VReg
  a : VSrc
  b : VSrc
  m : MSel
  t : EType
  st : EType
  deriving DecidableEq, Repr

/-- One vector and a 12-bit index or distance. -/
structure VE1i where
  d : VReg
  a : VSrc
  m : MSel
  t : EType
  i : Fin 4096
  deriving DecidableEq, Repr

/-- A reduction: the destination register, or `none` with .X (push on the VSQ); segment mask. -/
structure VRedArgs where
  d : Option VReg
  a : VSrc
  m : MSel
  t : EType
  r : Rnd
  seg : MSel
  deriving DecidableEq, Repr

/-- A reduction without rounding. -/
structure VRedIArgs where
  d : Option VReg
  a : VSrc
  m : MSel
  t : EType
  seg : MSel
  deriving DecidableEq, Repr

/-- An FP scan. -/
structure VScanArgs where
  d : VReg
  a : VSrc
  m : MSel
  t : EType
  r : Rnd
  seg : MSel
  deriving DecidableEq, Repr

/-- An integer scan. -/
structure VScanIArgs where
  d : VReg
  a : VSrc
  m : MSel
  t : EType
  seg : MSel
  deriving DecidableEq, Repr

/-- Arm weights of a region: `n` + 2 of the four are used. -/
structure Arms where
  n : Fin 3
  w0 : WReg
  w1 : WReg
  w2 : WReg
  w3 : WReg
  deriving DecidableEq, Repr

/-- WJOIN. -/
structure WJoinArgs where
  d : VReg
  a : VSrc
  m : MSel
  t : EType
  r : Rnd
  arms : Arms
  deriving DecidableEq, Repr

/-- WGJOIN: dy, ya, yb and the two weights. -/
structure WGJoinArgs where
  d : VReg
  dy : VSrc
  ya : VSrc
  yb : VSrc
  m : MSel
  r : Rnd
  wa : WReg
  wb : WReg
  deriving DecidableEq, Repr

/-- WGRAMP: g, k and the weight. -/
structure WGRampArgs where
  d : VReg
  g : VSrc
  k : VSrc
  m : MSel
  r : Rnd
  w : WReg
  deriving DecidableEq, Repr

/-- WMOV: from a vector to weight w, or from weight w to a vector. -/
inductive WMovDir where
  | toWeight (a : VSrc)
  | toVector (d : VReg)
  deriving DecidableEq, Repr

/-- LDE. -/
structure LdeArgs where
  d : VReg
  a : VSrc
  m : MSel
  t : EType
  off : BitVec 13
  deriving DecidableEq, Repr

/-- STE. -/
structure SteArgs where
  a : VSrc
  b : VSrc
  m : MSel
  t : EType
  off : BitVec 13
  deriving DecidableEq, Repr

/-- WSTA. -/
structure WstaArgs where
  a : VSrc
  b : VSrc
  m : MSel
  t : EType
  r : Rnd
  w : WReg
  deriving DecidableEq, Repr

/-- A PACE notice (R335). -/
structure Notice where
  release : Bool
  ceiling : BitVec 8
  tag     : BitVec 16
  origin  : BitVec 12
  seq     : BitVec 32
  deriving DecidableEq, Repr

/-- A CXL capacity offer (R343). -/
structure Offer where
  port : Nat
  dpa  : Nat
  len  : Nat
  tag  : BitVec 128
  deriving DecidableEq, Repr

/-- A flit that waits to be sent, is kept for replay, or was received in order (R328, R329): its number, channel, payload, and
for one that is sent the id of its transfer. -/
structure Flit where
  seq     : Nat
  vc      : Nat
  payload : List Byte
  id      : Nat
  deriving DecidableEq, Repr

/-- A flit as it arrives: the control word of Table 23-1 and the payload. -/
structure RxFlit where
  seq     : Nat
  vc      : Nat
  nak     : Bool
  ack     : Nat
  crc     : BitVec 32
  payload : List Byte
  deriving DecidableEq, Repr

/-- The kind of a transfer (R332). -/
inductive XferKind where
  | write | reduceAdd | vrred | vrredOrd
  deriving DecidableEq, Repr

/-- A peer's transfer as its header and data give it (R332): kind, source encoding (quantiser, or the VRRED source
type), sender, transfer id, remote address, element count, reduce format, and the packed data. -/
structure Transfer where
  kind   : XferKind
  quant  : NQuant
  src    : EType
  peer   : BitVec 12
  id     : Nat
  remote : Word64
  count  : Nat
  rfmt   : RredT
  tid    : Nat
  /-- active elements of a VRRED contribution -/
  active : List Nat
  scales : List Byte
  data   : List Byte
  deriving DecidableEq, Repr

/-- A host command element (R339). -/
structure Cmd where
  gen    : Nat
  fence  : Bool
  tag    : BitVec 16
  signal : Word64
  status : Word64
  a0     : Word64
  a1     : Word64
  a2     : Word64
  a3     : Word64
  a4     : Word64
  deriving DecidableEq, Repr

/-- A vertical sensor pair's readings in sixteenths of a degree (R346). -/
structure SensorPair where
  compute : Nat
  base    : Nat
  deriving DecidableEq, Repr

/-- The readings of a quad's four sensor pairs (R346). -/
structure QuadReading where
  pairs : Vector SensorPair 4
  deriving DecidableEq, Repr

/-- Tq: the highest compute-side reading (R346). -/
def QuadReading.tq (r : QuadReading) : Nat := r.pairs.foldl (fun m p => Nat.max m p.compute) 0
/-- Gq: the largest difference between the two sides of a pair (R346). -/
def QuadReading.gq (r : QuadReading) : Nat :=
  r.pairs.foldl (fun m p => Nat.max m ((p.compute - p.base) + (p.base - p.compute))) 0

/-- Card flash (R356, R360): copies A and B of the patch and of the supervisor, and the device certificate chain. -/
structure Flash where
  patchA : List Byte
  patchB : List Byte
  supA   : List Byte
  supB   : List Byte
  certs  : List Byte
  deriving DecidableEq, Repr

/-- How training ends (R356): whether every Sound link trains, the stacks and Narrows ports that fail, and the peer id that
each port learns. -/
structure Training where
  sound  : Bool
  badStacks : List (Fin 16)
  badPorts : List PortIx
  peers    : Vector (BitVec 12) 8
  deriving DecidableEq, Repr


/-- Every step of the part: the S-format words (R114 to R127), the E-format words (R128 to R130) and the device
events of spec/95. -/
inductive Instr where
  -- 0x01: register operations (R119, R136)
  | add (o : X3) | sub (o : X3) | and (o : X3) | or (o : X3) | xor (o : X3) | andn (o : X3) | orn (o : X3)
  | sll (o : X3) | srl (o : X3) | sra (o : X3) | slt (o : X3) | sltn (o : X3) | min (o : X3) | max (o : X3)
  | minn (o : X3) | maxn (o : X3) | mul (o : X3) | mulh (o : X3) | mulhn (o : X3) | div (o : X3) | divn (o : X3)
  | rem (o : X3) | remn (o : X3) | clz (o : X2) | ctz (o : X2) | popc (o : X2) | sext (o : XExt) | zext (o : XExt)
  | slli (o : XSh) | srli (o : XSh) | srai (o : XSh)
  -- 0x02 to 0x07: immediates (R120, R137)
  | addi (o : XImm) | andi (o : XImm) | ori (o : XImm) | xori (o : XImm) | slti (o : XImm) | shori (o : XImm)
  | lih (d : XReg) (i : BitVec 16)
  -- 0x08, 0x09: scalar memory (R120, R121)
  | ld (d a : XReg) (off : BitVec 12) (s : LdSize) | st (d a : XReg) (off : BitVec 12) (s : StSize)
  | ldx (o : X3) (s : LdSize) | stx (o : X3) (s : StSize)
  | ldAcq (o : X3) (c : Scope) (s : LdSize) | stRel (o : X3) (c : Scope) (s : StSize)
  | amo (o : AmoArgs) | cas (o : CasArgs)
  -- 0x0A to 0x10: branches and jumps (R122)
  | beq (o : Br) | bne (o : Br) | blt (o : Br) | bge (o : Br) | bltn (o : Br) | bgen (o : Br)
  | jal (d : XReg) (i : BitVec 16) | jalr (o : XImm)
  -- 0x11: scalar floating point (R123, R138)
  | fadd (o : Fp3) | fsub (o : Fp3) | fmul (o : Fp3) | ffma (o : Fp3) | fdiv (o : Fp3)
  | fsqrt (o : X2) (t : FpT) (r : Rnd) | fmin (o : Fp3n) | fmax (o : Fp3n)
  | fcmp (o : X3) (t : FpT) (c : Cond) | fclass (o : X2) (t : FpT) | fcvtToFp (o : FpCvt) | fcvtFromFp (o : FpCvt)
  -- 0x12: CSRs (R123, R143)
  | csrr (d : XReg) (c : BitVec 12) | csrw (a : XReg) (c : BitVec 12)
  | csrs (o : X2) (c : BitVec 12) | csrc (o : X2) (c : BitVec 12)
  -- 0x13, 0x14: fences, barriers, system and task (R123)
  | fenceLd (c : Scope) | fenceSt (c : Scope) | fenceAll (c : Scope) | bar (c : Scope)
  | xpop (d : XReg) | feat (d : XReg) (n : Fin 32) | tlbinv (a b : XReg) | srinv (a : XReg)
  | launch (a : XReg) | tstop (o : X2)
  -- 0x15, 0x16 (R123, R186)
  | vfetch (o : BitVec 26) | vfetchx (a : XReg)
  -- 0x18 to 0x27: strip control and vector memory (R124)
  | vsetl (o : X2) (t : BitVec 11) | vsetlx (o : X3)
  | vldxAcq (v : VReg) (a : XReg) (i : VReg) (m : MSel) (c : Scope)
  | vstsNtf (o : VStore) (b : XReg)
  | strip (c p : XReg) (n : Fin 4) (o : BitVec 14)
  | setfib (o : X2) (mo : MReg) (t : BitVec 11)
  | vsplat (o : VMem) | vprf (a b : XReg) (e : EwSel)
  | vld (o : VMem) | vlds (o : VMem) (b : XReg) | vldg (o : VMem) (n : Fin 9) | vld2 (o : VMem)
  | vst (o : VstArgs) | vsts (o : VStore) (b : XReg) | vstg (o : VStore) (n : Fin 9) (ntf : Bool)
  | vst2 (o : VStore) (ntf : Bool)
  | vldx (o : VMem) (i : VReg) | vstx (o : VStore) (i : VReg) (ntf : Bool)
  | vldw (v : VReg) (a : XReg) (i : VReg) (mo : MReg) (e : EwSel)
  | vldb (v : VReg) (a b : XReg) (mo : MReg) (e : EwSel)
  | vstb (o : VStore) (b : XReg) | vstbNtf (o : VStore) (b : XReg)
  | vamo (o : VamoArgs) | vsred (o : VStore) (op : SredOp) | vrred (o : VStore) (t : RredT) (ntf ord : Bool)
  | fcfg (f : FeedIx) (a b : XReg) (stride : Fin 16) (out : Bool) (e : EwSel)
  | fld (v : VReg) (f : FeedIx) | fst (v : VReg) (f : FeedIx) (m : MSel) (ch : Bool) (e : EwSel)
  | fend (f : FeedIx) (a : XReg) (m : MSel) (e : EwSel)
  | apush (a b : XReg) (tag : Byte) | apop (o : X3) (tag : Byte) | nsend (o : NsendArgs)
  -- 0x28 to 0x2D: matrix (R126)
  | matt (o : X2) | mattB (o : X2) | mzero (acc : AccIx)
  | mopa (acc : AccIx) (v : VSrc) (k : Fin 512) (mr mc : MSel)
  | mopav (acc : AccIx) (v : VSrc) (b : VReg) (mr mc : MSel) (t : MatT)
  | mrds (acc : AccIx) (v : VReg) (i : Fin 128) (col : Bool)
  | mwrs (acc : AccIx) (v : VSrc) (i : Fin 128) (col : Bool)
  | mstt (o : MsArgs) | mgacc (o : MsArgs) | mgst (a : XReg) | mwld (a : XReg) (layout : Option (Fin 16))
  -- 0x30 to 0x35: queues, completion objects, persistence (R127)
  | qinit (a b : XReg) (c : Scope) | qcnt (o : X2) (c : Scope) | qclose (a : XReg) (c : Scope)
  | qenqX (o : QArgs) | qdeqX (o : QArgs) | qenqM (o : QArgs) | qdeqM (o : QArgs)
  | qenqV (o : QvArgs) | qdeqV (o : QvArgs)
  | binit (o : X3) | barr (a b : XReg) | barrRel (a b : XReg) | bwait (o : X3) | bphase (o : X2)
  | sigdec (a b : XReg) | sigwait (a : XReg) | uliarm (o : X3)
  -- E-format words (R129, R130)
  | vfadd (o : VE2r) | vfsub (o : VE2r) | vfmul (o : VE2r) | vfma (o : VE3r) | vfms (o : VE3r) | vfnma (o : VE3r)
  | vfdiv (o : VE2r) | vfsqrt (o : VE1r) | vfmin (o : VE2) | vfmax (o : VE2) | vfabs (o : VE1) | vfneg (o : VE1)
  | vfsgn (o : VE2)
  | vadd (o : VE2) | vsub (o : VE2) | vmul (o : VE2) | vmulh (o : VE2) | vmulhn (o : VE2) | vand (o : VE2)
  | vor (o : VE2) | vxor (o : VE2) | vsll (o : VE2) | vsrl (o : VE2) | vsra (o : VE2) | vmin (o : VE2) | vmax (o : VE2)
  | vminn (o : VE2) | vmaxn (o : VE2) | vsadd (o : VE2) | vssub (o : VE2) | vsaddn (o : VE2) | vssubn (o : VE2)
  | vdot (o : VDotArgs)
  | vfcmp (o : VCmpArgs) | vcmp (o : VCmpArgs) | mand (o : MOp) | mor (o : MOp) | mxor (o : MOp) | mandn (o : MOp)
  | mset (d : Fin 4) (m : MSel) (val : Bool) | mpopc (a : MReg) (m : MSel) | mfirst (a : MReg) (m : MSel)
  | vcvt (o : VCvtArgs) | vqmx (o : VQmxArgs) | vmov (o : VE1) | vbcast (o : VE1i)
  | vext (a : VSrc) (t : EType) (i : Fin 4096) | viota (d : VReg) (m : MSel) (t : EType)
  | vslup (o : VE1i) | vsldn (o : VE1i) | vperm (o : VE2) | vcomp (o : VE1) | vexpd (o : VE1) | vmatch (o : VE1)
  | vfredsum (o : VRedArgs) | vfredmax (o : VRedArgs) | vfredmin (o : VRedArgs)
  | vredsum (o : VRedIArgs) | vredmax (o : VRedIArgs) | vredmin (o : VRedIArgs)
  | vfscan (o : VScanArgs) | vscan (o : VScanIArgs)
  | wramp (a c : VSrc) (m : MSel) (w : WReg) | wcmp (a : MReg) (m : MSel) (w : WReg)
  | wcomp (m : MSel) (d s : WReg) | wmul (m : MSel) (d s1 s2 : WReg)
  | wmov (dir : WMovDir) (m : MSel) (t : EType) (r : Rnd) (w : WReg)
  | wbegin (arms : Arms) (pf : Bool) | wjoin (o : WJoinArgs) | wgjoin (o : WGJoinArgs)
  | wgramp (o : WGRampArgs) | wcont (w : WReg) (dist : Fin 256)
  | lde (o : LdeArgs) | ste (o : SteArgs) | wsta (o : WstaArgs)
  -- device events (spec/95); those the model itself chooses first
  | launchDequeue (d : DieIx) | dependenceReady (d : DieIx) (l : Nat)
  | taskStart (d : DieIx) (l : Nat) (cs : List CtxIx) | taskResume (l : Nat) (cs : List CtxIx)
  | launchComplete (l : Nat) | queueWake (c : CtxIx) | bwaitWake (c : CtxIx) | sigwaitWake (c : CtxIx)
  | barComplete (c : CtxIx) | xpopWake (c : CtxIx) | fldWake (c : CtxIx) | waiteWake (c : CtxIx)
  | mattBGrant (q : QuadIx) | weightBufferSwitch (q : QuadIx) | feedOutputDone (c : CtxIx) (f : FeedIx)
  | byteCountAdd (n : Nat) | vrredApply (n : Nat) | uliDelivery (c : CtxIx) | timeSliceExpiry (c : CtxIx)
  | msixMessage (b : Fin 256)
  | preempt (c : CtxIx) | viqEntryStart (c : CtxIx) | feedInputEnded (c : CtxIx) (f : FeedIx)
  | nsendComplete (id : Nat) | failureCompletion (p : PortIx) (id : Nat) | transferReceive (p : PortIx) (t : Transfer)
  | flitReceive (p : PortIx) (f : RxFlit) | replayTimeout (p : PortIx) | laneShed (p : PortIx) (working : Nat)
  | linkRetrainDone (p : PortIx) (ok : Bool) (peer : BitVec 12) | paceNoticeReceive (p : PortIx) (n : Notice)
  | hostWindowAccess (write : Bool) (off : Nat) (n : Nat) (data : Word64) | hostPush (a : Fin 8) (k : BitVec 16)
  | hostPop (a : Fin 8) (k : BitVec 16) | hcreset | deviceQuery (c : Cmd) | driverAccept (c : Cmd) | copy (c : Cmd)
  | fill (c : Cmd) | extentAdd (c : Cmd) | extentRelease (c : Cmd) | linkState (c : Cmd) | paceList (c : Cmd)
  | paceSend (c : Cmd) | msixArm (b : Fin 256) (obj : Word64) (ctl : Word64)
  | extentOffer (o : Offer) | governorPeriod (r : List QuadReading) | damageUpdate (q : QuadIx) (t : Nat)
  | hardGradient (q : QuadIx) (g : Nat) | thermalTrip (t : Nat) | currentLimit (d : DieIx) (amps : Nat)
  | watchdogReset | cardPowerOn (f : Flash) (t : Training) | unplannedPowerLoss (cs : List CoreIx) (cut : List CtxIx)
  | powerRestore (c : CoreIx) | plannedStop (c : CoreIx) | channelFailure (stack : Fin 16) (ch : Fin 32)
  | rebuildMove (region : Fin 5) | lpddrChannelFailure (ch : Nat) | writebackError (pa : Nat) (bytes : Nat)
  | lqbWrite (d : DieIx) (v : Word64) | pspbWrite (c : CoreIx) (v : Word64) | ulipendClear (c : CtxIx) (v : Word64)
  | dfqlostClear (d : DieIx) (v : Word64) | aerrClear (a : Fin 8) | registerWrite (pa : Nat) (n : Nat) (v : Word64)
  | holmPersist (pa : Nat) | hardGradientClear (q : QuadIx) (g : Nat) | droopRelease (d : DieIx) (amps : Nat)
  -- words with no operand: 0x13 and 0x14 (R123), 0x28 (R126), 0x35 (R127), E-format (R129)
  | ifence | syscall | brk | sret | uliret | waite | texit
  | mdet | mten | mtdis | pfenceCore | pfenceDie | stop | wnext | wend
  deriving DecidableEq, Repr

end Sys2Proof
end

