-- ==== Sys2Proof/WellFormed.lean ====
section
/-!
DEFINITION. Which instruction terms an encoding of the manual can hold: the register and field constraints of R116,
R120 to R130 that the types of Syntax.lean do not already say.
-/
namespace Sys2Proof

/-- Width of an element type in bits (Tables 6-2 and 6-5, R91). -/
def EType.width : EType → Nat
  | .f64 | .s64 | .n64 => 64
  | .f32 | .s32 | .n32 => 32
  | .f16 | .bf16 | .s16 | .n16 => 16
  | .e5m2 | .e4m3 | .e8m0 | .s8 | .n8 => 8
  | .e2m1 | .s4 => 4
  | .s2 => 2

/-- The floating-point types that arithmetic accepts (Table 10-1). -/
def EType.isFp : EType → Bool
  | .f64 | .f32 | .f16 | .bf16 => true
  | _ => false

/-- The integer types 0x08 to 0x11 (Table 10-1). -/
def EType.isInt : EType → Bool
  | .s64 | .s32 | .s16 | .s8 | .s4 | .s2 | .n64 | .n32 | .n16 | .n8 => true
  | _ => false

/-- Whether an integer type is signed (Table 6-5). -/
def EType.signed : EType → Bool
  | .s64 | .s32 | .s16 | .s8 | .s4 | .s2 => true
  | _ => false

/-- The types an FCVT takes beside its FP type (R123). -/
def EType.fcvtOk : EType → Bool
  | .f64 | .f32 | .f16 | .bf16 | .s64 | .s32 | .s16 | .s8 | .n64 | .n32 | .n16 | .n8 => true
  | _ => false

/-- The types WMOV accepts (R217). -/
def EType.wmovOk : EType → Bool
  | .f64 | .f32 | .f16 | .bf16 | .n16 => true
  | _ => false

/-- The types VQMX quantises to (R203). -/
def EType.mxElem : EType → Bool
  | .e5m2 | .e4m3 | .e2m1 => true
  | _ => false

/-- The type pair of VDOT, as far as it does not depend on VT (R198). -/
def vdotOk (t st : EType) : Bool :=
  t.isInt && st.isInt && (t.width == 16 || t.width == 32 || t.width == 64) && decide (st.width < t.width)

/-- The number of arms, 2 to 4. -/
def Arms.count (a : Arms) : Nat := a.n.val + 2

/-- The arm weights in order. -/
def Arms.list (a : Arms) : List WReg := [a.w0, a.w1, a.w2, a.w3].take a.count

/-- An unused weight index is 0 (R130). -/
def Arms.unusedZero (a : Arms) : Bool :=
  (decide (a.n.val ≥ 1) || a.w2 == 0) && (decide (a.n.val ≥ 2) || a.w3 == 0)

/-- The arm weights are distinct (R219). -/
def Arms.distinct (a : Arms) : Bool := decide a.list.Nodup

/-- The instruction is one that an encoding holds. -/
def Instr.wf : Instr → Bool
  | .shori o => o.a != 0
  | .jalr o => o.a != 0
  | .fcvtToFp o | .fcvtFromFp o => o.o.fcvtOk
  | .bar c => c != .sys
  | .strip _ p n _ => decide (p.val + n.val ≤ 31)
  | .vldg o n => decide (2 ≤ n.val) && decide (o.v.val + n.val ≤ 48)
  | .vstg o n _ => decide (2 ≤ n.val) && decide (o.v.val + n.val ≤ 48)
  | .vst o => o.rel || o.scope == .core
  | .vldw v _ _ _ _ => decide (v.val ≤ 46)
  | .vamo o => decide (o.v.val ≤ 46)
  | .vsred o _ => decide (o.v.val ≤ 46) && (o.e == .w32 || o.e == .w64 || o.e == .vt)
  | .nsend o => (!o.ef || decide (o.b.val + 1 ≤ 31)) && (!o.compl || decide (o.b.val + 2 ≤ 31)) &&
      (!o.ef || o.q != .raw)
  | .qdeqX o => !o.blk || o.b == 0
  | .vfadd o | .vfsub o | .vfmul o | .vfdiv o => o.t.isFp
  | .vfma o | .vfms o | .vfnma o => o.t.isFp
  | .vfsqrt o => o.t.isFp
  | .vfmin o | .vfmax o | .vfsgn o => o.t.isFp
  | .vfabs o | .vfneg o => o.t.isFp
  | .vadd o | .vsub o | .vmul o | .vmulh o | .vmulhn o | .vand o | .vor o | .vxor o | .vsll o | .vsrl o | .vsra o
  | .vmin o | .vmax o | .vminn o | .vmaxn o | .vsadd o | .vssub o | .vsaddn o | .vssubn o => o.t.isInt
  | .vdot o => vdotOk o.t o.st
  | .vfcmp o => o.t.isFp
  | .vcmp o => o.t.isInt
  | .vcvt o => o.t != .e8m0 && o.st != .e8m0
  | .vqmx o => o.t.mxElem && o.st.isFp && o.sd != o.d
  | .vext _ t _ => t != .e8m0
  | .viota _ _ t => t.isInt
  | .vslup o | .vsldn o => o.t != .e8m0
  | .vperm o => o.t != .e8m0
  | .vcomp o | .vexpd o | .vmatch o => o.t != .e8m0
  | .vfredsum o | .vfredmax o | .vfredmin o => o.t.isFp && (o.d.isSome || o.seg.isNone)
  | .vredsum o | .vredmax o | .vredmin o => o.t.isInt && (o.d.isSome || o.seg.isNone)
  | .vfscan o => o.t.isFp
  | .vscan o => o.t.isInt
  | .wmov _ _ t _ _ => t.wmovOk
  | .wbegin a _ => a.unusedZero && a.distinct
  | .wjoin o => o.t.isFp && o.arms.unusedZero && decide (o.a.r.val + o.arms.count ≤ 48)
  | .wcont _ d => d != 0
  | .lde o => decide (8 ≤ o.t.width)
  | .ste o => decide (8 ≤ o.t.width)
  | .wsta o => o.t.isFp
  | .add _ | .sub _ | .and _ | .or _ | .xor _ | .andn _ | .orn _ | .sll _ | .srl _ | .sra _ | .slt _ | .sltn _
  | .min _ | .max _ | .minn _ | .maxn _ | .mul _ | .mulh _ | .mulhn _ | .div _ | .divn _ | .rem _ | .remn _
  | .clz _ | .ctz _ | .popc _ | .sext _ | .zext _ | .slli _ | .srli _ | .srai _
  | .addi _ | .andi _ | .ori _ | .xori _ | .slti _ | .lih _ _ | .ld _ _ _ _ | .st _ _ _ _ | .ldx _ _ | .stx _ _
  | .ldAcq _ _ _ | .stRel _ _ _ | .amo _ | .cas _ | .beq _ | .bne _ | .blt _ | .bge _ | .bltn _ | .bgen _
  | .jal _ _ | .fadd _ | .fsub _ | .fmul _ | .ffma _ | .fdiv _ | .fsqrt _ _ _ | .fmin _ | .fmax _ | .fcmp _ _ _
  | .fclass _ _ | .csrr _ _ | .csrw _ _ | .csrs _ _ | .csrc _ _ | .fenceLd _ | .fenceSt _ | .fenceAll _ | .ifence
  | .syscall | .brk | .sret | .xpop _ | .feat _ _ | .uliret | .tlbinv _ _ | .srinv _ | .waite | .texit | .launch _
  | .tstop _ | .vfetch _ | .vfetchx _ | .vsetl _ _ | .vsetlx _ | .vldxAcq _ _ _ _ _ | .vstsNtf _ _ | .setfib _ _ _
  | .vsplat _ | .vprf _ _ _ | .vld _ | .vlds _ _ | .vld2 _ | .vsts _ _ | .vst2 _ _ | .vldx _ _ | .vstx _ _ _
  | .vldb _ _ _ _ _ | .vstb _ _ | .vstbNtf _ _ | .vrred _ _ _ _ | .fcfg _ _ _ _ _ _ | .fld _ _ | .fst _ _ _ _ _
  | .fend _ _ _ _ | .apush _ _ _ | .apop _ _ | .matt _ | .mattB _ | .mdet | .mten | .mtdis | .mzero _
  | .mopa _ _ _ _ _ | .mopav _ _ _ _ _ _ | .mrds _ _ _ _ | .mwrs _ _ _ _ | .mstt _ | .mgacc _ | .mgst _ | .mwld _ _
  | .qinit _ _ _ | .qcnt _ _ | .qclose _ _ | .qenqX _ | .qenqM _ | .qdeqM _ | .qenqV _ | .qdeqV _ | .binit _
  | .barr _ _ | .barrRel _ _ | .bwait _ | .bphase _ | .sigdec _ _ | .sigwait _ | .uliarm _ | .pfenceCore | .pfenceDie
  | .stop | .mand _ | .mor _ | .mxor _ | .mandn _ | .mset _ _ _ | .mpopc _ _ | .mfirst _ _ | .vmov _ | .vbcast _
  | .wramp _ _ _ _ | .wcmp _ _ _ | .wcomp _ _ _ | .wmul _ _ _ _ | .wnext | .wend | .wgjoin _ | .wgramp _ => true
  | .launchDequeue _ | .dependenceReady _ _ | .taskStart _ _ _ | .timeSliceExpiry _ | .preempt _ | .taskResume _ _
  | .launchComplete _ | .viqEntryStart _ | .queueWake _ | .bwaitWake _ | .sigwaitWake _ | .barComplete _
  | .xpopWake _ | .fldWake _ | .waiteWake _ | .mattBGrant _ | .weightBufferSwitch _ | .feedInputEnded _ _
  | .feedOutputDone _ _ | .byteCountAdd _ | .nsendComplete _ | .failureCompletion _ _ | .vrredApply _
  | .transferReceive _ _ | .flitReceive _ _ | .replayTimeout _ | .laneShed _ _ | .linkRetrainDone _ _ _
  | .paceNoticeReceive _ _ | .uliDelivery _ | .hostWindowAccess _ _ _ _ | .hostPush _ _ | .hostPop _ _ | .hcreset
  | .deviceQuery _ | .driverAccept _ | .copy _ | .fill _ | .extentAdd _ | .extentRelease _ | .linkState _
  | .paceList _ | .paceSend _ | .msixArm _ _ _ | .msixMessage _ | .extentOffer _ | .governorPeriod _
  | .damageUpdate _ _ | .hardGradient _ _ | .thermalTrip _ | .currentLimit _ _ | .watchdogReset | .cardPowerOn _ _
  | .unplannedPowerLoss _ _ | .powerRestore _ | .plannedStop _ | .channelFailure _ _ | .rebuildMove _
  | .lpddrChannelFailure _ | .writebackError _ _ | .lqbWrite _ _ | .pspbWrite _ _ | .ulipendClear _ _
  | .dfqlostClear _ _ | .aerrClear _ | .registerWrite _ _ _ | .holmPersist _ | .hardGradientClear _ _
  | .droopRelease _ _ => true

end Sys2Proof
end

