-- ==== Sys2Proof/Decode.lean ====
section
/-!
DEFINITION. The decoder (R114 to R132) and, after it, the encoder written from the same tables. A word is a natural
number below 2^32 (S-format) or 2^64 (E-format); bit 0 is its least significant bit. Every word that no instruction
claims is refused with the defect that R118 reports first: ILLEGAL before RESERVED_REG.
-/
namespace Sys2Proof

/-- Why a word is no instruction (R118, R130). -/
inductive Defect where
  | illegal      -- step 1 of R118
  | reservedReg  -- step 2 of R118
  | blockFormat  -- a WCONT distance of 0 (R130)
  deriving DecidableEq, Repr

/-- Bits [lo + n - 1 : lo] of `w`. -/
def fld (w lo n : Nat) : Nat := w / 2 ^ lo % 2 ^ n

/-- ILLEGAL when `c` holds. -/
def illIf (c : Bool) : Except Defect Unit := if c then .error .illegal else .ok ()
/-- ILLEGAL when a code field has no value. -/
def need {α : Type} : Option α → Except Defect α
  | some a => .ok a
  | none => .error .illegal
/-- RESERVED_REG from 48 upward (R69, R124). -/
def vregOf (n : Nat) : Except Defect VReg := if h : n < 48 then .ok ⟨n, h⟩ else .error .reservedReg
/-- RESERVED_REG when an implied register passes v47 (R125). -/
def rangeIf (c : Bool) : Except Defect Unit := if c then .error .reservedReg else .ok ()

/-- A 5-bit scalar register field. -/
def xregAt (w lo : Nat) : XReg := Fin.ofNat 32 (fld w lo 5)
/-- A 3-bit weight field. -/
def wregAt (w lo : Nat) : WReg := Fin.ofNat 8 (fld w lo 3)

/-- A mask register number operand (R69). -/
def mregOf (n : Nat) : Option MReg := if h : n < 12 then some ⟨n, h⟩ else none
/-- A mask field: 15 is unmasked (R115). -/
def mselOf (n : Nat) : Option MSel := if h : n < 12 then some (some ⟨n, h⟩) else if n = 15 then some none else none
/-- A mask destination m8 to m11. -/
def mdstOf (n : Nat) : Option (Fin 4) := if h : 8 ≤ n ∧ n < 12 then some ⟨n - 8, by omega⟩ else none

/-- Scope field (R115). -/
def scopeOf : Nat → Option Scope
  | 0 => some .core
  | 1 => some .quad
  | 2 => some .die
  | 3 => some .pkg
  | 4 => some .sys
  | _ => none
/-- The code of R115, R116 or R120 to R127. -/
def scopeCode : Scope → Nat
  | .core => 0
  | .quad => 1
  | .die => 2
  | .pkg => 3
  | .sys => 4

/-- Type code (Table 7-3). -/
def etypeOf : Nat → Option EType
  | 0 => some .f64
  | 1 => some .f32
  | 2 => some .f16
  | 3 => some .bf16
  | 4 => some .e5m2
  | 5 => some .e4m3
  | 6 => some .e2m1
  | 7 => some .e8m0
  | 8 => some .s64
  | 9 => some .s32
  | 10 => some .s16
  | 11 => some .s8
  | 12 => some .s4
  | 13 => some .s2
  | 14 => some .n64
  | 15 => some .n32
  | 16 => some .n16
  | 17 => some .n8
  | _ => none
/-- The code of R115, R116 or R120 to R127. -/
def etypeCode : EType → Nat
  | .f64 => 0
  | .f32 => 1
  | .f16 => 2
  | .bf16 => 3
  | .e5m2 => 4
  | .e4m3 => 5
  | .e2m1 => 6
  | .e8m0 => 7
  | .s64 => 8
  | .s32 => 9
  | .s16 => 10
  | .s8 => 11
  | .s4 => 12
  | .s2 => 13
  | .n64 => 14
  | .n32 => 15
  | .n16 => 16
  | .n8 => 17

/-- FP type field (R115). -/
def fptOf : Nat → Option FpT
  | 0 => some .f64
  | 1 => some .f32
  | 2 => some .f16
  | 3 => some .bf16
  | _ => none
/-- The code of R115, R116 or R120 to R127. -/
def fptCode : FpT → Nat
  | .f64 => 0
  | .f32 => 1
  | .f16 => 2
  | .bf16 => 3

/-- Matrix type field (R115). -/
def mattOf : Nat → Option MatT
  | 0 => some .bf16
  | 1 => some .f16
  | 2 => some .e4m3
  | 3 => some .e5m2
  | 4 => some .e2m1
  | 5 => some .s8
  | 6 => some .s4
  | 7 => some .s2
  | _ => none
/-- The code of R115, R116 or R120 to R127. -/
def mattCode : MatT → Nat
  | .bf16 => 0
  | .f16 => 1
  | .e4m3 => 2
  | .e5m2 => 3
  | .e2m1 => 4
  | .s8 => 5
  | .s4 => 6
  | .s2 => 7

/-- Rounding field (R115). -/
def rndOf : Nat → Option Rnd
  | 0 => some .rne
  | 1 => some .rtz
  | 2 => some .rdn
  | 3 => some .rup
  | 4 => some .rmm
  | 7 => some .frm
  | _ => none
/-- The code of R115, R116 or R120 to R127. -/
def rndCode : Rnd → Nat
  | .rne => 0
  | .rtz => 1
  | .rdn => 2
  | .rup => 3
  | .rmm => 4
  | .frm => 7

/-- The ew field (R115). -/
def ewselOf : Nat → Option EwSel
  | 0 => some .w2
  | 1 => some .w4
  | 2 => some .w8
  | 3 => some .w16
  | 4 => some .w32
  | 5 => some .w64
  | 7 => some .vt
  | _ => none
/-- The code of R115, R116 or R120 to R127. -/
def ewselCode : EwSel → Nat
  | .w2 => 0
  | .w4 => 1
  | .w8 => 2
  | .w16 => 3
  | .w32 => 4
  | .w64 => 5
  | .vt => 7

/-- Load size (R120). -/
def ldsizeOf : Nat → Option LdSize
  | 0 => some .b
  | 1 => some .bn
  | 2 => some .h
  | 3 => some .hn
  | 4 => some .w
  | 5 => some .wn
  | 6 => some .d
  | _ => none
/-- The code of R115, R116 or R120 to R127. -/
def ldsizeCode : LdSize → Nat
  | .b => 0
  | .bn => 1
  | .h => 2
  | .hn => 3
  | .w => 4
  | .wn => 5
  | .d => 6

/-- Store size (R120). -/
def stsizeOf : Nat → Option StSize
  | 0 => some .b
  | 2 => some .h
  | 4 => some .w
  | 6 => some .d
  | _ => none
/-- The code of R115, R116 or R120 to R127. -/
def stsizeCode : StSize → Nat
  | .b => 0
  | .h => 2
  | .w => 4
  | .d => 6

/-- Size of SEXT and ZEXT (R119). -/
def extsizeOf : Nat → Option ExtSize
  | 0 => some .b
  | 1 => some .h
  | 2 => some .w
  | _ => none
/-- The code of R115, R116 or R120 to R127. -/
def extsizeCode : ExtSize → Nat
  | .b => 0
  | .h => 1
  | .w => 2

/-- Atomic operation (R121). -/
def amoopOf : Nat → Option AmoOp
  | 0 => some .add
  | 1 => some .and
  | 2 => some .or
  | 3 => some .xor
  | 4 => some .swap
  | 5 => some .min
  | 6 => some .max
  | 7 => some .minn
  | 8 => some .maxn
  | _ => none
/-- The code of R115, R116 or R120 to R127. -/
def amoopCode : AmoOp → Nat
  | .add => 0
  | .and => 1
  | .or => 2
  | .xor => 3
  | .swap => 4
  | .min => 5
  | .max => 6
  | .minn => 7
  | .maxn => 8

/-- Atomic ordering (R121). -/
def aordOf : Nat → Option AOrd
  | 0 => some .none
  | 1 => some .acq
  | 2 => some .rel
  | 3 => some .ar
  | _ => none
/-- The code of R115, R116 or R120 to R127. -/
def aordCode : AOrd → Nat
  | .none => 0
  | .acq => 1
  | .rel => 2
  | .ar => 3

/-- VSRED operation (R124). -/
def sredopOf : Nat → Option SredOp
  | 0 => some .add
  | 1 => some .and
  | 2 => some .or
  | 3 => some .xor
  | 5 => some .min
  | 6 => some .max
  | 7 => some .minn
  | 8 => some .maxn
  | 9 => some .fadd
  | _ => none
/-- The code of R115, R116 or R120 to R127. -/
def sredopCode : SredOp → Nat
  | .add => 0
  | .and => 1
  | .or => 2
  | .xor => 3
  | .min => 5
  | .max => 6
  | .minn => 7
  | .maxn => 8
  | .fadd => 9

/-- VRRED destination (R124). -/
def rredtOf : Nat → Option RredT
  | 0 => some .f32
  | 1 => some .bf16
  | 2 => some .s32
  | 3 => some .s64
  | _ => none
/-- The code of R115, R116 or R120 to R127. -/
def rredtCode : RredT → Nat
  | .f32 => 0
  | .bf16 => 1
  | .s32 => 2
  | .s64 => 3

/-- Condition (R123). -/
def condOf : Nat → Option Cond
  | 0 => some .eq
  | 1 => some .ne
  | 2 => some .lt
  | 3 => some .le
  | 4 => some .gt
  | 5 => some .ge
  | _ => none
/-- The code of R115, R116 or R120 to R127. -/
def condCode : Cond → Nat
  | .eq => 0
  | .ne => 1
  | .lt => 2
  | .le => 3
  | .gt => 4
  | .ge => 5

/-- NSEND quantiser (R124). -/
def nquantOf : Nat → Option NQuant
  | 0 => some .raw
  | 1 => some .mx4
  | 2 => some .mx8
  | _ => none
/-- The code of R115, R116 or R120 to R127. -/
def nquantCode : NQuant → Nat
  | .raw => 0
  | .mx4 => 1
  | .mx8 => 2

/-- A rounding field marked 0/7 (R130). -/
def rnd07 (n : Nat) : Except Defect Unit := illIf (n != 0 && n != 7)
/-- The code of a mask field. -/
def mselCode : MSel → Nat
  | some m => m.val
  | none => 15

/-! ### S-format decoding -/

/-- Opcode 0x01 (R119, Table 7-5). -/
def decOp01 (w : Nat) : Except Defect Instr := do
  let d := xregAt w 21
  let a := xregAt w 16
  let b := xregAt w 11
  let hi := fld w 5 6
  match fld w 0 5 with
  | 0 => do illIf (hi != 0); pure (.add ⟨d, a, b⟩)
  | 1 => do illIf (hi != 0); pure (.sub ⟨d, a, b⟩)
  | 2 => do illIf (hi != 0); pure (.and ⟨d, a, b⟩)
  | 3 => do illIf (hi != 0); pure (.or ⟨d, a, b⟩)
  | 4 => do illIf (hi != 0); pure (.xor ⟨d, a, b⟩)
  | 5 => do illIf (hi != 0); pure (.andn ⟨d, a, b⟩)
  | 6 => do illIf (hi != 0); pure (.orn ⟨d, a, b⟩)
  | 7 => do illIf (hi != 0); pure (.sll ⟨d, a, b⟩)
  | 8 => do illIf (hi != 0); pure (.srl ⟨d, a, b⟩)
  | 9 => do illIf (hi != 0); pure (.sra ⟨d, a, b⟩)
  | 10 => do illIf (hi != 0); pure (.slt ⟨d, a, b⟩)
  | 11 => do illIf (hi != 0); pure (.sltn ⟨d, a, b⟩)
  | 12 => do illIf (hi != 0); pure (.min ⟨d, a, b⟩)
  | 13 => do illIf (hi != 0); pure (.max ⟨d, a, b⟩)
  | 14 => do illIf (hi != 0); pure (.minn ⟨d, a, b⟩)
  | 15 => do illIf (hi != 0); pure (.maxn ⟨d, a, b⟩)
  | 16 => do illIf (hi != 0); pure (.mul ⟨d, a, b⟩)
  | 17 => do illIf (hi != 0); pure (.mulh ⟨d, a, b⟩)
  | 18 => do illIf (hi != 0); pure (.mulhn ⟨d, a, b⟩)
  | 19 => do illIf (hi != 0); pure (.div ⟨d, a, b⟩)
  | 20 => do illIf (hi != 0); pure (.divn ⟨d, a, b⟩)
  | 21 => do illIf (hi != 0); pure (.rem ⟨d, a, b⟩)
  | 22 => do illIf (hi != 0); pure (.remn ⟨d, a, b⟩)
  | 23 => do illIf (hi != 0 || b != 0); pure (.clz ⟨d, a⟩)
  | 24 => do illIf (hi != 0 || b != 0); pure (.ctz ⟨d, a⟩)
  | 25 => do illIf (hi != 0 || b != 0); pure (.popc ⟨d, a⟩)
  | 26 => do let s ← need (extsizeOf (fld w 5 2)); illIf (fld w 7 4 != 0 || b != 0); pure (.sext ⟨d, a, s⟩)
  | 27 => do let s ← need (extsizeOf (fld w 5 2)); illIf (fld w 7 4 != 0 || b != 0); pure (.zext ⟨d, a, s⟩)
  | 28 => do illIf (b != 0); pure (.slli ⟨d, a, Fin.ofNat 64 hi⟩)
  | 29 => do illIf (b != 0); pure (.srli ⟨d, a, Fin.ofNat 64 hi⟩)
  | 30 => do illIf (b != 0); pure (.srai ⟨d, a, Fin.ofNat 64 hi⟩)
  | _ => .error .illegal

/-- Opcodes 0x02 to 0x07 (R120). -/
def ximmAt (w : Nat) : XImm := ⟨xregAt w 21, xregAt w 16, BitVec.ofNat 16 (fld w 0 16)⟩
/-- Opcode 0x07: LIH is SHORI with xa = 0 (R120). -/
def decOp07 (w : Nat) : Except Defect Instr :=
  if xregAt w 16 = 0 then .ok (.lih (xregAt w 21) (BitVec.ofNat 16 (fld w 0 16))) else .ok (.shori (ximmAt w))
/-- Opcode 0x08 (R120). -/
def decOp08 (w : Nat) : Except Defect Instr :=
  let off := BitVec.ofNat 12 (fld w 4 12)
  if fld w 3 1 = 0 then do
    let s ← need (ldsizeOf (fld w 0 3)); pure (.ld (xregAt w 21) (xregAt w 16) off s)
  else do
    let s ← need (stsizeOf (fld w 0 3)); pure (.st (xregAt w 21) (xregAt w 16) off s)
/-- Opcode 0x09 (R121). An ordered form takes the address xa + xb as the others of its class do (DEDUCED, log entry 7). -/
def decOp09 (w : Nat) : Except Defect Instr :=
  let d := xregAt w 21
  let a := xregAt w 16
  let b := xregAt w 11
  if fld w 10 1 = 0 then do
    illIf (fld w 7 2 != 0)
    if fld w 3 1 = 0 then do
      illIf (fld w 4 3 != 0)
      if fld w 9 1 = 0 then do let s ← need (ldsizeOf (fld w 0 3)); pure (.ldx ⟨d, a, b⟩ s)
      else do let s ← need (stsizeOf (fld w 0 3)); pure (.stx ⟨d, a, b⟩ s)
    else do
      let c ← need (scopeOf (fld w 4 3))
      if fld w 9 1 = 0 then do let s ← need (ldsizeOf (fld w 0 3)); pure (.ldAcq ⟨d, a, b⟩ c s)
      else do let s ← need (stsizeOf (fld w 0 3)); pure (.stRel ⟨d, a, b⟩ c s)
  else do
    let c ← need (scopeOf (fld w 7 3))
    let o ← need (aordOf (fld w 5 2))
    if fld w 0 4 = 9 then pure (.cas ⟨d, a, b, c, o, fld w 4 1 == 1⟩)
    else do
      let op ← need (amoopOf (fld w 0 4))
      pure (.amo ⟨d, a, b, c, o, fld w 4 1 == 1, op⟩)
/-- Operands of opcodes 0x0A to 0x0F (R122). -/
def brAt (w : Nat) : Br := ⟨xregAt w 21, xregAt w 16, BitVec.ofNat 16 (fld w 0 16)⟩
/-- Opcode 0x10 (R122). -/
def decOp10 (w : Nat) : Except Defect Instr :=
  if xregAt w 16 = 0 then .ok (.jal (xregAt w 21) (BitVec.ofNat 16 (fld w 0 16))) else .ok (.jalr (ximmAt w))
/-- Opcode 0x11 (R123, Table 7-6). -/
def decOp11 (w : Nat) : Except Defect Instr := do
  let d := xregAt w 21
  let a := xregAt w 16
  let b := xregAt w 11
  let t ← need (fptOf (fld w 5 3))
  match fld w 0 5 with
  | 0 => do let r ← need (rndOf (fld w 8 3)); pure (.fadd ⟨d, a, b, t, r⟩)
  | 1 => do let r ← need (rndOf (fld w 8 3)); pure (.fsub ⟨d, a, b, t, r⟩)
  | 2 => do let r ← need (rndOf (fld w 8 3)); pure (.fmul ⟨d, a, b, t, r⟩)
  | 3 => do let r ← need (rndOf (fld w 8 3)); pure (.ffma ⟨d, a, b, t, r⟩)
  | 4 => do let r ← need (rndOf (fld w 8 3)); pure (.fdiv ⟨d, a, b, t, r⟩)
  | 5 => do let r ← need (rndOf (fld w 8 3)); illIf (b != 0); pure (.fsqrt ⟨d, a⟩ t r)
  | 6 => do rnd07 (fld w 8 3); pure (.fmin ⟨d, a, b, t⟩)
  | 7 => do rnd07 (fld w 8 3); pure (.fmax ⟨d, a, b, t⟩)
  | 8 => do let c ← need (condOf (fld w 8 3)); pure (.fcmp ⟨d, a, b⟩ t c)
  | 9 => do rnd07 (fld w 8 3); illIf (b != 0); pure (.fclass ⟨d, a⟩ t)
  | 10 => do
    let r ← need (rndOf (fld w 8 3)); let o ← need (etypeOf (fld w 11 5)); illIf (!o.fcvtOk)
    pure (.fcvtToFp ⟨d, a, t, o, r⟩)
  | 11 => do
    let r ← need (rndOf (fld w 8 3)); let o ← need (etypeOf (fld w 11 5)); illIf (!o.fcvtOk)
    pure (.fcvtFromFp ⟨d, a, t, o, r⟩)
  | _ => .error .illegal
/-- Opcode 0x12 (R123). Whether the CSR number exists is checked where the CSR is reached (R83). -/
def decOp12 (w : Nat) : Except Defect Instr := do
  let d := xregAt w 21
  let a := xregAt w 16
  let c := BitVec.ofNat 12 (fld w 0 12)
  illIf (fld w 14 2 != 0)
  match fld w 12 2 with
  | 0 => do illIf (a != 0); pure (.csrr d c)
  | 1 => do illIf (d != 0); pure (.csrw a c)
  | 2 => pure (.csrs ⟨d, a⟩ c)
  | _ => pure (.csrc ⟨d, a⟩ c)
/-- Opcode 0x13 (R123). -/
def decOp13 (w : Nat) : Except Defect Instr := do
  illIf (fld w 11 15 != 0 || fld w 7 1 != 0)
  let c ← need (scopeOf (fld w 8 3))
  match fld w 0 7 with
  | 0 => pure (.fenceLd c)
  | 1 => pure (.fenceSt c)
  | 2 => pure (.fenceAll c)
  | 3 => do illIf (c != .core); pure .ifence
  | 4 => do illIf (c == .sys); pure (.bar c)
  | _ => .error .illegal
/-- Opcode 0x14 (R123). -/
def decOp14 (w : Nat) : Except Defect Instr := do
  let d := xregAt w 21
  let a := xregAt w 16
  let b := xregAt w 11
  illIf (fld w 5 6 != 0)
  match fld w 0 5 with
  | 0 => do illIf (d != 0 || a != 0 || b != 0); pure .syscall
  | 1 => do illIf (d != 0 || a != 0 || b != 0); pure .brk
  | 2 => do illIf (d != 0 || a != 0 || b != 0); pure .sret
  | 3 => do illIf (a != 0 || b != 0); pure (.xpop d)
  | 4 => do illIf (a != 0); pure (.feat d b)
  | 5 => do illIf (d != 0 || a != 0 || b != 0); pure .uliret
  | 6 => do illIf (d != 0); pure (.tlbinv a b)
  | 7 => do illIf (d != 0 || b != 0); pure (.srinv a)
  | 8 => do illIf (d != 0 || a != 0 || b != 0); pure .waite
  | 9 => do illIf (d != 0 || a != 0 || b != 0); pure .texit
  | 10 => do illIf (d != 0 || b != 0); pure (.launch a)
  | 11 => do illIf (b != 0); pure (.tstop ⟨d, a⟩)
  | _ => .error .illegal
/-- Opcodes 0x15 and 0x16 (R123). -/
def decOp15 (w : Nat) : Except Defect Instr := .ok (.vfetch (BitVec.ofNat 26 (fld w 0 26)))
/-- Opcode 0x16 (R123). -/
def decOp16 (w : Nat) : Except Defect Instr := do
  illIf (fld w 21 5 != 0 || fld w 0 16 != 0); pure (.vfetchx (xregAt w 16))

/-! Opcodes 0x18 to 0x27 (R124, Table 7-7): v[25:20], xa[19:15], xb[14:10], msk[9:6], ch[5], ew[4:2], sub[1:0]. -/

/-- xa of an SV word. -/
def svA (w : Nat) : XReg := xregAt w 15
/-- xb of an SV word. -/
def svB (w : Nat) : XReg := xregAt w 10
/-- The chain bit of an SV word. -/
def svCh (w : Nat) : Bool := fld w 5 1 == 1
/-- v, xa, msk, ew of an SV word; the register is checked last. -/
def vmemAt (w : Nat) : Except Defect VMem := do
  let m ← need (mselOf (fld w 6 4))
  let e ← need (ewselOf (fld w 2 3))
  let v ← vregOf (fld w 20 6)
  pure ⟨v, svA w, m, e⟩
/-- v, xa, msk, ch, ew of an SV word. -/
def vstoreAt (w : Nat) : Except Defect VStore := do
  let o ← vmemAt w
  pure ⟨o.v, o.a, o.m, svCh w, o.e⟩
/-- The index register {ch, xb} (Table 7-7). -/
def idxChAt (w : Nat) : Nat := fld w 5 1 * 32 + fld w 10 5

/-- Opcode 0x18. -/
def decOp18 (w : Nat) : Except Defect Instr := do
  if fld w 15 1 = 0 then
    illIf (fld w 11 4 != 0)
    pure (.vsetl ⟨xregAt w 21, xregAt w 16⟩ (BitVec.ofNat 11 (fld w 0 11)))
  else
    illIf (fld w 5 10 != 0)
    pure (.vsetlx ⟨xregAt w 21, xregAt w 16, xregAt w 0⟩)
/-- Opcode 0x19. -/
def decOp19 (w : Nat) : Except Defect Instr :=
  match fld w 0 2 with
  | 0 => do
    let m ← need (mselOf (fld w 6 4))
    let c ← need (scopeOf (fld w 2 3))
    let v ← vregOf (fld w 20 6)
    let i ← vregOf (idxChAt w)
    pure (.vldxAcq v (svA w) i m c)
  | 1 => do let o ← vstoreAt w; pure (.vstsNtf o (svB w))
  | _ => .error .illegal
/-- Opcode 0x1A. -/
def decOp1A (w : Nat) : Except Defect Instr := do
  illIf (decide (31 < fld w 16 5 + fld w 14 2))
  pure (.strip (xregAt w 21) (xregAt w 16) (Fin.ofNat 4 (fld w 14 2)) (BitVec.ofNat 14 (fld w 0 14)))
/-- Opcode 0x1B. -/
def decOp1B (w : Nat) : Except Defect Instr := do
  illIf (fld w 15 1 != 0)
  let mo ← need (mregOf (fld w 11 4))
  pure (.setfib ⟨xregAt w 21, xregAt w 16⟩ mo (BitVec.ofNat 11 (fld w 0 11)))
/-- Opcode 0x1C. -/
def decOp1C (w : Nat) : Except Defect Instr :=
  match fld w 0 2 with
  | 0 => do illIf (svB w != 0 || svCh w); let o ← vmemAt w; pure (.vsplat o)
  | 1 => do
    illIf (fld w 20 6 != 0 || svCh w || fld w 6 4 != 15)
    let e ← need (ewselOf (fld w 2 3))
    pure (.vprf (svA w) (svB w) e)
  | _ => .error .illegal
/-- Opcode 0x1D. -/
def decOp1D (w : Nat) : Except Defect Instr := do
  illIf (svCh w)
  match fld w 0 2 with
  | 0 => do illIf (svB w != 0); let o ← vmemAt w; pure (.vld o)
  | 1 => do let o ← vmemAt w; pure (.vlds o (svB w))
  | 2 => do
    let n := fld w 10 5
    illIf (decide (n < 2) || decide (8 < n))
    let o ← vmemAt w
    rangeIf (decide (48 < o.v.val + n))
    pure (.vldg o (Fin.ofNat 9 n))
  | _ => do illIf (svB w != 0); let o ← vmemAt w; pure (.vld2 o)
/-- Opcode 0x1E. -/
def decOp1E (w : Nat) : Except Defect Instr :=
  match fld w 0 2 with
  | 0 => do
    let c ← need (scopeOf (fld w 12 3))
    illIf (c != .core && fld w 11 1 == 0)
    let o ← vmemAt w
    pure (.vst ⟨o.v, o.a, o.m, svCh w, o.e, c, fld w 11 1 == 1, fld w 10 1 == 1⟩)
  | 1 => do let o ← vstoreAt w; pure (.vsts o (svB w))
  | 2 => do
    let n := fld w 12 3
    illIf (n == 0 || fld w 11 1 != 0)
    let o ← vstoreAt w
    rangeIf (decide (48 < o.v.val + (n + 1)))
    pure (.vstg o (Fin.ofNat 9 (n + 1)) (fld w 10 1 == 1))
  | _ => do illIf (fld w 11 4 != 0); let o ← vstoreAt w; pure (.vst2 o (fld w 10 1 == 1))
/-- Opcode 0x1F. -/
def decOp1F (w : Nat) : Except Defect Instr := do
  illIf (fld w 0 2 != 0)
  let o ← vmemAt w
  let i ← vregOf (idxChAt w)
  pure (.vldx o i)
/-- Opcode 0x20. -/
def decOp20 (w : Nat) : Except Defect Instr := do
  let o ← vstoreAt w
  let i ← vregOf (fld w 0 1 * 32 + fld w 10 5)
  pure (.vstx o i (fld w 1 1 == 1))
/-- Opcode 0x21. -/
def decOp21 (w : Nat) : Except Defect Instr := do
  illIf (fld w 0 2 != 0)
  let mo ← need (mregOf (fld w 6 4))
  let e ← need (ewselOf (fld w 2 3))
  let v ← vregOf (fld w 20 6)
  rangeIf (decide (46 < v.val))
  let i ← vregOf (idxChAt w)
  pure (.vldw v (svA w) i mo e)
/-- Opcode 0x22. -/
def decOp22 (w : Nat) : Except Defect Instr :=
  match fld w 0 2 with
  | 0 => do
    illIf (svCh w)
    let mo ← need (mregOf (fld w 6 4))
    let e ← need (ewselOf (fld w 2 3))
    let v ← vregOf (fld w 20 6)
    pure (.vldb v (svA w) (svB w) mo e)
  | 1 => do let o ← vstoreAt w; pure (.vstb o (svB w))
  | 2 => do let o ← vstoreAt w; pure (.vstbNtf o (svB w))
  | _ => .error .illegal
/-- Opcode 0x23. -/
def decOp23 (w : Nat) : Except Defect Instr := do
  illIf (fld w 10 1 != 0)
  let op ← need (amoopOf (fld w 11 4))
  let c ← need (scopeOf (fld w 5 1 * 4 + fld w 0 2))
  let o ← need (aordOf (fld w 3 2))
  let m ← need (mselOf (fld w 6 4))
  let v ← vregOf (fld w 20 6)
  rangeIf (decide (46 < v.val))
  pure (.vamo ⟨v, svA w, m, op, o, c, fld w 2 1 == 1⟩)
/-- Opcode 0x24. -/
def decOp24 (w : Nat) : Except Defect Instr := do
  illIf (fld w 10 1 != 0)
  if fld w 0 1 = 0 then
    illIf (fld w 1 1 != 0)
    let op ← need (sredopOf (fld w 11 4))
    illIf (decide (fld w 2 3 < 4))
    let o ← vstoreAt w
    rangeIf (decide (46 < o.v.val))
    pure (.vsred o op)
  else
    let t ← need (rredtOf (fld w 12 3))
    let o ← vstoreAt w
    pure (.vrred o t (fld w 11 1 == 1) (fld w 1 1 == 1))
/-- Opcode 0x25. -/
def decOp25 (w : Nat) : Except Defect Instr :=
  match fld w 0 2 with
  | 0 => do
    illIf (fld w 22 4 != 0)
    let e ← need (ewselOf (fld w 2 3))
    pure (.fcfg (Fin.ofNat 4 (fld w 20 2)) (svA w) (svB w) (Fin.ofNat 16 (fld w 6 4)) (svCh w) e)
  | 1 => do
    illIf (svA w != 0 || svCh w || fld w 12 3 != 0 || fld w 6 4 != 15 || fld w 2 3 != 7)
    let v ← vregOf (fld w 20 6)
    pure (.fld v (Fin.ofNat 4 (fld w 10 2)))
  | 2 => do
    illIf (svA w != 0 || fld w 12 3 != 0)
    let o ← vmemAt w
    pure (.fst o.v (Fin.ofNat 4 (fld w 10 2)) o.m (svCh w) o.e)
  | _ => do
    illIf (fld w 20 6 != 0 || svCh w || fld w 12 3 != 0)
    let m ← need (mselOf (fld w 6 4))
    let e ← need (ewselOf (fld w 2 3))
    pure (.fend (Fin.ofNat 4 (fld w 10 2)) (svA w) m e)
/-- Opcode 0x26. -/
def decOp26 (w : Nat) : Except Defect Instr := do
  illIf (fld w 9 2 != 0)
  let tag := BitVec.ofNat 8 (fld w 1 8)
  if fld w 0 1 = 0 then
    illIf (xregAt w 21 != 0)
    pure (.apush (xregAt w 16) (xregAt w 11) tag)
  else pure (.apop ⟨xregAt w 21, xregAt w 16, xregAt w 11⟩ tag)
/-- Opcode 0x27 (R124, R125). -/
def decOp27 (w : Nat) : Except Defect Instr := do
  illIf (fld w 7 4 != 0)
  let q ← need (nquantOf (fld w 0 2))
  let b := fld w 11 5
  illIf (fld w 2 1 == 1 && decide (31 < b + 1))
  illIf (fld w 5 1 == 1 && decide (31 < b + 2))
  illIf (fld w 2 1 == 1 && q == .raw)
  pure (.nsend ⟨xregAt w 21, xregAt w 16, xregAt w 11, q, fld w 2 1 == 1, fld w 3 1 == 1, fld w 4 1 == 1,
    fld w 5 1 == 1, fld w 6 1 == 1⟩)

/-! Opcodes 0x28 to 0x2D (R126, Table 7-8). -/

/-- Opcode 0x28. -/
def decOp28 (w : Nat) : Except Defect Instr := do
  let d := xregAt w 21
  let a := xregAt w 16
  illIf (fld w 5 6 != 0 || xregAt w 11 != 0)
  match fld w 0 5 with
  | 0 => pure (.matt ⟨d, a⟩)
  | 1 => pure (.mattB ⟨d, a⟩)
  | 2 => do illIf (d != 0 || a != 0); pure .mdet
  | 3 => do illIf (d != 0 || a != 0); pure .mten
  | 4 => do illIf (d != 0 || a != 0); pure .mtdis
  | _ => .error .illegal
/-- acc of an SM word. -/
def smAcc (w : Nat) : AccIx := Fin.ofNat 4 (fld w 24 2)
/-- xa of an SM word. -/
def smA (w : Nat) : XReg := xregAt w 13
/-- mrow and mcol both 15. -/
def smAll (w : Nat) : Bool := fld w 5 8 == 255
/-- Opcode 0x29. -/
def decOp29 (w : Nat) : Except Defect Instr := do
  illIf (fld w 13 11 != 0 || fld w 0 5 != 0 || !smAll w)
  pure (.mzero (smAcc w))
/-- Opcode 0x2A. -/
def decOp2A (w : Nat) : Except Defect Instr := do
  let mr ← need (mselOf (fld w 9 4))
  let mc ← need (mselOf (fld w 5 4))
  let v ← vregOf (fld w 18 6)
  pure (.mopa (smAcc w) ⟨v, fld w 4 1 == 1⟩ (Fin.ofNat 512 (fld w 13 5 * 16 + fld w 0 4)) mr mc)
/-- Opcode 0x2B. -/
def decOp2B (w : Nat) : Except Defect Instr := do
  let mr ← need (mselOf (fld w 9 4))
  let mc ← need (mselOf (fld w 5 4))
  let t ← need (mattOf (fld w 0 3))
  let v ← vregOf (fld w 18 6)
  let b ← vregOf (fld w 3 1 * 32 + fld w 13 5)
  pure (.mopav (smAcc w) ⟨v, fld w 4 1 == 1⟩ b mr mc t)
/-- Opcode 0x2C. -/
def decOp2C (w : Nat) : Except Defect Instr := do
  illIf (!smAll w)
  let i := Fin.ofNat 128 (fld w 2 2 * 32 + fld w 13 5)
  if fld w 0 1 = 0 then
    illIf (fld w 4 1 != 0)
    let v ← vregOf (fld w 18 6)
    pure (.mrds (smAcc w) v i (fld w 1 1 == 1))
  else
    let v ← vregOf (fld w 18 6)
    pure (.mwrs (smAcc w) ⟨v, fld w 4 1 == 1⟩ i (fld w 1 1 == 1))
/-- Opcode 0x2D. An MWLD that names no layout, bit [22] = 0, and has bits [21:18] nonzero faults ILLEGAL (DESIGN CHOICE, log entry
39: Table 7-8 and R237 do not speak of it). -/
def decOp2D (w : Nat) : Except Defect Instr := do
  illIf (fld w 4 1 != 0)
  match fld w 0 4 with
  | 0 => do
    illIf (fld w 18 6 != 0)
    let mr ← need (mselOf (fld w 9 4)); let mc ← need (mselOf (fld w 5 4))
    pure (.mstt ⟨smAcc w, smA w, mr, mc⟩)
  | 1 => do
    illIf (fld w 18 6 != 0)
    let mr ← need (mselOf (fld w 9 4)); let mc ← need (mselOf (fld w 5 4))
    pure (.mgacc ⟨smAcc w, smA w, mr, mc⟩)
  | 2 => do illIf (fld w 18 8 != 0 || !smAll w); pure (.mgst (smA w))
  | 3 => do
    illIf (fld w 23 3 != 0 || !smAll w)
    if fld w 22 1 = 1 then pure (.mwld (smA w) (some (Fin.ofNat 16 (fld w 18 4))))
    else do illIf (fld w 18 4 != 0); pure (.mwld (smA w) none)
  | _ => .error .illegal

/-! Opcodes 0x30 to 0x35 (R127, Table 7-9). -/

/-- Opcode 0x30. -/
def decOp30 (w : Nat) : Except Defect Instr := do
  let d := xregAt w 21
  let a := xregAt w 16
  let b := xregAt w 11
  illIf (fld w 7 1 != 0)
  let c ← need (scopeOf (fld w 8 3))
  match fld w 0 7 with
  | 0 => do illIf (d != 0); pure (.qinit a b c)
  | 1 => do illIf (b != 0); pure (.qcnt ⟨d, a⟩ c)
  | 2 => do illIf (d != 0 || b != 0); pure (.qclose a c)
  | _ => .error .illegal
/-- Opcode 0x31. -/
def decOp31 (w : Nat) : Except Defect Instr := do
  let c ← need (scopeOf (fld w 8 3))
  let blk := fld w 7 1 == 1
  let o : QArgs := ⟨xregAt w 21, xregAt w 16, xregAt w 11, c, blk⟩
  match fld w 0 7 with
  | 0 => pure (.qenqX o)
  | 1 => do illIf (blk && o.b != 0); pure (.qdeqX o)
  | 2 => pure (.qenqM o)
  | 3 => pure (.qdeqM o)
  | _ => .error .illegal
/-- Opcode 0x32. -/
def decOp32 (w : Nat) : Except Defect Instr := do
  illIf (xregAt w 11 != 0)
  let c ← need (scopeOf (fld w 8 3))
  let v ← vregOf (fld w 1 6)
  let o : QvArgs := ⟨xregAt w 21, xregAt w 16, v, c, fld w 7 1 == 1⟩
  if fld w 0 1 = 0 then pure (.qenqV o) else pure (.qdeqV o)
/-- Opcode 0x33. -/
def decOp33 (w : Nat) : Except Defect Instr := do
  let d := xregAt w 21
  let a := xregAt w 16
  let b := xregAt w 11
  illIf (fld w 7 4 != 0)
  match fld w 0 7 with
  | 0 => pure (.binit ⟨d, a, b⟩)
  | 1 => do illIf (d != 0); pure (.barr a b)
  | 2 => do illIf (d != 0); pure (.barrRel a b)
  | 3 => pure (.bwait ⟨d, a, b⟩)
  | 4 => do illIf (b != 0); pure (.bphase ⟨d, a⟩)
  | _ => .error .illegal
/-- Opcode 0x34. -/
def decOp34 (w : Nat) : Except Defect Instr := do
  let d := xregAt w 21
  let a := xregAt w 16
  let b := xregAt w 11
  illIf (fld w 7 4 != 0)
  match fld w 0 7 with
  | 0 => do illIf (d != 0); pure (.sigdec a b)
  | 1 => do illIf (d != 0 || b != 0); pure (.sigwait a)
  | 2 => pure (.uliarm ⟨d, a, b⟩)
  | _ => .error .illegal
/-- Opcode 0x35. -/
def decOp35 (w : Nat) : Except Defect Instr := do
  illIf (fld w 11 15 != 0 || fld w 0 8 != 0)
  match fld w 8 3 with
  | 0 => pure .pfenceCore
  | 2 => pure .pfenceDie
  | _ => .error .illegal

/-- Table 7-4: the instruction of an S-format word, or the defect it faults with (R114, R117). -/
def decodeS (w : Nat) : Except Defect Instr :=
  match fld w 26 6 with
  | 0x01 => decOp01 w
  | 0x02 => .ok (.addi (ximmAt w))
  | 0x03 => .ok (.andi (ximmAt w))
  | 0x04 => .ok (.ori (ximmAt w))
  | 0x05 => .ok (.xori (ximmAt w))
  | 0x06 => .ok (.slti (ximmAt w))
  | 0x07 => decOp07 w
  | 0x08 => decOp08 w
  | 0x09 => decOp09 w
  | 0x0A => .ok (.beq (brAt w))
  | 0x0B => .ok (.bne (brAt w))
  | 0x0C => .ok (.blt (brAt w))
  | 0x0D => .ok (.bge (brAt w))
  | 0x0E => .ok (.bltn (brAt w))
  | 0x0F => .ok (.bgen (brAt w))
  | 0x10 => decOp10 w
  | 0x11 => decOp11 w
  | 0x12 => decOp12 w
  | 0x13 => decOp13 w
  | 0x14 => decOp14 w
  | 0x15 => decOp15 w
  | 0x16 => decOp16 w
  | 0x18 => decOp18 w
  | 0x19 => decOp19 w
  | 0x1A => decOp1A w
  | 0x1B => decOp1B w
  | 0x1C => decOp1C w
  | 0x1D => decOp1D w
  | 0x1E => decOp1E w
  | 0x1F => decOp1F w
  | 0x20 => decOp20 w
  | 0x21 => decOp21 w
  | 0x22 => decOp22 w
  | 0x23 => decOp23 w
  | 0x24 => decOp24 w
  | 0x25 => decOp25 w
  | 0x26 => decOp26 w
  | 0x27 => decOp27 w
  | 0x28 => decOp28 w
  | 0x29 => decOp29 w
  | 0x2A => decOp2A w
  | 0x2B => decOp2B w
  | 0x2C => decOp2C w
  | 0x2D => decOp2D w
  | 0x30 => decOp30 w
  | 0x31 => decOp31 w
  | 0x32 => decOp32 w
  | 0x33 => decOp33 w
  | 0x34 => decOp34 w
  | 0x35 => decOp35 w
  | _ => .error .illegal

/-! ### E-format decoding (R128 to R130) -/

/-- The fields of Table 7-10. -/
structure EF where
  op : Nat
  vd : Nat
  va : Nat
  vb : Nat
  vc : Nat
  ca : Bool
  cb : Bool
  cc : Bool
  mask : Nat
  ty : Nat
  sty : Nat
  rnd : Nat
  imm : Nat
  deriving DecidableEq, Repr

/-- Table 7-10. -/
def efOf (w : Nat) : EF where
  op := fld w 56 8
  vd := fld w 50 6
  va := fld w 44 6
  vb := fld w 38 6
  vc := fld w 32 6
  ca := fld w 31 1 == 1
  cb := fld w 30 1 == 1
  cc := fld w 29 1 == 1
  mask := fld w 25 4
  ty := fld w 20 5
  sty := fld w 16 4
  rnd := fld w 13 3
  imm := fld w 0 13

/-- wN[k] (R130). -/
def EF.wn (f : EF) (k : Nat) : WReg := wregAt f.imm (3 * k)
/-- The source type {imm13[0], source type} (R130). -/
def EF.src (f : EF) : Option EType := etypeOf (f.imm % 2 * 16 + f.sty)
/-- The element type, when the group accepts it (R116, R195). -/
def EF.etype (f : EF) (ok : EType → Bool) : Except Defect EType := do
  let t ← need (etypeOf f.ty); illIf (!ok t); pure t
/-- vd is a field marked 0. -/
def EF.noD (f : EF) : Except Defect Unit := illIf (f.vd != 0)
/-- va is a field marked 0. -/
def EF.noA (f : EF) : Except Defect Unit := illIf (f.va != 0 || f.ca)
/-- vb is a field marked 0. -/
def EF.noB (f : EF) : Except Defect Unit := illIf (f.vb != 0 || f.cb)
/-- vc is a field marked 0. -/
def EF.noC (f : EF) : Except Defect Unit := illIf (f.vc != 0 || f.cc)
/-- type is a field marked 0. -/
def EF.noT (f : EF) : Except Defect Unit := illIf (f.ty != 0)
/-- source type is a field marked 0. -/
def EF.noS (f : EF) : Except Defect Unit := illIf (f.sty != 0)
/-- imm13 holds nothing outside its low `n` bits. -/
def EF.immLt (f : EF) (n : Nat) : Except Defect Unit := illIf (decide (2 ^ n ≤ f.imm))
/-- The operand mask. -/
def EF.m (f : EF) : Except Defect MSel := need (mselOf f.mask)
/-- The mask field must be 15. -/
def EF.m15 (f : EF) : Except Defect Unit := illIf (f.mask != 15)
/-- The rounding field. -/
def EF.r (f : EF) : Except Defect Rnd := need (rndOf f.rnd)
/-- A rounding field marked 0/7. -/
def EF.r07 (f : EF) : Except Defect Unit := rnd07 f.rnd
/-- va as a vector source. -/
def EF.a (f : EF) : Except Defect VSrc := do let r ← vregOf f.va; pure ⟨r, f.ca⟩
/-- vb as a vector source. -/
def EF.b (f : EF) : Except Defect VSrc := do let r ← vregOf f.vb; pure ⟨r, f.cb⟩
/-- vc as a vector source. -/
def EF.c (f : EF) : Except Defect VSrc := do let r ← vregOf f.vc; pure ⟨r, f.cc⟩
/-- vd as a vector destination. -/
def EF.d (f : EF) : Except Defect VReg := vregOf f.vd

/-- Two sources with rounding. -/
def EF.ve2r (f : EF) (ok : EType → Bool) : Except Defect VE2r := do
  f.noC; let m ← f.m; let t ← f.etype ok; f.noS; let r ← f.r; f.immLt 0
  let d ← f.d; let a ← f.a; let b ← f.b; pure ⟨d, a, b, m, t, r⟩
/-- Three sources with rounding. -/
def EF.ve3r (f : EF) (ok : EType → Bool) : Except Defect VE3r := do
  let m ← f.m; let t ← f.etype ok; f.noS; let r ← f.r; f.immLt 0
  let d ← f.d; let a ← f.a; let b ← f.b; let c ← f.c; pure ⟨d, a, b, c, m, t, r⟩
/-- One source with rounding. -/
def EF.ve1r (f : EF) (ok : EType → Bool) : Except Defect VE1r := do
  f.noB; f.noC; let m ← f.m; let t ← f.etype ok; f.noS; let r ← f.r; f.immLt 0
  let d ← f.d; let a ← f.a; pure ⟨d, a, m, t, r⟩
/-- Two sources. -/
def EF.ve2 (f : EF) (ok : EType → Bool) : Except Defect VE2 := do
  f.noC; let m ← f.m; let t ← f.etype ok; f.noS; f.r07; f.immLt 0
  let d ← f.d; let a ← f.a; let b ← f.b; pure ⟨d, a, b, m, t⟩
/-- One source. -/
def EF.ve1 (f : EF) (ok : EType → Bool) : Except Defect VE1 := do
  f.noB; f.noC; let m ← f.m; let t ← f.etype ok; f.noS; f.r07; f.immLt 0
  let d ← f.d; let a ← f.a; pure ⟨d, a, m, t⟩
/-- One source and a 12-bit index. -/
def EF.ve1i (f : EF) (ok : EType → Bool) : Except Defect VE1i := do
  f.noB; f.noC; let m ← f.m; let t ← f.etype ok; f.noS; f.r07; f.immLt 12
  let d ← f.d; let a ← f.a; pure ⟨d, a, m, t, Fin.ofNat 4096 f.imm⟩
/-- A compare. -/
def EF.vcmp (f : EF) (ok : EType → Bool) : Except Defect VCmpArgs := do
  f.noC; let m ← f.m; let t ← f.etype ok; f.noS; f.r07; f.immLt 3; let c ← need (condOf f.imm)
  let d ← need (mdstOf f.vd); let a ← f.a; let b ← f.b; pure ⟨d, a, b, m, t, c⟩
/-- Mask logic. -/
def EF.mop (f : EF) : Except Defect MOp := do
  illIf (f.ca || f.cb); f.noC; let m ← f.m; f.noT; f.noS; f.r07; f.immLt 0
  let d ← need (mdstOf f.vd); let a ← need (mregOf f.va); let b ← need (mregOf f.vb); pure ⟨d, a, b, m⟩
/-- MPOPC and MFIRST. -/
def EF.mpush (f : EF) : Except Defect (MReg × MSel) := do
  f.noD; illIf f.ca; f.noB; f.noC; let m ← f.m; f.noT; f.noS; f.r07; f.immLt 0
  let a ← need (mregOf f.va); pure (a, m)
/-- An FP reduction. -/
def EF.vred (f : EF) (ok : EType → Bool) : Except Defect VRedArgs := do
  f.noB; f.noC; let m ← f.m; let t ← f.etype ok; f.noS; let r ← f.r; f.immLt 5
  let seg ← need (mselOf (f.imm / 2))
  if f.imm % 2 = 1 then
    illIf (f.vd != 0 || seg.isSome)
    let a ← f.a; pure ⟨none, a, m, t, r, seg⟩
  else
    let d ← f.d; let a ← f.a; pure ⟨some d, a, m, t, r, seg⟩
/-- An integer reduction. -/
def EF.vredi (f : EF) : Except Defect VRedIArgs := do
  f.noB; f.noC; let m ← f.m; let t ← f.etype EType.isInt; f.noS; f.r07; f.immLt 5
  let seg ← need (mselOf (f.imm / 2))
  if f.imm % 2 = 1 then
    illIf (f.vd != 0 || seg.isSome)
    let a ← f.a; pure ⟨none, a, m, t, seg⟩
  else
    let d ← f.d; let a ← f.a; pure ⟨some d, a, m, t, seg⟩
/-- The segment mask of a scan: imm13[4:1], imm13[0] = 0. -/
def EF.seg (f : EF) : Except Defect MSel := do
  f.immLt 5; illIf (f.imm % 2 == 1); need (mselOf (f.imm / 2))
/-- The arms of WBEGIN and WJOIN. -/
def EF.arms (f : EF) : Except Defect Arms := do
  illIf (decide (f.sty < 2) || decide (4 < f.sty))
  let a : Arms := ⟨Fin.ofNat 3 (f.sty - 2), f.wn 0, f.wn 1, f.wn 2, f.wn 3⟩
  illIf (!a.unusedZero)
  pure a

/-- The types other than .e8m0 (Table 10-1). -/
def notE8m0 (t : EType) : Bool := t != .e8m0

/-- The instruction of an E-format word, or the defect it faults with (R128 to R130). -/
def decodeE (w : Nat) : Except Defect Instr :=
  let f := efOf w
  match f.op with
  | 0x01 => do illIf (w % 2 ^ 56 != 0); pure .stop
  | 0x02 => do let o ← f.ve2r EType.isFp; pure (.vfadd o)
  | 0x03 => do let o ← f.ve2r EType.isFp; pure (.vfsub o)
  | 0x04 => do let o ← f.ve2r EType.isFp; pure (.vfmul o)
  | 0x05 => do let o ← f.ve3r EType.isFp; pure (.vfma o)
  | 0x06 => do let o ← f.ve3r EType.isFp; pure (.vfms o)
  | 0x07 => do let o ← f.ve3r EType.isFp; pure (.vfnma o)
  | 0x08 => do let o ← f.ve2r EType.isFp; pure (.vfdiv o)
  | 0x09 => do let o ← f.ve1r EType.isFp; pure (.vfsqrt o)
  | 0x0A => do let o ← f.ve2 EType.isFp; pure (.vfmin o)
  | 0x0B => do let o ← f.ve2 EType.isFp; pure (.vfmax o)
  | 0x0C => do let o ← f.ve1 EType.isFp; pure (.vfabs o)
  | 0x0D => do let o ← f.ve1 EType.isFp; pure (.vfneg o)
  | 0x0E => do let o ← f.ve2 EType.isFp; pure (.vfsgn o)
  | 0x40 => do let o ← f.ve2 EType.isInt; pure (.vadd o)
  | 0x41 => do let o ← f.ve2 EType.isInt; pure (.vsub o)
  | 0x42 => do let o ← f.ve2 EType.isInt; pure (.vmul o)
  | 0x43 => do let o ← f.ve2 EType.isInt; pure (.vmulh o)
  | 0x44 => do let o ← f.ve2 EType.isInt; pure (.vmulhn o)
  | 0x45 => do let o ← f.ve2 EType.isInt; pure (.vand o)
  | 0x46 => do let o ← f.ve2 EType.isInt; pure (.vor o)
  | 0x47 => do let o ← f.ve2 EType.isInt; pure (.vxor o)
  | 0x48 => do let o ← f.ve2 EType.isInt; pure (.vsll o)
  | 0x49 => do let o ← f.ve2 EType.isInt; pure (.vsrl o)
  | 0x4A => do let o ← f.ve2 EType.isInt; pure (.vsra o)
  | 0x4B => do let o ← f.ve2 EType.isInt; pure (.vmin o)
  | 0x4C => do let o ← f.ve2 EType.isInt; pure (.vmax o)
  | 0x4D => do let o ← f.ve2 EType.isInt; pure (.vminn o)
  | 0x4E => do let o ← f.ve2 EType.isInt; pure (.vmaxn o)
  | 0x4F => do let o ← f.ve2 EType.isInt; pure (.vsadd o)
  | 0x50 => do let o ← f.ve2 EType.isInt; pure (.vssub o)
  | 0x51 => do let o ← f.ve2 EType.isInt; pure (.vsaddn o)
  | 0x52 => do let o ← f.ve2 EType.isInt; pure (.vssubn o)
  | 0x53 => do
    f.noC; let m ← f.m; let t ← need (etypeOf f.ty); f.r07; f.immLt 1; let st ← need f.src; illIf (!vdotOk t st)
    let d ← f.d; let a ← f.a; let b ← f.b; pure (.vdot ⟨d, a, b, m, t, st⟩)
  | 0x70 => do let o ← f.vcmp EType.isFp; pure (.vfcmp o)
  | 0x71 => do let o ← f.vcmp EType.isInt; pure (.vcmp o)
  | 0x72 => do let o ← f.mop; pure (.mand o)
  | 0x73 => do let o ← f.mop; pure (.mor o)
  | 0x74 => do let o ← f.mop; pure (.mxor o)
  | 0x75 => do let o ← f.mop; pure (.mandn o)
  | 0x76 => do
    f.noA; f.noB; f.noC; let m ← f.m; f.noT; f.noS; f.r07; f.immLt 1; let d ← need (mdstOf f.vd)
    pure (.mset d m (f.imm == 1))
  | 0x77 => do let p ← f.mpush; pure (.mpopc p.1 p.2)
  | 0x78 => do let p ← f.mpush; pure (.mfirst p.1 p.2)
  | 0x90 => do
    f.noB; f.noC; let m ← f.m; let t ← f.etype notE8m0; let r ← f.r; f.immLt 1
    let st ← need f.src; illIf (st == .e8m0)
    let d ← f.d; let a ← f.a; pure (.vcvt ⟨d, a, m, t, st, r⟩)
  | 0x91 => do
    illIf (f.cb || f.vb == f.vd); f.noC; let m ← f.m; let t ← f.etype EType.mxElem; let r ← f.r; f.immLt 1
    let st ← need f.src; illIf (!st.isFp)
    let d ← f.d; let a ← f.a; let sd ← vregOf f.vb; pure (.vqmx ⟨d, a, sd, m, t, st, r⟩)
  | 0x92 => do let o ← f.ve1 (fun _ => true); pure (.vmov o)
  | 0x93 => do let o ← f.ve1i (fun _ => true); pure (.vbcast o)
  | 0x94 => do
    f.noD; f.noB; f.noC; f.m15; let t ← f.etype notE8m0; f.noS; f.r07; f.immLt 12
    let a ← f.a; pure (.vext a t (Fin.ofNat 4096 f.imm))
  | 0x95 => do
    f.noA; f.noB; f.noC; let m ← f.m; let t ← f.etype EType.isInt; f.noS; f.r07; f.immLt 0
    let d ← f.d; pure (.viota d m t)
  | 0xB0 => do let o ← f.ve1i notE8m0; pure (.vslup o)
  | 0xB1 => do let o ← f.ve1i notE8m0; pure (.vsldn o)
  | 0xB2 => do let o ← f.ve2 notE8m0; pure (.vperm o)
  | 0xB3 => do let o ← f.ve1 notE8m0; pure (.vcomp o)
  | 0xB4 => do let o ← f.ve1 notE8m0; pure (.vexpd o)
  | 0xB5 => do let o ← f.ve1 notE8m0; pure (.vmatch o)
  | 0xB8 => do let o ← f.vred EType.isFp; pure (.vfredsum o)
  | 0xB9 => do let o ← f.vred EType.isFp; pure (.vfredmax o)
  | 0xBA => do let o ← f.vred EType.isFp; pure (.vfredmin o)
  | 0xBB => do let o ← f.vredi; pure (.vredsum o)
  | 0xBC => do let o ← f.vredi; pure (.vredmax o)
  | 0xBD => do let o ← f.vredi; pure (.vredmin o)
  | 0xBE => do
    f.noB; f.noC; let m ← f.m; let t ← f.etype EType.isFp; f.noS; let r ← f.r; let seg ← f.seg
    let d ← f.d; let a ← f.a; pure (.vfscan ⟨d, a, m, t, r, seg⟩)
  | 0xBF => do
    f.noB; f.noC; let m ← f.m; let t ← f.etype EType.isInt; f.noS; f.r07; let seg ← f.seg
    let d ← f.d; let a ← f.a; pure (.vscan ⟨d, a, m, t, seg⟩)
  | 0xD0 => do
    f.noD; f.noB; let m ← f.m; f.noT; f.noS; f.r07; f.immLt 3
    let a ← f.a; let c ← f.c; pure (.wramp a c m (f.wn 0))
  | 0xD1 => do
    f.noD; illIf f.ca; f.noB; f.noC; let m ← f.m; f.noT; f.noS; f.r07; f.immLt 3
    let a ← need (mregOf f.va); pure (.wcmp a m (f.wn 0))
  | 0xD2 => do
    f.noD; f.noA; f.noB; f.noC; let m ← f.m; f.noT; f.noS; f.r07; f.immLt 6; pure (.wcomp m (f.wn 0) (f.wn 1))
  | 0xD3 => do
    f.noD; f.noA; f.noB; f.noC; let m ← f.m; f.noT; f.noS; f.r07; f.immLt 9
    pure (.wmul m (f.wn 0) (f.wn 1) (f.wn 2))
  | 0xD4 => do
    f.noB; f.noC; let m ← f.m; let t ← f.etype EType.wmovOk; f.noS; let r ← f.r
    illIf (fld f.imm 3 9 != 0)
    if fld f.imm 12 1 = 1 then
      f.noA; let d ← f.d; pure (.wmov (.toVector d) m t r (f.wn 0))
    else
      f.noD; let a ← f.a; pure (.wmov (.toWeight a) m t r (f.wn 0))
  | 0xD5 => do
    f.noD; f.noA; f.noB; f.noC; f.m15; f.noT; f.r07; let arms ← f.arms; illIf (!arms.distinct)
    pure (.wbegin arms (fld f.imm 12 1 == 1))
  | 0xD6 => do f.noD; f.noA; f.noB; f.noC; f.m15; f.noT; f.noS; f.r07; f.immLt 0; pure .wnext
  | 0xD7 => do f.noD; f.noA; f.noB; f.noC; f.m15; f.noT; f.noS; f.r07; f.immLt 0; pure .wend
  | 0xD8 => do
    f.noB; f.noC; let m ← f.m; let t ← f.etype EType.isFp; let r ← f.r; f.immLt 12; let arms ← f.arms
    let d ← f.d; let a ← f.a; rangeIf (decide (48 < a.r.val + arms.count)); pure (.wjoin ⟨d, a, m, t, r, arms⟩)
  | 0xD9 => do
    let m ← f.m; let _ ← f.etype (· == .f32); f.noS; let r ← f.r; f.immLt 6
    let d ← f.d; let a ← f.a; let b ← f.b; let c ← f.c; pure (.wgjoin ⟨d, a, b, c, m, r, f.wn 0, f.wn 1⟩)
  | 0xDA => do
    f.noB; let m ← f.m; let _ ← f.etype (· == .f32); f.noS; let r ← f.r; f.immLt 3
    let d ← f.d; let a ← f.a; let c ← f.c; pure (.wgramp ⟨d, a, c, m, r, f.wn 0⟩)
  | 0xDB => do
    f.noD; f.noA; f.noB; f.noC; f.m15; f.noT; f.noS; f.r07; f.immLt 11
    if f.imm / 8 = 0 then .error .blockFormat else pure (.wcont (f.wn 0) (Fin.ofNat 256 (f.imm / 8)))
  | 0xE0 => do
    f.noB; f.noC; let m ← f.m; let t ← f.etype (fun t => decide (8 ≤ t.width)); f.noS; f.r07
    let d ← f.d; let a ← f.a; pure (.lde ⟨d, a, m, t, BitVec.ofNat 13 f.imm⟩)
  | 0xE1 => do
    f.noD; f.noC; let m ← f.m; let t ← f.etype (fun t => decide (8 ≤ t.width)); f.noS; f.r07
    let a ← f.a; let b ← f.b; pure (.ste ⟨a, b, m, t, BitVec.ofNat 13 f.imm⟩)
  | 0xE2 => do
    f.noD; f.noC; let m ← f.m; let t ← f.etype EType.isFp; f.noS; let r ← f.r; f.immLt 3
    let a ← f.a; let b ← f.b; pure (.wsta ⟨a, b, m, t, r, f.wn 0⟩)
  | _ => .error .illegal

/-! ### The write-set check of R132 -/

/-- A register that a block may declare. -/
inductive Dest where
  | v (n : Nat)
  | w (n : Nat)
  | m (n : Nat)
  deriving DecidableEq, Repr

/-- The destinations an assigned op8 names, from its fields as they stand, whatever other defect the word has; none
for STOP and for an unassigned op8 (R132, Table 7-12). WBEGIN.PF writes its arm weights (R219). -/
def rawDests (w : Nat) : List Dest :=
  let f := efOf w
  match f.op with
  | 0x02 | 0x03 | 0x04 | 0x05 | 0x06 | 0x07 | 0x08 | 0x09 | 0x0A | 0x0B | 0x0C | 0x0D | 0x0E => [.v f.vd]
  | 0x40 | 0x41 | 0x42 | 0x43 | 0x44 | 0x45 | 0x46 | 0x47 | 0x48 | 0x49 | 0x4A | 0x4B | 0x4C | 0x4D | 0x4E | 0x4F
  | 0x50 | 0x51 | 0x52 | 0x53 => [.v f.vd]
  | 0x70 | 0x71 | 0x72 | 0x73 | 0x74 | 0x75 | 0x76 => [.m f.vd]
  | 0x90 | 0x92 | 0x93 | 0x95 | 0xB0 | 0xB1 | 0xB2 | 0xB3 | 0xB4 | 0xB5 | 0xBE | 0xBF => [.v f.vd]
  | 0x91 => [.v f.vd, .v f.vb]
  | 0xB8 | 0xB9 | 0xBA | 0xBB | 0xBC | 0xBD => if f.imm % 2 = 1 then [] else [.v f.vd]
  | 0xD0 | 0xD1 | 0xD2 | 0xD3 => [.w (f.wn 0).val]
  | 0xD4 => if fld f.imm 12 1 = 1 then [.v f.vd] else [.w (f.wn 0).val]
  | 0xD5 => if fld f.imm 12 1 = 1 then ([f.wn 0, f.wn 1, f.wn 2, f.wn 3].take f.sty).map (fun r => .w r.val) else []
  | 0xD8 | 0xD9 | 0xDA => [.v f.vd]
  | 0xE0 => [.v f.vd]
  | _ => []

/-! ### The encoder -/

/-- SA form (Table 7-1). -/
def encSA (op : Nat) (d a b : XReg) (fn : Nat) : Nat :=
  op * 2 ^ 26 + d.val * 2 ^ 21 + a.val * 2 ^ 16 + b.val * 2 ^ 11 + fn
/-- SI and SB forms. -/
def encSI (op : Nat) (d a : XReg) (imm : Nat) : Nat := op * 2 ^ 26 + d.val * 2 ^ 21 + a.val * 2 ^ 16 + imm
/-- SV form. -/
def encSV (op v a b msk ch ew sub : Nat) : Nat :=
  op * 2 ^ 26 + v * 2 ^ 20 + a * 2 ^ 15 + b * 2 ^ 10 + msk * 2 ^ 6 + ch * 2 ^ 5 + ew * 2 ^ 2 + sub
/-- SM form. -/
def encSM (op : Nat) (acc : Nat) (va xa mr mc ch sub : Nat) : Nat :=
  op * 2 ^ 26 + acc * 2 ^ 24 + va * 2 ^ 18 + xa * 2 ^ 13 + mr * 2 ^ 9 + mc * 2 ^ 5 + ch * 2 ^ 4 + sub
/-- SQ form. -/
def encSQ (op : Nat) (d a b : XReg) (scope blk sub : Nat) : Nat :=
  op * 2 ^ 26 + d.val * 2 ^ 21 + a.val * 2 ^ 16 + b.val * 2 ^ 11 + scope * 2 ^ 8 + blk * 2 ^ 7 + sub
/-- E format (Table 7-10). -/
def encEF (f : EF) : Nat :=
  f.op * 2 ^ 56 + f.vd * 2 ^ 50 + f.va * 2 ^ 44 + f.vb * 2 ^ 38 + f.vc * 2 ^ 32 + f.ca.toNat * 2 ^ 31 +
    f.cb.toNat * 2 ^ 30 + f.cc.toNat * 2 ^ 29 + f.mask * 2 ^ 25 + f.ty * 2 ^ 20 + f.sty * 2 ^ 16 + f.rnd * 2 ^ 13 +
    f.imm

/-- The fields of an E word that names nothing: every field 0, mask 15, rounding 7. -/
def efNone (op : Nat) : EF := ⟨op, 0, 0, 0, 0, false, false, false, 15, 0, 0, 7, 0⟩

/-- Encoding of two sources with rounding. -/
def VE2r.ef (o : VE2r) (op : Nat) : EF :=
  ⟨op, o.d.val, o.a.r.val, o.b.r.val, 0, o.a.ch, o.b.ch, false, mselCode o.m, etypeCode o.t, 0, rndCode o.r, 0⟩
/-- Encoding of three sources with rounding. -/
def VE3r.ef (o : VE3r) (op : Nat) : EF :=
  ⟨op, o.d.val, o.a.r.val, o.b.r.val, o.c.r.val, o.a.ch, o.b.ch, o.c.ch, mselCode o.m, etypeCode o.t, 0,
    rndCode o.r, 0⟩
/-- Encoding of one source with rounding. -/
def VE1r.ef (o : VE1r) (op : Nat) : EF :=
  ⟨op, o.d.val, o.a.r.val, 0, 0, o.a.ch, false, false, mselCode o.m, etypeCode o.t, 0, rndCode o.r, 0⟩
/-- Encoding of two sources. -/
def VE2.ef (o : VE2) (op : Nat) : EF :=
  ⟨op, o.d.val, o.a.r.val, o.b.r.val, 0, o.a.ch, o.b.ch, false, mselCode o.m, etypeCode o.t, 0, 7, 0⟩
/-- Encoding of one source. -/
def VE1.ef (o : VE1) (op : Nat) : EF :=
  ⟨op, o.d.val, o.a.r.val, 0, 0, o.a.ch, false, false, mselCode o.m, etypeCode o.t, 0, 7, 0⟩
/-- Encoding of one source and an index. -/
def VE1i.ef (o : VE1i) (op : Nat) : EF :=
  ⟨op, o.d.val, o.a.r.val, 0, 0, o.a.ch, false, false, mselCode o.m, etypeCode o.t, 0, 7, o.i.val⟩
/-- Encoding of a compare. -/
def VCmpArgs.ef (o : VCmpArgs) (op : Nat) : EF :=
  ⟨op, o.d.val + 8, o.a.r.val, o.b.r.val, 0, o.a.ch, o.b.ch, false, mselCode o.m, etypeCode o.t, 0, 7, condCode o.c⟩
/-- Encoding of mask logic. -/
def MOp.ef (o : MOp) (op : Nat) : EF :=
  ⟨op, o.d.val + 8, o.a.val, o.b.val, 0, false, false, false, mselCode o.m, 0, 0, 7, 0⟩
/-- vd of a reduction: 0 with .X. -/
def redD (d : Option VReg) : Nat := (d.map (·.val)).getD 0
/-- imm13 of a reduction. -/
def redImm (d : Option VReg) (seg : MSel) : Nat := mselCode seg * 2 + (if d.isSome then 0 else 1)
/-- Encoding of an FP reduction. -/
def VRedArgs.ef (o : VRedArgs) (op : Nat) : EF :=
  ⟨op, redD o.d, o.a.r.val, 0, 0, o.a.ch, false, false, mselCode o.m, etypeCode o.t, 0, rndCode o.r, redImm o.d o.seg⟩
/-- Encoding of an integer reduction. -/
def VRedIArgs.ef (o : VRedIArgs) (op : Nat) : EF :=
  ⟨op, redD o.d, o.a.r.val, 0, 0, o.a.ch, false, false, mselCode o.m, etypeCode o.t, 0, 7, redImm o.d o.seg⟩
/-- imm13 of arm weights. -/
def Arms.imm (a : Arms) : Nat := a.w0.val + a.w1.val * 8 + a.w2.val * 64 + a.w3.val * 512

/-- The word of a well-formed instruction and its length in bits; none for a device event. -/
def encode : Instr → Option (Nat × Nat)
  | .add o => some (32, encSA 1 o.d o.a o.b 0)
  | .sub o => some (32, encSA 1 o.d o.a o.b 1)
  | .and o => some (32, encSA 1 o.d o.a o.b 2)
  | .or o => some (32, encSA 1 o.d o.a o.b 3)
  | .xor o => some (32, encSA 1 o.d o.a o.b 4)
  | .andn o => some (32, encSA 1 o.d o.a o.b 5)
  | .orn o => some (32, encSA 1 o.d o.a o.b 6)
  | .sll o => some (32, encSA 1 o.d o.a o.b 7)
  | .srl o => some (32, encSA 1 o.d o.a o.b 8)
  | .sra o => some (32, encSA 1 o.d o.a o.b 9)
  | .slt o => some (32, encSA 1 o.d o.a o.b 10)
  | .sltn o => some (32, encSA 1 o.d o.a o.b 11)
  | .min o => some (32, encSA 1 o.d o.a o.b 12)
  | .max o => some (32, encSA 1 o.d o.a o.b 13)
  | .minn o => some (32, encSA 1 o.d o.a o.b 14)
  | .maxn o => some (32, encSA 1 o.d o.a o.b 15)
  | .mul o => some (32, encSA 1 o.d o.a o.b 16)
  | .mulh o => some (32, encSA 1 o.d o.a o.b 17)
  | .mulhn o => some (32, encSA 1 o.d o.a o.b 18)
  | .div o => some (32, encSA 1 o.d o.a o.b 19)
  | .divn o => some (32, encSA 1 o.d o.a o.b 20)
  | .rem o => some (32, encSA 1 o.d o.a o.b 21)
  | .remn o => some (32, encSA 1 o.d o.a o.b 22)
  | .clz o => some (32, encSA 1 o.d o.a 0 23)
  | .ctz o => some (32, encSA 1 o.d o.a 0 24)
  | .popc o => some (32, encSA 1 o.d o.a 0 25)
  | .sext o => some (32, encSA 1 o.d o.a 0 (extsizeCode o.s * 32 + 26))
  | .zext o => some (32, encSA 1 o.d o.a 0 (extsizeCode o.s * 32 + 27))
  | .slli o => some (32, encSA 1 o.d o.a 0 (o.n.val * 32 + 28))
  | .srli o => some (32, encSA 1 o.d o.a 0 (o.n.val * 32 + 29))
  | .srai o => some (32, encSA 1 o.d o.a 0 (o.n.val * 32 + 30))
  | .addi o => some (32, encSI 2 o.d o.a o.i.toNat)
  | .andi o => some (32, encSI 3 o.d o.a o.i.toNat)
  | .ori o => some (32, encSI 4 o.d o.a o.i.toNat)
  | .xori o => some (32, encSI 5 o.d o.a o.i.toNat)
  | .slti o => some (32, encSI 6 o.d o.a o.i.toNat)
  | .shori o => some (32, encSI 7 o.d o.a o.i.toNat)
  | .lih d i => some (32, encSI 7 d 0 i.toNat)
  | .ld d a off z => some (32, encSI 8 d a (off.toNat * 16 + ldsizeCode z))
  | .st d a off z => some (32, encSI 8 d a (off.toNat * 16 + 8 + stsizeCode z))
  | .ldx o z => some (32, encSA 9 o.d o.a o.b (ldsizeCode z))
  | .stx o z => some (32, encSA 9 o.d o.a o.b (512 + stsizeCode z))
  | .ldAcq o c z => some (32, encSA 9 o.d o.a o.b (scopeCode c * 16 + 8 + ldsizeCode z))
  | .stRel o c z => some (32, encSA 9 o.d o.a o.b (512 + scopeCode c * 16 + 8 + stsizeCode z))
  | .amo o => some (32, encSA 9 o.d o.a o.b (1024 + scopeCode o.scope * 128 + aordCode o.ord * 32 + o.dword.toNat * 16 +
      amoopCode o.op))
  | .cas o => some (32, encSA 9 o.d o.a o.b (1024 + scopeCode o.scope * 128 + aordCode o.ord * 32 + o.dword.toNat * 16 + 9))
  | .beq o => some (32, encSI 10 o.a o.b o.o.toNat)
  | .bne o => some (32, encSI 11 o.a o.b o.o.toNat)
  | .blt o => some (32, encSI 12 o.a o.b o.o.toNat)
  | .bge o => some (32, encSI 13 o.a o.b o.o.toNat)
  | .bltn o => some (32, encSI 14 o.a o.b o.o.toNat)
  | .bgen o => some (32, encSI 15 o.a o.b o.o.toNat)
  | .jal d i => some (32, encSI 16 d 0 i.toNat)
  | .jalr o => some (32, encSI 16 o.d o.a o.i.toNat)
  | .fadd o => some (32, encSA 17 o.d o.a o.b (rndCode o.r * 256 + fptCode o.t * 32 + 0))
  | .fsub o => some (32, encSA 17 o.d o.a o.b (rndCode o.r * 256 + fptCode o.t * 32 + 1))
  | .fmul o => some (32, encSA 17 o.d o.a o.b (rndCode o.r * 256 + fptCode o.t * 32 + 2))
  | .ffma o => some (32, encSA 17 o.d o.a o.b (rndCode o.r * 256 + fptCode o.t * 32 + 3))
  | .fdiv o => some (32, encSA 17 o.d o.a o.b (rndCode o.r * 256 + fptCode o.t * 32 + 4))
  | .fsqrt o t r => some (32, encSA 17 o.d o.a 0 (rndCode r * 256 + fptCode t * 32 + 5))
  | .fmin o => some (32, encSA 17 o.d o.a o.b (7 * 256 + fptCode o.t * 32 + 6))
  | .fmax o => some (32, encSA 17 o.d o.a o.b (7 * 256 + fptCode o.t * 32 + 7))
  | .fcmp o t c => some (32, encSA 17 o.d o.a o.b (condCode c * 256 + fptCode t * 32 + 8))
  | .fclass o t => some (32, encSA 17 o.d o.a 0 (7 * 256 + fptCode t * 32 + 9))
  | .fcvtToFp o => some (32, encSA 17 o.d o.a (Fin.ofNat 32 (etypeCode o.o)) (rndCode o.r * 256 + fptCode o.t * 32 + 10))
  | .fcvtFromFp o => some (32, encSA 17 o.d o.a (Fin.ofNat 32 (etypeCode o.o)) (rndCode o.r * 256 + fptCode o.t * 32 + 11))
  | .csrr d c => some (32, encSI 18 d 0 c.toNat)
  | .csrw a c => some (32, encSI 18 0 a (4096 + c.toNat))
  | .csrs o c => some (32, encSI 18 o.d o.a (8192 + c.toNat))
  | .csrc o c => some (32, encSI 18 o.d o.a (12288 + c.toNat))
  | .fenceLd c => some (32, encSQ 19 0 0 0 (scopeCode c) 0 0)
  | .fenceSt c => some (32, encSQ 19 0 0 0 (scopeCode c) 0 1)
  | .fenceAll c => some (32, encSQ 19 0 0 0 (scopeCode c) 0 2)
  | .ifence => some (32, encSQ 19 0 0 0 0 0 3)
  | .bar c => some (32, encSQ 19 0 0 0 (scopeCode c) 0 4)
  | .syscall => some (32, encSA 20 0 0 0 0)
  | .brk => some (32, encSA 20 0 0 0 1)
  | .sret => some (32, encSA 20 0 0 0 2)
  | .xpop d => some (32, encSA 20 d 0 0 3)
  | .feat d n => some (32, encSA 20 d 0 n 4)
  | .uliret => some (32, encSA 20 0 0 0 5)
  | .tlbinv a b => some (32, encSA 20 0 a b 6)
  | .srinv a => some (32, encSA 20 0 a 0 7)
  | .waite => some (32, encSA 20 0 0 0 8)
  | .texit => some (32, encSA 20 0 0 0 9)
  | .launch a => some (32, encSA 20 0 a 0 10)
  | .tstop o => some (32, encSA 20 o.d o.a 0 11)
  | .vfetch o => some (32, 21 * 2 ^ 26 + o.toNat)
  | .vfetchx a => some (32, encSA 22 0 a 0 0)
  | .vsetl o t => some (32, encSI 24 o.d o.a t.toNat)
  | .vsetlx o => some (32, encSI 24 o.d o.a (32768 + o.b.val))
  | .vldxAcq v a i m c => some (32, encSV 25 v.val a.val (i.val % 32) (mselCode m) (i.val / 32) (scopeCode c) 0)
  | .vstsNtf o b => some (32, encSV 25 o.v.val o.a.val b.val (mselCode o.m) o.ch.toNat (ewselCode o.e) 1)
  | .strip c p n o => some (32, encSI 26 c p (n.val * 2 ^ 14 + o.toNat))
  | .setfib o mo t => some (32, encSI 27 o.d o.a (mo.val * 2 ^ 11 + t.toNat))
  | .vsplat o => some (32, encSV 28 o.v.val o.a.val 0 (mselCode o.m) 0 (ewselCode o.e) 0)
  | .vprf a b e => some (32, encSV 28 0 a.val b.val 15 0 (ewselCode e) 1)
  | .vld o => some (32, encSV 29 o.v.val o.a.val 0 (mselCode o.m) 0 (ewselCode o.e) 0)
  | .vlds o b => some (32, encSV 29 o.v.val o.a.val b.val (mselCode o.m) 0 (ewselCode o.e) 1)
  | .vldg o n => some (32, encSV 29 o.v.val o.a.val n.val (mselCode o.m) 0 (ewselCode o.e) 2)
  | .vld2 o => some (32, encSV 29 o.v.val o.a.val 0 (mselCode o.m) 0 (ewselCode o.e) 3)
  | .vst o => some (32, encSV 30 o.v.val o.a.val (scopeCode o.scope * 4 + o.rel.toNat * 2 + o.ntf.toNat) (mselCode o.m) o.ch.toNat (ewselCode o.e) 0)
  | .vsts o b => some (32, encSV 30 o.v.val o.a.val b.val (mselCode o.m) o.ch.toNat (ewselCode o.e) 1)
  | .vstg o n ntf => some (32, encSV 30 o.v.val o.a.val ((n.val - 1) * 4 + ntf.toNat) (mselCode o.m) o.ch.toNat (ewselCode o.e) 2)
  | .vst2 o ntf => some (32, encSV 30 o.v.val o.a.val ntf.toNat (mselCode o.m) o.ch.toNat (ewselCode o.e) 3)
  | .vldx o i => some (32, encSV 31 o.v.val o.a.val (i.val % 32) (mselCode o.m) (i.val / 32) (ewselCode o.e) 0)
  | .vstx o i ntf => some (32, encSV 32 o.v.val o.a.val (i.val % 32) (mselCode o.m) o.ch.toNat (ewselCode o.e) (ntf.toNat * 2 + i.val / 32))
  | .vldw v a i mo e => some (32, encSV 33 v.val a.val (i.val % 32) mo.val (i.val / 32) (ewselCode e) 0)
  | .vldb v a b mo e => some (32, encSV 34 v.val a.val b.val mo.val 0 (ewselCode e) 0)
  | .vstb o b => some (32, encSV 34 o.v.val o.a.val b.val (mselCode o.m) o.ch.toNat (ewselCode o.e) 1)
  | .vstbNtf o b => some (32, encSV 34 o.v.val o.a.val b.val (mselCode o.m) o.ch.toNat (ewselCode o.e) 2)
  | .vamo o => some (32, encSV 35 o.v.val o.a.val (amoopCode o.op * 2) (mselCode o.m) (scopeCode o.scope / 4)
      (aordCode o.ord * 2 + o.dword.toNat) (scopeCode o.scope % 4))
  | .vsred o op => some (32, encSV 36 o.v.val o.a.val (sredopCode op * 2) (mselCode o.m) o.ch.toNat (ewselCode o.e) 0)
  | .vrred o t ntf ord => some (32, encSV 36 o.v.val o.a.val (rredtCode t * 4 + ntf.toNat * 2) (mselCode o.m) o.ch.toNat (ewselCode o.e) (ord.toNat * 2 + 1))
  | .fcfg f a b st out e => some (32, encSV 37 f.val a.val b.val st.val out.toNat (ewselCode e) 0)
  | .fld v f => some (32, encSV 37 v.val 0 f.val 15 0 7 1)
  | .fst v f m ch e => some (32, encSV 37 v.val 0 f.val (mselCode m) ch.toNat (ewselCode e) 2)
  | .fend f a m e => some (32, encSV 37 0 a.val f.val (mselCode m) 0 (ewselCode e) 3)
  | .apush a b t => some (32, encSA 38 0 a b (t.toNat * 2))
  | .apop o t => some (32, encSA 38 o.d o.a o.b (t.toNat * 2 + 1))
  | .nsend o => some (32, encSA 39 o.d o.a o.b (o.srcBf16.toNat * 64 + o.compl.toNat * 32 + o.bar.toNat * 16 +
      o.rfBf16.toNat * 8 + o.ef.toNat * 4 + nquantCode o.q))
  | .matt o => some (32, encSA 40 o.d o.a 0 0)
  | .mattB o => some (32, encSA 40 o.d o.a 0 1)
  | .mdet => some (32, encSA 40 0 0 0 2)
  | .mten => some (32, encSA 40 0 0 0 3)
  | .mtdis => some (32, encSA 40 0 0 0 4)
  | .mzero acc => some (32, encSM 41 acc.val 0 0 15 15 0 0)
  | .mopa acc v k mr mc => some (32, encSM 42 acc.val v.r.val (k.val / 16) (mselCode mr) (mselCode mc) v.ch.toNat (k.val % 16))
  | .mopav acc v b mr mc t => some (32, encSM 43 acc.val v.r.val (b.val % 32) (mselCode mr) (mselCode mc) v.ch.toNat
      (b.val / 32 * 8 + mattCode t))
  | .mrds acc v i col => some (32, encSM 44 acc.val v.val (i.val % 32) 15 15 0 (i.val / 32 * 4 + col.toNat * 2))
  | .mwrs acc v i col => some (32, encSM 44 acc.val v.r.val (i.val % 32) 15 15 v.ch.toNat (i.val / 32 * 4 + col.toNat * 2 + 1))
  | .mstt o => some (32, encSM 45 o.acc.val 0 o.a.val (mselCode o.mr) (mselCode o.mc) 0 0)
  | .mgacc o => some (32, encSM 45 o.acc.val 0 o.a.val (mselCode o.mr) (mselCode o.mc) 0 1)
  | .mgst a => some (32, encSM 45 0 0 a.val 15 15 0 2)
  | .mwld a none => some (32, encSM 45 0 0 a.val 15 15 0 3)
  | .mwld a (some l) => some (32, encSM 45 0 (16 + l.val) a.val 15 15 0 3)
  | .qinit a b c => some (32, encSQ 48 0 a b (scopeCode c) 0 0)
  | .qcnt o c => some (32, encSQ 48 o.d o.a 0 (scopeCode c) 0 1)
  | .qclose a c => some (32, encSQ 48 0 a 0 (scopeCode c) 0 2)
  | .qenqX o => some (32, encSQ 49 o.d o.a o.b (scopeCode o.scope) o.blk.toNat 0)
  | .qdeqX o => some (32, encSQ 49 o.d o.a o.b (scopeCode o.scope) o.blk.toNat 1)
  | .qenqM o => some (32, encSQ 49 o.d o.a o.b (scopeCode o.scope) o.blk.toNat 2)
  | .qdeqM o => some (32, encSQ 49 o.d o.a o.b (scopeCode o.scope) o.blk.toNat 3)
  | .qenqV o => some (32, encSQ 50 o.d o.a 0 (scopeCode o.scope) o.blk.toNat (o.v.val * 2))
  | .qdeqV o => some (32, encSQ 50 o.d o.a 0 (scopeCode o.scope) o.blk.toNat (o.v.val * 2 + 1))
  | .binit o => some (32, encSQ 51 o.d o.a o.b 0 0 0)
  | .barr a b => some (32, encSQ 51 0 a b 0 0 1)
  | .barrRel a b => some (32, encSQ 51 0 a b 0 0 2)
  | .bwait o => some (32, encSQ 51 o.d o.a o.b 0 0 3)
  | .bphase o => some (32, encSQ 51 o.d o.a 0 0 0 4)
  | .sigdec a b => some (32, encSQ 52 0 a b 0 0 0)
  | .sigwait a => some (32, encSQ 52 0 a 0 0 0 1)
  | .uliarm o => some (32, encSQ 52 o.d o.a o.b 0 0 2)
  | .pfenceCore => some (32, encSQ 53 0 0 0 0 0 0)
  | .pfenceDie => some (32, encSQ 53 0 0 0 2 0 0)
  | .stop => some (64, 2 ^ 56)
  | .vfadd o => some (64, encEF (o.ef 0x02))
  | .vfsub o => some (64, encEF (o.ef 0x03))
  | .vfmul o => some (64, encEF (o.ef 0x04))
  | .vfma o => some (64, encEF (o.ef 0x05))
  | .vfms o => some (64, encEF (o.ef 0x06))
  | .vfnma o => some (64, encEF (o.ef 0x07))
  | .vfdiv o => some (64, encEF (o.ef 0x08))
  | .vfsqrt o => some (64, encEF (o.ef 0x09))
  | .vfmin o => some (64, encEF (o.ef 0x0A))
  | .vfmax o => some (64, encEF (o.ef 0x0B))
  | .vfabs o => some (64, encEF (o.ef 0x0C))
  | .vfneg o => some (64, encEF (o.ef 0x0D))
  | .vfsgn o => some (64, encEF (o.ef 0x0E))
  | .vadd o => some (64, encEF (o.ef 0x40))
  | .vsub o => some (64, encEF (o.ef 0x41))
  | .vmul o => some (64, encEF (o.ef 0x42))
  | .vmulh o => some (64, encEF (o.ef 0x43))
  | .vmulhn o => some (64, encEF (o.ef 0x44))
  | .vand o => some (64, encEF (o.ef 0x45))
  | .vor o => some (64, encEF (o.ef 0x46))
  | .vxor o => some (64, encEF (o.ef 0x47))
  | .vsll o => some (64, encEF (o.ef 0x48))
  | .vsrl o => some (64, encEF (o.ef 0x49))
  | .vsra o => some (64, encEF (o.ef 0x4A))
  | .vmin o => some (64, encEF (o.ef 0x4B))
  | .vmax o => some (64, encEF (o.ef 0x4C))
  | .vminn o => some (64, encEF (o.ef 0x4D))
  | .vmaxn o => some (64, encEF (o.ef 0x4E))
  | .vsadd o => some (64, encEF (o.ef 0x4F))
  | .vssub o => some (64, encEF (o.ef 0x50))
  | .vsaddn o => some (64, encEF (o.ef 0x51))
  | .vssubn o => some (64, encEF (o.ef 0x52))
  | .vdot o => some (64, encEF ⟨0x53, o.d.val, o.a.r.val, o.b.r.val, 0, o.a.ch, o.b.ch, false, mselCode o.m, etypeCode o.t,
      etypeCode o.st % 16, 7, etypeCode o.st / 16⟩)
  | .vfcmp o => some (64, encEF (o.ef 0x70))
  | .vcmp o => some (64, encEF (o.ef 0x71))
  | .mand o => some (64, encEF (o.ef 0x72))
  | .mor o => some (64, encEF (o.ef 0x73))
  | .mxor o => some (64, encEF (o.ef 0x74))
  | .mandn o => some (64, encEF (o.ef 0x75))
  | .mset d m v => some (64, encEF { efNone 0x76 with vd := d.val + 8, mask := mselCode m, imm := v.toNat })
  | .mpopc a m => some (64, encEF { efNone 0x77 with va := a.val, mask := mselCode m })
  | .mfirst a m => some (64, encEF { efNone 0x78 with va := a.val, mask := mselCode m })
  | .vcvt o => some (64, encEF ⟨0x90, o.d.val, o.a.r.val, 0, 0, o.a.ch, false, false, mselCode o.m, etypeCode o.t,
      etypeCode o.st % 16, rndCode o.r, etypeCode o.st / 16⟩)
  | .vqmx o => some (64, encEF ⟨0x91, o.d.val, o.a.r.val, o.sd.val, 0, o.a.ch, false, false, mselCode o.m, etypeCode o.t,
      etypeCode o.st % 16, rndCode o.r, etypeCode o.st / 16⟩)
  | .vmov o => some (64, encEF (o.ef 0x92))
  | .vbcast o => some (64, encEF (o.ef 0x93))
  | .vext a t i => some (64, encEF { efNone 0x94 with va := a.r.val, ca := a.ch, ty := etypeCode t, imm := i.val })
  | .viota d m t => some (64, encEF { efNone 0x95 with vd := d.val, mask := mselCode m, ty := etypeCode t })
  | .vslup o => some (64, encEF (o.ef 0xB0))
  | .vsldn o => some (64, encEF (o.ef 0xB1))
  | .vperm o => some (64, encEF (o.ef 0xB2))
  | .vcomp o => some (64, encEF (o.ef 0xB3))
  | .vexpd o => some (64, encEF (o.ef 0xB4))
  | .vmatch o => some (64, encEF (o.ef 0xB5))
  | .vfredsum o => some (64, encEF (o.ef 0xB8))
  | .vfredmax o => some (64, encEF (o.ef 0xB9))
  | .vfredmin o => some (64, encEF (o.ef 0xBA))
  | .vredsum o => some (64, encEF (o.ef 0xBB))
  | .vredmax o => some (64, encEF (o.ef 0xBC))
  | .vredmin o => some (64, encEF (o.ef 0xBD))
  | .vfscan o => some (64, encEF ⟨0xBE, o.d.val, o.a.r.val, 0, 0, o.a.ch, false, false, mselCode o.m, etypeCode o.t, 0, rndCode o.r,
      mselCode o.seg * 2⟩)
  | .vscan o => some (64, encEF ⟨0xBF, o.d.val, o.a.r.val, 0, 0, o.a.ch, false, false, mselCode o.m, etypeCode o.t, 0, 7,
      mselCode o.seg * 2⟩)
  | .wramp a c m k => some (64, encEF ⟨0xD0, 0, a.r.val, 0, c.r.val, a.ch, false, c.ch, mselCode m, 0, 0, 7, k.val⟩)
  | .wcmp a m k => some (64, encEF { efNone 0xD1 with va := a.val, mask := mselCode m, imm := k.val })
  | .wcomp m d k => some (64, encEF { efNone 0xD2 with mask := mselCode m, imm := d.val + k.val * 8 })
  | .wmul m d k l => some (64, encEF { efNone 0xD3 with mask := mselCode m, imm := d.val + k.val * 8 + l.val * 64 })
  | .wmov (.toWeight a) m t r k => some (64, encEF ⟨0xD4, 0, a.r.val, 0, 0, a.ch, false, false, mselCode m, etypeCode t, 0, rndCode r, k.val⟩)
  | .wmov (.toVector d) m t r k => some (64, encEF ⟨0xD4, d.val, 0, 0, 0, false, false, false, mselCode m, etypeCode t, 0, rndCode r,
      4096 + k.val⟩)
  | .wbegin a pf => some (64, encEF { efNone 0xD5 with sty := a.count, imm := a.imm + pf.toNat * 4096 })
  | .wnext => some (64, encEF (efNone 0xD6))
  | .wend => some (64, encEF (efNone 0xD7))
  | .wjoin o => some (64, encEF ⟨0xD8, o.d.val, o.a.r.val, 0, 0, o.a.ch, false, false, mselCode o.m, etypeCode o.t, o.arms.count,
      rndCode o.r, o.arms.imm⟩)
  | .wgjoin o => some (64, encEF ⟨0xD9, o.d.val, o.dy.r.val, o.ya.r.val, o.yb.r.val, o.dy.ch, o.ya.ch, o.yb.ch, mselCode o.m, 1, 0,
      rndCode o.r, o.wa.val + o.wb.val * 8⟩)
  | .wgramp o => some (64, encEF ⟨0xDA, o.d.val, o.g.r.val, 0, o.k.r.val, o.g.ch, false, o.k.ch, mselCode o.m, 1, 0, rndCode o.r, o.w.val⟩)
  | .wcont k dist => some (64, encEF { efNone 0xDB with imm := k.val + dist.val * 8 })
  | .lde o => some (64, encEF ⟨0xE0, o.d.val, o.a.r.val, 0, 0, o.a.ch, false, false, mselCode o.m, etypeCode o.t, 0, 7, o.off.toNat⟩)
  | .ste o => some (64, encEF ⟨0xE1, 0, o.a.r.val, o.b.r.val, 0, o.a.ch, o.b.ch, false, mselCode o.m, etypeCode o.t, 0, 7, o.off.toNat⟩)
  | .wsta o => some (64, encEF ⟨0xE2, 0, o.a.r.val, o.b.r.val, 0, o.a.ch, o.b.ch, false, mselCode o.m, etypeCode o.t, 0, rndCode o.r, o.w.val⟩)
  | .launchDequeue _ | .dependenceReady _ _ | .taskStart _ _ _ | .timeSliceExpiry _ | .preempt _ | .taskResume _ _
  | .launchComplete _ | .viqEntryStart _ | .queueWake _ | .bwaitWake _ | .sigwaitWake _ | .barComplete _
  | .xpopWake _ | .fldWake _ | .waiteWake _ | .mattBGrant _ | .weightBufferSwitch _ | .feedInputEnded _ _
  | .feedOutputDone _ _ | .byteCountAdd _ | .nsendComplete _ | .failureCompletion _ _ | .vrredApply _
  | .transferReceive _ _ | .flitReceive _ _ | .replayTimeout _ | .laneShed _ _ | .linkRetrainDone _ _ _
  | .paceNoticeReceive _ _ | .uliDelivery _ | .hostWindowAccess _ _ _ _ | .hostPush _ _ | .hostPop _ _ | .hcreset
  | .deviceQuery _ | .driverAccept _ | .copy _ | .fill _ | .extentAdd _ | .extentRelease _ | .linkState _
  | .paceList _ | .paceSend _ | .msixArm _ _ _ | .msixMessage _ | .extentOffer _ | .governorPeriod _
  | .damageUpdate _ _ | .hardGradient _ _ | .thermalTrip _ | .currentLimit _ _ | .watchdogReset | .cardPowerOn _ _
  | .unplannedPowerLoss _ _ | .powerRestore _ | .plannedStop _ | .channelFailure _ _ | .rebuildMove _
  | .lpddrChannelFailure _ | .writebackError _ _ | .lqbWrite _ _ | .pspbWrite _ _ | .ulipendClear _ _
  | .dfqlostClear _ _ | .aerrClear _ | .registerWrite _ _ _ | .holmPersist _ | .hardGradientClear _ _
  | .droopRelease _ _ => none

/-! ### Bytes -/

/-- The number a little-endian byte list holds (R4). -/
def leNat : List Byte → Nat
  | [] => 0
  | b :: bs => b.toNat + 256 * leNat bs
/-- The low `n` bytes of `x`, little-endian (R4). -/
def leBytes : Nat → Nat → List Byte
  | 0, _ => []
  | n + 1, x => BitVec.ofNat 8 x :: leBytes n (x / 256)

/-- Total decoder over bytes: four bytes are an S-format word, eight an E-format word, any other length is ILLEGAL. -/
def decodeBytes (bs : List Byte) : Except Defect Instr :=
  if bs.length = 4 then decodeS (leNat bs) else if bs.length = 8 then decodeE (leNat bs) else .error .illegal

/-- The instruction the decoder reads from the bytes of a word of `nbits` bits whose value is `w`, stored
little-endian (R114, R128). -/
def decodeTableWord (nbits w : Nat) : Option Instr :=
  match decodeBytes (leBytes (nbits / 8) w) with
  | .ok i => some i
  | .error _ => none

end Sys2Proof
end

