-- ==== Sys2Proof/Machine/State.lean ====
section
/-!
DEFINITION. The state of the whole module as plain data: 1,536 contexts, 192 cores, 48 quads, 4 dies, 8 Narrows ports,
the host page, Skerry, and memory. Every piece of state the manual names has one home here (INVENTORY.md, State).
-/
namespace Sys2Proof.Machine

/-- Why the machine stops. -/
inductive Fault where
  /-- Raised by the meaning of an E-format word applied to a context with no element block in flight. Safe: the lanes
  meet an E-format word only inside a block (R186), and a step never reaches this. -/
  | noBlock
  deriving DecidableEq, Repr

/-- Why there is no meaning. -/
inductive Refusal where
  /-- Raised by an arm of `exec` whose instruction has no meaning yet. Safe: nothing is claimed of it. -/
  | notModelled (mnemonic : String)
  deriving DecidableEq, Repr

/-- Cause codes (Table 21-1). -/
inductive Cause where
  | illegal | reservedReg | blockFormat | priv | misalign | xlateMiss | xlatePerm | atomicDup | matrixState
  | qcbCorrupt | qcbBroken | qcbRange | astkOver | astkUnder | astkTag | blockLimit | shapeRecord | layoutMismatch
  | waitFuture | memUncorrectable | fabricExtent | scope | feed | weightEw | resumeLost | brk | syscall | narrows
  deriving DecidableEq, Repr

/-- A memory: the bytes that differ from what an unlisted address reads as, in canonical form (addresses strictly rising), and
the dies whose loss has left the bytes of their memory undefined (Table 17-5), newest first, with the index of the free values
that these bytes then are. A listed byte is kept XORed with what its address reads as unlisted (log entries 2 and 15). -/
structure Memory where
  cells : List Host.Cell
  lost  : List (DieIx × Nat)
  deriving DecidableEq, Repr

/-- A memory in which nothing is listed and nothing lost. -/
def Memory.empty : Memory := ⟨[], []⟩

/-- What a byte that nothing has written reads as (DESIGN CHOICE, log entries 2 and 3). -/
def unlistedByte : Byte := 0

/-- A task: its launch and its number (R28). -/
structure TaskRef where
  launch : Nat
  tid    : Nat
  deriving DecidableEq, Repr

/-- The scalar side of a context: what a checkpoint keeps (R47), which is the scalar registers, the CSRs and the VSQ. -/
structure Scalar where
  x       : Vector Word64 32
  pc      : Word64
  sup     : Bool
  vl      : Nat
  vt      : BitVec 11
  vstart  : BitVec 12
  theta   : BitVec 16
  wlim    : BitVec 13
  fflags  : BitVec 8
  frm     : BitVec 3
  fiboff  : BitVec 32
  sstr    : BitVec 64
  pwaddr  : Word64
  ulivec  : Word64
  ulien   : Bool
  ulinh   : Bool
  ulipend : BitVec 16
  instret : Word64
  tid     : BitVec 32
  tcore   : BitVec 32
  tquad   : BitVec 32
  tdie    : BitVec 32
  mgrant  : BitVec 8
  mstate  : BitVec 2
  asb     : Word64
  asl     : Word64
  asp     : Word64
  pstat   : BitVec 2
  rvec    : Word64
  stvec   : Word64
  sepc    : Word64
  scause  : BitVec 8
  saddr   : Word64
  selem   : BitVec 12
  sstatus : BitVec 3
  satp    : Word64
  vtf     : Vector Word64 4
  shadow  : Vector Word64 8
  vsq     : List Word64
  vsqPops : Word64
  /-- number of the current strip interval (R264) -/
  ivl     : Nat
  deriving DecidableEq, Repr

/-- Feed slot states (Table 5-2). -/
inductive FeedState where
  | idle | open | ended | drained
  deriving DecidableEq, Repr

/-- A feed slot (R74, R177 to R179). -/
structure FeedSlot where
  st     : FeedState
  out    : Bool
  base   : Word64
  len    : Nat
  /-- element width in bits -/
  w      : Nat
  stride : Nat
  /-- elements moved by FLD or appended by FST -/
  pos    : Nat
  /-- elements the ferry has fetched or written -/
  ferry  : Nat
  /-- elements fetched and not yet moved, or appended and not yet written -/
  buf    : List Word64
  /-- a fault the ferry stopped on -/
  fault  : Option (Cause × Word64)
  /-- the barrier object FEND named -/
  bo     : Option Word64
  deriving DecidableEq, Repr

/-- The registers of a context. -/
structure Regs where
  sc    : Scalar
  v     : Vector VBits 48
  m     : Vector MBits 12
  w     : Vector VBits 8
  feeds : Vector FeedSlot 4
  /-- acc0 to acc3: 128 rows of 128 columns of 32 bits (R75, R234) -/
  acc   : Vector (Vector (BitVec 4096) 128) 4
  deriving DecidableEq, Repr

/-- One cached translation (R258): page address and size, ASID or global, and the leaf. -/
structure TlbEntry where
  va   : Nat
  size : Nat
  asid : BitVec 16
  glob : Bool
  leaf : BitVec 64
  /-- level the leaf was found at -/
  lvl  : Nat
  deriving DecidableEq, Repr

/-- A fabric extent (R252, R343). -/
structure Extent where
  port : Nat
  dpa  : Nat
  pa   : Nat
  len  : Nat
  deriving DecidableEq, Repr

/-- An outbound window entry's two words, and an inbound entry's four (Table 23-5). -/
structure InEntry where
  base : Word64
  size : Word64
  bo   : Word64
  en   : Bool
  deriving DecidableEq, Repr

/-- A flit on a link: its control word (Table 23-1) and payload. -/
structure WireFlit where
  ctl     : BitVec 128
  payload : List Byte
  deriving DecidableEq, Repr

/-- A Narrows port (R328 to R334, Table 23-5). -/
structure Port where
  lanes    : BitVec 2
  npeer    : BitVec 12
  nrsatp   : Word64
  outW     : Vector (Word64 × Word64) 64
  inW      : Vector InEntry 16
  sendSeq  : Nat
  expect   : Nat
  acked    : Nat
  nakOut   : Bool
  /-- flits sent and not yet acknowledged, at most 4,096 (R329) -/
  replay   : List Flit
  /-- flits waiting in the egress buffer (R334); their numbers are given when they are sent -/
  egress   : List Flit
  received : List Flit
  /-- flits put on the link, newest first -/
  wire     : List WireFlit
  /-- whether the peer has granted each virtual channel credits (R330) -/
  credit   : Vector Bool 4
  laneCap  : Nat
  failed   : Nat
  pausing  : Bool
  down     : Bool
  paceBuf  : List Notice
  deriving DecidableEq, Repr

/-- What is kept for the replay of a faulted instruction: its address, the privilege and INH it ran under, whether a VTF
records it, the shape record it read (R161), and the bytes an interrupted MSTT or MGST has stored (R241, R244). -/
structure Hold where
  pc  : Word64
  sup : Bool
  inh : Bool
  vtf : Bool
  rcd : Option (BitVec 512)
  done : Nat
  deriving DecidableEq, Repr

/-- What an entry that has passed its fault point was translated with (R46): the translations its agent had cached, the memory that
held the tables, the fabric extents and the windows of the ports. -/
structure Xlates where
  tlb : List TlbEntry
  mem : Memory
  extents : List Extent
  ports : Vector Port 8
  deriving DecidableEq, Repr

/-- A register, or a part of one, that an uncorrectable error can strike (R321): byte `b` of a vector, mask or weight
register, a scalar register, or a column of a row of an accumulator. -/
inductive RegPart where
  | x (r : XReg) | v (r : VReg) (b : Nat) | m (r : MReg) (b : Nat) | w (r : WReg) (b : Nat)
  | acc (a : AccIx) (row col : Nat)
  deriving DecidableEq, Repr

/-- The registers of a task that has ended, and the parts of them that hold an uncorrectable error, for its entries that still drain
(R49). -/
structure Past where
  regs : Regs
  bad  : List RegPart
  deriving DecidableEq, Repr

/-- A VIQ entry (R44): the instruction, the checkpoint taken as it issued (which holds its captured operands, its own
address as pc, and the state a rollback restores, R47), the shape record it read at issue (R161, R241), and its task. -/
structure Entry where
  instr : Instr
  chk   : Scalar
  rcd   : Option (BitVec 512)
  task  : Option TaskRef
  /-- set once it has passed its fault point, until it completes (R46) -/
  passed : Option Xlates
  /-- the mask that SETFIB computed as it issued (R165), and the elements FLD was granted then (R178) -/
  mask  : MBits
  grant : Nat
  /-- what was kept for its replay, which it uses up as it completes -/
  held  : Option Hold
  /-- stores of an element block that has passed its STOP and has not performed them (R189) -/
  stores : List (Nat × List Byte)
  /-- set when its task ends before it: what it still works on (R49) -/
  past   : Option Past
  deriving DecidableEq, Repr

/-- An entry of the arm stack (Table 12-2): a region with its arm weights, run masks, prune masks, .PF, current arm and
the position of its WBEGIN word; or a loop with the position of its WCONT word, its live mask and its trip count. -/
inductive ArmEntry where
  | region (ws : List WReg) (runs prns : List MBits) (pf : Bool) (cur site : Nat)
  | loop (site : Nat) (live : MBits) (trips : Nat)
  deriving DecidableEq, Repr

/-- An element block in flight (R187 to R194): its entry, its words and position, the shadow copies of the declared
registers, and everything held back until STOP. -/
structure Block where
  entry  : Entry
  hdr    : Word64
  words  : List (BitVec 64)
  pos    : Nat
  shV    : List (VReg × VBits)
  shM    : List (MReg × MBits)
  shW    : List (WReg × VBits)
  /-- the arm stack, top first -/
  arms   : List ArmEntry
  flags  : BitVec 8
  /-- VSQ pushes, oldest first -/
  pushes : List Word64
  /-- buffered stores: location key and bytes, oldest first (R194) -/
  stores : List (Nat × List Byte)
  /-- STE and WSTA words in which each element has been active (R194) -/
  count  : List (Nat × Nat)
  deriving DecidableEq, Repr

/-- A ULI binding (R303): its slot, kind 1 to 5, token, and the object's location key or feed slot. -/
structure Binding where
  slot  : Nat
  kind  : Nat
  token : BitVec 32
  obj   : Nat
  deriving DecidableEq, Repr

/-- A Holm commit record with the snapshot it covers (Table 19-10). -/
structure HolmSlot where
  seq   : Nat
  pc    : Word64
  len   : Nat
  pseq  : Nat
  crc   : BitVec 32
  /-- 0 empty, 1 open, 2 committed, 3 planned -/
  state : Nat
  snap  : Option Regs
  /-- what the snapshot holds of the block shadow, which is not visible (R79) -/
  shadow : BitVec 114688
  cycle : Word64
  /-- the task the snapshot is of -/
  task  : Option TaskRef
  deriving DecidableEq, Repr

/-- A stop asked of a context that runs at S level, which takes effect after its SRET (R324): by its dispatch unit, for a planned
stop of its core (R308), by a TSTOP that a context executes (R157), or because its gang ends (R368). -/
inductive StopReq where
  | none | preempt | planned | tstop (by_ : CtxIx) | gangEnd
  deriving DecidableEq, Repr

/-- A hardware context. -/
structure Context where
  regs     : Regs
  viq      : List Entry
  block    : Option Block
  /-- the instruction a parked context waits in (R42) -/
  parked   : Option Instr
  task     : Option TaskRef
  /-- CYCLE of its core when the task last started or resumed (R40), and whether its time slice has run out -/
  startedAt : Nat
  sliceOut : Bool
  /-- place in the order in which tasks started (R40) -/
  order    : Nat
  /-- scalar cycles since the context last issued (R43) -/
  waited   : Nat
  /-- a stop that waits for the context's SRET (R324) -/
  stopReq  : StopReq
  /-- the core lost power and the context has not resumed (R309) -/
  down     : Bool
  /-- BAR episodes arrived at, per level .core .quad .die .pkg (R33) -/
  bars     : Vector Nat 4
  holmA    : HolmSlot
  holmB    : HolmSlot
  /-- instruction bytes (icache) and block bytes held in fetch caches, by granule address (R278, R279) -/
  icache   : List (Nat × BitVec 512)
  bcache   : List (Nat × BitVec 512)
  /-- what faulted instructions keep for their replay (R161, R241, R244) -/
  holds    : List Hold
  /-- parts of its registers that hold an uncorrectable error (R321) -/
  badRegs  : List RegPart
  deriving DecidableEq, Repr

/-- A scratchpad image of a core with its record (R306). -/
structure Image where
  seq   : Nat
  len   : Nat
  crc   : BitVec 32
  state : Nat
  bytes : List Byte
  deriving DecidableEq, Repr

/-- An entry of the shape-record cache (R153, R281). -/
structure RecEntry where
  va   : Nat
  pa   : Nat
  bits : BitVec 512
  deriving DecidableEq, Repr

/-- A core (R16, R17). -/
structure Core where
  /-- pool boundaries in 4 KiB units (R30, R80) -/
  pool0     : Nat
  pool1     : Nat
  pool2     : Nat
  vcap      : BitVec 4
  lratio    : BitVec 2
  cycle     : Word64
  cycleSaved : Word64
  pspb      : Nat
  pspbForce : Nat
  /-- scratchpad bytes written since its contents last became undefined, each XORed with what it held then -/
  scratch   : Memory
  /-- index of the free values that undefined contents are; none before the first recut -/
  scratchBase : Option Nat
  imageA    : Image
  imageB    : Image
  /-- whether image B is the current one -/
  currentB  : Bool
  /-- shape-record cache (R153, R281) -/
  rcache    : List RecEntry
  tlbS      : List TlbEntry
  tlbV      : List TlbEntry
  powered   : Bool
  /-- last context that issued, per class (R43) -/
  lastIssue : Vector Nat 8
  /-- Skerry holds the core's clocks at the floor while its planned stop waits for save slots (R325) -/
  floorHold : Bool
  /-- scratchpad bytes that hold an uncorrectable error (R321) -/
  badScratch : List Nat
  deriving DecidableEq, Repr

/-- A decoded weight image (R236): element type, 512 rows of 128 slots of presence, codes and scales. -/
structure WeightImage where
  ty      : EType
  layout  : Nat
  /-- present elements: slot number k·128 + j and element bits -/
  elems   : List (Nat × Word64)
  /-- scale bytes by 4k + c, when loaded with a scale table -/
  scales  : Option (List Byte)
  deriving DecidableEq, Repr

/-- A gradient region entry (R242). -/
structure GradRegion where
  base  : Nat
  dim0  : Nat
  dim1  : Nat
  accf  : Nat
  state : Nat
  count : Nat
  thresh : Nat
  deriving DecidableEq, Repr

/-- A quad: its matrix unit and its thermal state (R18, R230 to R244, R346 to R349). -/
structure Quad where
  rowCap   : Nat
  /-- contexts whose MATT.B waits, in arrival order (R230) -/
  waiting  : List CtxIx
  wbuf     : WeightImage
  /-- a loaded image not yet made current, and the context that loaded it (R238) -/
  wnext    : Option (WeightImage × CtxIx)
  /-- gradient slots, each XORed with what it held when its contents last became undefined -/
  grad     : List (Nat × BitVec 32)
  /-- index of the free values that undefined slots are; none until a power loss (R242) -/
  gradBase : Option Nat
  regions  : List GradRegion
  /-- the governor's clock setting in sixteenths (R344, R349) -/
  govClk   : Nat
  /-- steps of Table 24-2 taken and not undone -/
  measure  : Nat
  /-- periods for which the throttle limit, and the sustained gradient, have stayed below what clears them; 100 once the limit is
  cleared, until it is exceeded again (Table 24-3) -/
  coolT    : Nat
  coolG    : Nat
  tq       : Nat
  gq       : Nat
  /-- damage integral with 16 fraction bits (R348) -/
  dq       : Nat
  dmgForce : Bool
  hgForce  : Bool
  /-- rows still held for a context that lost nothing, by pre-empted task (R232) -/
  heldRows : List (TaskRef × Nat)
  deriving DecidableEq, Repr

/-- A launch record's life in the dispatch unit (R25 to R41). -/
inductive LaunchState where
  | waiting | ready | running | done | rejected
  deriving DecidableEq, Repr

/-- A pre-empted task: its save slot, the context it ran on and what the layout of R79 has no place for (R54, R325):
BAR episodes and ULI bindings (R303). -/
structure Saved where
  tid   : Nat
  slot  : Nat
  ctx   : CtxIx
  bars  : Vector Nat 4
  binds : List Binding
  /-- feed elements appended and not written, and faults not reported -/
  feeds : Vector FeedSlot 4
  /-- VSQ values past the sixteenth, which an undone XPOP can leave (R47, R50) -/
  vsqTail : List Word64
  holds : List Hold
  /-- place in the order in which tasks started (R40) -/
  order : Nat
  /-- the save area is lost with its die (R311) -/
  lost  : Bool
  deriving DecidableEq, Repr

/-- A launch (Table 2-1) with the dispatch unit's snapshot (R41) and its progress. -/
structure Launch where
  die     : DieIx
  image   : Word64
  entry   : BitVec 32
  count   : Nat
  tpc     : Nat
  cpq     : Nat
  qpd     : Nat
  dies    : Nat
  gang    : Bool
  prio    : Nat
  tag     : BitVec 16
  pool0   : Nat
  pool1   : Nat
  pool2   : Nat
  arg     : Word64
  signal  : Word64
  dep     : Word64
  token   : BitVec 32
  satp    : Word64
  stvec   : Word64
  st      : LaunchState
  /-- place in the order in which records became ready (R35) -/
  readyAt : Nat
  next    : Nat
  ended   : List Nat
  /-- the failure value was written; no decrement follows (R49, R311, R327) -/
  failed  : Bool
  /-- a task of its own class has been pre-empted for it, whose context it takes before any task resumes (R40) -/
  favoured : Bool
  /-- logical position (die, quad, core) to physical core (R29) -/
  bound   : List ((Nat × Nat × Nat) × CoreIx)
  saved   : List Saved
  deriving DecidableEq, Repr

/-- A parked queue operation: block address, direction, context (R288). -/
structure QWait where
  qcb : Nat
  enq : Bool
  ctx : CtxIx
  n   : Nat
  deriving DecidableEq, Repr

/-- An addition an engine owes a barrier object (R272, Table 17-4): the object's location key, the bytes, the narrowest
scope it may have (R333: pkg for the receive path), and whom a kind-6 record names (R367). -/
structure CountAdd where
  obj   : Nat
  bytes : Nat
  minScope : Nat
  die   : DieIx
  tag   : BitVec 16
  task  : Option TaskRef
  ctx   : Option CtxIx
  deriving DecidableEq, Repr

/-- Completion of an NSEND (R184): none, a signal object or a barrier object, by location key. -/
inductive Completion where
  | none | signal (obj : Nat) | barrier (obj : Nat)
  deriving DecidableEq, Repr

/-- A transfer a port has sent and whose completion has not arrived (R182 to R184, R332): an NSEND, or a VRRED
contribution to a peer. -/
structure Nsend where
  id      : Nat
  port    : PortIx
  vrred   : Bool
  kind    : XferKind
  quant   : NQuant
  remote  : Word64
  count   : Nat
  rfmt    : RredT
  compl   : Completion
  /-- bytes a barrier object receives -/
  bytes   : Nat
  /-- progress word and count of a notifying VRRED (R168) -/
  ntf     : Option (Nat × Nat)
  die     : DieIx
  tag     : BitVec 16
  task    : Option TaskRef
  ctx     : Option CtxIx
  deriving DecidableEq, Repr

/-- An NSEND whose source the quantiser of its port has not read to the end (R183, R334): the pieces of its source and of its
residuals (a location key and a length each), its formats, the next block of 32 elements, the bytes that are not yet in a flit,
and the scale bytes that follow the codes. -/
structure QuantJob where
  id     : Nat
  port   : PortIx
  src    : List (Nat × Nat)
  res    : List (Nat × Nat)
  quant  : NQuant
  ef     : Bool
  srcBf  : Bool
  resBf  : Bool
  n      : Nat
  next   : Nat
  pend   : List Byte
  scales : List Byte
  deriving DecidableEq, Repr

/-- A VRRED contribution held by a receiving unit (R176): the area's header and the destination of each active element,
by location key; each element's source type, bits and scale byte. -/
structure Contrib where
  hdr   : Nat
  dests : List (Nat × EType × Nat × Option Nat)
  ty    : RredT
  ord   : Bool
  tid   : Nat
  satp  : Word64
  sup   : Bool
  die   : DieIx
  tag   : BitVec 16
  task  : Option TaskRef
  ctx   : Option CtxIx
  ntf   : Option (Nat × Nat)
  /-- barrier object of an inbound entry (R333) -/
  inBo  : Option Nat
  /-- port, peer and transfer id of a contribution that arrived from a peer -/
  peer  : Option (PortIx × BitVec 12 × Nat)
  deriving DecidableEq, Repr

/-- Channels retired in one region of Table 16-1 (R259). -/
structure Retire where
  /-- die 0 to 3, or 4 for the package region -/
  region   : Nat
  /-- retired channels, oldest first; the last is the one being rebuilt, or rebuilt last -/
  channels : List Nat
  /-- failed channels whose rebuild waits for the running one (R260) -/
  pending  : List Nat
  boundary : Nat
  running  : Bool
  deriving DecidableEq, Repr

/-- A die: its dispatch unit, fault path and memory controllers. -/
structure Die where
  lqb       : Word64
  /-- a kind-11 record was written and LQB has not been written since (R34) -/
  lqStopped : Bool
  /-- LQB has been written since the die started (R359) -/
  lqWritten : Bool
  dslice    : BitVec 32
  dfqb      : Word64
  dfqlost   : BitVec 32
  dcsa      : BitVec 60
  dcsn      : BitVec 16
  dsatp     : Word64
  dasb      : BitVec 60
  dasn      : BitVec 13
  seq       : Nat
  slots     : List Nat
  droop     : Nat
  droopLow  : Nat
  tlb2      : List TlbEntry
  /-- stacks offline (R260), 0 to 3 -/
  offline   : List Nat
  /-- channels offline where there is no parity (R260): stack 0 to 3 and channel -/
  offChans  : List (Nat × Nat)
  deriving DecidableEq, Repr

/-- One queue alias of the host page (R338). -/
structure HostQueue where
  qcb : Word64
  pop : Bool
  err : Bool
  deriving DecidableEq, Repr

/-- One MSI-X binding (R342). -/
structure MsixBind where
  obj   : Word64
  kind  : Nat
  vec   : Nat
  armed : Bool
  /-- PHASE when armed, for kind 3 -/
  phase : BitVec 32
  /-- the condition has held since it was armed: the message is to be sent -/
  due   : Bool
  deriving DecidableEq, Repr

/-- The commands of Table 23-6. -/
inductive CmdOp where
  | deviceQuery | driverAccept | copy | fill | extentAdd | extentRelease | linkState | paceList | paceSend
  deriving DecidableEq, Repr

/-- The host page and what the host path keeps (R336 to R342). -/
structure HostPage where
  winbase  : Word64
  hcsatp   : Word64
  nself    : BitVec 12
  queues   : Vector HostQueue 8
  pace     : Vector (BitVec 16 × BitVec 8 × Bool) 16
  msix     : Vector MsixBind 256
  /-- messages sent, newest first -/
  sent     : List Nat
  /-- the last value a host read returned, and whether it completed with Unsupported Request (R337) -/
  hostData : Word64
  hostUr   : Bool
  accepted : Option (Nat × Word64)
  /-- an HCRESET waits for the commands in flight (R341) -/
  resetPend : Bool
  /-- commands that firmware has started and not completed, oldest first, each with the alias of its queue (R339) -/
  started  : List (Fin 8 × CmdOp × Cmd)
  /-- log2 of BAR2's size (R336) -/
  bar2     : Nat
  bootst   : Word64
  deriving DecidableEq, Repr

/-- Skerry: firmware tables, governor and boot state (R14, R335, R344 to R360). -/
structure Skerry where
  running  : Bool
  ceilings : List Notice
  own      : List (BitVec 16 × Nat)
  sendSeq  : BitVec 32
  offers   : List Offer
  extents  : List Extent
  powered  : Bool
  lshare   : Nat
  parity   : Bool
  /-- fused minimum versions of the boot images (R357) -/
  minVer   : List Nat
  /-- boot reports written, and the next leaf of the LMS attestation key, which is held in die 0's Holm layer (R360) -/
  reports  : BitVec 32
  lmsLeaf  : Nat
  booted   : Bool
  /-- die that holds the package reservation right (R37) -/
  resRight : DieIx
  deriving DecidableEq, Repr

/-- A plain scalar store that the L1 of its core may hold and its home may lack (R245): the core, the address, what the bytes held before
it, which of them it made dirty, and whether the mark of its line was clean before it. -/
structure L1Store where
  core  : CoreIx
  pa    : Nat
  old   : List Byte
  fresh : List Nat
  clean : Bool
  deriving DecidableEq, Repr

/-- A store into a Holm window that no fence has covered (R276): who made it, its address and its length. -/
structure HolmStore where
  task : Option TaskRef
  ctx  : CtxIx
  pa   : Nat
  len  : Nat
  deriving DecidableEq, Repr

/-- What acts next. An empty agenda leaves the choice to the model's own rule (`Issue.lean`); a claim that holds for
every agenda holds for every order of the agents (DESIGN CHOICE, log entry 5). -/
inductive Act where
  /-- a scalar cycle in which the other contexts of the core are late: the scalar pipe takes the next instruction of `c`, if it is ready -/
  | issue (c : CtxIx)
  /-- one scalar cycle of a core: its selector fills up to two issue slots from its ready contexts (R43); `late` names those whose
  next instruction or source registers are not available in that cycle (R42) -/
  | cycle (k : CoreIx) (late : List CtxIx)
  /-- the lanes take the oldest entry, or the next word of the block in flight -/
  | lanes (c : CtxIx)
  /-- the lanes take the entry of that number in the queue, every older one of which has passed its fault point (R45) -/
  | entry (c : CtxIx) (n : Nat)
  /-- the oldest entry that has not passed its fault point passes it (R46) -/
  | point (c : CtxIx)
  /-- the lanes take the oldest entry, on which younger ones have started chained and completed so many element groups -/
  | chain (c : CtxIx) (groups : List Nat)
  /-- the lane groups complete the first `g` element groups of entry `n`, which has passed its fault point (R45) -/
  | groups (c : CtxIx) (n g : Nat)
  /-- a device event -/
  | event (i : Instr)
  /-- a dirty line of an L2 is written back (R322) -/
  | writeback (line : Nat)
  /-- an uncorrectable error strikes a register or a scratchpad byte (R321) -/
  | strikeReg (c : CtxIx) (r : RegPart)
  | strikeScratch (k : CoreIx) (off : Nat)
  /-- a virtual channel of a port runs out of credits, or is granted some (R330) -/
  | credit (p : PortIx) (vc : Fin 4) (ok : Bool)
  /-- Skerry's firmware takes the next command from the queue of an alias (R339) -/
  | command (a : Fin 8)
  /-- a command that has started completes -/
  | perform (op : CmdOp) (c : Cmd)
  /-- the host reads a naturally aligned field of BAR0, or sets BAR2's size (R336) -/
  | hostRead (off n : Nat)
  | barSize (n : Nat)
  deriving DecidableEq, Repr

/-- Choices the manual leaves to the implementation's timing, as plain data (DESIGN CHOICE, log entry 5). -/
structure Choices where
  /-- VIQ entries wait for an explicit start -/
  lanesHeld : Bool
  /-- the ferry waits for an explicit wake before it fetches or writes -/
  ferryHeld : Bool
  /-- translations, instruction granules and shape records are kept in their caches when read -/
  fill      : Bool
  deriving DecidableEq, Repr

/-- The machine. -/
structure State where
  ctxs     : Vector Context 1536
  cores    : Vector Core 192
  quads    : Vector Quad 48
  dies     : Vector Die 4
  ports    : Vector Port 8
  host     : HostPage
  skerry   : Skerry
  mem      : Memory
  /-- bytes of the Holm windows that are persistent (R251, R274) -/
  mram     : Memory
  /-- stores into Holm windows that no fence of their task or their context has covered (R276) -/
  holmOwn  : List HolmStore
  /-- bytes stored since their line was last written back, each with what the line's home still holds (R322) -/
  dirty    : List (Nat × Byte)
  /-- stores that may be in an L1 alone, newest first (R245, R246) -/
  l1       : List L1Store
  /-- queue marks by line address: true is disturbed (R284) -/
  marks    : List (Nat × Bool)
  qwaits   : List QWait
  /-- parked BWAITs by the location key of their object (R299) -/
  bwaits   : List (Nat × CtxIx)
  /-- armed ULI bindings (R303) -/
  binds    : List (CtxIx × Binding)
  launches : List Launch
  readySeq : Nat
  counts   : List CountAdd
  nsends   : List Nsend
  /-- transfers whose source is still being read, oldest first -/
  jobs     : List QuantJob
  contribs : List Contrib
  retire   : List Retire
  /-- LPDDR channels that failed (R250) -/
  lpFailed : List Nat
  nextId   : Nat
  cur      : CtxIx
  /-- the core whose context issued last, for the model's own choice among cores -/
  turn     : CoreIx
  /-- the context the lanes served last, for the model's own choice among contexts (R45) -/
  laneTurn : CtxIx
  /-- a dispatch unit has acted by the model's own choice since the last scalar cycle, which goes first now (R52) -/
  dispatched : Bool
  agenda   : List Act
  choices  : Choices
  /-- next index of Config's free values -/
  freeCtr  : Nat
  deriving DecidableEq, Repr

/-! ### Reset -/

/-- VT at reset and at task start (R31). -/
def vtReset : BitVec 11 := 0x7E5

/-- A scalar side at reset (Tables 2-3 and 5-5; where no reset value is stated, zero: log entry 1). -/
def Scalar.reset : Scalar where
  x := Vector.replicate 32 0
  pc := 0
  sup := false
  vl := 0
  vt := vtReset
  vstart := 0
  theta := 0
  wlim := 4096
  fflags := 0
  frm := 0
  fiboff := 0
  sstr := 0
  pwaddr := 0
  ulivec := 0
  ulien := false
  ulinh := false
  ulipend := 0
  instret := 0
  tid := 0
  tcore := 0
  tquad := 0
  tdie := 0
  mgrant := 0
  mstate := 0
  asb := 0
  asl := 0
  asp := 0
  pstat := 0
  rvec := 0
  stvec := 0
  sepc := 0
  scause := 0
  saddr := 0
  selem := 0
  sstatus := 2
  satp := 0
  vtf := Vector.replicate 4 0
  shadow := Vector.replicate 8 0
  vsq := []
  vsqPops := 0
  ivl := 0

/-- An idle feed slot (R74). -/
def FeedSlot.idle : FeedSlot := ⟨.idle, false, 0, 0, 8, 1, 0, 0, [], none, none⟩

/-- Registers at reset. -/
def Regs.reset : Regs where
  sc := Scalar.reset
  v := Vector.replicate 48 0
  m := Vector.replicate 12 0
  w := Vector.replicate 8 0
  feeds := Vector.replicate 4 FeedSlot.idle
  acc := Vector.replicate 4 (Vector.replicate 128 0)

/-- An empty Holm slot (Table 19-10). -/
def HolmSlot.empty : HolmSlot := ⟨0, 0, 0, 0, 0, 0, none, 0, 0, none⟩

/-- A context that holds no task. -/
def Context.reset : Context where
  regs := Regs.reset
  viq := []
  block := none
  parked := none
  task := none
  startedAt := 0
  sliceOut := false
  order := 0
  waited := 0
  down := false
  bars := Vector.replicate 4 0
  holmA := HolmSlot.empty
  holmB := HolmSlot.empty
  icache := []
  bcache := []
  stopReq := .none
  holds := []
  badRegs := []

/-- A core at power-up (Table 5-5). At a class at which no context has issued yet, round-robin starts after context 0 (R43; DESIGN CHOICE,
log entry 24). -/
def Core.reset : Core where
  pool0 := 0
  pool1 := 0
  pool2 := 0
  vcap := 8
  lratio := 1
  cycle := 0
  cycleSaved := 0
  pspb := 0
  pspbForce := 0
  scratch := Memory.empty
  scratchBase := none
  imageA := ⟨0, 0, 0, 0, []⟩
  imageB := ⟨0, 0, 0, 0, []⟩
  currentB := false
  rcache := []
  tlbS := []
  tlbV := []
  powered := true
  lastIssue := Vector.replicate 8 0
  floorHold := false
  badScratch := []

/-- The weight buffer until the first MWLD after power-up (R238). -/
def WeightImage.initial : WeightImage := ⟨.bf16, 0, [], none⟩

/-- A quad at power-up (R230, R238, R242, R348). -/
def Quad.reset : Quad where
  rowCap := 128
  waiting := []
  wbuf := WeightImage.initial
  wnext := none
  grad := []
  gradBase := none
  regions := []
  govClk := 16
  measure := 0
  coolT := 100
  coolG := 100
  tq := 0
  gq := 0
  dq := 0
  dmgForce := false
  hgForce := false
  heldRows := []

/-- A die at reset (Tables 2-4 and 21-3). -/
def Die.reset : Die where
  lqb := 0
  lqStopped := false
  lqWritten := false
  dslice := 4194304
  dfqb := 0
  dfqlost := 0
  dcsa := 0
  dcsn := 0
  dsatp := 0
  dasb := 0
  dasn := 0
  seq := 1
  slots := []
  droop := 0
  droopLow := 0
  tlb2 := []
  offline := []
  offChans := []

/-- A Narrows port at reset (Table 23-5). SEQ and ACK are 0 while no flit has been sent or received, so the first flit takes number 1, from
which a NAK then asks for replay (Table 23-1; DEDUCED, log entry 42). -/
def Port.reset : Port where
  lanes := 0
  npeer := 0
  nrsatp := 0
  outW := Vector.replicate 64 (0, 0)
  inW := Vector.replicate 16 ⟨0, 0, 0, false⟩
  sendSeq := 1
  expect := 1
  acked := 0
  nakOut := false
  replay := []
  egress := []
  received := []
  wire := []
  credit := Vector.replicate 4 true
  laneCap := 16
  failed := 0
  pausing := false
  down := false
  paceBuf := []

/-- The host page at reset (Table 23-4). -/
def HostPage.reset : HostPage where
  winbase := 0
  hcsatp := 0
  nself := 0
  queues := Vector.replicate 8 ⟨0, false, false⟩
  pace := Vector.replicate 16 (0, 0, false)
  msix := Vector.replicate 256 ⟨0, 0, 0, false, 0, false⟩
  sent := []
  hostData := 0
  hostUr := false
  accepted := none
  resetPend := false
  started := []
  bar2 := 30
  bootst := 0

/-- Skerry at reset. LSHARE and channel parity are boot configuration (log entry 4). -/
def Skerry.reset : Skerry where
  running := true
  ceilings := []
  own := []
  sendSeq := 0
  offers := []
  extents := []
  powered := true
  lshare := 16
  parity := true
  minVer := []
  reports := 0
  lmsLeaf := 0
  booted := false
  resRight := 0

/-- The module right after reset: no context holds a task; CARD_POWER_ON is the next thing that happens (R356). -/
def State.reset : State where
  ctxs := Vector.replicate 1536 Context.reset
  cores := Vector.replicate 192 Core.reset
  quads := Vector.replicate 48 Quad.reset
  dies := Vector.replicate 4 Die.reset
  ports := Vector.replicate 8 Port.reset
  host := HostPage.reset
  skerry := Skerry.reset
  mem := Memory.empty
  mram := Memory.empty
  holmOwn := []
  dirty := []
  l1 := []
  marks := []
  qwaits := []
  bwaits := []
  binds := []
  launches := []
  readySeq := 0
  counts := []
  nsends := []
  jobs := []
  contribs := []
  retire := []
  lpFailed := []
  nextId := 0
  cur := 0
  turn := 0
  laneTurn := 0
  dispatched := false
  agenda := []
  choices := ⟨false, false, false⟩
  freeCtr := 0

end Sys2Proof.Machine
end

