-- ==== Sys2Proof/Machine/Ops.lean ====
section
/-!
DEFINITION. The named operations every meaning is written with: finite maps and memory, contexts, cores and registers,
free values, completing a scalar instruction, taking a trap (R313) and returning from one (R148, R318).
-/
namespace Sys2Proof.Machine

/-! ### Finite maps in canonical form -/

/-- The value at a key; `d` for a key that is not listed. -/
def fget {α : Type} (d : α) : List (Nat × α) → Nat → α
  | [], _ => d
  | (k, v) :: t, a => if a = k then v else if a < k then d else fget d t a

/-- Sets the value at a key and keeps the form: keys strictly rising, no value equal to `d`. -/
def fset {α : Type} [DecidableEq α] (d : α) : List (Nat × α) → Nat → α → List (Nat × α)
  | [], a, v => if v = d then [] else [(a, v)]
  | (k, w) :: t, a, v =>
    if a < k then (if v = d then (k, w) :: t else (a, v) :: (k, w) :: t)
    else if a = k then (if v = d then t else (a, v) :: t)
    else (k, w) :: fset d t a v

/-- The canonical form: every key at least `lo`, keys strictly rising, no value equal to `d`. -/
def fwfFrom {α : Type} [DecidableEq α] (d : α) : Nat → List (Nat × α) → Bool
  | _, [] => true
  | lo, (k, v) :: t => decide (lo ≤ k) && decide (v ≠ d) && fwfFrom d (k + 1) t

/-- h(n, C) of R249. -/
def hmix (n c : Nat) : Nat := (n ^^^ (n / c) ^^^ (n / (c * c))) % c

/-- Whether die `d` is the home of a physical address: its local HBM4E, and the lines of the interleaved regions whose slice
it has (Tables 16-1 and 16-2). -/
def homeOf (d : DieIx) (pa : Nat) : Bool :=
  let slice := fun (base : Nat) => hmix ((pa - base) / 128) 256 / 64 == d.val
  if pa < 0xF000000000 then slice 0
  else if 0x10000000000 ≤ pa ∧ pa < 0x20000000000 then (pa - 0x10000000000) / 0x4000000000 == d.val
  else if 0x20000000000 ≤ pa ∧ pa < 0x30000000000 then slice 0x20000000000
  else if 0x40000000000 ≤ pa ∧ pa < 0x80000000000 then slice 0x40000000000
  else false

/-- Whether the loss of die `d` leaves a byte undefined wherever its line stands: it homes the byte, and no tier beyond its HBM4E and the
package's keeps it (Table 17-5). -/
def lostWith (d : DieIx) (pa : Nat) : Bool := decide (pa < 0x20000000000) && homeOf d pa

/-- What an unlisted address reads as: a free value where the loss of its home die has left it undefined, for the latest
such loss, else what nothing has written (Table 17-5; log entries 2, 3 and 15). -/
def unlistedAt (lost : List (DieIx × Nat)) (a : Nat) : Byte :=
  match lost.find? fun l => lostWith l.1 a with
  | some l => Config.freeBits 8 (l.2 + a)
  | none => unlistedByte

/-- The canonical form of a memory. -/
def Memory.wf (m : Memory) : Bool := fwfFrom (0 : Byte) 0 m.cells

/-- One byte of a memory. -/
def Memory.byte (m : Memory) (a : Nat) : Byte := fget (0 : Byte) m.cells a ^^^ unlistedAt m.lost a
/-- Writes one byte. -/
def Memory.put (m : Memory) (a : Nat) (b : Byte) : Memory :=
  { m with cells := fset (0 : Byte) m.cells a (b ^^^ unlistedAt m.lost a) }
/-- The bytes that are lost with die `d` become undefined: free values from index `n` on (Table 17-5). -/
def Memory.lose (m : Memory) (d : DieIx) (n : Nat) : Memory :=
  ⟨m.cells.filter fun c => !lostWith d c.1, (d, n) :: m.lost⟩

/-- `n` bytes from `a` upward. -/
def Memory.bytes (m : Memory) (a : Nat) : Nat → List Byte
  | 0 => []
  | n + 1 => m.byte a :: Memory.bytes m (a + 1) n
/-- Writes bytes from `a` upward. -/
def Memory.putBytes (m : Memory) (a : Nat) : List Byte → Memory
  | [] => m
  | b :: bs => Memory.putBytes (m.put a b) (a + 1) bs

/-- The `n`-byte little-endian value at `a` (R4). -/
def Memory.le (m : Memory) (a n : Nat) : Nat := leNat (m.bytes a n)
/-- Writes the low `n` bytes of `x` little-endian (R4). -/
def Memory.putLe (m : Memory) (a n x : Nat) : Memory := m.putBytes a (leBytes n x)

/-- A field of `n` bits at bit `l` of a block read as one integer. -/
def bits (x l n : Nat) : Nat := x / 2 ^ l % 2 ^ n

/-! ### Parts of the state -/

/-- The context `c`. -/
def State.ctx (s : State) (c : CtxIx) : Context := s.ctxs[c.val]
/-- The core `c`. -/
def State.core (s : State) (c : CoreIx) : Core := s.cores[c.val]
/-- The quad `q`. -/
def State.quad (s : State) (q : QuadIx) : Quad := s.quads[q.val]
/-- The die `d`. -/
def State.die (s : State) (d : DieIx) : Die := s.dies[d.val]
/-- The port `p`. -/
def State.port (s : State) (p : PortIx) : Port := s.ports[p.val]
/-- Replaces the context `c`. -/
def State.setCtx (s : State) (c : CtxIx) (x : Context) : State := { s with ctxs := s.ctxs.set c.val x }
/-- Replaces the core `c`. -/
def State.setCore (s : State) (c : CoreIx) (x : Core) : State := { s with cores := s.cores.set c.val x }
/-- Replaces the quad `q`. -/
def State.setQuad (s : State) (q : QuadIx) (x : Quad) : State := { s with quads := s.quads.set q.val x }
/-- Replaces the die `d`. -/
def State.setDie (s : State) (d : DieIx) (x : Die) : State := { s with dies := s.dies.set d.val x }
/-- Replaces the port `p`. -/
def State.setPort (s : State) (p : PortIx) (x : Port) : State := { s with ports := s.ports.set p.val x }
/-- The scalar side of the context `c`. -/
def State.sc (s : State) (c : CtxIx) : Scalar := (s.ctx c).regs.sc
/-- Replaces the scalar side. -/
def Context.setSc (x : Context) (sc : Scalar) : Context := { x with regs := { x.regs with sc := sc } }
/-- Replaces the scalar side of the context `c`. -/
def State.setSc (s : State) (c : CtxIx) (sc : Scalar) : State := s.setCtx c ((s.ctx c).setSc sc)

/-- The context that acts. -/
abbrev State.me (s : State) : Context := s.ctx s.cur
/-- Its scalar side. -/
abbrev State.mySc (s : State) : Scalar := s.sc s.cur
/-- Its core. -/
abbrev State.myCore (s : State) : Core := s.core (CtxIx.core s.cur)
/-- Replaces the acting context. -/
abbrev State.setMe (s : State) (x : Context) : State := s.setCtx s.cur x
/-- Replaces the acting context's scalar side. -/
abbrev State.setMySc (s : State) (sc : Scalar) : State := s.setSc s.cur sc

/-- x0 reads as zero (R70). -/
def Scalar.rx (sc : Scalar) (r : XReg) : Word64 := if r = 0 then 0 else sc.x[r.val]
/-- A write to x0 is discarded (R70). -/
def Scalar.wx (sc : Scalar) (r : XReg) (v : Word64) : Scalar :=
  if r = 0 then sc else { sc with x := sc.x.set r.val v }

/-- A free value of `w` bits: `Config.freeBits` at the next index (log entry 6). -/
def State.free (s : State) (w : Nat) : BitVec w × State :=
  (Config.freeBits w s.freeCtr, { s with freeCtr := s.freeCtr + 1 })

/-- Lane, VIQ and block of the context are empty: nothing older than the scalar stream is pending (R46, R48). -/
def Context.drained (x : Context) : Bool := x.viq.isEmpty && x.block.isNone

/-- Every older entry has passed its fault point: none waits to be translated or started, and no element block is in
flight (R46). -/
def Context.settled (x : Context) : Bool := x.block.isNone && x.viq.all (·.passed.isSome)

/-- The launch of a task, changed. -/
def State.onLaunch (s : State) (i : Nat) (f : Launch → Launch) : State :=
  { s with launches := s.launches.modify i f }

/-! ### Causes and traps -/

/-- Table 21-1. -/
def Cause.code : Cause → BitVec 8
  | .illegal => 0x01 | .reservedReg => 0x02 | .blockFormat => 0x03 | .priv => 0x04 | .misalign => 0x05
  | .xlateMiss => 0x06 | .xlatePerm => 0x07 | .atomicDup => 0x08 | .matrixState => 0x09 | .qcbCorrupt => 0x0A
  | .qcbBroken => 0x0B | .qcbRange => 0x0C | .astkOver => 0x0D | .astkUnder => 0x0E | .astkTag => 0x0F
  | .blockLimit => 0x10 | .shapeRecord => 0x11 | .layoutMismatch => 0x12 | .waitFuture => 0x13
  | .memUncorrectable => 0x14 | .fabricExtent => 0x15 | .scope => 0x16 | .feed => 0x17 | .weightEw => 0x18
  | .resumeLost => 0x19 | .brk => 0x1A | .syscall => 0x1B | .narrows => 0x1C

/-- The cause of a decoding defect (R118, R130). -/
def defectCause : Defect → Cause
  | .illegal => .illegal
  | .reservedReg => .reservedReg
  | .blockFormat => .blockFormat

/-- raise(cause, e, a) (R8). -/
structure Trap where
  cause : Cause
  elem  : Nat
  addr  : Word64
  deriving DecidableEq, Repr

/-- Steps 3 to 6 of R313 on a scalar side that step 1 has already restored; `epc` is the address of the faulting
instruction and `blk` says whether an element block was aborted. -/
def Scalar.enterTrap (sc : Scalar) (t : Trap) (epc : Word64) (blk : Bool) : Scalar :=
  { sc with
    scause := t.cause.code
    selem := BitVec.ofNat 12 t.elem
    saddr := t.addr
    vstart := BitVec.ofNat 12 t.elem
    sepc := epc
    sstatus := BitVec.ofNat 3 ((if sc.sup then 1 else 0) + (if blk then 4 else 0))
    sup := true
    pc := sc.stvec &&& ~~~3#64 }

/-- VTF0 to VTF3 with every valid entry cleared unused (R318). -/
def Scalar.clearVtf (sc : Scalar) : Scalar := { sc with vtf := sc.vtf.map (fun e => e &&& ~~~1#64) }

/-- The level of a BAR as an index of the episode counts. -/
def barIx : Scope → Nat
  | .core => 0
  | .quad => 1
  | .die => 2
  | .pkg | .sys => 3

/-- Adds to an episode count. -/
def Context.arrive (x : Context) (c : Scope) (f : Nat → Nat) : Context :=
  { x with bars := x.bars.mapFinIdx fun i n _ => if i = barIx c then f n else n }

/-- A context whose parked operation is undone: an arrival at a BAR is none (R53). -/
def Context.unpark (x : Context) : Context :=
  match x.parked with
  | some (.bar l) => { x.arrive l (· - 1) with parked := none }
  | _ => { x with parked := none }

/-- Taking a trap in the context `c` from the scalar side `back` that the rollback restores (R47, R313): younger
entries are discarded, and what was kept for their replays is kept again; an element block in flight leaves no trace (R190), a parked
operation is over. Entries that
had started chained are recorded after it (`State.startChained`). -/
def State.takeTrap (s : State) (c : CtxIx) (back : Scalar) (t : Trap) (epc : Word64) (blk : Bool) : State :=
  let x := (s.ctx c).unpark
  s.setCtx c { x with
    regs := { x.regs with sc := (back.clearVtf).enterTrap t epc blk }
    viq := []
    block := none
    holds := x.viq.filterMap Entry.held ++ x.holds }

/-- A context back at the scalar side of a checkpoint, with no trap: the entries that had not completed are gone, and what was kept
for their replays is kept again (R53). -/
def Context.rollback (x : Context) (sc : Scalar) : Context :=
  { x with viq := [], block := none, holds := x.viq.filterMap Entry.held ++ x.holds }.setSc sc

/-- The same for the entry `n`, whose older ones have passed their fault points and go on. -/
def Context.rollbackAt (x : Context) (n : Nat) (sc : Scalar) : Context :=
  { x with viq := x.viq.take n, block := none, holds := (x.viq.drop n).filterMap Entry.held ++ x.holds }.setSc sc

/-- A trap of the scalar instruction at the pc of the acting context: step 1 of R313 returns to its checkpoint as R47 states, by
which every older VIQ entry runs to completion first; until then nothing happens. -/
def State.scalarTrap (s : State) (t : Trap) : State :=
  if s.me.drained then s.takeTrap s.cur s.mySc t s.mySc.pc false else s

/-- The same for SYSCALL, BREAK and a word that faults under steps 1 to 3 of R118: the trap is taken once every older VIQ entry has passed
its fault point, and those entries go on (R118, R147). -/
def State.pointTrap (s : State) (t : Trap) : State :=
  if s.me.settled then
    let u := s.takeTrap s.cur s.mySc t s.mySc.pc false
    u.setMe { u.me with viq := s.me.viq, holds := s.me.holds }
  else s

/-- The return of SRET (R148): the privilege comes from SPP, SIE is set,
SBLK is cleared, the pc is SEPC. -/
def Scalar.sret (sc : Scalar) : Scalar :=
  { sc with
    sup := sc.sstatus.getLsbD 0
    sstatus := (sc.sstatus &&& 1#3) ||| 2#3
    pc := sc.sepc }

/-! ### Completing a scalar instruction -/

/-- Advances past a 4-byte word and counts it as retired (R83, INSTRET). -/
def Scalar.retire (sc : Scalar) : Scalar := { sc with pc := sc.pc + 4, instret := sc.instret + 1 }
/-- Retires with a jump. -/
def Scalar.retireTo (sc : Scalar) (pc : Word64) : Scalar := { sc with pc := pc, instret := sc.instret + 1 }

/-- Sets flags (setflag, R8): bits are only ever set (R110). -/
def Scalar.setFlags (sc : Scalar) (f : BitVec 8) : Scalar := { sc with fflags := sc.fflags ||| f }

/-- A scalar instruction whose whole effect is on the scalar side: `f` of it, then past the word. -/
def State.scalar (s : State) (f : Scalar → Scalar) : Host.Outcome State Fault Refusal :=
  .next (s.setMySc (f s.mySc).retire)

/-- A scalar instruction whose effect may trap instead. -/
def State.scalarTry (s : State) (r : Except Trap State) : Host.Outcome State Fault Refusal :=
  match r with
  | .ok s' => .next s'
  | .error t => .next (s.scalarTrap t)

/-- An instruction that waits while `ready` is false: it has no effect yet. -/
def State.waits (s : State) (ready : Bool) (k : Unit → Host.Outcome State Fault Refusal) : Host.Outcome State Fault Refusal :=
  if ready then k () else .next s

/-- An instruction that waits until every older VIQ entry has completed: a serialising one, and one that reads what entries
leave (R48, R145, R148). -/
def State.serial (s : State) (k : Unit → Host.Outcome State Fault Refusal) : Host.Outcome State Fault Refusal :=
  s.waits s.me.drained k

/-- The privilege check of step 3 of R118: a supervisor instruction at user level faults PRIV, with SADDR the word's
address; the word has no effect. -/
def State.privileged (s : State) (k : Unit → Host.Outcome State Fault Refusal) : Host.Outcome State Fault Refusal :=
  if s.mySc.sup then k () else .next (s.pointTrap ⟨.priv, 0, s.mySc.pc⟩)

end Sys2Proof.Machine
end

