-- ==== Sys2Proof/Machine/Crc.lean ====
section
/-!
DEFINITION. The two cyclic redundancy checks the manual defines: CRC-16/CCITT (R180, R283) and CRC-32C (R306, R329).
-/
namespace Sys2Proof.Machine

/-- One bit of CRC-16/CCITT: polynomial 0x1021, no reflection. -/
def crc16Bit (c : BitVec 16) : BitVec 16 := if c.getLsbD 15 then (c <<< 1) ^^^ 0x1021 else c <<< 1
/-- `n` bits. -/
def crc16Bits : Nat → BitVec 16 → BitVec 16
  | 0, c => c
  | n + 1, c => crc16Bits n (crc16Bit c)
/-- CRC-16/CCITT from the state `c`. -/
def crc16From (c : BitVec 16) : List Byte → BitVec 16
  | [] => c
  | b :: t => crc16From (crc16Bits 8 (c ^^^ (b.setWidth 16 <<< 8))) t
/-- CRC-16/CCITT: initial value 0xFFFF, no final XOR (R283). -/
def crc16 (bs : List Byte) : BitVec 16 := crc16From 0xFFFF bs

/-- One bit of CRC-32C, reflected: 0x82F6_3B78 is 0x1EDC_6F41 with its bits reversed. -/
def crc32Bit (c : BitVec 32) : BitVec 32 := if c.getLsbD 0 then (c >>> 1) ^^^ 0x82F63B78 else c >>> 1
/-- `n` bits. -/
def crc32Bits : Nat → BitVec 32 → BitVec 32
  | 0, c => c
  | n + 1, c => crc32Bits n (crc32Bit c)
/-- CRC-32C from the state `c`. -/
def crc32From (c : BitVec 32) : List Byte → BitVec 32
  | [] => c
  | b :: t => crc32From (crc32Bits 8 (c ^^^ b.setWidth 32)) t
/-- CRC-32C: initial value and final XOR 0xFFFF_FFFF (R306). -/
def crc32c (bs : List Byte) : BitVec 32 := ~~~(crc32From 0xFFFFFFFF bs)

end Sys2Proof.Machine
end

