-- ==== Sys2Proof/Machine/Clocks.lean ====
section
/-!
DEFINITION. The clocks of a quad and its cores as the minimum of every limit that applies at that moment (R344, R349,
R352). A clock alters timing only.
-/
namespace Sys2Proof.Machine

/-- Job tag of a task's launch. -/
def State.tagOf (s : State) (t : Option TaskRef) : BitVec 16 :=
  ((t.bind fun t => s.launches[t.launch]?).map (·.tag)).getD 0
/-- TID of a task, 0 where none is concerned (R367). -/
def tidOf (t : Option TaskRef) : Nat := (t.map (·.tid)).getD 0

/-- A ceiling as it is read: 0 as 1, and above 16 as 16 (R335). -/
def ceilingRead (c : Nat) : Nat := Nat.max 1 (Nat.min 16 c)
/-- The least of a list, at most 16. -/
def least (l : List Nat) : Nat := l.foldl Nat.min 16

/-- Effective ceiling of a tag: the minimum over its entries, this module's own among them (R335, R351). -/
def Skerry.ceiling (k : Skerry) (tag : BitVec 16) : Nat :=
  least (((k.ceilings.filter fun n => n.tag == tag).map fun n => ceilingRead n.ceiling.toNat) ++
    (k.own.filter fun p => p.1 == tag).map fun p => ceilingRead p.2)

/-- The limits of a quad that no ceiling makes: the governor, the hard gradient, the damage integral, the die's current
limit (R349). -/
def State.quadClk (s : State) (q : QuadIx) : Nat :=
  let x := s.quad q
  let d := s.die (QuadIx.die q)
  let force := x.hgForce || x.dmgForce
  Nat.min (Nat.min x.govClk (if force then 1 else 16)) (Nat.max 1 (16 - d.droop))

/-- The ceilings of the contexts that a test selects. -/
def State.ceilings (s : State) (p : CtxIx → Bool) : Nat :=
  least (((List.finRange 1536).filter fun c => p c && (s.ctx c).task.isSome).map fun c =>
    s.skerry.ceiling (s.tagOf (s.ctx c).task))

/-- The S and M clocks of a core in sixteenths of their maximum (R352); the floor while its planned stop waits for save slots
(R325). -/
def State.clkS (s : State) (c : CoreIx) : Nat :=
  if (s.core c).floorHold then 1
  else Nat.min (s.quadClk (CoreIx.quad c)) (s.ceilings fun x => CtxIx.core x == c)
/-- The L clock of a core in thirty-seconds of the S clock's maximum: the S clock, or half of it at LRATIO 2 (Table 24-1). -/
def State.clkL (s : State) (c : CoreIx) : Nat :=
  if (s.core c).lratio = 2 then s.clkS c else 2 * s.clkS c
/-- The X clock of a quad in sixteenths (R352). -/
def State.clkX (s : State) (q : QuadIx) : Nat :=
  Nat.min (s.quadClk q) (s.ceilings fun x => CtxIx.quad x == q && (s.sc x).mgrant != 0)

end Sys2Proof.Machine
end

