-- ==== Sys2Proof/Machine/Translate.lean ====
section
/-!
DEFINITION. The physical map (R248), placement and lost lines (R249, R250, R259, R260), translation (R254 to R258), and
reading and writing memory through it (R81, R139, R159).
-/
namespace Sys2Proof.Machine

/-! ### The physical map -/

/-- A row of Table 16-1. -/
inductive Region where
  | pkg | device | dieLocal (d : Nat) | lpddr | holm (d : Nat) | fabric | peer (p : Nat)
  deriving DecidableEq, Repr

/-- Usable HBM4E bytes (R3, R19). -/
def Skerry.usable (k : Skerry) : Nat := if k.parity then 992 * 10 ^ 9 else 1024 * 10 ^ 9
/-- Bytes of the package-interleaved region, P of R248. -/
def Skerry.pkgBytes (k : Skerry) : Nat := k.usable - 4 * k.lshare * 2 ^ 30
/-- Base of die d's local HBM4E. -/
def localBase (d : Nat) : Nat := 0x10000000000 + d * 0x4000000000
/-- Base of die d's Holm window. -/
def holmBase (d : Nat) : Nat := 0x30000000000 + d * 0x8000000

/-- The row that holds a physical address, with its first address and the address past its end (Table 16-1). -/
def Skerry.region (k : Skerry) (pa : Nat) : Option (Region × Nat × Nat) :=
  if pa < k.pkgBytes then some (.pkg, 0, k.pkgBytes)
  else if pa < 0xF000000000 then none
  else if pa < 0x10000000000 then some (.device, 0xF000000000, 0x10000000000)
  else if pa < 0x20000000000 then
    let d := (pa - 0x10000000000) / 0x4000000000
    if pa - localBase d < k.lshare * 2 ^ 30 then some (.dieLocal d, localBase d, localBase d + k.lshare * 2 ^ 30)
    else none
  else if pa < 0x20000000000 + 768 * 10 ^ 9 then some (.lpddr, 0x20000000000, 0x20000000000 + 768 * 10 ^ 9)
  else if pa < 0x30000000000 then none
  else if pa < 0x30020000000 then
    let d := (pa - 0x30000000000) / 0x8000000
    some (.holm d, holmBase d, holmBase d + 0x8000000)
  else if pa < 0x40000000000 then none
  else if pa < 0x80000000000 then some (.fabric, 0x40000000000, 0x80000000000)
  else if pa < 0x100000000000 then
    let p := (pa - 0x80000000000) / 0x10000000000
    some (.peer p, 0x80000000000 + p * 0x10000000000, 0x80000000000 + (p + 1) * 0x10000000000)
  else none

/-- HOME a leaf into the row must carry (Table 16-1). -/
def Region.home : Region → Nat
  | .dieLocal d | .holm d => d
  | _ => 7

/-- Scope of a location (R23, Table 1-7): 2 die, 3 pkg, 4 sys. -/
def Region.scope : Region → Nat
  | .dieLocal _ | .holm _ => 2
  | .peer _ => 4
  | _ => 3

/-- The channel of line `n` in normal mode (Table 16-2): (stack of the module, channel of the stack). -/
def channelOf (r : Region) (n : Nat) : Option (Nat × Nat) :=
  match r with
  | .dieLocal d => let c := hmix n 128; some (d * 4 + c / 32, c % 32)
  | .pkg => let c := hmix n 512; some (c / 32, c % 32)
  | _ => none

/-- The region number of `Retire` for a row. -/
def Region.retireIx : Region → Option Nat
  | .dieLocal d => some d
  | .pkg => some 4
  | _ => none

/-- Channel `c` of a region as (stack of the module, channel of the stack). -/
def regionChannel (ix c : Nat) : Nat × Nat := if ix < 4 then (ix * 4 + c / 32, c % 32) else (c / 32, c % 32)

/-- The `i`-th of the channels `0 … total − 1` that are not retired. -/
def survivor (retired : List Nat) (total i : Nat) : Nat := (((List.range total).filter (fun c => !retired.contains c))[i]?).getD 0

/-- The channel that carries line `n` of a row under the placement in force (Table 16-2, R259): stack of the module and channel
of the stack. -/
def State.lineChannel (s : State) (r : Region) (n : Nat) : Option (Nat × Nat) :=
  match r.retireIx with
  | none => none
  | some ix =>
    match s.retire.find? (fun t => t.region == ix) with
    | some t =>
      let total := if ix < 4 then 128 else 512
      let cs := if n < t.boundary then t.channels else t.channels.dropLast
      if cs.isEmpty then channelOf r n
      else some (regionChannel ix (survivor cs total (n % (total - cs.length))))
    | none => channelOf r n

/-- Whether the line that holds a physical address is lost (R250, R260). -/
def State.lost (s : State) (pa : Nat) : Bool :=
  match s.skerry.region pa with
  | none => false
  | some (r, lo, _) =>
    let n := (pa - lo) / 128
    match r with
    | .lpddr => s.lpFailed.contains (Config.lpddrChannel n)
    | _ =>
      match s.lineChannel r n with
      | some (st, ch) =>
        if h : st / 4 < 4 then
          let d := s.die ⟨st / 4, h⟩
          d.offline.contains (st % 4) || d.offChans.contains (st % 4, ch)
        else false
      | none => false

/-- Whether any byte of a range lies in a lost line. With no channel or stack offline, none does. -/
def State.lostRange (s : State) (pa n : Nat) : Bool :=
  if s.lpFailed.isEmpty && s.dies.all (fun d => d.offline.isEmpty && d.offChans.isEmpty) then false
  else (List.range ((pa + n - 1) / 128 - pa / 128 + 1)).any fun i => s.lost ((pa / 128 + i) * 128)

/-- Whether a fabric address lies in an added extent (R252, R343). -/
def State.inExtent (s : State) (pa n : Nat) : Bool :=
  s.skerry.extents.any (fun e => decide (e.pa ≤ pa) && decide (pa + n ≤ e.pa + e.len))

/-! ### Translation -/

/-- Access kinds of R256. -/
inductive Kind where
  | read | write | rw | exec
  deriving DecidableEq, Repr

/-- The translation cache an agent looks in before the L2 TLB of its die (R258): a core's scalar TLB, its vector TLB, or
none. -/
inductive Tlb where
  | scalar | vector | l2
  deriving DecidableEq, Repr

/-- Who translates: the address space, the privilege, the core whose TLBs and local window it uses, its first TLB (R258), and
for an entry that has passed its fault point the translations it was given (R46). -/
structure Agent where
  satp   : Word64
  sup    : Bool
  core   : Option CoreIx
  die    : DieIx
  tlb    : Tlb
  tables : Option Xlates
  deriving DecidableEq, Repr

/-- Bits of a table entry (Table 16-3). -/
def ebit (e : Nat) (i : Nat) : Bool := e / 2 ^ i % 2 == 1
/-- PPN × 2^12. -/
def ePa (e : Nat) : Nat := e / 2 ^ 12 % 2 ^ 48 * 2 ^ 12
/-- A valid entry with R = W = X = 0 is a pointer (R255). -/
def ePtr (e : Nat) : Bool := e / 2 % 8 == 0
/-- Reserved fields [11] and [63:60]. -/
def eRsv (e : Nat) : Bool := ebit e 11 || decide (2 ^ 60 ≤ e)

/-- Index of a level (R254); level 3 gives the 64 KiB index. -/
def vaIndex (lvl va : Nat) : Nat :=
  match lvl with
  | 0 => va / 2 ^ 48 % 512
  | 1 => va / 2 ^ 39 % 512
  | 2 => va / 2 ^ 30 % 512
  | _ => va / 2 ^ 16 % 16384

/-- A found leaf: entry, level, page size. -/
structure Leaf where
  e    : Nat
  lvl  : Nat
  size : Nat
  deriving DecidableEq, Repr

/-- Reads one table entry; an uncorrectable error faults (R256). A table that a root or a pointer places at a device, peer, unpopulated or
non-extent fabric address is read as plain memory there: 0, hence XLATE_MISS, where nothing was written (DESIGN CHOICE, log entry 44:
R256 gives such an address no fault). -/
def State.entry (s : State) (pa : Nat) : Except Cause Nat :=
  if s.lostRange pa 8 then .error .memUncorrectable else .ok (s.mem.le pa 8)

/-- Level 3 of the walk (R256). -/
def State.walk3 (s : State) (a va : Nat) : Except Cause Leaf := do
  let g ← s.entry (a + 8 * (32 * (va / 2 ^ 21 % 512)))
  if ebit g 0 && ebit g 6 then pure ⟨g, 3, 2 ^ 21⟩
  else
    let e ← s.entry (a + 8 * vaIndex 3 va)
    if !ebit e 0 then .error .xlateMiss
    else if ePtr e then .error .xlatePerm
    else pure ⟨e, 3, 2 ^ 16⟩

/-- Levels `lvl` to 2 of the walk, `n` of them left (R256). -/
def State.walkFrom (s : State) (va : Nat) : Nat → Nat → Nat → Except Cause Leaf
  | 0, _, a => s.walk3 a va
  | n + 1, lvl, a => do
    let e ← s.entry (a + 8 * vaIndex lvl va)
    if !ebit e 0 then .error .xlateMiss
    else if !ePtr e then pure ⟨e, lvl, 2 ^ 30⟩
    else if eRsv e || ebit e 6 then .error .xlatePerm
    else if lvl == 2 && e / 2 ^ 12 % 32 != 0 then .error .xlatePerm
    else s.walkFrom va n (lvl + 1) (ePa e)

/-- SATP.ROOT × 2^12 (Table 5-9). -/
def satpRoot (satp : Word64) : Nat := satp.toNat % 2 ^ 48 * 2 ^ 12
/-- SATP.ASID (Table 5-9). -/
def satpAsid (satp : Word64) : BitVec 16 := (satp >>> 48).setWidth 16

/-- R257 on a leaf: the physical address, or the fault. -/
def State.checkLeaf (s : State) (l : Leaf) (va : Nat) (k : Kind) (sup : Bool) : Except Cause Nat :=
  let e := l.e
  let base := ePa e
  if l.lvl < 2 || eRsv e || (ebit e 6 && l.size != 2 ^ 21) || (ebit e 2 && !ebit e 1) || base % l.size != 0 then
    .error .xlatePerm
  else
    match s.skerry.region base with
    | none => .error .xlatePerm
    | some (r, _, hi) =>
      if decide (hi < base + l.size) || e / 2 ^ 7 % 8 != r.home || (ebit e 10 && r != .fabric) then .error .xlatePerm
      else if !sup && !ebit e 4 then .error .xlatePerm
      else
        let ok := match k with
          | .read => ebit e 1
          | .write => ebit e 2
          | .rw => ebit e 1 && ebit e 2
          | .exec => ebit e 3
        if !ok then .error .xlatePerm
        else
          let pa := base + va % l.size
          if r == .fabric && !s.inExtent pa 1 then .error .fabricExtent else .ok pa

/-- The translations an agent finds cached: those of its TLB, then those of the L2 TLB of its die (R258). -/
def State.tlbOf (s : State) (g : Agent) : List TlbEntry :=
  (match g.core, g.tlb with
    | some c, .scalar => (s.core c).tlbS
    | some c, .vector => (s.core c).tlbV
    | _, _ => []) ++ (s.die g.die).tlb2

/-- The translations an entry of an agent has when it passes its fault point (R46). -/
def State.xlates (s : State) (g : Agent) : Xlates := ⟨s.tlbOf g, s.mem, s.skerry.extents, s.ports⟩

/-- The state in which an agent's translations are made: as it stood when its entry passed its fault point, if it has (R46). -/
def State.atPoint (s : State) (g : Agent) : State :=
  match g.tables with
  | none => s
  | some x => { s with mem := x.mem, ports := x.ports, skerry := { s.skerry with extents := x.extents } }

/-- The cached translation of an address in an address space (R258). -/
def cached (l : List TlbEntry) (satp : Word64) (va : Nat) : Option Leaf :=
  (l.find? fun t => decide (t.va ≤ va) && decide (va < t.va + t.size) && (t.glob || t.asid == satpAsid satp)).map
    fun t => ⟨t.leaf.toNat, t.lvl, t.size⟩

/-- The leaf for an address: a cached translation, or a walk (R256, R258); for an entry that has passed its fault point, the
leaf it found then. -/
def State.leafFor (s : State) (g : Agent) (va : Nat) : Except Cause Leaf :=
  match cached ((g.tables.map (·.tlb)).getD (s.tlbOf g)) g.satp va with
  | some l => .ok l
  | none => (s.atPoint g).walkFrom va 3 0 (satpRoot g.satp)

/-- Address bits [63:57] are copies of bit 56 (R139, R254). -/
def canonical (a : Word64) : Bool := a == (a.setWidth 57).signExtend 64

/-- The 57-bit address. -/
def va57 (a : Word64) : Nat := a.toNat % 2 ^ 57

/-- Translation of a canonical address outside the local window (R256, R257). -/
def State.xlate (s : State) (g : Agent) (a : Word64) (k : Kind) : Except Cause Nat := do
  let l ← s.leafFor g (va57 a)
  (s.atPoint g).checkLeaf l (va57 a) k g.sup

/-- First address of the local window (R81). -/
def winBase : Nat := 0x00FFFF0000000000
/-- The window offset of an address inside the 4 MiB window. -/
def winOff (a : Word64) : Option Nat :=
  let v := a.toNat
  if winBase ≤ v ∧ v < winBase + 0x400000 then some (v - winBase) else none

/-- Keeps a translation in the TLBs, when the run keeps translations (R258; log entry 5). -/
def State.fillTlb (s : State) (g : Agent) (a : Word64) : State :=
  if !s.choices.fill || g.tables.isSome || (winOff a).isSome then s
  else
    match s.leafFor g (va57 a) with
    | .error _ => s
    | .ok l =>
      let t : TlbEntry := ⟨va57 a / l.size * l.size, l.size, satpAsid g.satp, ebit l.e 5, BitVec.ofNat 64 l.e, l.lvl⟩
      let s := match g.core, g.tlb with
        | some c, .scalar => s.setCore c { s.core c with tlbS := t :: (s.core c).tlbS.take 63 }
        | some c, .vector => s.setCore c { s.core c with tlbV := t :: (s.core c).tlbV.take 511 }
        | _, _ => s
      let d := s.die g.die
      s.setDie g.die { d with tlb2 := t :: d.tlb2.take 16383 }

/-! ### Locations -/

/-- Where an access is performed: physical memory, a core's scratchpad (R81), or physical memory through a UC page, which no cache
holds (R252). -/
inductive Loc where
  | mem (pa : Nat)
  | win (c : CoreIx) (off : Nat)
  | uc (pa : Nat)
  deriving DecidableEq, Repr

/-- A location on a UC page (Table 16-3). -/
def Loc.isUc : Loc → Bool
  | .uc _ => true
  | .mem _ | .win _ _ => false

/-- Bytes of the scratchpad (R80, R81). -/
def Core.scratchBytes (k : Core) : Nat := (k.pool1 - k.pool0) * 4096

/-- Translation or the window bound, for an access of `n` bytes; raises the trap of element `i` at `a`. -/
def State.place (s : State) (g : Agent) (a : Word64) (n : Nat) (k : Kind) (i : Nat) : Except Trap Loc :=
  match winOff a, g.core with
  | some off, some c =>
    if off + n ≤ (s.core c).scratchBytes then .ok (.win c off) else .error ⟨.xlatePerm, i, a⟩
  | some _, none => .error ⟨.xlatePerm, i, a⟩
  | none, _ =>
    match s.leafFor g (va57 a) with
    | .error c => .error ⟨c, i, a⟩
    | .ok l =>
      match (s.atPoint g).checkLeaf l (va57 a) k g.sup with
      | .ok pa => .ok (if ebit l.e 10 then .uc pa else .mem pa)
      | .error c => .error ⟨c, i, a⟩

/-- The row of Table 16-1 of a location; none for the scratchpad. -/
def State.locRegion (s : State) : Loc → Option Region
  | .mem pa | .uc pa => (s.skerry.region pa).map (·.1)
  | .win _ _ => none

/-- A location in the device-register range. -/
def State.isDevice (s : State) (l : Loc) : Bool := s.locRegion l == some .device
/-- A location in a peer aperture. -/
def State.isPeer (s : State) (l : Loc) : Bool :=
  match s.locRegion l with
  | some (.peer _) => true
  | _ => false

/-- An uncorrectable error a load of `n` bytes meets (R321). -/
def State.loadErr (s : State) (l : Loc) (n : Nat) : Bool :=
  match l with
  | .mem pa | .uc pa => s.lostRange pa n
  | .win c off => (s.core c).badScratch.any fun b => decide (off ≤ b) && decide (b < off + n)

/-- Scalar order of checks (R139, R81): canonical, alignment, translation or bound, peer window. -/
def State.scalarLoc (s : State) (g : Agent) (a : Word64) (n : Nat) (k : Kind) : Except Trap Loc := do
  if !canonical a then .error ⟨.xlatePerm, 0, a⟩
  if a.toNat % n != 0 then .error ⟨.misalign, 0, a⟩
  let l ← s.place g a n k 0
  if s.isPeer l then .error ⟨.narrows, 0, a⟩
  if k != .write && s.loadErr l n then .error ⟨.memUncorrectable, 0, a⟩
  pure l

/-- Vector order of checks for element `i` (R159), as far as they concern its address: canonical, translation or bound,
alignment to `al` bytes, peer window. Engine and vector accesses to device registers fault XLATE_PERM (R248). -/
def State.vecPlace (s : State) (g : Agent) (a : Word64) (n al : Nat) (k : Kind) (i : Nat) : Except Trap Loc := do
  if !canonical a then .error ⟨.xlatePerm, i, a⟩
  let l ← s.place g a n k i
  if s.isDevice l then .error ⟨.xlatePerm, i, a⟩
  if a.toNat % al != 0 then .error ⟨.misalign, i, a⟩
  if s.isPeer l then .error ⟨.narrows, i, a⟩
  pure l

/-- The checks of R159 for element `i`: those of its address, and an uncorrectable error on a load. -/
def State.vecLoc (s : State) (g : Agent) (a : Word64) (n al : Nat) (k : Kind) (i : Nat) : Except Trap Loc := do
  let l ← s.vecPlace g a n al k i
  if k != .write && s.loadErr l n then .error ⟨.memUncorrectable, i, a⟩
  pure l

/-- Bytes from a window address to the bound of the window; any other address is bounded by its page alone (R81). -/
def State.winRoom (s : State) (g : Agent) (a : Word64) : Nat :=
  match winOff a, g.core with
  | some off, some c => let b := (s.core c).scratchBytes; if off < b then b - off else 1
  | _, _ => 0x10000

/-- The locations of `n` bytes from `a`, split at 64 KiB boundaries, which no page is smaller than, and at the bound of the
local window; raises the trap of element `i` at the first address of the part that faults, which for the window is the
first address past its bound (R81). -/
def State.spanFrom (s : State) (g : Agent) (k : Kind) (i : Nat) : Nat → Word64 → Nat → Except Trap (List (Loc × Nat))
  | 0, _, _ => pure []
  | fuel + 1, a, n =>
    if n = 0 then pure []
    else do
      let m := Nat.min n (Nat.min (0x10000 - a.toNat % 0x10000) (s.winRoom g a))
      let l ← s.vecLoc g a m 1 k i
      let r ← s.spanFrom g k i fuel (a + BitVec.ofNat 64 m) (n - m)
      pure ((l, m) :: r)

/-- The locations of `n` bytes from `a`. -/
def State.span (s : State) (g : Agent) (k : Kind) (a : Word64) (n : Nat) : Except Trap (List (Loc × Nat)) :=
  s.spanFrom g k 0 (n / 0x10000 + 3) a n

/-- A number for a location, as the home controllers keep their lists and marks. -/
def Loc.key : Loc → Nat
  | .mem pa => pa
  | .win c off => 2 ^ 60 + c.val * 2 ^ 22 + off
  | .uc pa => 2 ^ 61 + pa

/-- The location a key stands for. -/
def keyLoc (k : Nat) : Loc :=
  if k < 2 ^ 60 then .mem k
  else if k < 2 ^ 61 then .win ⟨(k - 2 ^ 60) / 2 ^ 22 % 192, by omega⟩ ((k - 2 ^ 60) % 2 ^ 22)
  else .uc (k - 2 ^ 61)

/-- The bytes a key stands for, however they are mapped: those of a UC page are the bytes of memory at the same place. -/
def keyBytes (k : Nat) : Nat := if k < 2 ^ 61 then k else k - 2 ^ 61

/-- Keeps the translations of several addresses. -/
def State.fillAddrs (s : State) (g : Agent) (as : List Word64) : State :=
  if s.choices.fill then as.foldl (fun s a => s.fillTlb g a) s else s

/-- Keeps the translations of the pages that `n` bytes from `a` touch. -/
def State.fillSpan (s : State) (g : Agent) (a : Word64) (n : Nat) : State :=
  let off := a.toNat % 0x10000
  if n = 0 then s
  else s.fillAddrs g ((List.range ((off + n + 0xFFFF) / 0x10000)).map fun k => a + BitVec.ofNat 64 (k * 0x10000 - if k = 0 then 0 else off))

/-! ### Reading and writing -/

/-- The 64-byte blocks that `n` bytes from `pa` touch. -/
def blocksOf (pa n : Nat) : List Nat :=
  if n = 0 then [] else (List.range ((pa + n - 1) / 64 - pa / 64 + 1)).map (fun i => (pa / 64 + i) * 64)

/-- The address of the line that a byte lies in: lines are 128 bytes (R245). -/
def lineOf (pa : Nat) : Nat := pa / 128 * 128

/-- Whether a line has a byte among `n` bytes from `pa`. -/
def touchesLine (pa n line : Nat) : Bool := decide (pa < line + 128) && decide (line < pa + n)

/-- An ordinary write to a marked line sets its mark to disturbed (R284). -/
def disturb (marks : List (Nat × Bool)) (pa n : Nat) : List (Nat × Bool) :=
  marks.map (fun e => if touchesLine pa n e.1 then (e.1, true) else e)

/-- 64 bytes as one value. -/
def Memory.line (m : Memory) (pa : Nat) : BitVec 512 := BitVec.ofNat 512 (m.le pa 64)

/-- The stores of a core are seen by its shape-record cache (R281). -/
def Core.seeStore (k : Core) (m : Memory) (pa n : Nat) : Core :=
  { k with rcache := k.rcache.map (fun r => if (blocksOf pa n).contains r.pa then { r with bits := m.line r.pa } else r) }

/-- An address in a Holm window (Table 16-1). -/
def inHolm (pa : Nat) : Bool := decide (0x30000000000 ≤ pa) && decide (pa < 0x30020000000)

/-- What an ordinary store into a Holm window leaves to be persisted: a context's store waits for its fence or for
HOLM_PERSIST (R274, R276); an agent with no context persists as it stores (log entry 15). -/
def State.holmStore (s : State) (c : Option CoreIx) (pa : Nat) (bs : List Byte) : State :=
  if !inHolm pa then s
  else if c.isSome then { s with holmOwn := s.holmOwn ++ [⟨s.me.task, s.cur, pa, bs.length⟩] }
  else { s with mram := s.mram.putBytes pa bs }

/-- Keeps what the homes of `n` bytes from `pa` still hold, for bytes of a line that is not dirty there yet (R322). -/
def Memory.keep (m : Memory) (dirty : List (Nat × Byte)) (pa n : Nat) : List (Nat × Byte) :=
  (((List.range n).map (pa + ·)).filter fun a => !dirty.any fun e => e.1 == a).map (fun a => (a, m.byte a)) ++ dirty

/-- The stores that L1s alone may hold, of lines that `n` bytes from `pa` do not touch: an access at the home of a line cleans the copy of
every L1 (R246), but a scalar access of the core `k` not that of its own. -/
def cleanL1 (l1 : List L1Store) (k : Option CoreIx) (pa n : Nat) : List L1Store :=
  l1.filter fun e => !touchesLine pa n (lineOf e.pa) || k == some e.core

/-- Bytes of memory written by an ordinary access of the core `c`, or of an agent with no core. -/
def State.storePhys (s : State) (c : Option CoreIx) (pa : Nat) (bs : List Byte) : State :=
  let m := s.mem.putBytes pa bs
  let d := s.mem.keep s.dirty pa bs.length
  let s := ({ s with
    mem := m, dirty := d, marks := disturb s.marks pa bs.length, l1 := cleanL1 s.l1 none pa bs.length } : State).holmStore c pa bs
  match c with
  | some c => s.setCore c ((s.core c).seeStore m pa bs.length)
  | none => s

/-- After a store through a UC page, which is performed at the CXL port: `n` bytes from `pa` are dirty in no L2 (R252); `old` is what
was dirty before. -/
def State.throughPort (s : State) (old : List (Nat × Byte)) (pa n : Nat) : State :=
  { s with dirty := old.filter fun e => !(decide (pa ≤ e.1) && decide (e.1 < pa + n)) }

/-- Bytes of memory written by a home controller's own step, which is no ordinary write (R282, R284). -/
def State.homeWrite (s : State) (pa : Nat) (bs : List Byte) : State :=
  { s with mem := s.mem.putBytes pa bs, dirty := s.mem.keep s.dirty pa bs.length, l1 := cleanL1 s.l1 none pa bs.length }

/-- What a scratchpad byte held when the contents last became undefined: a free value (R30, R309); 0 before the first
recut (log entry 3). -/
def Core.scratchFree (k : Core) (off : Nat) : Byte :=
  match k.scratchBase with
  | none => 0
  | some n => Config.freeBits 8 (n + off)
/-- `n` bytes of the scratchpad from `off` upward. -/
def Core.scratchAt (k : Core) (off : Nat) : Nat → List Byte
  | 0 => []
  | n + 1 => (k.scratch.byte off ^^^ k.scratchFree off) :: k.scratchAt (off + 1) n
/-- Writes scratchpad bytes from `off` upward. -/
def Core.putScratch (k : Core) (off : Nat) : List Byte → Core
  | [] => k
  | b :: bs => ({ k with scratch := k.scratch.put off (b ^^^ k.scratchFree off) } : Core).putScratch (off + 1) bs
/-- Writes scratchpad bytes from `off` upward; what is written over holds no error any more (R321). -/
def Core.setScratch (k : Core) (off : Nat) (bs : List Byte) : Core :=
  { k.putScratch off bs with
    badScratch := k.badScratch.filter fun b => !(decide (off ≤ b) && decide (b < off + bs.length)) }
/-- The contents of a core's scratchpad become undefined. -/
def State.loseScratch (s : State) (c : CoreIx) : State :=
  ({ s with freeCtr := s.freeCtr + 4194304 } : State).setCore c { s.core c with scratch := Memory.empty, scratchBase := some s.freeCtr, badScratch := [] }

/-- Bytes at a location. -/
def State.loadLoc (s : State) (l : Loc) (n : Nat) : List Byte :=
  match l with
  | .mem pa | .uc pa => s.mem.bytes pa n
  | .win c off => (s.core c).scratchAt off n
/-- The little-endian value at a location (R4). -/
def State.loadLe (s : State) (l : Loc) (n : Nat) : Nat := leNat (s.loadLoc l n)

/-- Writes bytes at a location. -/
def State.storeLoc (s : State) (c : Option CoreIx) (l : Loc) (bs : List Byte) : State :=
  match l with
  | .mem pa => s.storePhys c pa bs
  | .uc pa => (s.storePhys c pa bs).throughPort s.dirty pa bs.length
  | .win k off => s.setCore k ((s.core k).setScratch off bs)
/-- Writes a little-endian value at a location. -/
def State.storeLe (s : State) (c : Option CoreIx) (l : Loc) (n x : Nat) : State := s.storeLoc c l (leBytes n x)

/-- The bytes of a span. -/
def State.loadSpan (s : State) (ls : List (Loc × Nat)) : List Byte := ls.flatMap fun p => s.loadLoc p.1 p.2
/-- Writes bytes to a span. -/
def State.storeSpan (s : State) (c : Option CoreIx) : List (Loc × Nat) → List Byte → State
  | [], _ => s
  | p :: ps, bs => (s.storeLoc c p.1 (bs.take p.2)).storeSpan c ps (bs.drop p.2)

/-- A read of `n` bytes at a location by a scalar access of the core `k`, or at its home: what other L1s alone hold of the lines is
cleaned first (R246). -/
def State.readAt (s : State) (k : Option CoreIx) (l : Loc) (n : Nat) : State :=
  match l with
  | .mem pa | .uc pa => { s with l1 := cleanL1 s.l1 k pa n }
  | .win _ _ => s

/-- Vector accesses at their homes, each in one line: their translations are kept, and every L1 copy of their lines is cleaned (R245,
R258). -/
def State.accessAt (s : State) (g : Agent) (as : List Word64) : State :=
  let s := s.fillAddrs g as
  if s.l1.isEmpty then s
  else as.foldl (fun s a => match s.place g a 1 .read 0 with
    | .ok l => s.readAt none l 1
    | .error _ => s) s

/-- The acting context's scalar agent. -/
def State.scalarAgent (s : State) : Agent :=
  ⟨s.mySc.satp, s.mySc.sup, some (CtxIx.core s.cur), CtxIx.die s.cur, .scalar, none⟩
/-- The vector, ferry and block agent of a captured scalar side of context `c` (R257, R258). -/
def agentOf (c : CtxIx) (sc : Scalar) : Agent := ⟨sc.satp, sc.sup, some (CtxIx.core c), CtxIx.die c, .vector, none⟩
/-- The agent of an entry of context `c`. -/
def Entry.agent (e : Entry) (c : CtxIx) : Agent := { agentOf c e.chk with tables := e.passed }
/-- The same for an instruction of the matrix unit, which uses the L2 TLB (R258). -/
def Entry.unitAgent (e : Entry) (c : CtxIx) : Agent := { e.agent c with tlb := .l2 }
/-- The agent of a die's dispatch and fault paths, which has no context: DSATP, supervisor access (R292, R156). -/
def State.dieAgent (s : State) (d : DieIx) : Agent := ⟨(s.die d).dsatp, true, none, d, .l2, none⟩

end Sys2Proof.Machine
end

