-- ==== Sys2Proof/Machine/Device.lean ====
section
/-!
DEFINITION. The device registers reached by plain scalar loads and stores (R248): dispatch pages (Tables 2-4, 21-3),
Narrows port pages (Table 23-5) and thermal pages (R355). Registers are 64 bits at 8-byte offsets.
-/
namespace Sys2Proof.Machine

/-- A device register. -/
inductive DevReg where
  | dslice (d : DieIx) | ddepn (d : DieIx) | dfqb (d : DieIx) | dfqlost (d : DieIx) | dcsa (d : DieIx)
  | dcsn (d : DieIx) | dsatp (d : DieIx) | dasb (d : DieIx) | dasn (d : DieIx) | dlqb (d : DieIx)
  | lanes (p : PortIx) | npeer (p : PortIx) | nrsatp (p : PortIx)
  | out0 (p : PortIx) (e : Fin 64) | out1 (p : PortIx) (e : Fin 64)
  | ibase (p : PortIx) (e : Fin 16) | isize (p : PortIx) (e : Fin 16) | ibob (p : PortIx) (e : Fin 16)
  | ien (p : PortIx) (e : Fin 16)
  | thermal (q : QuadIx)
  | none
  deriving DecidableEq, Repr

/-- The dispatch-page register at an offset. -/
def dispatchReg (d : DieIx) (off : Nat) : DevReg :=
  match off with
  | 0x000 => .dslice d
  | 0x008 => .ddepn d
  | 0x010 => .dfqb d
  | 0x018 => .dfqlost d
  | 0x020 => .dcsa d
  | 0x028 => .dcsn d
  | 0x030 => .dsatp d
  | 0x038 => .dasb d
  | 0x040 => .dasn d
  | 0x048 => .dlqb d
  | _ => .none

/-- The port-page register at an offset (Table 23-5). -/
def portReg (p : PortIx) (off : Nat) : DevReg :=
  if off = 0 then .lanes p
  else if off = 8 then .npeer p
  else if off = 0x10 then .nrsatp p
  else if h : 0x100 ≤ off ∧ off < 0x500 then
    if off / 8 % 2 = 0 then .out0 p ⟨(off - 0x100) / 16, by omega⟩ else .out1 p ⟨(off - 0x100) / 16, by omega⟩
  else if h : 0x600 ≤ off ∧ off < 0x800 then
    let e : Fin 16 := ⟨(off - 0x600) / 32, by omega⟩
    match off / 8 % 4 with
    | 0 => .ibase p e
    | 1 => .isize p e
    | 2 => .ibob p e
    | _ => .ien p e
  else .none

/-- The register at the 8-byte-aligned physical address `pa`. -/
def devReg (pa : Nat) : DevReg :=
  if h : 0xF000000000 ≤ pa ∧ pa < 0xF000004000 then
    dispatchReg ⟨(pa - 0xF000000000) / 0x1000, by omega⟩ (pa % 0x1000)
  else if h : 0xF100000000 ≤ pa ∧ pa < 0xF100080000 then
    portReg ⟨(pa - 0xF100000000) / 0x10000, by omega⟩ (pa % 0x10000)
  else if h : 0xF200000000 ≤ pa ∧ pa < 0xF200004000 then
    if hq : pa % 0x1000 / 8 < 12 then
      .thermal ⟨(pa - 0xF200000000) / 0x1000 * 12 + pa % 0x1000 / 8, by omega⟩
    else .none
  else .none

/-- Records in the dependence set of a die (DDEPN). -/
def State.depn (s : State) (d : DieIx) : Nat := (s.launches.filter (fun l => l.die == d && l.st == .waiting)).length

/-- The thermal word of a quad (Table 24-4); temperatures are held in sixteenths of a degree. -/
def State.thermalWord (s : State) (q : QuadIx) : Word64 :=
  let x := s.quad q
  BitVec.ofNat 64 (Nat.min 255 (x.tq / 16) + Nat.min 255 (x.gq / 16) * 2 ^ 8 + Nat.min 0xFFFF (x.dq / 2 ^ 16) * 2 ^ 16 +
    x.dmgForce.toNat * 2 ^ 32 + x.hgForce.toNat * 2 ^ 33 + s.clkX q % 32 * 2 ^ 34 + x.rowCap / 16 % 32 * 2 ^ 39)

/-- Reads a register: its value, and the state after (an offset no table assigns reads a free value, log entry 9). -/
def State.devRead (s : State) (r : DevReg) : Word64 × State :=
  match r with
  | .dslice d => ((s.die d).dslice.setWidth 64, s)
  | .ddepn d => (BitVec.ofNat 64 (s.depn d), s)
  | .dfqb d => ((s.die d).dfqb, s)
  | .dfqlost d => ((s.die d).dfqlost.setWidth 64, s)
  | .dcsa d => ((s.die d).dcsa.setWidth 64, s)
  | .dcsn d => ((s.die d).dcsn.setWidth 64, s)
  | .dsatp d => ((s.die d).dsatp, s)
  | .dasb d => ((s.die d).dasb.setWidth 64, s)
  | .dasn d => ((s.die d).dasn.setWidth 64, s)
  | .dlqb d => ((s.die d).lqb, s)
  | .lanes p => ((s.port p).lanes.setWidth 64, s)
  | .npeer p => ((s.port p).npeer.setWidth 64, s)
  | .nrsatp p => ((s.port p).nrsatp, s)
  | .out0 p e => ((s.port p).outW[e.val].1, s)
  | .out1 p e => ((s.port p).outW[e.val].2, s)
  | .ibase p e => ((s.port p).inW[e.val].base, s)
  | .isize p e => ((s.port p).inW[e.val].size, s)
  | .ibob p e => ((s.port p).inW[e.val].bo, s)
  | .ien p e => (if (s.port p).inW[e.val].en then 1 else 0, s)
  | .thermal q => (s.thermalWord q, s)
  | .none => s.free 64

/-- Sets a die's LQB: its dispatch unit may dequeue again (R34, R359). -/
def State.setLqb (s : State) (d : DieIx) (v : Word64) : State :=
  s.setDie d { s.die d with lqb := v, lqStopped := false, lqWritten := true }

/-- Replaces an inbound entry. -/
def Port.setIn (p : Port) (e : Fin 16) (x : InEntry) : Port := { p with inW := p.inW.set e.val x }

/-- Replaces an outbound entry's words; [15:0] and [62:61] of word 0 read zero. -/
def Port.setOut (p : Port) (e : Fin 64) (x : Word64 × Word64) : Port := { p with outW := p.outW.set e.val x }

/-- Writes a register: RO writes are ignored, W1C bits clear, reserved bits are ignored (R6). `w1c` is the value with
the bytes not written cleared; `v` the merged value. -/
def State.devWrite (s : State) (r : DevReg) (v w1c : Word64) : State :=
  match r with
  | .dslice d => s.setDie d { s.die d with dslice := v.setWidth 32 }
  | .dfqb d => s.setDie d { s.die d with dfqb := v &&& ~~~63#64 }
  | .dfqlost d => s.setDie d { s.die d with dfqlost := (s.die d).dfqlost &&& ~~~(w1c.setWidth 32) }
  | .dcsa d => s.setDie d { s.die d with dcsa := v.setWidth 60 &&& ~~~0x7FFFF#60 }
  | .dcsn d => s.setDie d { s.die d with dcsn := v.setWidth 16 }
  | .dsatp d => s.setDie d { s.die d with dsatp := v }
  | .dasb d => s.setDie d { s.die d with dasb := v.setWidth 60 &&& ~~~0xFFF#60 }
  | .dasn d => s.setDie d { s.die d with dasn := (if v.toNat % 8192 ≤ 4096 then v.setWidth 13 else (s.die d).dasn) }
  | .dlqb d => s.setLqb d v
  | .nrsatp p => s.setPort p { s.port p with nrsatp := v }
  | .out0 p e => s.setPort p ((s.port p).setOut e (v &&& 0x9FFFFFFFFFFF0000, (s.port p).outW[e.val].2))
  | .out1 p e => s.setPort p ((s.port p).setOut e ((s.port p).outW[e.val].1, v))
  | .ibase p e => s.setPort p ((s.port p).setIn e { (s.port p).inW[e.val] with base := v })
  | .isize p e => s.setPort p ((s.port p).setIn e { (s.port p).inW[e.val] with size := v })
  | .ibob p e => s.setPort p ((s.port p).setIn e { (s.port p).inW[e.val] with bo := v })
  | .ien p e => s.setPort p ((s.port p).setIn e { (s.port p).inW[e.val] with en := v.getLsbD 0 })
  | .ddepn _ | .lanes _ | .npeer _ | .thermal _ | .none => s

/-- A naturally aligned read of `n` bytes of the register space (log entry 9). -/
def State.devLoad (s : State) (pa n : Nat) : Nat × State :=
  let (v, s') := s.devRead (devReg (pa / 8 * 8))
  (v.toNat / 2 ^ (8 * (pa % 8)) % 2 ^ (8 * n), s')

/-- A naturally aligned write of `n` bytes: the other bytes of the register keep their value (log entry 9). -/
def State.devStore (s : State) (pa n x : Nat) : State :=
  let r := devReg (pa / 8 * 8)
  let sh := 8 * (pa % 8)
  let mask : Word64 := BitVec.ofNat 64 ((2 ^ (8 * n) - 1) * 2 ^ sh)
  let nv : Word64 := BitVec.ofNat 64 (x % 2 ^ (8 * n) * 2 ^ sh)
  s.devWrite r (((s.devRead r).1 &&& ~~~mask) ||| nv) nv

end Sys2Proof.Machine
end

