-- ==== Sys2Proof/Machine/Operands.lean ====
section
/-!
DEFINITION. Operand forms: elements of vector, mask and weight registers (R5, R72, R73), element width and policies of
VT (R76, R77, Table 5-6), masks and the registers of the acting context.
-/
namespace Sys2Proof.Machine

/-! ### Elements -/

/-- elem(v, i, w) (R5, R8). -/
def elem {n : Nat} (v : BitVec n) (i w : Nat) : Nat := v.toNat / 2 ^ (w * i) % 2 ^ w
/-- set_elem(v, i, w, x) (R8); nothing happens past the register. -/
def setElem {n : Nat} (v : BitVec n) (i w x : Nat) : BitVec n :=
  let m : BitVec n := BitVec.ofNat n ((2 ^ w - 1) * 2 ^ (w * i))
  (v &&& ~~~m) ||| BitVec.ofNat n (x % 2 ^ w * 2 ^ (w * i))
/-- The integer whose `w`-bit digits are `f 0 … f (n−1)`. -/
def packNat (w : Nat) (f : Nat → Nat) : Nat → Nat
  | 0 => 0
  | n + 1 => packNat w f n + f n % 2 ^ w * 2 ^ (w * n)
/-- The integer whose bits are `f 0 … f (n−1)`. -/
def packBits (f : Nat → Bool) (n : Nat) : Nat := packNat 1 (fun i => (f i).toNat) n
/-- A mask register of the bits `f 0 … f (n−1)`, zero above. -/
def maskOf (f : Nat → Bool) (n : Nat) : MBits := BitVec.ofNat 4096 (packBits f n)
/-- Sign extension of an n-bit field (sext, R8). -/
def sext (n x : Nat) : Int := (BitVec.ofNat n x).toInt

/-! ### VT -/

/-- EW in bits of a VT value (Table 5-6). -/
def vtEw (vt : BitVec 11) : Nat := 2 ^ (vt.toNat % 8 + 1)
/-- VLMAX (Table 5-3). -/
def vlmax (ew : Nat) : Nat := 8192 / ew
/-- Tail policy zero. -/
def vtTp (vt : BitVec 11) : Bool := vt.getLsbD 3
/-- Mask policy zero. -/
def vtMp (vt : BitVec 11) : Bool := vt.getLsbD 4
/-- SCREG as a register; none for 63. -/
def vtSc (vt : BitVec 11) : Option VReg :=
  if h : vt.toNat / 32 % 64 < 48 then some ⟨vt.toNat / 32 % 64, h⟩ else none
/-- EW of a captured scalar side. -/
def Scalar.ew (sc : Scalar) : Nat := vtEw sc.vt
/-- VLMAX of a captured scalar side. -/
def Scalar.vlm (sc : Scalar) : Nat := vlmax sc.ew
/-- The width of an ew field (R115, R159). -/
def ewBits (e : EwSel) (sc : Scalar) : Nat :=
  match e with
  | .w2 => 2 | .w4 => 4 | .w8 => 8 | .w16 => 16 | .w32 => 32 | .w64 => 64 | .vt => sc.ew

/-- A destination of width `w` under a captured VT: elements below VLMAX are `f`, and the bits above them follow the tail
policy (R77). -/
def vecDest (old : VBits) (sc : Scalar) (w : Nat) (f : Nat → Nat) : VBits :=
  let n := w * sc.vlm
  let low := packNat w f sc.vlm
  if vtTp sc.vt then BitVec.ofNat 8192 low else BitVec.ofNat 8192 (low + old.toNat / 2 ^ n * 2 ^ n)

/-- A destination with the policies of R160: `f i` for an element written, the mask policy for the other elements below
VL, the tail policy from VL upward. -/
def vecWrite (old : VBits) (sc : Scalar) (w : Nat) (f : Nat → Option Nat) : VBits :=
  vecDest old sc w fun i =>
    if i < sc.vl then
      match f i with
      | some x => x
      | none => if vtMp sc.vt then 0 else elem old i w
    else if vtTp sc.vt then 0 else elem old i w

/-! ### Registers of the acting context -/

/-- vr of the acting context. -/
def State.vreg (s : State) (r : VReg) : VBits := s.me.regs.v[r.val]
/-- mr of the acting context. -/
def State.mreg (s : State) (r : MReg) : MBits := s.me.regs.m[r.val]
/-- wr of the acting context. -/
def State.wreg (s : State) (r : WReg) : VBits := s.me.regs.w[r.val]
/-- Writes a vector register. -/
def State.setV (s : State) (r : VReg) (x : VBits) : State :=
  s.setMe { s.me with regs := { s.me.regs with v := s.me.regs.v.set r.val x } }
/-- Writes a mask register. -/
def State.setM (s : State) (r : MReg) (x : MBits) : State :=
  s.setMe { s.me with regs := { s.me.regs with m := s.me.regs.m.set r.val x } }
/-- Writes a weight register. -/
def State.setW (s : State) (r : WReg) (x : VBits) : State :=
  s.setMe { s.me with regs := { s.me.regs with w := s.me.regs.w.set r.val x } }
/-- A feed slot of the acting context. -/
def State.feed (s : State) (f : FeedIx) : FeedSlot := s.me.regs.feeds[f.val]
/-- Writes a feed slot. -/
def State.setFeed (s : State) (f : FeedIx) (x : FeedSlot) : State :=
  s.setMe { s.me with regs := { s.me.regs with feeds := s.me.regs.feeds.set f.val x } }

/-- Whether a mask field selects element i (code 15 selects every element, R115). -/
def State.selects (s : State) (m : MSel) (i : Nat) : Bool :=
  match m with
  | none => true
  | some r => (s.mreg r).getLsbD i
/-- active(i) in the S-stream (R160). -/
def State.active (s : State) (sc : Scalar) (m : MSel) (i : Nat) : Bool := decide (i < sc.vl) && s.selects m i
/-- The active elements from VSTART upward, in order. -/
def State.actives (s : State) (sc : Scalar) (m : MSel) : List Nat :=
  (List.range sc.vl).filter fun i => decide (sc.vstart.toNat ≤ i) && s.active sc m i
/-- v + k, when it exists. -/
def vregAdd (v : VReg) (k : Nat) : Option VReg := if h : v.val + k < 48 then some ⟨v.val + k, h⟩ else none

end Sys2Proof.Machine
end

