-- ==== Sys2Proof/Machine/Fetch.lean ====
section
/-!
DEFINITION. Instruction fetch by the scalar pipe and for element blocks (R190, R257, R278, R279).
-/
namespace Sys2Proof.Machine

/-- The physical address of a fetch of `n` bytes (R257, R278). -/
def State.fetchLoc (s : State) (g : Agent) (a : Word64) (n : Nat) : Except Trap Nat := do
  if !canonical a || (winOff a).isSome then .error ⟨.xlatePerm, 0, a⟩
  let pa ← match s.xlate g a .exec with
    | .ok pa => pure pa
    | .error c => .error ⟨c, 0, a⟩
  match s.locRegion (.mem pa) with
  | some .device => .error ⟨.xlatePerm, 0, a⟩
  | some (.peer _) => .error ⟨.narrows, 0, a⟩
  | _ => if s.loadErr (.mem pa) n then .error ⟨.memUncorrectable, 0, a⟩ else pure pa

/-- The `n`-byte value at offset `off` of a granule. -/
def inGranule (x : BitVec 512) (off n : Nat) : Nat := x.toNat / 2 ^ (8 * off) % 2 ^ (8 * n)

/-- The value of `n` bytes at a physical address through a fetch cache, and the cache after: a granule is read whole, and
the one read last stays even in a run that keeps no others (R279; log entry 5). No fetch crosses a granule. -/
def State.fetchVal (s : State) (cache : List (Nat × BitVec 512)) (pa n : Nat) : Nat × List (Nat × BitVec 512) :=
  let base := pa / 64 * 64
  match cache.find? fun e => e.1 == base with
  | some e => (inGranule e.2 (pa - base) n, cache)
  | none => (s.mem.le pa n, (base, s.mem.line base) :: if s.choices.fill then cache else [])

/-- The scalar word at the pc of the acting context (R278); a pc with bits [1:0] not zero faults MISALIGN. -/
def State.fetchWord (s : State) : Except Trap (Nat × State) := do
  let pc := s.mySc.pc
  if pc &&& 3 != 0 then .error ⟨.misalign, 0, pc⟩
  let pa ← s.fetchLoc s.scalarAgent pc 4
  let (w, c) := s.fetchVal s.me.icache pa 4
  let s := s.fillTlb s.scalarAgent pc
  pure (w, s.setMe { s.me with icache := c })

/-- One 64-bit word of a block (R186, R190). -/
def State.fetchBlockWord (s : State) (g : Agent) (a : Word64) : Except Trap (Nat × State) := do
  let pa ← s.fetchLoc g a 8
  let (w, c) := s.fetchVal s.me.bcache pa 8
  let s := s.fillTlb g a
  pure (w, s.setMe { s.me with bcache := c })

/-- `n` words of a block from `a`. -/
def State.fetchBlock (s : State) (g : Agent) (a : Word64) : Nat → Except Trap (List (BitVec 64) × State)
  | 0 => pure ([], s)
  | n + 1 => do
    let (w, s) ← s.fetchBlockWord g a
    let (ws, s) ← s.fetchBlock g (a + 8) n
    pure (BitVec.ofNat 64 w :: ws, s)

end Sys2Proof.Machine
end

