-- ==== Sys2Proof/Machine/Hazards.lean ====
section
/-!
DEFINITION. What instructions read and write, as the scalar pipe and the chaining sequencer need it: the scalar registers of
a word (R42), the registers and units of a VIQ entry (R45), the accesses it makes (R144, R265), what an element block reads
and pushes (R193, R50), and when an entry may go before older ones.
-/
namespace Sys2Proof.Machine

/-! ### Scalar registers of an instruction word -/

/-- The scalar registers that a word of the S-stream names, as sources or destinations (R42: an instruction issues with its
source registers available). -/
def xregs : Instr → List XReg
  | .add o | .sub o | .and o | .or o | .xor o | .andn o | .orn o | .sll o | .srl o | .sra o | .slt o | .sltn o | .min o
  | .max o | .minn o | .maxn o | .mul o | .mulh o | .mulhn o | .div o | .divn o | .rem o | .remn o
  | .ldx o _ | .stx o _ | .ldAcq o _ _ | .stRel o _ _ | .fcmp o _ _ | .vsetlx o | .apop o _ | .binit o | .bwait o
  | .uliarm o => [o.d, o.a, o.b]
  | .clz o | .ctz o | .popc o | .fsqrt o _ _ | .fclass o _ | .csrs o _ | .csrc o _
  | .tstop o | .vsetl o _ | .setfib o _ _ | .matt o | .mattB o | .qcnt o _ | .bphase o => [o.d, o.a]
  | .sext o | .zext o => [o.d, o.a]
  | .slli o | .srli o | .srai o => [o.d, o.a]
  | .addi o | .andi o | .ori o | .xori o | .slti o | .shori o | .jalr o => [o.d, o.a]
  | .lih d _ | .jal d _ | .csrr d _ | .xpop d | .feat d _ => [d]
  | .ld d a _ _ | .st d a _ _ => [d, a]
  | .amo o => [o.d, o.a, o.b]
  | .cas o => [o.d, o.a, o.b]
  | .beq o | .bne o | .blt o | .bge o | .bltn o | .bgen o => [o.a, o.b]
  | .fadd o | .fsub o | .fmul o | .ffma o | .fdiv o => [o.d, o.a, o.b]
  | .fmin o | .fmax o => [o.d, o.a, o.b]
  | .fcvtToFp o | .fcvtFromFp o => [o.d, o.a]
  | .csrw a _ | .srinv a | .launch a | .vfetchx a | .fend _ a _ _ | .mgst a | .mwld a _ | .qclose a _ | .sigwait a
  | .vldxAcq _ a _ _ _ | .vldw _ a _ _ _ => [a]
  | .tlbinv a b | .vprf a b _ | .fcfg _ a b _ _ _ | .apush a b _ | .qinit a b _ | .barr a b | .barrRel a b
  | .sigdec a b | .vldb _ a b _ _ => [a, b]
  | .strip c p n _ => c :: (List.range (n.val + 1)).map fun k => ⟨(p.val + k) % 32, by omega⟩
  | .vsplat o | .vld o | .vldg o _ | .vld2 o | .vldx o _ => [o.a]
  | .vlds o b => [o.a, b]
  | .vst o => [o.a]
  | .vstg o _ _ | .vst2 o _ | .vstx o _ _ | .vsred o _ | .vrred o _ _ _ => [o.a]
  | .vsts o b | .vstsNtf o b | .vstb o b | .vstbNtf o b => [o.a, b]
  | .vamo o => [o.a]
  | .nsend o => [o.d, o.a, o.b]
  | .mstt o | .mgacc o => [o.a]
  | .qenqX o | .qdeqX o | .qenqM o | .qdeqM o => [o.d, o.a, o.b]
  | .qenqV o | .qdeqV o => [o.d, o.a]
  | .uliret => (List.range 8).map fun k => ⟨24 + k % 8, by omega⟩
  | _ => []

/-- The scalar register that a VIQ entry writes when it completes (R181, R230); one of a task that has ended writes none (R49). -/
def Entry.pendX (e : Entry) : Option XReg :=
  match e.past, e.instr with
  | none, .matt o | none, .mattB o => some o.d
  | none, .apop o _ => some o.d
  | _, _ => none

/-- Whether an entry moves ASP when it completes (R181). -/
def Entry.pendAsp (e : Entry) : Bool :=
  match e.past, e.instr with
  | none, .apop _ _ => true
  | _, _ => false

/-- Whether a word reads or writes ASP (R181, Table 5-5). -/
def usesAsp : Instr → Bool
  | .apush _ _ _ | .apop _ _ => true
  | .csrr _ c | .csrw _ c | .csrs _ c | .csrc _ c => c == 0x03A
  | _ => false

/-- Whether a word decides at issue what a feed slot still holds (R178), and an older entry that changes the slot otherwise
than FLD is pending. -/
def feedBusy (q : List Entry) : Instr → Bool
  | .fld _ f => q.any fun e => match e.instr with
    | .fcfg g _ _ _ _ _ | .fst _ g _ _ _ | .fend g _ _ _ => g == f
    | _ => false
  | _ => false

/-- QENQ.V and QDEQ.V are queue operations, which R46 holds and R42 parks, and return a grant that later instructions
need: they are performed as they issue. -/
def atIssue : Instr → Bool
  | .qenqV _ | .qdeqV _ => true
  | _ => false

/-- Whether the registers a word names are available: no pending entry is to write one of them (R42, R230). A word that only writes
such a register waits too, where R42 names source registers alone (DESIGN CHOICE, log entry 10). The destination of an entry that issued on the other side of a ULI delivery stands among the shadow copies (R305). Nothing issues
while a queue operation of the VIQ has not completed (R285). -/
def Context.sourcesReady (x : Context) (i : Instr) : Bool :=
  x.viq.all (fun e => match e.pendX with
    | some d => !(xregs i).contains d || (decide (24 ≤ d.val) && e.chk.ulinh != x.regs.sc.ulinh)
    | none => true) &&
  !(usesAsp i && x.viq.any Entry.pendAsp) && !feedBusy x.viq i && !x.viq.any fun e => atIssue e.instr

/-- Instructions that enter the VIQ (R44). -/
def entersViq : Instr → Bool
  | .vsetl _ _ | .vsetlx _ | .vldxAcq _ _ _ _ _ | .vstsNtf _ _ | .strip _ _ _ _ | .setfib _ _ _ | .vsplat _
  | .vprf _ _ _ | .vld _ | .vlds _ _ | .vldg _ _ | .vld2 _ | .vst _ | .vsts _ _ | .vstg _ _ _ | .vst2 _ _ | .vldx _ _
  | .vstx _ _ _ | .vldw _ _ _ _ _ | .vldb _ _ _ _ _ | .vstb _ _ | .vstbNtf _ _ | .vamo _ | .vsred _ _ | .vrred _ _ _ _
  | .fcfg _ _ _ _ _ _ | .fld _ _ | .fst _ _ _ _ _ | .fend _ _ _ _ | .apush _ _ _ | .apop _ _ | .nsend _ | .matt _
  | .mattB _ | .mdet | .mten | .mtdis | .mzero _ | .mopa _ _ _ _ _ | .mopav _ _ _ _ _ _ | .mrds _ _ _ _
  | .mwrs _ _ _ _ | .mstt _ | .mgacc _ | .mgst _ | .mwld _ _ | .vfetch _ | .vfetchx _ | .qenqV _ | .qdeqV _ => true
  | _ => false

/-! ### What a VIQ entry reads and writes -/

/-- A register or unit that entries of one context share. -/
inductive Res where
  | v (r : VReg) | m (r : MReg) | w (r : WReg) | feed (f : FeedIx) | astk | matrix
  deriving DecidableEq, Repr

/-- The register a part belongs to. -/
def RegPart.res : RegPart → Option Res
  | .v r _ => some (.v r)
  | .m r _ => some (.m r)
  | .w r _ => some (.w r)
  | .x _ | .acc _ _ _ => none

/-- A destination as a register. -/
def Dest.res : Dest → Option Res
  | .v n => if h : n < 48 then some (.v ⟨n, h⟩) else none
  | .m n => if h : n < 12 then some (.m ⟨n, h⟩) else none
  | .w n => if h : n < 8 then some (.w ⟨n, h⟩) else none

/-- v to v + n − 1. -/
def fieldRegs (v : VReg) (n : Nat) : List VReg := (List.range n).filterMap fun k => vregAdd v k
/-- The mask register of a mask field. -/
def mselRes (m : MSel) : List Res := (m.map Res.m).toList

/-- Registers and units an entry reads and those it writes; a destination whose old elements may stay is also read. The words
of an element block are treated in `State.blockUse`. -/
def resOf : Instr → List Res × List Res
  | .vsplat o | .vld o | .vlds o _ | .vld2 o => (.v o.v :: mselRes o.m, [.v o.v])
  | .vldg o n =>
    let r := (fieldRegs o.v n.val).map Res.v
    (r ++ mselRes o.m, r)
  | .vldx o i => (.v o.v :: .v i :: mselRes o.m, [.v o.v])
  | .vldxAcq v _ i m _ => (.v v :: .v i :: .m 11 :: mselRes m, [.v v, .m 11])
  | .vldw v _ i mo _ =>
    let r := (fieldRegs v 2).map Res.v ++ [.m mo]
    (.v i :: r, r)
  | .vldb v _ _ mo _ => ([.v v, .m mo], [.v v, .m mo])
  | .vst o => (.v o.v :: mselRes o.m, [])
  | .vsts o _ | .vstsNtf o _ | .vst2 o _ | .vstb o _ | .vstbNtf o _ => (.v o.v :: mselRes o.m, [])
  | .vstg o n _ => ((fieldRegs o.v n.val).map Res.v ++ mselRes o.m, [])
  | .vstx o i _ => (.v o.v :: .v i :: mselRes o.m, [])
  | .vamo o => ((fieldRegs o.v 2).map Res.v ++ mselRes o.m, [.v o.v])
  | .vsred o _ | .vrred o _ _ _ => ((fieldRegs o.v 2).map Res.v ++ mselRes o.m, [])
  | .setfib _ mo _ => ([], [.m mo])
  | .fcfg f _ _ _ _ _ | .fend f _ _ _ => ([.feed f], [.feed f])
  | .fld v f => ([.v v, .feed f], [.v v, .feed f])
  | .fst v f _ _ _ => ([.v v, .feed f], [.feed f])
  | .apush _ _ _ | .apop _ _ => ([.astk], [.astk])
  | .matt _ | .mattB _ | .mdet | .mten | .mtdis | .mzero _ | .mgst _ | .mwld _ _ => ([.matrix], [.matrix])
  | .mopa _ v _ mr mc => (.matrix :: .v v.r :: (mselRes mr ++ mselRes mc), [.matrix])
  | .mopav _ v b mr mc _ => (.matrix :: .v v.r :: .v b :: (mselRes mr ++ mselRes mc), [.matrix])
  | .mrds _ v _ _ => ([.matrix, .v v], [.v v])
  | .mwrs _ v _ _ => ([.matrix, .v v.r], [.matrix])
  | .mstt o | .mgacc o => (.matrix :: (mselRes o.mr ++ mselRes o.mc), [.matrix])
  | .qenqV o => ([.v o.v], [])
  | .qdeqV o => ([.v o.v], [.v o.v])
  | _ => ([], [])

/-- Whether an entry loads and whether it stores, in the sense of R144: the ferry's transfers, NSEND and the application of
VRRED are none of these (R144). -/
def accessOf : Instr → Bool × Bool
  | .vld _ | .vlds _ _ | .vldg _ _ | .vld2 _ | .vldx _ _ | .vldxAcq _ _ _ _ _ | .vldw _ _ _ _ _ | .vldb _ _ _ _ _
  | .mwld _ _ => (true, false)
  | .vst _ | .vsts _ _ | .vstsNtf _ _ | .vst2 _ _ | .vstg _ _ _ | .vstx _ _ _ | .mstt _ | .mgst _ => (false, true)
  | .vrred _ _ ntf _ => (false, ntf)
  | .vstb _ _ | .vstbNtf _ _ | .vamo _ | .vsred _ _ | .apush _ _ _ | .apop _ _ | .qenqV _ | .qdeqV _ => (true, true)
  | _ => (false, false)

/-- Entries ordered after every earlier access of their context: releases, APUSH, APOP, and NSEND, whose source read is
(R167, R181, Table 17-2). -/
def afterAll : Instr → Bool
  | .vst o => o.rel || o.ntf
  | .vamo o => o.ord == .rel || o.ord == .ar
  | .vsts _ _ | .vst2 _ false | .vstg _ _ false | .vstx _ _ false | .vstb _ _ | .vrred _ _ false _ => false
  | .vstsNtf _ _ | .vst2 _ true | .vstg _ _ true | .vstx _ _ true | .vstbNtf _ _ | .vrred _ _ true _
  | .apush _ _ _ | .apop _ _ | .nsend _ | .qenqV _ => true
  | _ => false

/-! ### Element blocks -/

/-- The vector sources of the words whose chain bits may let a block start (R193), each with the width at which it is read. -/
def chainSources : Instr → List (VSrc × Nat)
  | .vfadd o | .vfsub o | .vfmul o | .vfdiv o => [(o.a, o.t.width), (o.b, o.t.width)]
  | .vfma o | .vfms o | .vfnma o => [(o.a, o.t.width), (o.b, o.t.width), (o.c, o.t.width)]
  | .vfsqrt o => [(o.a, o.t.width)]
  | .vfabs o | .vfneg o | .vmov o => [(o.a, o.t.width)]
  | .vfmin o | .vfmax o | .vfsgn o | .vadd o | .vsub o | .vmul o | .vmulh o | .vmulhn o | .vand o | .vor o | .vxor o
  | .vsll o | .vsrl o | .vsra o | .vmin o | .vmax o | .vminn o | .vmaxn o | .vsadd o | .vssub o | .vsaddn o | .vssubn o =>
    [(o.a, o.t.width), (o.b, o.t.width)]
  | .vdot o => [(o.a, o.st.width), (o.b, o.st.width)]
  | .vfcmp o | .vcmp o => [(o.a, o.t.width), (o.b, o.t.width)]
  | .vcvt o => [(o.a, o.st.width)]
  | .vqmx o => [(o.a, o.st.width)]
  | _ => []

/-- The address registers of LDE, STE and WSTA, one for each 128 elements (R210). -/
def addrRegs (a : VSrc) (vl : Nat) : List VReg := fieldRegs a.r ((vl + 127) / 128)

/-- The other vector registers a block word reads, at VL `vl`: those of words that may not chain (R193), and the accumulator of
VDOT (Table 7-12). -/
def plainSources (vl : Nat) : Instr → List VReg
  | .vdot o => [o.d]
  | .vcomp o | .vexpd o | .vmatch o => [o.a.r]
  | .vbcast o | .vslup o | .vsldn o => [o.a.r]
  | .vperm o => [o.a.r, o.b.r]
  | .vext a _ _ => [a.r]
  | .vfredsum o | .vfredmax o | .vfredmin o => [o.a.r]
  | .vredsum o | .vredmax o | .vredmin o => [o.a.r]
  | .vfscan o => [o.a.r]
  | .vscan o => [o.a.r]
  | .wramp a c _ _ => [a.r, c.r]
  | .wmov (.toWeight a) _ _ _ _ => [a.r]
  | .wjoin o => fieldRegs o.a.r (o.arms.n.val + 2)
  | .wgjoin o => [o.dy.r, o.ya.r, o.yb.r]
  | .wgramp o => [o.g.r, o.k.r]
  | .lde o => addrRegs o.a vl
  | .ste o => o.b.r :: addrRegs o.a vl
  | .wsta o => o.b.r :: addrRegs o.a vl
  | _ => []

/-- Whether a block word applies scales (R78, R202). -/
def wordScales : Instr → Bool
  | .vcvt o => !(o.st.isInt && o.t.isInt) && ((o.st.mxElem && !o.st.isInt) || (o.t.mxElem && !o.t.isInt))
  | _ => false

/-- The mask field of a block word (Table 7-12). -/
def wordMask? : Instr → MSel
  | .vfadd o | .vfsub o | .vfmul o | .vfdiv o => o.m
  | .vfma o | .vfms o | .vfnma o => o.m
  | .vfsqrt o => o.m
  | .vfabs o | .vfneg o | .vmov o | .vcomp o | .vexpd o | .vmatch o => o.m
  | .vfmin o | .vfmax o | .vfsgn o | .vadd o | .vsub o | .vmul o | .vmulh o | .vmulhn o | .vand o | .vor o | .vxor o
  | .vsll o | .vsrl o | .vsra o | .vmin o | .vmax o | .vminn o | .vmaxn o | .vsadd o | .vssub o | .vsaddn o | .vssubn o
  | .vperm o => o.m
  | .vdot o => o.m
  | .vfcmp o | .vcmp o => o.m
  | .mand o | .mor o | .mxor o | .mandn o => o.m
  | .mset _ m _ | .mpopc _ m | .mfirst _ m | .viota _ m _ | .wramp _ _ m _ | .wcmp _ m _ | .wcomp m _ _ | .wmul m _ _ _
  | .wmov _ m _ _ _ => m
  | .vcvt o => o.m
  | .vqmx o => o.m
  | .vbcast o | .vslup o | .vsldn o => o.m
  | .vfredsum o | .vfredmax o | .vfredmin o => o.m
  | .vredsum o | .vredmax o | .vredmin o => o.m
  | .vfscan o => o.m
  | .vscan o => o.m
  | .wjoin o => o.m
  | .wgjoin o => o.m
  | .wgramp o => o.m
  | .lde o => o.m
  | .ste o => o.m
  | .wsta o => o.m
  | _ => none

/-- The segment mask of a reduction or a scan. -/
def wordSeg? : Instr → MSel
  | .vfredsum o | .vfredmax o | .vfredmin o => o.seg
  | .vredsum o | .vredmax o | .vredmin o => o.seg
  | .vfscan o => o.seg
  | .vscan o => o.seg
  | _ => none

/-- The masks that a block word reads as operands. -/
def maskOperands : Instr → List MReg
  | .mand o | .mor o | .mxor o | .mandn o => [o.a, o.b]
  | .mpopc a _ | .mfirst a _ | .wcmp a _ _ => [a]
  | _ => []

/-- The weights that a block word reads. -/
def weightOperands : Instr → List WReg
  | .wcomp _ _ r => [r]
  | .wmul _ _ p q => [p, q]
  | .wmov (.toVector _) _ _ _ w => [w]
  | .wbegin arms _ => arms.list
  | .wjoin o => o.arms.list
  | .wgjoin o => [o.wa, o.wb]
  | .wgramp o => [o.w]
  | .wcont w _ => [w]
  | .wsta o => [o.w]
  | _ => []

/-- The registers a block word reads under a captured scalar side (Table 7-12). -/
def wordReads (sc : Scalar) (i : Instr) : List Res :=
  (chainSources i).map (fun p => .v p.1.r) ++ (plainSources sc.vl i).map .v ++
    (if wordScales i then (vtSc sc.vt).toList.map .v else []) ++ mselRes (wordMask? i) ++ mselRes (wordSeg? i) ++
    (maskOperands i).map .m ++ (weightOperands i).map .w

/-- Whether a word pushes to the VSQ (R50): a reduction with .X, VEXT, MPOPC or MFIRST. -/
def wordPushes (w : BitVec 64) : Bool :=
  match decodeE w.toNat with
  | .ok (.vext _ _ _) | .ok (.mpopc _ _) | .ok (.mfirst _ _) => true
  | .ok (.vfredsum o) | .ok (.vfredmax o) | .ok (.vfredmin o) => o.d.isNone
  | .ok (.vredsum o) | .ok (.vredmax o) | .ok (.vredmin o) => o.d.isNone
  | _ => false

/-- Whether a word loads and whether it stores (R210, R227, R228). -/
def wordAccess (w : BitVec 64) : Bool × Bool :=
  let op := (efOf w.toNat).op
  (op == 0xE0 || op == 0xE2, op == 0xE1 || op == 0xE2)

/-- STOP (R129). -/
def stopWord : BitVec 64 := 0x0100000000000000

/-- Whether a header allows a destination (R132). -/
def allowsDest (h : Nat) (d : Dest) : Bool :=
  match d with
  | .v n => decide (n < 48) && ebit h n
  | .w n => decide (n < 8) && ebit h (48 + n)
  | .m n => decide (8 ≤ n) && decide (n < 12) && ebit h (56 + (n - 8))

/-- The header checks of R132. -/
def headerBad (h c : Nat) : Bool :=
  bits h 60 4 != 1 || bits c 16 48 != 0 || decide (8 < popc (bits h 0 48)) || decide (4 < popc (bits h 48 8)) ||
    bits c 0 16 == 0 || decide (255 < bits c 0 16)
where
  /-- Number of 1 bits. -/
  popc (x : Nat) : Nat := ((List.range 64).filter fun i => ebit x i).length

/-- The word checks of R132. -/
def wordsBad (h : Nat) (ws : List (BitVec 64)) : Bool :=
  ws.getLast? != some stopWord || ws.dropLast.contains stopWord ||
    ws.any fun w => (rawDests w.toNat).any fun d => !allowsDest h d

/-- Registers declared by a header (R131). -/
def headerRes (h : Nat) : List Res :=
  ((List.finRange 48).filter fun k => ebit h k.val).map Res.v ++
    ((List.finRange 8).filter fun k => ebit h (48 + k.val)).map Res.w ++
    ((List.finRange 4).filter fun k => ebit h (56 + k.val)).map fun k => Res.m ⟨8 + k.val, by omega⟩

/-- The words of a block that decode. -/
def decodedWords (ws : List (BitVec 64)) : List Instr := ws.filterMap fun w => (decodeE w.toNat).toOption

/-- Registers a block reads: those its words read, and the registers it declares, whose shadow copies are made (R187). -/
def blockReads (sc : Scalar) (h : Nat) (ws : List (BitVec 64)) : List Res := (decodedWords ws).flatMap (wordReads sc) ++ headerRes h

/-- The header and the words of the block that an entry fetches; none where it would fault as it starts, or the entry is no
VFETCH. -/
def State.blockText (s : State) (e : Entry) : Option (Nat × List (BitVec 64)) :=
  let g := e.agent s.cur
  let at_ := fun (a : Word64) =>
    match s.fetchBlock g a 2 with
    | .error _ => none
    | .ok (hw, s) =>
      let h := (hw.getD 0 0).toNat
      let c := (hw.getD 1 0).toNat
      if a &&& 7 != 0 || headerBad h c then none
      else
        match s.fetchBlock g (a + 16) (bits c 0 16) with
        | .error _ => none
        | .ok (ws, _) => if wordsBad h ws then none else some (h, ws)
  match e.instr with
  | .vfetch o => at_ (e.chk.pc + (o.signExtend 64 <<< 2))
  | .vfetchx a => at_ (e.chk.rx a)
  | _ => none

/-- Whether an entry is an element block that has passed its STOP and has stores to perform (R189). -/
def Entry.draining (e : Entry) : Bool := !e.stores.isEmpty

/-- Whether an entry pushes to the VSQ (R50). -/
def State.entryPushes (s : State) (e : Entry) : Bool :=
  match s.blockText e with
  | some t => t.2.any wordPushes
  | none => false

/-- Whether an entry loads and whether it stores. Of a block whose text cannot be fetched, which will fault, neither. -/
def State.entryAccess (s : State) (e : Entry) : Bool × Bool :=
  if e.draining then (false, true)
  else
    match s.blockText e with
    | some t => (t.2.any fun w => (wordAccess w).1, t.2.any fun w => (wordAccess w).2)
    | none => accessOf e.instr

/-- The scale register that an instruction of the matrix unit or a VRRED reads, as of its place in program order (R78, R176, R235). -/
def Entry.scaleRes (e : Entry) : List Res :=
  match e.instr with
  | .mopa _ _ _ _ _ | .mopav _ _ _ _ _ _ | .vrred _ _ _ _ => (vtSc e.chk.vt).toList.map .v
  | _ => []

/-- What an entry reads and writes: nothing of its context's registers once its task has ended (R49), and, of a block that has stopped,
nothing any more. -/
def State.entryRes (s : State) (e : Entry) : List Res × List Res :=
  if e.draining || e.past.isSome then ([], [])
  else
    match s.blockText e with
    | some t => (blockReads e.chk t.1 t.2, headerRes t.1)
    | none => ((resOf e.instr).1 ++ e.scaleRes, (resOf e.instr).2)

/-! ### What is pending -/

/-- Accesses that a pending entry or the block in flight has yet to perform, of the kinds `k` selects, in an interval `p`
selects. -/
def State.pendingAccess (s : State) (k : Bool × Bool → Bool) (p : Nat → Bool) : Bool :=
  s.me.viq.any (fun e => p e.chk.ivl && k (s.entryAccess e)) ||
    s.me.block.any fun b => p b.entry.chk.ivl && k (b.words.any fun w => (wordAccess w).1, b.words.any fun w => (wordAccess w).2)

/-- No access of an older strip interval is pending (R265). -/
def State.intervalReady (s : State) : Bool := !s.pendingAccess (fun k => k.1 || k.2) fun n => n != s.mySc.ivl
/-- No access at all is pending (R140, R287). -/
def State.accessesDone (s : State) : Bool := !s.pendingAccess (fun k => k.1 || k.2) fun _ => true

/-- An instruction with an effect outside the context: it is held until every older VIQ entry has passed its fault point
(R46), and it is ordered after the accesses of older strip intervals (R265). -/
def State.held (s : State) (k : Unit → Host.Outcome State Fault Refusal) : Host.Outcome State Fault Refusal :=
  s.waits (s.me.settled && s.intervalReady) k

/-- A release: held, and ordered after every earlier access of the context (R140, R287). -/
def State.heldRel (s : State) (k : Unit → Host.Outcome State Fault Refusal) : Host.Outcome State Fault Refusal :=
  s.waits (s.me.settled && s.accessesDone) k

/-- Whether entry `e` may be performed before the older entry `p`: neither writes what the other reads or writes, and their
accesses, if both make any, stand in one strip interval and are not ordered (R45, R265). -/
def State.mayPass (s : State) (p e : Entry) : Bool :=
  let a := s.entryRes p
  let b := s.entryRes e
  let acc := fun e => (s.entryAccess e).1 || (s.entryAccess e).2
  !(a.2.any fun r => b.1.contains r || b.2.contains r) && !(a.1.any fun r => b.2.contains r) &&
    (!acc p || (!afterAll e.instr && (!acc e || p.chk.ivl == e.chk.ivl)))

end Sys2Proof.Machine
end

