-- ==== Sys2Proof/Machine/Csr.lean ====
section
/-!
DEFINITION. Control and status registers (R80, R82 to R84, Tables 5-5 to 5-9) and the CSR instructions (R143).
-/
namespace Sys2Proof.Machine

/-- The CSRs of N1 (Table 5-5). -/
inductive Csr where
  | vl | vt | vstart | vcap | lratio | theta | wlim | fflags | frm | fiboff | sstr | pwaddr | ulivec | ulien | ulipend
  | cycle | instret | tid | tcore | tquad | tdie | mgrant | mstate | asb | asl | asp | poolb0 | poolb1 | poolb2 | pspb
  | pstat | rvec | stvec | sepc | scause | saddr | selem | sstatus | satp | vtf (n : Fin 4) | lqb
  deriving DecidableEq, Repr

/-- The CSR of a number; none for a number not in Table 5-5. -/
def csrOf (n : BitVec 12) : Option Csr :=
  match n.toNat with
  | 0x000 => some .vl
  | 0x001 => some .vt
  | 0x002 => some .vstart
  | 0x003 => some .vcap
  | 0x004 => some .lratio
  | 0x008 => some .theta
  | 0x009 => some .wlim
  | 0x010 => some .fflags
  | 0x011 => some .frm
  | 0x012 => some .fiboff
  | 0x013 => some .sstr
  | 0x014 => some .pwaddr
  | 0x018 => some .ulivec
  | 0x019 => some .ulien
  | 0x01A => some .ulipend
  | 0x020 => some .cycle
  | 0x021 => some .instret
  | 0x028 => some .tid
  | 0x029 => some .tcore
  | 0x02A => some .tquad
  | 0x02B => some .tdie
  | 0x030 => some .mgrant
  | 0x031 => some .mstate
  | 0x038 => some .asb
  | 0x039 => some .asl
  | 0x03A => some .asp
  | 0x040 => some .poolb0
  | 0x041 => some .poolb1
  | 0x042 => some .poolb2
  | 0x048 => some .pspb
  | 0x049 => some .pstat
  | 0x04A => some .rvec
  | 0x100 => some .stvec
  | 0x101 => some .sepc
  | 0x102 => some .scause
  | 0x103 => some .saddr
  | 0x104 => some .selem
  | 0x105 => some .sstatus
  | 0x106 => some .satp
  | 0x108 => some (.vtf 0)
  | 0x109 => some (.vtf 1)
  | 0x10A => some (.vtf 2)
  | 0x10B => some (.vtf 3)
  | 0x110 => some .lqb
  | _ => none

/-- Supervisor CSRs (R83: numbers from 0x100). -/
def Csr.supOnly : Csr → Bool
  | .stvec | .sepc | .scause | .saddr | .selem | .sstatus | .satp | .vtf _ | .lqb => true
  | _ => false

/-- Access RO in Table 5-5. -/
def Csr.ro : Csr → Bool
  | .vl | .vcap | .lratio | .cycle | .instret | .tid | .tcore | .tquad | .tdie | .mgrant | .mstate | .poolb0 | .poolb1
  | .poolb2 | .pstat => true
  | _ => false

/-- Reads that wait until every older VIQ entry has completed (R48). -/
def Csr.readWaits : Csr → Bool
  | .fflags | .vstart | .mgrant | .mstate => true
  | _ => false

/-- Writes held until every older VIQ entry has passed its fault point (R46). -/
def Csr.writeHeld : Csr → Bool
  | .satp | .sstatus | .stvec | .lqb | .pspb | .ulien => true
  | _ => false

/-- Whether an access to a CSR need wait no longer: a read of R48, and the write to FFLAGS, which waits as a read of it does
(R84), for completion, and a write of R46 for the fault points. -/
def Context.csrReady (x : Context) (r : Csr) (rd wr : Bool) : Bool :=
  (x.drained || !((rd && r.readWaits) || (wr && r == .fflags))) && (x.settled || !(wr && r.writeHeld))

/-- The value a CSR reads. -/
def State.csrRead (s : State) (r : Csr) : Word64 :=
  let sc := s.mySc
  let k := s.myCore
  match r with
  | .vl => BitVec.ofNat 64 sc.vl
  | .vt => sc.vt.setWidth 64
  | .vstart => sc.vstart.setWidth 64
  | .vcap => k.vcap.setWidth 64
  | .lratio => k.lratio.setWidth 64
  | .theta => sc.theta.setWidth 64
  | .wlim => sc.wlim.setWidth 64
  | .fflags => sc.fflags.setWidth 64
  | .frm => sc.frm.setWidth 64
  | .fiboff => sc.fiboff.setWidth 64
  | .sstr => sc.sstr
  | .pwaddr => sc.pwaddr
  | .ulivec => sc.ulivec
  | .ulien => BitVec.ofNat 64 (sc.ulien.toNat + 2 * sc.ulinh.toNat)
  | .ulipend => sc.ulipend.setWidth 64
  | .cycle => k.cycle
  | .instret => sc.instret
  | .tid => sc.tid.setWidth 64
  | .tcore => sc.tcore.setWidth 64
  | .tquad => sc.tquad.setWidth 64
  | .tdie => sc.tdie.setWidth 64
  | .mgrant => sc.mgrant.setWidth 64
  | .mstate => sc.mstate.setWidth 64
  | .asb => sc.asb
  | .asl => sc.asl
  | .asp => sc.asp
  | .poolb0 => BitVec.ofNat 64 (k.pool0 * 4096)
  | .poolb1 => BitVec.ofNat 64 (k.pool1 * 4096)
  | .poolb2 => BitVec.ofNat 64 (k.pool2 * 4096)
  | .pspb => BitVec.ofNat 64 k.pspb
  | .pstat => sc.pstat.setWidth 64
  | .rvec => sc.rvec
  | .stvec => sc.stvec
  | .sepc => sc.sepc
  | .scause => sc.scause.setWidth 64
  | .saddr => sc.saddr
  | .selem => sc.selem.setWidth 64
  | .sstatus => sc.sstatus.setWidth 64
  | .satp => sc.satp
  | .vtf n => sc.vtf[n.val]
  | .lqb => (s.die (CtxIx.die s.cur)).lqb

/-- Whether a VT value is one that Table 5-6 does not forbid. -/
def vtOk (v : Word64) : Bool :=
  let ew := v.toNat % 8
  let sc := v.toNat / 32 % 64
  decide (v.toNat < 2048) && decide (ew < 6) && (decide (sc < 48) || sc == 63)

/-- PSPB of a written value: rounded down to 4,096 and clamped (R82). -/
def Core.pspbOf (k : Core) (v : Word64) : Nat := Nat.min (v.toNat / 4096 * 4096) (Nat.min 524288 k.scratchBytes)

/-- A write to PSPB (R82). -/
def State.writePspb (s : State) (c : CoreIx) (v : Word64) : State :=
  s.setCore c { s.core c with pspb := (s.core c).pspbOf v }

/-- Fields of VTFn that a write stores (Table 5-9). -/
def vtfMask : Word64 := 0x0000FFFFFFFF1FFF

/-- A CSR write; none when the value is forbidden (R83). RO CSRs are refused before this. -/
def State.csrWrite (s : State) (r : Csr) (v : Word64) : Option State :=
  let sc := s.mySc
  match r with
  | .vt => if vtOk v then some (s.setMySc { sc with vt := v.setWidth 11 }) else none
  | .vstart => some (s.setMySc { sc with vstart := v.setWidth 12 })
  | .theta => some (s.setMySc { sc with theta := BitVec.ofNat 16 (Nat.min v.toNat 0x8000) })
  | .wlim => some (s.setMySc { sc with wlim := BitVec.ofNat 13 (Nat.max 1 (Nat.min v.toNat 4096)) })
  | .fflags => some (s.setMySc { sc with fflags := v.setWidth 8 })
  | .frm => if v.toNat ≤ 4 then some (s.setMySc { sc with frm := v.setWidth 3 }) else none
  | .fiboff => some (s.setMySc { sc with fiboff := v.setWidth 32 })
  | .sstr => some (s.setMySc { sc with sstr := v })
  | .pwaddr => some (s.setMySc { sc with pwaddr := v &&& ~~~7#64 })
  | .ulivec => some (s.setMySc { sc with ulivec := v &&& ~~~3#64 })
  | .ulien => some (s.setMySc { sc with ulien := v.getLsbD 0 })
  | .ulipend => some (s.setMySc { sc with ulipend := sc.ulipend &&& ~~~(v.setWidth 16) })
  | .asb => some (s.setMySc { sc with asb := v &&& ~~~15#64 })
  | .asl => some (s.setMySc { sc with asl := v &&& ~~~15#64 })
  | .asp => some (s.setMySc { sc with asp := v &&& ~~~15#64 })
  | .pspb => some (s.writePspb (CtxIx.core s.cur) v)
  | .rvec => some (s.setMySc { sc with rvec := v &&& ~~~3#64 })
  | .stvec => some (s.setMySc { sc with stvec := v &&& ~~~3#64 })
  | .sepc => some (s.setMySc { sc with sepc := v })
  | .scause => some (s.setMySc { sc with scause := v.setWidth 8 })
  | .saddr => some (s.setMySc { sc with saddr := v })
  | .selem => some (s.setMySc { sc with selem := v.setWidth 12 })
  | .sstatus => some (s.setMySc { sc with sstatus := v.setWidth 3 })
  | .satp => some (s.setMySc { sc with satp := v })
  | .vtf n => some (s.setMySc { sc with vtf := sc.vtf.set n.val (v &&& vtfMask) })
  | .lqb => some (s.setLqb (CtxIx.die s.cur) v)
  | .vl | .vcap | .lratio | .cycle | .instret | .tid | .tcore | .tquad | .tdie | .mgrant | .mstate | .poolb0 | .poolb1
  | .poolb2 | .pstat => none

/-- A CSR instruction: `wr` is the value to write, from the value read, or none for no write; `rd` is the destination of
the value read, or none when the CSR is not read. -/
def State.csr (s : State) (n : BitVec 12) (rd : Option XReg) (wr : Option (Word64 → Word64)) :
    Host.Outcome State Fault Refusal :=
  let bad := fun c : Cause => Host.Outcome.next (s.pointTrap ⟨c, 0, s.mySc.pc⟩)
  match csrOf n with
  | none => bad .illegal
  | some r =>
    if r.supOnly && !s.mySc.sup then bad .priv
    else if wr.isSome && r.ro then bad .illegal
    else if !s.me.csrReady r rd.isSome wr.isSome then .next s
    else
      let old := s.csrRead r
      let s1 := match wr with
        | none => some s
        | some f => s.csrWrite r (f old)
      match s1 with
      | none => .next (s.scalarTrap ⟨.illegal, 0, s.mySc.pc⟩)
      | some s' =>
        .next (s'.setMySc (match rd with
          | some d => (s'.mySc.wx d old).retire
          | none => s'.mySc.retire))

/-- CSRR (R143). -/
def execCsrr (d : XReg) (c : BitVec 12) (s : State) : Host.Outcome State Fault Refusal := s.csr c (some d) none
/-- CSRW (R143). -/
def execCsrw (a : XReg) (c : BitVec 12) (s : State) : Host.Outcome State Fault Refusal :=
  s.csr c none (some fun _ => s.mySc.rx a)
/-- CSRS (R143); with x0 as source it does not write (R83). -/
def execCsrs (o : X2) (c : BitVec 12) (s : State) : Host.Outcome State Fault Refusal :=
  s.csr c (some o.d) (if o.a = 0 then none else some fun v => v ||| s.mySc.rx o.a)
/-- CSRC (R143); with x0 as source it does not write (R83). -/
def execCsrc (o : X2) (c : BitVec 12) (s : State) : Host.Outcome State Fault Refusal :=
  s.csr c (some o.d) (if o.a = 0 then none else some fun v => v &&& ~~~(s.mySc.rx o.a))

end Sys2Proof.Machine
end

