-- ==== Sys2Proof/Machine/ScalarMem.lean ====
section
/-!
DEFINITION. Scalar loads, stores and atomics (R139 to R141).
-/
namespace Sys2Proof.Machine

/-- Bytes and signedness of a load size (R139). -/
def ldBytes : LdSize → Nat × Bool
  | .b => (1, true) | .bn => (1, false) | .h => (2, true) | .hn => (2, false) | .w => (4, true) | .wn => (4, false)
  | .d => (8, true)
/-- Bytes of a store size (R139). -/
def stBytes : StSize → Nat
  | .b => 1 | .h => 2 | .w => 4 | .d => 8
/-- ext of R139: the `n`-byte value, sign- or zero-extended. -/
def extend (n : Nat) (sg : Bool) (x : Nat) : Word64 :=
  if sg then (BitVec.ofNat (8 * n) x).signExtend 64 else BitVec.ofNat 64 x

/-- Ends the strip interval (R264). -/
def Scalar.endInterval (sc : Scalar) : Scalar := { sc with ivl := sc.ivl + 1 }

/-- Whether an ordered access is performed at the home: one at pkg or sys scope (R245). -/
def homeScope : Option Scope → Bool
  | some .pkg | some .sys => true
  | some .core | some .quad | some .die | none => false

/-- Whether a scalar access to memory is performed in the L1 of its core (R245): an access to the Holm window never is. -/
def inL1 (c : Option Scope) (pa : Nat) : Bool := !homeScope c && !inHolm pa

/-- A store to memory that the L1 of the core `k` performs: other copies of the line are cleaned and invalidated (R246), and its home may
lack it until the line is written back. -/
def State.storeL1 (s : State) (k : CoreIx) (pa n x : Nat) : State :=
  let e : L1Store := ⟨k, pa, s.mem.bytes pa n, ((List.range n).map (pa + ·)).filter fun a => !s.dirty.any fun d => d.1 == a,
    s.marks.contains (lineOf pa, false)⟩
  { s.storeLe (some k) (.mem pa) n x with l1 := e :: cleanL1 s.l1 (some k) pa n }

/-- mem_read of a scalar access, at the scope `c` if it is ordered; a device register is read at its port. -/
def State.scalarRead (s : State) (l : Loc) (n : Nat) (c : Option Scope) : Nat × State :=
  match l with
  | .mem pa =>
    if s.isDevice l then s.devLoad pa n
    else (s.mem.le pa n, s.readAt (if inL1 c pa then some (CtxIx.core s.cur) else none) l n)
  | .win _ _ | .uc _ => (s.loadLe l n, s.readAt none l n)
/-- mem_write of a scalar access. -/
def State.scalarWrite (s : State) (l : Loc) (n x : Nat) (c : Option Scope) : State :=
  let k := CtxIx.core s.cur
  match l with
  | .mem pa => if s.isDevice l then s.devStore pa n x else if inL1 c pa then s.storeL1 k pa n x else s.storeLe (some k) l n x
  | .win _ _ | .uc _ => s.storeLe (some k) l n x

/-- A scalar load (R139); one with an acquire scope ends a strip interval (R140). Only a plain load reaches a device register (R248): an ordered
one faults as the other accesses that R248 keeps from the range do (DEDUCED, log entry 9). -/
def State.scalarLoad (s : State) (d : XReg) (a : Word64) (n : Nat) (sg : Bool) (acq : Option Scope) : Except Trap State := do
  let l ← s.scalarLoc s.scalarAgent a n .read
  if acq.isSome && s.isDevice l then .error ⟨.xlatePerm, 0, a⟩
  let s := s.fillTlb s.scalarAgent a
  let (x, s) := s.scalarRead l n acq
  let sc := s.mySc.wx d (extend n sg x)
  pure (s.setMySc (if acq.isSome then sc.endInterval else sc).retire)

/-- A scalar store (R139); one with a release scope ends a strip interval (R140), and reaches no device register (R248). -/
def State.scalarStore (s : State) (d : XReg) (a : Word64) (n : Nat) (rel : Option Scope) : Except Trap State := do
  let l ← s.scalarLoc s.scalarAgent a n .write
  if rel.isSome && s.isDevice l then .error ⟨.xlatePerm, 0, a⟩
  let s := s.fillTlb s.scalarAgent a
  let s := s.scalarWrite l n ((s.mySc.rx d).toNat % 2 ^ (8 * n)) rel
  pure (s.setMySc (if rel.isSome then s.mySc.endInterval else s.mySc).retire)

/-- A load: it is ordered after the accesses of older strip intervals (R265) and waits for nothing else. -/
def State.loadOr (s : State) (k : Except Trap State) : Host.Outcome State Fault Refusal :=
  s.waits s.intervalReady fun _ => s.scalarTry k

/-- LD (R139). -/
def execLd (d a : XReg) (off : BitVec 12) (z : LdSize) (s : State) : Host.Outcome State Fault Refusal :=
  s.loadOr (s.scalarLoad d (s.mySc.rx a + off.signExtend 64) (ldBytes z).1 (ldBytes z).2 none)
/-- ST (R139), held under R46. -/
def execSt (d a : XReg) (off : BitVec 12) (z : StSize) (s : State) : Host.Outcome State Fault Refusal :=
  s.held fun _ => s.scalarTry (s.scalarStore d (s.mySc.rx a + off.signExtend 64) (stBytes z) none)
/-- LDX (R139). -/
def execLdx (o : X3) (z : LdSize) (s : State) : Host.Outcome State Fault Refusal :=
  s.loadOr (s.scalarLoad o.d (s.mySc.rx o.a + s.mySc.rx o.b) (ldBytes z).1 (ldBytes z).2 none)
/-- STX (R139), held under R46. -/
def execStx (o : X3) (z : StSize) (s : State) : Host.Outcome State Fault Refusal :=
  s.held fun _ => s.scalarTry (s.scalarStore o.d (s.mySc.rx o.a + s.mySc.rx o.b) (stBytes z) none)
/-- LD.ACQ (R140): every access is visible in the order of the steps, so the scope decides only where it is performed (R245). The address is xa + xb, as
of the class (R121; log entry 7). -/
def execLdAcq (o : X3) (c : Scope) (z : LdSize) (s : State) : Host.Outcome State Fault Refusal :=
  s.loadOr (s.scalarLoad o.d (s.mySc.rx o.a + s.mySc.rx o.b) (ldBytes z).1 (ldBytes z).2 (some c))
/-- ST.REL (R140): performed after every earlier access. -/
def execStRel (o : X3) (c : Scope) (z : StSize) (s : State) : Host.Outcome State Fault Refusal :=
  s.heldRel fun _ => s.scalarTry (s.scalarStore o.d (s.mySc.rx o.a + s.mySc.rx o.b) (stBytes z) (some c))

/-! ### Atomics -/

/-- The new value of an atomic on `n` bytes (R141). -/
def amoNew (op : AmoOp) (n old b : Nat) : Nat :=
  let m := 2 ^ (8 * n)
  let sg := fun x : Nat => (BitVec.ofNat (8 * n) x).toInt
  match op with
  | .add => (old + b) % m
  | .and => old &&& b
  | .or => old ||| b
  | .xor => old ^^^ b
  | .swap => b
  | .min => if sg b < sg old then b else old
  | .max => if sg old < sg b then b else old
  | .minn => Nat.min old b
  | .maxn => Nat.max old b

/-- Bytes of an atomic (R121). -/
def amoBytes (dword : Bool) : Nat := if dword then 8 else 4

/-- Held under R46, and as a release where the ordering says so (R141). -/
def State.heldAs (s : State) (o : AOrd) (k : Unit → Host.Outcome State Fault Refusal) : Host.Outcome State Fault Refusal :=
  if o == .rel || o == .ar then s.heldRel k else s.held k

/-- One atomic of a scalar instruction: `f` gives the new value, or none for no write (R141). A device register or a
peer aperture is no place for an atomic (R248). -/
def State.scalarAtomic (s : State) (d : XReg) (a : Word64) (n : Nat) (ordered : Bool) (f : Nat → Option Nat) :
    Except Trap State := do
  let l ← s.scalarLoc s.scalarAgent a n .rw
  if s.isDevice l then .error ⟨.xlatePerm, 0, a⟩
  let s := s.fillTlb s.scalarAgent a
  let old := s.loadLe l n
  let s := s.readAt none l n
  let s := match f old with
    | some x => s.storeLe (some (CtxIx.core s.cur)) l n x
    | none => s
  let sc := s.mySc.wx d (extend n true old)
  pure (s.setMySc (if ordered then sc.endInterval else sc).retire)

/-- AMO (R141), held under R46; with .REL it is ordered after every earlier access. -/
def execAmo (o : AmoArgs) (s : State) : Host.Outcome State Fault Refusal :=
  s.heldAs o.ord fun _ =>
    let n := amoBytes o.dword
    s.scalarTry (s.scalarAtomic o.d (s.mySc.rx o.a) n (o.ord != .none) fun old =>
      some (amoNew o.op n old ((s.mySc.rx o.b).toNat % 2 ^ (8 * n))))
/-- CAS (R141), held under R46; with .REL it is ordered after every earlier access. -/
def execCas (o : CasArgs) (s : State) : Host.Outcome State Fault Refusal :=
  s.heldAs o.ord fun _ =>
    let n := amoBytes o.dword
    s.scalarTry (s.scalarAtomic o.d (s.mySc.rx o.a) n (o.ord != .none) fun old =>
      if old = (s.mySc.rx o.d).toNat % 2 ^ (8 * n) then some ((s.mySc.rx o.b).toNat % 2 ^ (8 * n)) else none)

end Sys2Proof.Machine
end

