-- ==== Sys2Proof/Machine/System.lean ====
section
/-!
DEFINITION. Fences (R144, R145), barriers within a launch (R33, R146), system and task instructions that stay in the
context (R147 to R154), and the wakes of XPOP, WAITE and BAR.
-/
namespace Sys2Proof.Machine

/-! ### Fences -/

/-- A fence: it waits for the older VIQ entries of the kinds `k` selects, loads or stores, and ends the strip interval (R144,
R264). -/
def State.fence (s : State) (k : Bool × Bool → Bool) : Host.Outcome State Fault Refusal :=
  s.waits (!s.pendingAccess k fun _ => true) fun _ => s.scalar Scalar.endInterval

/-- FENCE.LD (R144): accesses are performed in the order of the steps, so the scope adds no effect. -/
def execFenceLd (_c : Scope) (s : State) : Host.Outcome State Fault Refusal := s.fence (·.1)
/-- FENCE.ST (R144). -/
def execFenceSt (_c : Scope) (s : State) : Host.Outcome State Fault Refusal := s.fence (·.2)
/-- FENCE.ALL (R144). -/
def execFenceAll (_c : Scope) (s : State) : Host.Outcome State Fault Refusal := s.fence fun k => k.1 || k.2

/-- Discards the fetch caches of a context (R145, R278). -/
def Context.dropFetch (x : Context) : Context := { x with icache := [], bcache := [] }

/-- IFENCE (R145): serialising. -/
def execIfence (s : State) : Host.Outcome State Fault Refusal :=
  s.serial fun _ => (s.setMe s.me.dropFetch).scalar Scalar.endInterval

/-! ### Barriers within a launch -/

/-- The launch of a task. -/
def State.launch? (s : State) (t : TaskRef) : Option Launch := s.launches[t.launch]?

/-- Shape product of a launch (R26). -/
def Launch.product (l : Launch) : Nat := l.tpc * l.cpq * l.qpd * l.dies
/-- TCORE of a task (R28). -/
def Launch.tcore (l : Launch) (tid : Nat) : Nat := tid / l.tpc % l.cpq
/-- TQUAD of a task (R28). -/
def Launch.tquad (l : Launch) (tid : Nat) : Nat := tid / (l.tpc * l.cpq) % l.qpd
/-- TDIE of a task (R28). -/
def Launch.tdie (l : Launch) (tid : Nat) : Nat := tid / (l.tpc * l.cpq * l.qpd) % l.dies

/-- Whether two tasks of a launch share a level (R33). -/
def Launch.sameGroup (l : Launch) (c : Scope) (t u : Nat) : Bool :=
  match c with
  | .core => l.tcore t == l.tcore u && l.tquad t == l.tquad u && l.tdie t == l.tdie u
  | .quad => l.tquad t == l.tquad u && l.tdie t == l.tdie u
  | .die => l.tdie t == l.tdie u
  | .pkg | .sys => true

/-- The episodes a task of launch `i` has arrived at; none once it has ended, which counts as arrived at every later
episode (R33). A task that is not resident keeps its count with its save. -/
def State.arrivals (s : State) (i tid level : Nat) : Option Nat :=
  match s.launches[i]? with
  | none => none
  | some l =>
    if l.ended.contains tid then none
    else
      match s.ctxs.toList.find? (fun x => x.task == some ⟨i, tid⟩) with
      | some x => some (x.bars.toList.getD level 0)
      | none => some (((l.saved.find? (fun v => v.tid == tid)).map (fun v => v.bars.toList.getD level 0)).getD 0)

/-- Whether episode `k` of the group of task `t` at a level is complete (R33). -/
def State.barDone (s : State) (t : TaskRef) (c : Scope) (k : Nat) : Bool :=
  match s.launch? t with
  | none => true
  | some l =>
    (List.range l.count).all fun u =>
      !l.sameGroup c t.tid u ||
      match s.arrivals t.launch u (barIx c) with
      | none => true
      | some n => decide (k ≤ n)

/-- The task of a gang launch that a context runs (R33). -/
def State.gangTask (s : State) (c : CtxIx) : Option TaskRef :=
  match (s.ctx c).task with
  | none => none
  | some t =>
    match s.launch? t with
    | some l => if l.gang then some t else none
    | none => none

/-- BAR (R33, R146): arrives, and completes or parks. -/
def execBar (c : Scope) (s : State) : Host.Outcome State Fault Refusal :=
  match s.gangTask s.cur with
  | none => .next (s.scalarTrap ⟨.scope, 0, s.mySc.pc⟩)
  | some t =>
    s.heldRel fun _ =>
      let s := s.setMe (s.me.arrive c (· + 1))
      if s.barDone t c (s.me.bars.toList.getD (barIx c) 0) then s.scalar Scalar.endInterval
      else .next (s.setMe { s.me with parked := some (.bar c) })

/-- BAR_COMPLETE (R33): a parked BAR whose episode is complete retires. -/
def execBarComplete (c : CtxIx) (s : State) : Host.Outcome State Fault Refusal :=
  let x := s.ctx c
  match x.parked, x.task with
  | some (.bar l), some t =>
    if s.barDone t l (x.bars.toList.getD (barIx l) 0) then
      let y := { x with parked := none }
      .next (s.setCtx c (y.setSc (x.regs.sc.endInterval).retire))
    else .next s
  | _, _ => .next s

/-! ### System and task instructions -/

/-- SYSCALL (R147). -/
def execSyscall (s : State) : Host.Outcome State Fault Refusal := .next (s.pointTrap ⟨.syscall, 0, s.mySc.pc⟩)
/-- BREAK (R147). -/
def execBrk (s : State) : Host.Outcome State Fault Refusal := .next (s.pointTrap ⟨.brk, 0, s.mySc.pc⟩)

/-- SRET (R148): supervisor-only and serialising. -/
def execSret (s : State) : Host.Outcome State Fault Refusal :=
  s.privileged fun _ => s.serial fun _ => .next (s.setMySc { s.mySc.sret with instret := s.mySc.instret + 1 })

/-- Pops the oldest VSQ entry into xd (R50). -/
def Scalar.pop (sc : Scalar) (d : XReg) : Scalar :=
  match sc.vsq with
  | [] => sc
  | v :: t => ({ sc with vsq := t, vsqPops := sc.vsqPops + 1 } : Scalar).wx d v

/-- XPOP (R149): pops, or parks on an empty VSQ. -/
def execXpop (d : XReg) (s : State) : Host.Outcome State Fault Refusal :=
  if s.mySc.vsq.isEmpty then .next (s.setMe { s.me with parked := some (.xpop d) })
  else s.scalar fun sc => sc.pop d

/-- XPOP_WAKE (R149): a parked XPOP pops the entry that has arrived. -/
def execXpopWake (c : CtxIx) (s : State) : Host.Outcome State Fault Refusal :=
  let x := s.ctx c
  match x.parked with
  | some (.xpop d) =>
    if x.regs.sc.vsq.isEmpty then .next s
    else .next (s.setCtx c (({ x with parked := none } : Context).setSc (x.regs.sc.pop d).retire))
  | _ => .next s

/-- The feature words of the BX-4 (Table 5-10). -/
def State.feature (s : State) (n : Nat) : Word64 :=
  match n with
  | 0 => 0x44810001
  | 1 => if s.skerry.parity then 0xFF else 0xBF
  | 2 => 0x44C4
  | 3 => BitVec.ofNat 64 ((if s.skerry.parity then 992 else 1024) + 768 * 2 ^ 16 + 128 * 2 ^ 32 + 256 * 2 ^ 48)
  | _ => 0

/-- FEAT (R86, R150). -/
def execFeat (d : XReg) (n : Fin 32) (s : State) : Host.Outcome State Fault Refusal :=
  s.scalar fun sc => sc.wx d (s.feature n.val)

/-- x24 to x31 and the shadow copies exchange places (R305). -/
def Scalar.swapShadow (sc : Scalar) : Scalar :=
  { sc with
    x := sc.x.mapFinIdx fun i v _ => if h : 24 ≤ i ∧ i < 32 then sc.shadow[i - 24]'(by omega) else v
    shadow := sc.shadow.mapFinIdx fun i _ _ => sc.x[i + 24] }

/-- ULIRET (R151, R305). -/
def execUliret (s : State) : Host.Outcome State Fault Refusal :=
  if s.mySc.ulinh then
    let sc := s.mySc
    .next (s.setMySc { (sc.swapShadow.retireTo (sc.rx 31)) with ulinh := false })
  else .next (s.scalarTrap ⟨.illegal, 0, s.mySc.pc⟩)

/-- Whether TLBINV keeps a cached translation (R152): it goes when its page and its ASID match; an entry with G = 1
carries no ASID (R258). -/
def TlbEntry.kept (t : TlbEntry) (va : Option Nat) (asid : Option (BitVec 16)) : Bool :=
  let page := match va with
    | none => true
    | some a => decide (t.va ≤ a) && decide (a < t.va + t.size)
  let space := match asid with
    | none => true
    | some i => !t.glob && t.asid == i
  !(page && space)

/-- Removes translations from every TLB of the module (R152). -/
def State.dropTlb (s : State) (va : Option Nat) (asid : Option (BitVec 16)) : State :=
  { s with
    cores := s.cores.map fun k =>
      { k with tlbS := k.tlbS.filter (·.kept va asid), tlbV := k.tlbV.filter (·.kept va asid) }
    dies := s.dies.map fun d => { d with tlb2 := d.tlb2.filter (·.kept va asid) } }

/-- TLBINV (R152): supervisor-only and serialising. Of an address that is not canonical, for which the rule says nothing, the low 57 bits
are compared (DESIGN CHOICE, log entry 41). -/
def execTlbinv (a b : XReg) (s : State) : Host.Outcome State Fault Refusal :=
  s.privileged fun _ => s.serial fun _ =>
    let va := if a = 0 then none else some (va57 (s.mySc.rx a))
    let asid := if b = 0 then none else some ((s.mySc.rx b).setWidth 16)
    (s.dropTlb va asid).scalar id

/-- SRINV (R153): it comes after the accesses of older strip intervals, so that a record it drops is not read again before an acquire
that goes before it (R265, R269). -/
def execSrinv (a : XReg) (s : State) : Host.Outcome State Fault Refusal :=
  s.waits s.intervalReady fun _ =>
    let c := CtxIx.core s.cur
    let k := s.core c
    let va := (s.mySc.rx a).toNat
    (s.setCore c { k with rcache := if a = 0 then [] else k.rcache.filter fun r => r.va != va }).scalar id

/-- WAITE (R154). -/
def execWaite (s : State) : Host.Outcome State Fault Refusal :=
  if s.mySc.ulipend = 0 then .next (s.setMe { s.me with parked := some .waite }) else s.scalar id

/-- Whether a delivery is due (R305). -/
def Scalar.uliDue (sc : Scalar) : Bool := sc.ulien && !sc.ulinh && sc.ulipend != 0 && !sc.sup

/-- WAITE_WAKE (R154): where the event is to be delivered, the handler runs first. -/
def execWaiteWake (c : CtxIx) (s : State) : Host.Outcome State Fault Refusal :=
  let x := s.ctx c
  match x.parked with
  | some .waite =>
    if x.regs.sc.ulipend = 0 || x.regs.sc.uliDue then .next s
    else .next (s.setCtx c (({ x with parked := none } : Context).setSc x.regs.sc.retire))
  | _ => .next s

end Sys2Proof.Machine
end

