-- ==== Sys2Proof/Machine/Viq.lean ====
section
/-!
DEFINITION. The vector instruction queue: issuing an entry with its checkpoint (R44, R47), performing an entry, and what an
entry does to the scalar side while younger instructions have already run ahead (R47).
-/
namespace Sys2Proof.Machine

/-- What performing an entry ends in: done; a trap, after the effects of the elements below it, whose flags stay (R110);
or a wait, in which the entry stays where it is in its queue. `blk` says that an element block was aborted. -/
inductive PerfOut where
  | done (s : State)
  | trap (s : State) (t : Trap) (f : BitVec 8 := 0) (blk : Bool := false)
  | wait (s : State)

/-- What an entry does when it is performed, on the acting context, with the operands its entry captured. -/
abbrev Perf := Entry → State → PerfOut

/-- raise(cause, 0, PC) of an entry: a fault that no element causes has SELEM 0 and the instruction's address in SADDR, a SHAPE_RECORD
fault of R161 and R171 among them, for which no rule states either (DESIGN CHOICE, log entry 41). -/
def Entry.trap (e : Entry) (c : Cause) : Trap := ⟨c, 0, e.chk.pc⟩

/-- An effect on the scalar side that run-ahead does not undo: on the current scalar side and on every checkpoint. -/
def Context.every (x : Context) (f : Scalar → Scalar) : Context :=
  { x with
    regs := { x.regs with sc := f x.regs.sc }
    viq := x.viq.map fun e => { e with chk := f e.chk }
    block := x.block.map fun b => { b with entry := { b.entry with chk := f b.entry.chk } } }
/-- The same, for the acting context: what an entry writes stands in every younger checkpoint (R47). -/
def State.every (s : State) (f : Scalar → Scalar) : State := s.setMe (s.me.every f)
/-- FFLAGS of a completing entry. -/
def State.entryFlags (s : State) (f : BitVec 8) : State := s.every (·.setFlags f)

/-- A write to xd by an entry that issued with INH = `inh`: where a ULI delivery or ULIRET has exchanged x24 to x31 since,
the register stands among the shadow copies (R305). -/
def Scalar.wxAs (inh : Bool) (d : XReg) (v : Word64) (sc : Scalar) : Scalar :=
  if h : 24 ≤ d.val ∧ inh ≠ sc.ulinh then { sc with shadow := sc.shadow.set (d.val - 24) v (by omega) } else sc.wx d v

/-- An entry that sets flags and ends in a fault of a later element, or completes (R110). -/
def PerfOut.flagged (s : State) (f : BitVec 8) (t : Option Trap) : PerfOut :=
  match t with
  | some t => .trap s t f
  | none => .done (s.entryFlags f)

/-- Whether the instruction in which a context is parked is an entry of its VIQ. Every other parked instruction waits in the
scalar pipe, and the lanes go on (R42, R50). -/
def Context.entryParked (x : Context) : Bool :=
  match x.parked with
  | some (.qenqV _) | some (.qdeqV _) => true
  | _ => false

/-- How many entries at the head of the queue have passed their fault points: the others come after them (R46). -/
def Context.passedLen (x : Context) : Nat := (x.viq.takeWhile (·.passed.isSome)).length

/-- The VIQ slots in use: an element block in flight keeps its slot. -/
def Context.viqUsed (x : Context) : Nat := x.viq.length + (if x.block.isSome then 1 else 0)

/-- Signed word offset OFF of a VTF (Table 5-9). -/
def vtfOff (v : Word64) : Word64 := (((v >>> 16).setWidth 32 : BitVec 32).signExtend 64) <<< 2

/-- Whether a valid VTF names an address (R318). -/
def Scalar.vtfNames (sc : Scalar) (n : Fin 4) (a : Word64) : Bool :=
  sc.vtf[n.val].getLsbD 0 && sc.sepc + vtfOff sc.vtf[n.val] == a
/-- The VTF that names the instruction at the pc, if one does (R318). -/
def Scalar.vtfHit (sc : Scalar) : Option (Fin 4) := (List.finRange 4).find? fun n => sc.vtfNames n sc.pc

/-- What an entry captures as VSTART (R44, R318). -/
def Scalar.replay (sc : Scalar) : Scalar :=
  match sc.vtfHit with
  | none => sc
  | some n =>
    let v := sc.vtf[n.val]
    { sc with vstart := (v >>> 1).setWidth 12, vtf := sc.vtf.set n.val (v &&& ~~~1#64) }

/-! ### What is kept for a replay -/

/-- Whether what is kept belongs to the instruction at the pc of a scalar side: its address, its privilege, its INH. -/
def Hold.of (h : Hold) (sc : Scalar) : Bool := h.pc == sc.pc && h.sup == sc.sup && h.inh == sc.ulinh
/-- What a context keeps for the replay of the instruction of a checkpoint. -/
def Context.holdOf (x : Context) (sc : Scalar) : Option Hold := x.holds.find? fun h => h.of sc
/-- Puts what is kept for the replay of an instruction in the place of what was; nothing is kept of one that has read no
record and stored no byte. -/
def Context.putHold (x : Context) (h : Hold) (sc : Scalar) : Context :=
  let rest := x.holds.filter fun o => !o.of sc
  { x with holds := if h.rcd.isNone && h.done == 0 then rest else h :: rest }
/-- What an entry keeps for its replay: the record it read at issue (R161), and the bytes it has stored (R241). -/
def Entry.hold (e : Entry) (vtf : Bool) (done : Nat) : Hold := ⟨e.chk.pc, e.chk.sup, e.chk.ulinh, vtf, e.rcd, done⟩
/-- The bytes that an entry's earlier executions stored are `n` (R241). -/
def State.keepDone (s : State) (e : Entry) (n : Nat) : State := s.setMe (s.me.putHold (e.hold false n) e.chk)

/-- The trap of an entry: younger entries are discarded and the checkpoint is restored, with the flags of the elements
the entry performed (R47, R110, R313). A shape record it read is kept for its replay (R161), with the bytes it has stored in this
execution and in earlier ones (R241). -/
def State.entryTrap (s : State) (e : Entry) (t : Trap) (f : BitVec 8) (blk : Bool) : State :=
  let n := (((s.me.holdOf e.chk) <|> e.held).map Hold.done).getD 0
  (s.takeTrap s.cur (e.chk.setFlags f) t e.chk.pc blk).keepDone e n

/-! ### Performing -/

/-- VSTART becomes 0 as an entry of the acting context completes, whatever a younger CSR write has put there by then (R44, R48,
R84). -/
def State.zeroVstart (s : State) : State := if s.mySc.vstart = 0 then s else s.setMySc { s.mySc with vstart := 0 }

/-- Whether an entry that has been performed has completed: an element block has only started, until it has stopped (R189). -/
def Entry.ends (e : Entry) : Bool :=
  match e.instr with
  | .vfetch _ | .vfetchx _ => e.draining
  | _ => true

/-- The acting context once an entry of it has been performed. -/
def State.completed (s : State) (e : Entry) : State := if e.ends then s.zeroVstart else s

/-- The state an entry leaves: done, trapped, or back in its queue. -/
def PerfOut.finish (e : Entry) : PerfOut → State
  | .done s => s.completed e
  | .trap s t f blk => s.entryTrap e t f blk
  | .wait s => s.setMe { s.me with viq := e :: s.me.viq }

/-- Performs the oldest entry. -/
def State.runHead (s : State) (p : Perf) : State :=
  match s.me.viq with
  | [] => s
  | e :: rest => (p e (s.setMe { s.me with viq := rest })).finish e

/-- Performs entry `n`, whose older ones have passed their fault points and are left as they are. Where it faults while one of these is
pending, it waits until they have completed (R47). -/
def State.runAt (s : State) (n : Nat) (p : Perf) : State :=
  match s.me.viq[n]? with
  | none => s
  | some e =>
    let left := fun (t : State) => s.me.viq.take n ++ t.me.viq.drop n
    match p e (s.setMe { s.me with viq := s.me.viq.eraseIdx n }) with
    | .done t => (t.setMe { t.me with viq := left t }).completed e
    | .trap t x f blk => if n = 0 then t.entryTrap e x f blk else s
    | .wait t => t.setMe { t.me with viq := (left t).insertIdx n e }

/-- Performs the entry in which the acting context is parked. -/
def State.runParked (s : State) (p : Perf) : State := s.runAt s.me.passedLen p

/-- Whether an entry is performed in the step that issues it: nothing older is pending, no register holds an error, and the run
does not hold the lanes (log entry 5). -/
def State.performsNow (s : State) (i : Instr) : Bool :=
  s.me.drained && s.me.badRegs.isEmpty && (atIssue i || !s.choices.lanesHeld)

/-- Whether the block in flight stands at its STOP and the VSQ has no room for its pushes (R50, R189). -/
def Context.vsqStuck (x : Context) : Bool :=
  match x.block with
  | some b => b.pos + 1 == b.words.length && decide (16 < x.regs.sc.vsq.length + b.pushes.length)
  | none => false

/-- Whether the oldest entry of the acting context waits to push onto the full VSQ (R50): the block in flight at its STOP,
or an entry that is not started. -/
def State.pushWaits (s : State) : Bool :=
  let x := s.me
  match x.block, x.viq with
  | some _, q => x.vsqStuck && !q.any (·.passed.isSome)
  | none, e :: _ => e.passed.isNone && decide (16 ≤ x.regs.sc.vsq.length) && s.entryPushes e
  | none, [] => false

/-- The state of R50 in which the core raises ILLEGAL when the next instruction needs a VIQ entry: VSQ and VIQ are full and
the oldest entry waits to push. -/
def State.viqDeadlock (s : State) : Bool :=
  decide (32 ≤ s.me.viqUsed) && decide (16 ≤ s.mySc.vsq.length) && s.pushWaits

/-- The trap of R50, at the instruction that needs a VIQ entry; the older entries go on waiting. -/
def State.deadlockTrap (s : State) : Host.Outcome State Fault Refusal :=
  .next (s.setMySc (s.mySc.clearVtf.enterTrap ⟨.illegal, 0, s.mySc.pc⟩ s.mySc.pc false))

/-- An instruction that enters the VIQ and reads memory as it issues: in the state of R50 it faults, else it waits for the accesses of
older strip intervals (R265, R269). -/
def State.issueRead (s : State) (k : Unit → Host.Outcome State Fault Refusal) : Host.Outcome State Fault Refusal :=
  if s.viqDeadlock then s.deadlockTrap else s.waits s.intervalReady k

/-- What the scalar pipe decides for an entry as it issues: the record read (R161), the mask of SETFIB (R165), the grant of
FLD (R178) or the bytes an interrupted MSTT or MGST has stored (R241, R244). -/
structure Captured where
  rcd   : Option (BitVec 512)
  mask  : MBits
  grant : Nat

/-- Nothing is decided at issue. -/
def Captured.none : Captured := ⟨.none, 0, 0⟩

/-- The entry an instruction becomes: it captures the scalar side and the task, and takes over what was kept for its replay. -/
def State.entryFor (s : State) (i : Instr) (k : Captured) : Entry :=
  ⟨i, s.mySc.replay, k.rcd, s.me.task, Option.none, k.mask, k.grant, s.me.holdOf s.mySc, [], Option.none⟩
/-- The scalar side once the instruction has issued. -/
def State.issuedSc (s : State) (post : Scalar → Scalar) : Scalar :=
  post ({ s.mySc.replay with vstart := 0 } : Scalar).retire

/-- Whether an instruction that is performed as it issues may go before the older entries that have passed their fault points (R45,
R46, R265). -/
def State.mayPrecede (s : State) (e : Entry) : Bool :=
  s.me.settled && s.me.badRegs.isEmpty && s.me.viq.all fun p => s.mayPass p e

/-- Issues a VIQ entry: it captures the scalar side, VSTART becomes 0, the pc advances and `post` is what the scalar pipe
itself decides. With 32 entries the instruction waits; in the state of R50 it faults ILLEGAL. One that is performed as it issues waits
while it depends on an older entry, and parks behind those that have passed their fault points; one that would fault waits until each
has completed (R47). -/
def State.viqWith (s : State) (i : Instr) (k : Captured) (post : Scalar → Scalar) (p : Perf) :
    Host.Outcome State Fault Refusal :=
  if 32 ≤ s.me.viqUsed then
    if s.viqDeadlock then s.deadlockTrap else .next s
  else
    let e := s.entryFor i k
    let t := s.setMe { s.me.setSc (s.issuedSc post) with
      viq := s.me.viq ++ [e], holds := s.me.holds.filter fun h => !h.of s.mySc }
    if s.performsNow i then .next (t.runHead p)
    else if atIssue i && !s.me.drained then
      if !s.mayPrecede e then .next s
      else
        match p e (t.setMe { t.me with viq := s.me.viq }) with
        | .done u => .next (u.setMe { u.me with viq := s.me.viq })
        | .wait u => .next (u.setMe { u.me with viq := s.me.viq ++ [e] })
        | .trap _ _ _ _ => .next s
    else .next t

/-- Issues a VIQ entry that may have read a shape record. -/
def State.viq (s : State) (i : Instr) (rcd : Option (BitVec 512)) (post : Scalar → Scalar) (p : Perf) :
    Host.Outcome State Fault Refusal :=
  s.viqWith i { Captured.none with rcd := rcd } post p

end Sys2Proof.Machine
end

