-- ==== Sys2Proof/Machine/Strikes.lean ====
section
/-!
DEFINITION. Uncorrectable errors in registers that S-stream instructions read (R321): the scalar registers of a word, the bits an
element reads, and how an instruction that works on its elements in order is cut at the one that meets an error (log entry 38).
-/
namespace Sys2Proof.Machine

/-- A scalar register that a word of the S-stream only writes. -/
def xdest : Instr → Option XReg
  | .add o | .sub o | .and o | .or o | .xor o | .andn o | .orn o | .sll o | .srl o | .sra o | .slt o | .sltn o | .min o
  | .max o | .minn o | .maxn o | .mul o | .mulh o | .mulhn o | .div o | .divn o | .rem o | .remn o
  | .ldx o _ | .ldAcq o _ _ | .fcmp o _ _ | .vsetlx o | .apop o _ | .bwait o | .uliarm o => some o.d
  | .clz o | .ctz o | .popc o | .fsqrt o _ _ | .fclass o _ | .csrs o _ | .csrc o _
  | .tstop o | .vsetl o _ | .matt o | .mattB o | .qcnt o _ | .bphase o => some o.d
  | .sext o | .zext o => some o.d
  | .slli o | .srli o | .srai o => some o.d
  | .addi o | .andi o | .ori o | .xori o | .slti o | .shori o | .jalr o => some o.d
  | .lih d _ | .jal d _ | .csrr d _ | .xpop d | .feat d _ => some d
  | .ld d _ _ _ => some d
  | .amo o => some o.d
  | .fadd o | .fsub o | .fmul o | .fdiv o => some o.d
  | .fmin o | .fmax o => some o.d
  | .fcvtToFp o | .fcvtFromFp o => some o.d
  | .qenqX o | .qdeqX o | .qenqM o | .qdeqM o => some o.d
  | .qenqV o | .qdeqV o => some o.d
  | _ => none

/-- The scalar registers a word of the S-stream reads. -/
def xsources (i : Instr) : List XReg :=
  match xdest i with
  | some d => (xregs i).erase d
  | none => xregs i

/-- Whether a scalar source of a word holds an error. -/
def Context.badSource (x : Context) (i : Instr) : Bool := (xsources i).any fun r => r != 0 && x.badRegs.contains (.x r)

/-! ### Parts of a register -/

/-- A run of bits of a register. -/
structure BitRange where
  res : Res
  lo  : Nat
  len : Nat
  deriving DecidableEq, Repr

/-- Element `i` of width `w` of a register. -/
def elemRange (r : Res) (i w : Nat) : BitRange := ⟨r, w * i, w⟩

/-- Whether a byte that holds an error lies in a run of bits. -/
def RegPart.hits (p : RegPart) (r : BitRange) : Bool :=
  p.res == some r.res && match p with
    | .v _ b | .m _ b | .w _ b => decide (8 * b < r.lo + r.len) && decide (r.lo < 8 * b + 8)
    | .x _ | .acc _ _ _ => false

/-- Whether a read of a run of bits meets an error. -/
def Context.struck (x : Context) (r : BitRange) : Bool := x.badRegs.any fun p => p.hits r
/-- Whether a read of the bit for element `i` of a mask field meets one. -/
def Context.maskStruck (x : Context) (m : MSel) (i : Nat) : Bool := m.any fun r => x.struck (elemRange (.m r) i 1)
/-- Whether a read of element (i, j) of an accumulator meets one. -/
def Context.accStruck (x : Context) (a : AccIx) (i j : Nat) : Bool := x.badRegs.contains (.acc a i j)

/-! ### Elements -/

/-- The mask field of an instruction that works on elements. -/
def elemMask : Instr → MSel
  | .vld o | .vlds o _ | .vldg o _ | .vld2 o | .vldx o _ | .vsplat o => o.m
  | .vldxAcq _ _ _ m _ => m
  | .vst o => o.m
  | .vsts o _ | .vstsNtf o _ | .vst2 o _ | .vstg o _ _ | .vstx o _ _ | .vstb o _ | .vstbNtf o _ | .vsred o _ | .vrred o _ _ _ => o.m
  | .vamo o => o.m
  | _ => none

/-- The bits that element `i` of an instruction reads for its address, when it is active: an index at EW (R159, R169, R173, R174). -/
def addrReads (n : Instr) (sc : Scalar) (i : Nat) : List BitRange :=
  let idx := fun (v : VReg) => elemRange (.v v) i sc.ew
  match n with
  | .vldx _ x | .vldxAcq _ _ x _ _ | .vldw _ _ x _ _ | .vstx _ x _ => [idx x]
  | .vamo o => ((vregAdd o.v 1).map idx).toList
  | .vsred o _ => ((vregAdd o.v 1).map idx).toList
  | _ => []

/-- The bits that it reads as data, once its address has been checked: an element at the width of the instruction, and the scale byte
of a VRRED (R160, R173, R174, R176). -/
def dataReads (n : Instr) (sc : Scalar) (i : Nat) : List BitRange :=
  let data := fun (v : VReg) (e : EwSel) => elemRange (.v v) i (ewBits e sc)
  match n with
  | .vst o => [data o.v o.e]
  | .vsts o _ | .vstsNtf o _ | .vst2 o _ | .vstb o _ | .vstbNtf o _ | .vstx o _ _ | .vsred o _ => [data o.v o.e]
  | .vstg o k _ => (fieldRegs o.v k.val).map fun v => data v o.e
  | .vamo o => [elemRange (.v o.v) i (8 * amoBytes o.dword)]
  | .vrred o _ _ _ =>
    data o.v o.e :: (if ewBits o.e sc ≤ 8 then ((vtSc sc.vt).map fun r => elemRange (.v r) (i / 32) 8).toList else [])
  | _ => []

/-- The lowest element from VSTART upward for which a read of `reads` meets an error when it is active, or, with `mask`, a read of its
mask bit (R321). -/
def State.badRead (s : State) (e : Entry) (mask : Bool) (reads : Instr → Scalar → Nat → List BitRange) : Option Nat :=
  if s.me.badRegs.isEmpty then none
  else
    let m := elemMask e.instr
    ((List.range e.chk.vl).filter fun i => decide (e.chk.vstart.toNat ≤ i)).find? fun i =>
      (mask && s.me.maskStruck m i) || (s.selects m i && (reads e.instr e.chk i).any s.me.struck)

/-- The lowest element that meets an error in any register it reads. -/
def State.badElem (s : State) (e : Entry) : Option Nat := s.badRead e true fun n sc i => addrReads n sc i ++ dataReads n sc i

/-- A captured scalar side cut to the elements below one that faults, whose tail is left alone. -/
def Scalar.upTo (sc : Scalar) (n : Option Nat) : Scalar :=
  match n with
  | none => sc
  | some n => { sc with vl := Nat.min sc.vl n, vt := sc.vt &&& ~~~(8#11) }

/-- MEM_UNCORRECTABLE for a register or accumulator: SADDR is 0 (R321). -/
def regTrap (i : Nat) : Trap := ⟨.memUncorrectable, i, 0⟩

/-- The elements an instruction performs and its fault, cut at the first element that meets an error in a register: its mask bit and its
index are read before its address is checked, and its data after (R160, R314). -/
def State.cutBad {α : Type} (s : State) (e : Entry) (q : List (Nat × α) × Option Trap) : List (Nat × α) × Option Trap :=
  let cut := fun (q : List (Nat × α) × Option Trap) (n : Nat) => (q.1.filter fun p => decide (p.1 < n), some (regTrap n))
  let q := match s.badRead e true addrReads with
    | some n => if q.2.any fun t => decide (t.elem < n) then q else cut q n
    | none => q
  match s.badRead e false dataReads with
  | some n => if q.2.any fun t => decide (t.elem ≤ n) then q else cut q n
  | none => q

end Sys2Proof.Machine
end

