-- ==== Sys2Proof/Machine/Branch.lean ====
section
/-!
DEFINITION. Branches and jumps (R142).
-/
namespace Sys2Proof.Machine

/-- PC + 4 × sext(offset). -/
def branchTarget (pc : Word64) {n : Nat} (off : BitVec n) : Word64 := pc + (off.signExtend 64) <<< 2

/-- A conditional branch: `c` of xa and xb decides. -/
def State.branch (s : State) (o : Br) (c : Word64 → Word64 → Bool) : Host.Outcome State Fault Refusal :=
  let sc := s.mySc
  .next (s.setMySc (if c (sc.rx o.a) (sc.rx o.b) then sc.retireTo (branchTarget sc.pc o.o) else sc.retire))

/-- BEQ (R142). -/
def execBeq (o : Br) (s : State) : Host.Outcome State Fault Refusal := s.branch o fun a b => a == b
/-- BNE (R142). -/
def execBne (o : Br) (s : State) : Host.Outcome State Fault Refusal := s.branch o fun a b => a != b
/-- BLT (R142). -/
def execBlt (o : Br) (s : State) : Host.Outcome State Fault Refusal := s.branch o fun a b => a.slt b
/-- BGE (R142). -/
def execBge (o : Br) (s : State) : Host.Outcome State Fault Refusal := s.branch o fun a b => !a.slt b
/-- BLTN (R142). -/
def execBltn (o : Br) (s : State) : Host.Outcome State Fault Refusal := s.branch o fun a b => a.ult b
/-- BGEN (R142). -/
def execBgen (o : Br) (s : State) : Host.Outcome State Fault Refusal := s.branch o fun a b => !a.ult b

/-- JAL (R142). -/
def execJal (d : XReg) (i : BitVec 16) (s : State) : Host.Outcome State Fault Refusal :=
  let sc := s.mySc
  .next (s.setMySc ((sc.wx d (sc.pc + 4)).retireTo (branchTarget sc.pc i)))
/-- JALR (R142): a target with bits [1:0] not zero faults MISALIGN. -/
def execJalr (o : XImm) (s : State) : Host.Outcome State Fault Refusal :=
  let sc := s.mySc
  let t := sc.rx o.a + o.i.signExtend 64
  if t &&& 3 = 0 then .next (s.setMySc ((sc.wx o.d (sc.pc + 4)).retireTo t))
  else .next (s.scalarTrap ⟨.misalign, 0, t⟩)

end Sys2Proof.Machine
end

