-- ==== Sys2Proof/Machine/Strip.lean ====
section
/-!
DEFINITION. Setting the vector length (R163 to R165), VSPLAT and VPRF (R166).
-/
namespace Sys2Proof.Machine

/-- The cap of grant(n): VLMAX × VCAP / 8 (R8). -/
def Core.cap (k : Core) (vt : BitVec 11) : Nat := vlmax (vtEw vt) * k.vcap.toNat / 8
/-- grant(n) (R8). -/
def Core.grant (k : Core) (vt : BitVec 11) (n : Nat) : Nat := Nat.min n (k.cap vt)
/-- max(sxa, 0). -/
def posOf (x : Word64) : Nat := x.toInt.toNat

/-- An entry that only marks the end of a strip interval (R158). -/
def perfNone : Perf := fun _ s => .done s

/-- Issue of VSETL and VSETLX with the new VT `v` (R163). -/
def State.setLen (s : State) (i : Instr) (d a : XReg) (v : Word64) : Host.Outcome State Fault Refusal :=
  if !vtOk v then .next (s.scalarTrap ⟨.illegal, 0, s.mySc.pc⟩)
  else
    let vt : BitVec 11 := v.setWidth 11
    let n := s.myCore.grant vt (posOf (s.mySc.rx a))
    s.viq i none (fun sc => (({ sc with vt := vt, vl := n } : Scalar).wx d (BitVec.ofNat 64 n)).endInterval) perfNone

/-- VSETL (R163). -/
def execVsetl (o : X2) (t : BitVec 11) (s : State) : Host.Outcome State Fault Refusal :=
  s.setLen (.vsetl o t) o.d o.a (t.setWidth 64)
/-- VSETLX (R163). -/
def execVsetlx (o : X3) (s : State) : Host.Outcome State Fault Refusal :=
  s.setLen (.vsetlx o) o.d o.a (s.mySc.rx o.b)

/-- SSTR.k as a signed count of bits per element (Table 5-8). -/
def Scalar.sstrOf (sc : Scalar) (k : Nat) : Int := sext 16 (sc.sstr.toNat / 2 ^ (16 * k) % 2 ^ 16)
/-- x(p + k). -/
def xregAdd (p : XReg) (k : Nat) : XReg := ⟨(p.val + k) % 32, by omega⟩
/-- The pointer writes of STRIP, in order (R164). -/
def Scalar.advance (sc : Scalar) (p : XReg) (vl : Nat) : Nat → Nat → Scalar
  | _, 0 => sc
  | k, n + 1 =>
    let r := xregAdd p k
    let d : Int := ((vl : Int) * sc.sstrOf k) / 8
    (sc.wx r (sc.rx r + BitVec.ofInt 64 d)).advance p vl (k + 1) n

/-- STRIP (R164). -/
def execStrip (c p : XReg) (n : Fin 4) (o : BitVec 14) (s : State) : Host.Outcome State Fault Refusal :=
  let k := s.myCore
  let pc := s.mySc.pc
  s.viq (.strip c p n o) none (fun sc =>
    let sc1 := (sc.wx c (sc.rx c - BitVec.ofNat 64 sc.vl)).advance p sc.vl 0 (n.val + 1)
    let left := posOf (sc1.rx c)
    let sc2 := sc1.endInterval
    if 0 < left then { sc2 with vl := k.grant sc.vt left, pc := branchTarget pc o }
    else { sc2 with vl := 0 }) perfNone

/-- State of the row loop of SETFIB (R165): rows consumed, elements placed, offset in the row, bits of mo set. -/
structure FibState where
  j   : Nat
  n   : Nat
  off : Nat
  mo  : MBits
  deriving DecidableEq, Repr

/-- One read of the row-pointer array, as a scalar load (R165). -/
def State.fibRead (s : State) (a : Word64) : Except Trap (Nat × State) := do
  let l ← s.scalarLoc s.scalarAgent a 8 .read
  pure ((s.fillTlb s.scalarAgent a).scalarRead l 8 none)

/-- The row loop: at most one row per unit of fuel (R165). -/
def State.fibLoop (a : Word64) (rows cap : Nat) : Nat → State → FibState → Except Trap (FibState × State)
  | 0, s, f => pure (f, s)
  | fuel + 1, s, f =>
    if f.j < rows ∧ f.n < cap then do
      let (hi, s) ← s.fibRead (a + BitVec.ofNat 64 (8 * f.j + 8))
      let (lo, s) ← s.fibRead (a + BitVec.ofNat 64 (8 * f.j))
      let len := hi - lo - f.off
      let take := Nat.min len (cap - f.n)
      let mo := if take = 0 then f.mo else setElem f.mo f.n 1 1
      if take = len then State.fibLoop a rows cap fuel s ⟨f.j + 1, f.n + take, 0, mo⟩
      else State.fibLoop a rows cap fuel s ⟨f.j, f.n + take, f.off + take, mo⟩
    else pure (f, s)

/-- Rows of length zero that a SETFIB may pass without an end are bounded by the rows it is given; the loop runs once
for each row it may consume and once more for a row it splits. -/
def fibFuel (rows : Nat) : Nat := rows + 1

/-- What SETFIB writes to the mask, which its reads gave as it issued: bits below n from the loop, zero above. -/
def perfSetfib (mo : MReg) : Perf := fun e s => .done (s.setM mo e.mask)

/-- SETFIB (R165): its reads are scalar loads, made as it issues. -/
def execSetfib (o : X2) (mo : MReg) (t : BitVec 11) (s : State) : Host.Outcome State Fault Refusal :=
  if !vtOk (t.setWidth 64) then .next (s.scalarTrap ⟨.illegal, 0, s.mySc.pc⟩)
  else s.issueRead fun _ =>
    let sc := s.mySc
    let rows := posOf (sc.rx o.d)
    match State.fibLoop (sc.rx o.a) rows (s.myCore.cap t) (fibFuel rows) s ⟨0, 0, sc.fiboff.toNat, 0⟩ with
    | .error tr => .next (s.scalarTrap tr)
    | .ok (f, s) =>
      s.viqWith (.setfib o mo t) { Captured.none with mask := f.mo } (fun sc =>
        (({ sc with vt := t, vl := f.n, fiboff := BitVec.ofNat 32 f.off } : Scalar).wx o.d
          (BitVec.ofNat 64 f.j)).endInterval) (perfSetfib mo)

/-- VSPLAT (R166): inactive and tail elements follow R160. -/
def perfVsplat (o : VMem) : Perf := fun e s =>
  let sc := e.chk
  let w := ewBits o.e sc
  if sc.ew < w then .trap s (e.trap .illegal)
  else
    let x := (sc.rx o.a).toNat % 2 ^ w
    let old := s.vreg o.v
    let bad := s.badElem e
    let t := s.setV o.v (vecWrite old (sc.upTo bad) w fun i =>
      if i < sc.vstart.toNat then some (elem old i w) else if s.selects o.m i then some x else none)
    match bad with
    | none => .done t
    | some n => .trap t (regTrap n)
/-- VSPLAT (R166). -/
def execVsplat (o : VMem) (s : State) : Host.Outcome State Fault Refusal :=
  s.viq (.vsplat o) none id (perfVsplat o)

/-- VPRF (R166): no visible effect. -/
def execVprf (a b : XReg) (ew : EwSel) (s : State) : Host.Outcome State Fault Refusal :=
  s.viq (.vprf a b ew) none id perfNone

end Sys2Proof.Machine
end

