-- ==== Sys2Proof/Machine/VMem.lean ====
section
/-!
DEFINITION. Vector loads and stores (R158 to R161), ordered and notifying forms (R167, R168, R271), and shape records at
issue (R113, R280, R281).
-/
namespace Sys2Proof.Machine

/-! ### Locating elements -/

/-- The elements an instruction performs, with their locations, and the fault of the lowest faulting element (R258). -/
abbrev Located := List (Nat × List Loc)

/-- Translates the elements in order and stops at the first that faults, where `loc i a` locates address `a` of element `i`.
A fault in any field is a fault of its element (R160). -/
def locateBy (loc : Nat → Word64 → Except Trap Loc) (addrs : Nat → List Word64) : List Nat → Located × Option Trap
  | [] => ([], none)
  | i :: is =>
    match (addrs i).mapM (loc i) with
    | .error t => ([], some t)
    | .ok ls =>
      let (r, t) := locateBy loc addrs is
      ((i, ls) :: r, t)
/-- Locates elements that are all performed. -/
def State.locate (s : State) (g : Agent) (k : Kind) (nb al : Nat) (addrs : Nat → List Word64) (is : List Nat) :
    Located × Option Trap :=
  locateBy (fun i a => s.vecLoc g a nb al k i) addrs is

/-- Accesses at the homes of the located elements. -/
def State.fillTlbs (s : State) (g : Agent) (addrs : Nat → List Word64) (ls : Located) : State :=
  s.accessAt g (ls.flatMap fun p => addrs p.1)

/-- The element past the last one performed. -/
def limitOf (sc : Scalar) (t : Option Trap) : Nat :=
  match t with
  | some t => t.elem
  | none => sc.vl

/-- Locations of an element, when it is performed. -/
def Located.at? (ls : Located) (i : Nat) : Option (List Loc) := (ls.find? fun p => p.1 == i).map (·.2)

/-- Reads element `i` of width `w` at a location: below 8 bits from bit (i·w) mod 8 of its byte (R160). -/
def State.readElem (s : State) (l : Loc) (i w : Nat) : Nat :=
  if w < 8 then s.loadLe l 1 / 2 ^ (i * w % 8) % 2 ^ w else s.loadLe l (w / 8)

/-- Writes element `i` of width `w`: below 8 bits only its own bits of the byte (R160). -/
def State.writeElem (s : State) (c : CoreIx) (l : Loc) (i w x : Nat) : State :=
  if w < 8 then
    let sh := i * w % 8
    let old := s.loadLe l 1
    s.storeLe (some c) l 1 (old - old / 2 ^ sh % 2 ^ w * 2 ^ sh + x % 2 ^ w * 2 ^ sh)
  else s.storeLe (some c) l (w / 8) (x % 2 ^ w)

/-- The register of a load (R160, R77): below VSTART and from a faulting element upward it is untouched; an inactive
element follows the mask policy; the tail follows the tail policy when the load completes. -/
def loadDest (old : VBits) (sc : Scalar) (w lim : Nat) (fault : Bool) (f : Nat → Option Nat) : VBits :=
  let g := fun i =>
    if sc.vl ≤ i then (if vtTp sc.vt && !fault then 0 else elem old i w)
    else if i < sc.vstart.toNat || decide (lim ≤ i) then elem old i w
    else
      match f i with
      | some x => x
      | none => if vtMp sc.vt then 0 else elem old i w
  let n := w * sc.vlm
  let low := packNat w g sc.vlm
  if vtTp sc.vt && !fault then BitVec.ofNat 8192 low else BitVec.ofNat 8192 (low + old.toNat / 2 ^ n * 2 ^ n)

/-- The checks of R159 that precede every element. -/
def widthBad (sc : Scalar) (w : Nat) (unit idx : Bool) : Bool :=
  decide (sc.ew < w) || (decide (w < 8) && !unit) || (idx && decide (sc.ew < 8))

/-- Bytes and alignment of an element access. -/
def elemBytes (w : Nat) : Nat := if w < 8 then 1 else w / 8

/-- PerfOut of effects that end in a fault of a later element, or complete. -/
def PerfOut.of (s : State) (t : Option Trap) : PerfOut :=
  match t with
  | some t => .trap s t
  | none => .done s

/-! ### Loads -/

/-- A load of R160 into the registers `regs`, one per field; `addrs i` are the addresses of element i's fields. -/
def State.vload (s : State) (e : Entry) (w : Nat) (m : MSel) (regs : List VReg) (addrs : Nat → List Word64) : PerfOut :=
  let sc := e.chk
  let g := e.agent s.cur
  let nb := elemBytes w
  let (ls, t) := s.cutBad e (s.locate g .read nb nb addrs (s.actives sc m))
  let s := s.fillTlbs g addrs ls
  let lim := limitOf sc t
  let vals := ls.map fun p => (p.1, p.2.map fun l => s.readElem l p.1 w)
  let s := (regs.zipIdx).foldl (fun s (r : VReg × Nat) =>
    s.setV r.1 (loadDest (s.vreg r.1) sc w lim t.isSome fun i =>
      ((vals.find? fun p => p.1 == i).bind fun p => p.2[r.2]?))) s
  .of s t

/-- A load with one address per element. -/
def perfLoad (v : VReg) (m : MSel) (w : Scalar → Nat) (unit idx : Bool) (addr : State → Scalar → Nat → Word64) : Perf :=
  fun e s =>
    if widthBad e.chk (w e.chk) unit idx then .trap s (e.trap .illegal)
    else s.vload e (w e.chk) m [v] fun i => [addr s e.chk i]

/-- xa + i·w/8. -/
def addrUnit (a : XReg) (w : Scalar → Nat) (_ : State) (sc : Scalar) (i : Nat) : Word64 :=
  sc.rx a + BitVec.ofNat 64 (i * w sc / 8)
/-- xa + i·sxb. -/
def addrStride (a b : XReg) (_ : State) (sc : Scalar) (i : Nat) : Word64 :=
  sc.rx a + BitVec.ofNat 64 i * sc.rx b
/-- off(i), a signed byte offset at width EW (R159). -/
def addrIndex (a : XReg) (x : VReg) (s : State) (sc : Scalar) (i : Nat) : Word64 :=
  sc.rx a + BitVec.ofInt 64 (sext sc.ew (elem (s.vreg x) i sc.ew))
/-- xa + (i·n + f)·w/8 for the fields f of element i. -/
def addrFields (a : XReg) (n : Nat) (w : Nat) (sc : Scalar) (i : Nat) : List Word64 :=
  (List.range n).map fun f => sc.rx a + BitVec.ofNat 64 ((i * n + f) * w / 8)
/-- VLD. -/
def perfVld (o : VMem) : Perf := perfLoad o.v o.m (ewBits o.e) true false (addrUnit o.a (ewBits o.e))
/-- VLDS. -/
def perfVlds (o : VMem) (b : XReg) : Perf := perfLoad o.v o.m (ewBits o.e) false false (addrStride o.a b)
/-- VLDX. -/
def perfVldx (o : VMem) (x : VReg) : Perf := perfLoad o.v o.m (ewBits o.e) false true (addrIndex o.a x)
/-- VLDG. -/
def perfVldg (o : VMem) (n : Fin 9) : Perf := fun e s =>
  let w := ewBits o.e e.chk
  if widthBad e.chk w false false then .trap s (e.trap .illegal)
  else s.vload e w o.m (fieldRegs o.v n.val) (addrFields o.a n.val w e.chk)

/-- VLD (R160). -/
def execVld (o : VMem) (s : State) : Host.Outcome State Fault Refusal := s.viq (.vld o) none id (perfVld o)
/-- VLDS (R160). -/
def execVlds (o : VMem) (b : XReg) (s : State) : Host.Outcome State Fault Refusal :=
  s.viq (.vlds o b) none id (perfVlds o b)
/-- VLDX (R160). -/
def execVldx (o : VMem) (x : VReg) (s : State) : Host.Outcome State Fault Refusal :=
  s.viq (.vldx o x) none id (perfVldx o x)
/-- VLDG (R160). -/
def execVldg (o : VMem) (n : Fin 9) (s : State) : Host.Outcome State Fault Refusal :=
  s.viq (.vldg o n) none id (perfVldg o n)

/-! ### Shape records -/

/-- The location of the record at `a`, for the agent that reads it (R113): its alignment is checked first. -/
def State.recordLoc (s : State) (g : Agent) (a : Word64) : Except Trap Loc :=
  if a.toNat % 64 != 0 then .error ⟨.misalign, 0, a⟩ else s.vecLoc g a 64 1 .read 0

/-- The 64 bytes of the record at `a` through the core's shape-record cache, whose entries are of one address of one
address space (R153, R281). -/
def State.readRecord (s : State) (g : Agent) (a : Word64) : Except Trap (BitVec 512 × State) := do
  let l ← s.recordLoc g a
  let bits : BitVec 512 := BitVec.ofNat 512 (s.loadLe l 64)
  let s := s.fillTlb g a
  match g.core, l with
  | some c, .mem pa =>
    let k := s.core c
    match k.rcache.find? fun r => r.va == a.toNat && r.pa == pa with
    | some r => pure (r.bits, s)
    | none =>
      pure (bits, if s.choices.fill then s.setCore c { k with rcache := ⟨a.toNat, pa, bits⟩ :: k.rcache } else s)
  | _, _ => pure (bits, s)

/-- What an instruction captures of its record as it issues (R161, R280): what is kept for its replay, or a read of the
record. A record that cannot be read is faulted on when the entry is performed. -/
def State.issueRecord (s : State) (a : XReg) : Captured × State :=
  let h := s.me.holdOf s.mySc
  let n := (h.map (·.done)).getD 0
  match h.bind (·.rcd) with
  | some r => (⟨some r, 0, n⟩, s)
  | none =>
    match s.readRecord (agentOf s.cur s.mySc) (s.mySc.rx a) with
    | .ok (r, s') => (⟨some r, 0, n⟩, s')
    | .error _ => (⟨none, 0, n⟩, s)

/-- An instruction that works under a record, which it reads as it issues: unless the record is kept for its replay, the read comes after
the accesses of older strip intervals (R161, R265, R269, R280). -/
def State.withRecord (s : State) (a : XReg) (k : Captured → State → Host.Outcome State Fault Refusal) :
    Host.Outcome State Fault Refusal :=
  let go := fun (_ : Unit) => k (s.issueRecord a).1 (s.issueRecord a).2
  if ((s.me.holdOf s.mySc).bind (·.rcd)).isSome then go () else s.issueRead go

/-- The record an entry works with. -/
def Entry.record (e : Entry) (s : State) (a : XReg) : Except Trap (BitVec 512) :=
  match e.rcd with
  | some r => .ok r
  | none => (s.readRecord (e.agent s.cur) (e.chk.rx a)).map (·.1)

/-- A field of a record: `n` bytes at `off`. -/
def recNat (r : BitVec 512) (off n : Nat) : Nat := r.toNat / 2 ^ (8 * off) % 2 ^ (8 * n)
/-- A signed 8-byte field of a record. -/
def recInt (r : BitVec 512) (off : Nat) : Int := sext 64 (recNat r off 8)
/-- The element type of a record (R113). -/
def recType (r : BitVec 512) : Option EType := etypeOf (recNat r 0x30 1)
/-- ACCF and state lie in Table 6-8 (R111). -/
def recAccOk (r : BitVec 512) : Bool := decide (recNat r 0x32 1 % 16 ≤ 2) && decide (recNat r 0x32 1 / 16 ≤ 1)

/-- The address of element i under a record (R161). -/
def addrShape (r : BitVec 512) (i : Nat) : Word64 :=
  let d0 := recNat r 8 4
  BitVec.ofNat 64 (recNat r 0 8) + BitVec.ofInt 64 ((i % d0 : Nat) * recInt r 0x10 + (i / d0 : Nat) * recInt r 0x20)

/-- The checks of R161 on a record. -/
def shapeBad (r : BitVec 512) (sc : Scalar) (w : Nat) : Bool :=
  recNat r 8 4 == 0 || decide (recNat r 8 4 * recNat r 12 4 < sc.vl) ||
    (match recType r with
      | some t => t.width != w
      | none => true) || !recAccOk r

/-- VLD2. -/
def perfVld2 (o : VMem) : Perf := fun e s =>
  let w := ewBits o.e e.chk
  if widthBad e.chk w false false then .trap s (e.trap .illegal)
  else
    match e.record s o.a with
    | .error t => .trap s t
    | .ok r =>
      if shapeBad r e.chk w then .trap s (e.trap .shapeRecord)
      else s.vload e w o.m [o.v] fun i => [addrShape r i]
/-- VLD2 (R161). -/
def execVld2 (o : VMem) (s : State) : Host.Outcome State Fault Refusal :=
  s.withRecord o.a fun k s => s.viqWith (.vld2 o) k id (perfVld2 o)

/-! ### Stores -/

/-- The progress word of a notifying store (R168): its location, checked with the store's own addresses. -/
def State.progress (s : State) (e : Entry) (ntf : Bool) : Except Trap (Option Loc) :=
  if !ntf then .ok none
  else
    let v := e.chk.vstart.toNat
    (s.vecLoc (e.agent s.cur) e.chk.pwaddr 8 8 .write v).map some

/-- The number of active elements below `lim`, counted from element 0 (R168). -/
def State.countActive (s : State) (sc : Scalar) (m : MSel) (lim : Nat) : Nat :=
  ((List.range lim).filter fun i => s.active sc m i).length

/-- A store of R160 from the registers `regs`, one per field; `ntf` also writes the progress word (R168). -/
def State.vstore (s : State) (e : Entry) (w : Nat) (m : MSel) (regs : List VReg) (addrs : Nat → List Word64) (ntf : Bool) :
    PerfOut :=
  let sc := e.chk
  let g := e.agent s.cur
  let c := CtxIx.core s.cur
  let nb := elemBytes w
  match s.progress e ntf with
  | .error t => .trap s t
  | .ok pw =>
    let (ls, t) := s.cutBad e (s.locate g .write nb nb addrs (s.actives sc m))
    let s := s.fillTlbs g addrs ls
    let n := s.countActive sc m (limitOf sc t)
    let s := ls.foldl (fun s p =>
      (p.2.zip regs).foldl (fun s (q : Loc × VReg) => s.writeElem c q.1 p.1 w (elem (s.vreg q.2) p.1 w)) s) s
    let s := match pw with
      | some l => (s.storeLe (some c) l 8 n).fillAddrs g [sc.pwaddr]
      | none => s
    .of s t

/-- A store with one address per element; a notifying store with PWADDR = 0 faults ILLEGAL (R168). -/
def perfStore (v : VReg) (m : MSel) (w : Scalar → Nat) (unit idx ntf : Bool) (addr : State → Scalar → Nat → Word64) :
    Perf := fun e s =>
  if widthBad e.chk (w e.chk) unit idx || (ntf && e.chk.pwaddr == 0) then .trap s (e.trap .illegal)
  else s.vstore e (w e.chk) m [v] (fun i => [addr s e.chk i]) ntf

/-- VST and VST.REL. -/
def perfVst (o : VstArgs) : Perf :=
  perfStore o.v o.m (ewBits o.e) true false o.ntf (addrUnit o.a (ewBits o.e))
/-- VSTS. -/
def perfVsts (o : VStore) (b : XReg) (ntf : Bool) : Perf :=
  perfStore o.v o.m (ewBits o.e) false false ntf (addrStride o.a b)
/-- VSTX. -/
def perfVstx (o : VStore) (x : VReg) (ntf : Bool) : Perf :=
  perfStore o.v o.m (ewBits o.e) false true ntf (addrIndex o.a x)
/-- VSTG. -/
def perfVstg (o : VStore) (n : Fin 9) (ntf : Bool) : Perf := fun e s =>
  let w := ewBits o.e e.chk
  if widthBad e.chk w false false || (ntf && e.chk.pwaddr == 0) then .trap s (e.trap .illegal)
  else s.vstore e w o.m (fieldRegs o.v n.val) (addrFields o.a n.val w e.chk) ntf
/-- VST2. -/
def perfVst2 (o : VStore) (ntf : Bool) : Perf := fun e s =>
  let w := ewBits o.e e.chk
  if widthBad e.chk w false false || (ntf && e.chk.pwaddr == 0) then .trap s (e.trap .illegal)
  else
    match e.record s o.a with
    | .error t => .trap s t
    | .ok r =>
      if shapeBad r e.chk w then .trap s (e.trap .shapeRecord)
      else s.vstore e w o.m [o.v] (fun i => [addrShape r i]) ntf

/-- A notifying store ends a strip interval, since its write of the progress word is a release (R264, Table 17-2). -/
def ntfEnds (ntf : Bool) : Scalar → Scalar := if ntf then Scalar.endInterval else id

/-- VST, VST.REL, VST.NTF (R160, R167, R168); a release ends a strip interval. -/
def execVst (o : VstArgs) (s : State) : Host.Outcome State Fault Refusal :=
  s.viq (.vst o) none (ntfEnds (o.rel || o.ntf)) (perfVst o)
/-- VSTS (R160). -/
def execVsts (o : VStore) (b : XReg) (s : State) : Host.Outcome State Fault Refusal :=
  s.viq (.vsts o b) none id (perfVsts o b false)
/-- VSTS.NTF (R160, R168). -/
def execVstsNtf (o : VStore) (b : XReg) (s : State) : Host.Outcome State Fault Refusal :=
  s.viq (.vstsNtf o b) none Scalar.endInterval (perfVsts o b true)
/-- VSTX (R160). -/
def execVstx (o : VStore) (x : VReg) (ntf : Bool) (s : State) : Host.Outcome State Fault Refusal :=
  s.viq (.vstx o x ntf) none (ntfEnds ntf) (perfVstx o x ntf)
/-- VSTG (R160). -/
def execVstg (o : VStore) (n : Fin 9) (ntf : Bool) (s : State) : Host.Outcome State Fault Refusal :=
  s.viq (.vstg o n ntf) none (ntfEnds ntf) (perfVstg o n ntf)
/-- VST2 (R161). -/
def execVst2 (o : VStore) (ntf : Bool) (s : State) : Host.Outcome State Fault Refusal :=
  s.withRecord o.a fun k s => s.viqWith (.vst2 o ntf) k (ntfEnds ntf) (perfVst2 o ntf)

/-! ### Acquiring gathers -/

/-- Whether a location's home lies in the issuing core's instance of a scope (Table 17-3). -/
def State.homeWithin (s : State) (c : Scope) (d : DieIx) (l : Loc) : Bool :=
  match l with
  | .win _ _ => true
  | .mem _ | .uc _ =>
    match c with
    | .core | .quad => false
    | .die => (match s.locRegion l with
      | some (.dieLocal k) | some (.holm k) => k == d.val
      | _ => false)
    | .pkg | .sys => true

/-- VLDX.ACQ (R167, R271): elements outside the scope are translated, not performed, and marked in m11. -/
def perfVldxAcq (v : VReg) (a : XReg) (x : VReg) (m : MSel) (c : Scope) : Perf := fun e s =>
  let sc := e.chk
  let w := sc.ew
  if widthBad sc w false true then .trap s (e.trap .illegal)
  else
    let g := e.agent s.cur
    let nb := elemBytes w
    let addrs := fun i => [addrIndex a x s sc i]
    let loc := fun (i : Nat) (a : Word64) => do
      let l ← s.vecPlace g a nb nb .read i
      if s.homeWithin c (CtxIx.die s.cur) l then s.vecLoc g a nb nb .read i else pure l
    let (ls, t) := s.cutBad e (locateBy loc addrs (s.actives sc m))
    let s := s.fillTlbs g addrs ls
    let lim := limitOf sc t
    let within := fun (p : Nat × List Loc) => p.2.all fun l => s.homeWithin c (CtxIx.die s.cur) l
    let old := s.vreg v
    let val := fun i =>
      match ls.find? fun p => p.1 == i with
      | none => none
      | some p => if within p then (p.2.head?).map fun l => s.readElem l i w else some (elem old i w)
    let skipped := fun i => (ls.find? fun p => p.1 == i).any fun p => !within p
    let m11 := s.mreg 11
    let bits := maskOf (fun i =>
      if t.isSome && decide (lim ≤ i) then m11.getLsbD i
      else if sc.vl ≤ i then false
      else if i < sc.vstart.toNat then m11.getLsbD i
      else skipped i) 4096
    let s := (s.setV v (loadDest old sc w lim t.isSome val)).setM 11 bits
    .of s t
/-- VLDX.ACQ (R167); it ends a strip interval. -/
def execVldxAcq (v : VReg) (a : XReg) (x : VReg) (m : MSel) (c : Scope) (s : State) : Host.Outcome State Fault Refusal :=
  s.viq (.vldxAcq v a x m c) none Scalar.endInterval (perfVldxAcq v a x m c)

end Sys2Proof.Machine
end

