-- ==== Sys2Proof/Machine/Queue.lean ====
section
/-!
DEFINITION. Architected queues: the control block and its test (R282 to R284), the indivisible step (R286), parking
(R288), and the queue instructions (R285, R289 to R291, R293, R294).
-/
namespace Sys2Proof.Machine

/-! ### The control block -/

/-- The fields of a queue control block (Table 19-1). -/
structure Qcb where
  magic : Nat
  ver   : Nat
  size  : Nat
  flags : Nat
  check : Nat
  cap   : Nat
  hint  : Nat
  rsv1  : Nat
  head  : Nat
  tail  : Nat
  free  : Nat
  wait  : Nat
  base  : Nat
  rsv2  : Nat
  deriving DecidableEq, Repr

/-- The fields of 64 bytes. -/
def Qcb.ofNat (x : Nat) : Qcb where
  magic := bits x 0 16
  ver := bits x 16 8
  size := bits x 24 8
  flags := bits x 32 16
  check := bits x 48 16
  cap := bits x 64 32
  hint := bits x 96 8
  rsv1 := bits x 104 24
  head := bits x 128 32
  tail := bits x 160 32
  free := bits x 192 32
  wait := bits x 224 32
  base := bits x 256 64
  rsv2 := bits x 320 192

/-- The 64 bytes of the fields. -/
def Qcb.toNat (q : Qcb) : Nat :=
  q.magic + q.ver * 2 ^ 16 + q.size * 2 ^ 24 + q.flags * 2 ^ 32 + q.check * 2 ^ 48 + q.cap * 2 ^ 64 +
    q.hint * 2 ^ 96 + q.rsv1 * 2 ^ 104 + q.head * 2 ^ 128 + q.tail * 2 ^ 160 + q.free * 2 ^ 192 + q.wait * 2 ^ 224 +
    q.base * 2 ^ 256 + q.rsv2 * 2 ^ 320

/-- CHECK over bytes 0x00 to 0x2F with the CHECK bytes read as zero (R283). -/
def Qcb.crc (q : Qcb) : Nat := (crc16 (leBytes 48 { q with check := 0 }.toNat)).toNat
/-- CHECK rewritten (R282). -/
def Qcb.sealed (q : Qcb) : Qcb := { q with check := q.crc }

/-- Table 19-2. -/
def Qcb.closed (q : Qcb) : Bool := ebit q.flags 0
/-- BROKEN. -/
def Qcb.broken (q : Qcb) : Bool := ebit q.flags 1
/-- PERSIST. -/
def Qcb.persist (q : Qcb) : Bool := ebit q.flags 2
/-- MULTI. -/
def Qcb.multi (q : Qcb) : Bool := ebit q.flags 3
/-- (TAIL − HEAD) mod 2^32. -/
def Qcb.count (q : Qcb) : Nat := (q.tail + 2 ^ 32 - q.head) % 2 ^ 32
/-- The corruption test on the bytes (R284). -/
def Qcb.bad (q : Qcb) : Bool :=
  q.check != q.crc || q.magic != 0x5143 || q.ver != 1 || decide (8 < q.size) || q.cap == 0 ||
    decide (2 ^ 24 < q.cap) || q.free + q.count != q.cap || q.base % 64 != 0 || q.rsv1 != 0 || q.rsv2 != 0 ||
    decide (16 ≤ q.flags) || (decide (3 < q.hint) && q.hint != 0xFF)

/-- The die instance that holds a location's home; none for a package-wide home (Table 1-7). -/
def State.homeDie (s : State) (l : Loc) : Option Nat :=
  match l with
  | .win c _ => some (CoreIx.die c).val
  | .mem _ | .uc _ =>
    match s.locRegion l with
    | some (.dieLocal d) | some (.holm d) => some d
    | _ => none

/-- Bytes a home controller writes in its own step: no ordinary write (R282, R284). -/
def State.homeStore (s : State) (l : Loc) (bs : List Byte) : State :=
  match l with
  | .mem pa => s.homeWrite pa bs
  | .uc pa => (s.homeWrite pa bs).throughPort s.dirty pa bs.length
  | .win _ _ => s.storeLoc none l bs

/-- Makes `n` bytes at a location persistent, when it lies in a Holm window (R251, R274). -/
def State.persist (s : State) (l : Loc) (n : Nat) : State :=
  match l, s.locRegion l with
  | .mem pa, some (.holm _) => { s with mram := s.mram.putBytes pa (s.mem.bytes pa n) }
  | _, _ => s

/-- The block at a location. -/
def State.qcbAt (s : State) (l : Loc) : Qcb := .ofNat (s.loadLe l 64)

/-- Writes the block, with CHECK, and makes it persistent when the queue is (R282, R294). -/
def State.putQcb (s : State) (l : Loc) (q : Qcb) : State :=
  let s := s.homeStore l (leBytes 64 q.sealed.toNat)
  if q.persist then s.persist l 64 else s

/-- The line that the mark of a block is kept for (R284). -/
def Loc.line (l : Loc) : Nat := lineOf (keyBytes l.key)
/-- Whether the mark of the line of a block is disturbed (R284). -/
def State.disturbed (s : State) (l : Loc) : Bool := s.marks.any fun m => m.1 == l.line && m.2
/-- Sets the mark of the line of a block clean. -/
def State.markClean (s : State) (l : Loc) : State :=
  { s with marks := (l.line, false) :: s.marks.filter fun m => m.1 != l.line }

/-! ### Agents, tests and requests -/

/-- Who operates on a queue: its translation and the die instance it belongs to; none for the host and the agents of the
I/O die (R293). -/
structure QAgent where
  g   : Agent
  die : Option DieIx
  deriving DecidableEq, Repr

/-- The queue agent of the acting context with a translating agent. -/
def ctxQAgent (c : CtxIx) (g : Agent) : QAgent := ⟨g, some (CtxIx.die c)⟩

/-- Steps 2 and 3 of R286: alignment of the block, then its translation. -/
def State.blockLoc (s : State) (g : Agent) (a : Word64) : Except Trap Loc :=
  if a.toNat % 64 != 0 then .error ⟨.misalign, 0, a⟩ else s.vecLoc g a 64 1 .rw 0

/-- Steps 4 and 5 of R286: a corrupt block is marked broken (R284); the cause, if one is raised. -/
def State.qTest (s : State) (l : Loc) (a : QAgent) : State × Option Cause :=
  let q := s.qcbAt l
  if s.disturbed l || q.bad then
    let f := if q.broken then q.flags else q.flags + 2
    ((s.putQcb l { q with flags := f }).markClean l, some .qcbCorrupt)
  else if q.broken then (s, some .qcbBroken)
  else if !q.multi && (match a.die with
      | none => true
      | some d => s.homeDie l != some d.val) then (s, some .scope)
  else (s, none)

/-- The element form of a request (R285). -/
inductive QForm where
  /-- at most 8 bytes, from a scalar register -/
  | x (val : Word64)
  /-- any size, copied from or to memory -/
  | m (buf : Word64) (g : Agent)
  /-- EW / 8 bytes per element, from or to a vector -/
  | v (ew : Nat) (val : VBits)
  /-- a device agent's record of so many bytes -/
  | raw (bs : List Byte)
  deriving DecidableEq, Repr

/-- A request: direction, count, blocking, form, and the context that parks if it must. -/
structure QReq where
  enq  : Bool
  n    : Nat
  blk  : Bool
  form : QForm
  ctx  : Option CtxIx
  deriving DecidableEq, Repr

/-- Whether the element size suits the form (step 6 of R286). -/
def QForm.fits (f : QForm) (size : Nat) : Bool :=
  match f with
  | .x _ => decide (size ≤ 8)
  | .m _ _ => true
  | .v ew _ => decide (8 ≤ ew) && size == ew / 8
  | .raw bs => size == bs.length

/-- The location of every chunk of `n` bytes from `a`, in chunks of `k` bytes. -/
def State.chunks (s : State) (g : Agent) (kd : Kind) (k : Nat) : Nat → Word64 → Except Trap (List Loc)
  | 0, _ => pure []
  | n + 1, a => do
    let l ← s.vecLoc g a k 1 kd 0
    let r ← s.chunks g kd k n (a + BitVec.ofNat 64 k)
    pure (l :: r)

/-- The slots from number `first`, `n` of them: each as the locations of its chunks (step 8 of R286). -/
def State.slots (s : State) (g : Agent) (kd : Kind) (q : Qcb) (first : Nat) : Nat → Except Trap (List (List Loc))
  | 0 => pure []
  | n + 1 => do
    let es := 2 ^ q.size
    let ck := Nat.min es 64
    let r ← s.slots g kd q first n
    let l ← s.chunks g kd ck (es / ck) (BitVec.ofNat 64 (q.base + (first + n) % q.cap * es))
    pure (r ++ [l])

/-- Where a byte of a ring lies, whether or not an operation accesses it: none where it does not translate. -/
def State.ringLoc (s : State) (g : Agent) (a : Word64) : Option Loc := if canonical a then (s.place g a 1 .read 0).toOption else none

/-- Bytes of the ring of a block. -/
def Qcb.ringBytes (q : Qcb) : Nat := q.cap * 2 ^ q.size

/-- The first page of a ring, from `va` to `hi`, that lies in the device-register range (R248). -/
def State.ringDevice (s : State) (g : Agent) : Nat → Nat → Nat → Option Word64
  | 0, _, _ => none
  | k + 1, va, hi =>
    if hi ≤ va then none
    else if (s.ringLoc g (BitVec.ofNat 64 va)).any s.isDevice then some (BitVec.ofNat 64 va)
    else s.ringDevice g k (va / 0x10000 * 0x10000 + 0x10000) hi

/-- The fault of a queue instruction whose ring lies, in any part, in the device-register range (R248). -/
def State.ringTrap (s : State) (g : Agent) (q : Qcb) : Option Trap :=
  (s.ringDevice g (q.ringBytes / 0x10000 + 2) q.base (q.base + q.ringBytes)).map fun a => ⟨.xlatePerm, 0, a⟩

/-- The slots that an operation may touch, in a ring no part of which lies in the device-register range (R248; step 8 of R286). -/
def State.ringSlots (s : State) (g : Agent) (kd : Kind) (q : Qcb) (first n : Nat) : Except Trap (List (List Loc)) :=
  match s.ringTrap g q with
  | some t => .error t
  | none => s.slots g kd q first n

/-- The addresses that a queue operation translates once its checks pass: the block, the chunks of `n` slots, and the buffer of a `.M`
form (steps 3 and 8 of R286). -/
def State.queueAddrs (s : State) (g : Agent) (a : Word64) (enq : Bool) (n : Nat) (buf : Option Word64) : List Word64 :=
  match s.blockLoc g a with
  | .error _ => []
  | .ok l =>
    let q := s.qcbAt l
    let es := 2 ^ q.size
    let ck := Nat.min es 64
    a :: ((List.range (Nat.min n q.cap)).flatMap fun k => (List.range (es / ck)).map fun j =>
      BitVec.ofNat 64 (q.base + ((if enq then q.tail else q.head) + k) % q.cap * es + j * ck)) ++
      (match buf with
      | some b => [b, b + BitVec.ofNat 64 (es - 1)]
      | none => [])

/-- Bytes at a list of chunks. -/
def State.loadChunks (s : State) (ck : Nat) (ls : List Loc) : List Byte := ls.flatMap fun l => s.loadLoc l ck
/-- Writes bytes to a list of chunks. -/
def State.storeChunks (s : State) (c : Option CoreIx) (ck : Nat) (persist : Bool) : List Loc → List Byte → State
  | [], _ => s
  | l :: ls, bs =>
    let s := s.storeLoc c l (bs.take ck)
    let s := if persist then s.persist l ck else s
    s.storeChunks c ck persist ls (bs.drop ck)

/-- Parked operations of one direction on a block, in the order in which they parked. -/
def State.parkedOn (s : State) (key : Nat) (enq : Bool) : List QWait := s.qwaits.filter fun w => w.qcb == key && w.enq == enq
/-- Whether another blocking operation of the direction is parked ahead of the context (R288). -/
def State.parkedAhead (s : State) (key : Nat) (enq : Bool) (c : Option CtxIx) : Bool :=
  !((s.parkedOn key enq).takeWhile fun w => some w.ctx != c).isEmpty
/-- WAIT of a block (Table 19-1). -/
def State.waitWord (s : State) (key : Nat) : Nat :=
  Nat.min 0xFFFF (s.parkedOn key true).length + Nat.min 0xFFFF (s.parkedOn key false).length * 2 ^ 16
/-- Rewrites WAIT, with CHECK, on a block that passes the test. -/
def State.setWait (s : State) (l : Loc) : State :=
  let q := s.qcbAt l
  if s.disturbed l || q.bad then s else s.putQcb l { q with wait := s.waitWord l.key }
/-- Takes a context off the wait lists. -/
def State.unpark (s : State) (c : CtxIx) : State := { s with qwaits := s.qwaits.filter fun w => w.ctx != c }

/-- Takes a context off the wait lists and lowers WAIT (R53, R288). -/
def State.withdrawQueue (s : State) (c : CtxIx) : State :=
  (s.qwaits.filter fun w => w.ctx == c).foldl (fun s w => s.setWait (keyLoc w.qcb)) (s.unpark c)

/-! ### The step -/

/-- How a queue operation ends: a fault, a parked context, or a grant with the elements dequeued. -/
inductive QOut where
  | fault (s : State) (t : Trap)
  | park (s : State)
  | grant (s : State) (g : Nat) (els : List (List Byte))

/-- Parks the context of a request on its list (R288); one that is already parked keeps its place. -/
def State.qPark (s : State) (l : Loc) (r : QReq) : State :=
  match r.ctx with
  | none => s
  | some c =>
    if (s.parkedOn l.key r.enq).any fun w => w.ctx == c then s
    else ({ s with qwaits := s.qwaits ++ [⟨l.key, r.enq, c, r.n⟩] } : State).setWait l

/-- The indivisible step at the home, once every check has passed (R286): `sl` are the slots, `bl` the `.M` buffer. The elements that
the home writes into slots are no ordinary writes, and leave the marks of their lines (R284; DESIGN CHOICE, log entry 44). -/
def State.qStep (s : State) (l : Loc) (a : Word64) (r : QReq) (q : Qcb) (sl : List (List Loc)) (bl : List Loc) : QOut :=
  let avail := if r.enq then q.free else q.count
  let limit := if r.enq then (if q.closed then 0 else q.cap) else (if q.closed then q.count else q.cap)
  let ahead := s.parkedAhead l.key r.enq r.ctx
  if r.blk && decide (limit < r.n) then .fault s ⟨.qcbRange, 0, a⟩
  else if r.n = 0 then .grant s 0 []
  else if r.blk && (decide (avail < r.n) || ahead) then .park (s.qPark l r)
  else
    let g := if r.blk then r.n else if ahead || (r.enq && q.closed) then 0 else Nat.min r.n avail
    let s := match r.ctx with
      | some c => s.unpark c
      | none => s
    let es := 2 ^ q.size
    let ck := Nat.min es 64
    let core := r.ctx.map CtxIx.core
    let sl := sl.take g
    let els := if r.enq then [] else sl.map fun x => s.loadChunks ck x
    let s := if r.enq then
        { (sl.zipIdx).foldl (fun s (x : List Loc × Nat) =>
          s.storeChunks core ck q.persist x.1 (match r.form with
            | .x v => leBytes es v.toNat
            | .m _ _ => s.loadChunks (Nat.min es 8) bl
            | .v ew v => leBytes es (elem v x.2 ew)
            | .raw bs => bs)) s with marks := s.marks }
      else
        match r.form with
        | .m _ _ => if g = 0 then s else s.storeChunks core (Nat.min es 8) false bl (els.headD [])
        | _ => s
    let q := if r.enq then { q with tail := (q.tail + g) % 2 ^ 32, free := q.free - g }
      else { q with head := (q.head + g) % 2 ^ 32, free := q.free + g }
    .grant (s.putQcb l { q with wait := s.waitWord l.key }) g els

/-- A queue operation (R286): the checks in their order, then the step. The ILLEGAL of check 6 has SADDR = xa (DESIGN CHOICE, log entry 44:
Table 21-2 allows the address or the pc). -/
def State.qOp (s : State) (ag : QAgent) (a : Word64) (r : QReq) : QOut :=
  match s.blockLoc ag.g a with
  | .error t => .fault s t
  | .ok l =>
    let (s, c) := s.qTest l ag
    match c with
    | some c => .fault s ⟨c, 0, a⟩
    | none =>
      let q := s.qcbAt l
      let es := 2 ^ q.size
      if !r.form.fits es then .fault s ⟨.illegal, 0, a⟩
      else
        let mis := match r.form with
          | .m b _ => if b.toNat % Nat.min es 8 != 0 then some b else none
          | _ => none
        match mis with
        | some b => .fault s ⟨.misalign, 0, b⟩
        | none =>
          let kd := if r.enq then Kind.write else Kind.read
          match s.ringSlots ag.g kd q (if r.enq then q.tail else q.head) (Nat.min r.n q.cap) with
          | .error t => .fault s t
          | .ok sl =>
            let bl := match r.form with
              | .m b g => s.chunks g (if r.enq then .read else .write) (Nat.min es 8) (es / Nat.min es 8) b
              | _ => .ok []
            match bl with
            | .error t => .fault s t
            | .ok bl => s.qStep l a r q sl bl

/-! ### Scalar queue instructions -/

/-- A queue operation is held until the older entries have passed their fault points; an enqueue, which is a release, until
every earlier access is performed (R46, R287). -/
def State.heldQ (s : State) (enq : Bool) (k : Unit → Host.Outcome State Fault Refusal) : Host.Outcome State Fault Refusal :=
  if enq then s.heldRel k else s.held k

/-- A scalar queue instruction of the acting context: `done` writes its results. It is held under R46, ends a strip
interval when it completes, and parks with its instruction kept, while the older entries go on (R42). Before it faults, every older
entry has completed (R47). -/
def State.queueOp (s : State) (i : Instr) (ag : QAgent) (a : Word64) (r : QReq)
    (done : Nat → List (List Byte) → Scalar → Scalar) : Host.Outcome State Fault Refusal :=
  s.heldQ r.enq fun _ =>
    match s.qOp ag a r with
    | .fault s' t => s.serial fun _ => .next ((s'.withdrawQueue s.cur).scalarTrap t)
    | .park s' => .next (s'.setMe { s'.me with parked := some i })
    | .grant s' g els =>
      let s' := s'.setMe { s'.me with parked := none }
      s'.scalar fun sc => (done g els sc).endInterval

/-- The value of a dequeued element. -/
def elemVal (els : List (List Byte)) : Word64 := BitVec.ofNat 64 (leNat (els.headD []))

/-- QENQ.X (R285). -/
def execQenqX (o : QArgs) (s : State) : Host.Outcome State Fault Refusal :=
  s.queueOp (.qenqX o) (ctxQAgent s.cur s.scalarAgent) (s.mySc.rx o.a) ⟨true, 1, o.blk, .x (s.mySc.rx o.b), some s.cur⟩
    fun g _ sc => sc.wx o.d (BitVec.ofNat 64 g)
/-- QDEQ.X (R285): the blocking form returns the element; `.NB` leaves xd unchanged on grant 0 and writes xb. -/
def execQdeqX (o : QArgs) (s : State) : Host.Outcome State Fault Refusal :=
  s.queueOp (.qdeqX o) (ctxQAgent s.cur s.scalarAgent) (s.mySc.rx o.a) ⟨false, 1, o.blk, .x 0, some s.cur⟩
    fun g els sc =>
      let sc := if g = 0 then sc else sc.wx o.d (elemVal els)
      if o.blk then sc else sc.wx o.b (BitVec.ofNat 64 g)
/-- QENQ.M (R285). -/
def execQenqM (o : QArgs) (s : State) : Host.Outcome State Fault Refusal :=
  s.queueOp (.qenqM o) (ctxQAgent s.cur s.scalarAgent) (s.mySc.rx o.a)
    ⟨true, 1, o.blk, .m (s.mySc.rx o.b) s.scalarAgent, some s.cur⟩ fun g _ sc => sc.wx o.d (BitVec.ofNat 64 g)
/-- QDEQ.M (R285). -/
def execQdeqM (o : QArgs) (s : State) : Host.Outcome State Fault Refusal :=
  s.queueOp (.qdeqM o) (ctxQAgent s.cur s.scalarAgent) (s.mySc.rx o.a)
    ⟨false, 1, o.blk, .m (s.mySc.rx o.b) s.scalarAgent, some s.cur⟩ fun g _ sc => sc.wx o.d (BitVec.ofNat 64 g)

/-! ### Vector queue instructions -/

/-- QENQ.V and QDEQ.V: no mask, every element below VL takes part; a dequeue writes elements below the grant and its
elements above follow VT.TP; the grant goes to xd, and `.NB` sets VL (R285). -/
def perfQv (enq : Bool) (o : QvArgs) (i : Instr) : Perf := fun e s =>
  let sc := e.chk
  let ew := sc.ew
  let g := e.agent s.cur
  let seen := fun (t : State) => if s.choices.fill then t.fillAddrs g (s.queueAddrs g (sc.rx o.a) enq sc.vl none) else t
  match s.qOp (ctxQAgent s.cur g) (sc.rx o.a) ⟨enq, sc.vl, o.blk, .v ew (s.vreg o.v), some s.cur⟩ with
  | .fault s' t => .trap (s'.withdrawQueue s.cur) t
  | .park s' => .wait (seen (s'.setMe { s'.me with parked := some i }))
  | .grant s' g els =>
    let s' := seen (s'.setMe { s'.me with parked := none })
    let old := s'.vreg o.v
    let s' := if enq then s'
      else s'.setV o.v (vecDest old sc ew fun k =>
        if k < g then leNat (els.getD k []) else if vtTp sc.vt then 0 else elem old k ew)
    .done (s'.every fun c =>
      let c := c.wx o.d (BitVec.ofNat 64 g)
      if o.blk then c else { c with vl := g })

/-- QENQ.V (R285). -/
def perfQenqV (o : QvArgs) : Perf := perfQv true o (.qenqV o)
/-- QDEQ.V (R285). -/
def perfQdeqV (o : QvArgs) : Perf := perfQv false o (.qdeqV o)
/-- QENQ.V (R44, R285): it enters the VIQ and ends a strip interval. -/
def execQenqV (o : QvArgs) (s : State) : Host.Outcome State Fault Refusal :=
  s.viq (.qenqV o) none Scalar.endInterval (perfQenqV o)
/-- QDEQ.V (R44, R285). -/
def execQdeqV (o : QvArgs) (s : State) : Host.Outcome State Fault Refusal :=
  s.viq (.qdeqV o) none Scalar.endInterval (perfQdeqV o)

/-! ### QINIT, QCNT, QCLOSE -/

/-- raise(cause, 0, va) in a context that is parked: in the VIQ for a `.V` form, at its pc otherwise (R289, R290). Older entries, which
have passed their fault points, go on. -/
def State.trapParked (s : State) (c : CtxIx) (cause : Cause) (va : Scalar → Word64) : State :=
  let x := s.ctx c
  let n := x.passedLen
  let sc := match x.entryParked, x.viq[n]? with
    | true, some e => e.chk
    | _, _ => x.regs.sc
  let u := s.takeTrap c sc ⟨cause, 0, va sc⟩ sc.pc false
  u.setCtx c { u.ctx c with viq := x.viq.take n, holds := (x.viq.drop n).filterMap Entry.held ++ x.holds }

/-- The block address a parked queue instruction named. -/
def State.parkedVa (s : State) (c : CtxIx) (sc : Scalar) : Word64 :=
  match (s.ctx c).parked with
  | some (.qenqX o) | some (.qdeqX o) | some (.qenqM o) | some (.qdeqM o) => sc.rx o.a
  | some (.qenqV o) | some (.qdeqV o) => sc.rx o.a
  | _ => (s.die (CtxIx.die c)).lqb

/-- Every operation parked on a block faults (R290). -/
def State.breakParked (s : State) (key : Nat) : State :=
  (s.qwaits.filter fun w => w.qcb == key).foldl (fun s w => (s.trapParked w.ctx .qcbBroken (s.parkedVa w.ctx)).unpark w.ctx) s

/-- Whether the ring shares a byte with the block, or leaves the Holm window of the block when it must not (R290): the
ring is tested page by page. A page that does not translate, or that may not be written, is no fault of QINIT: it shares no byte with
the block, and lies in no Holm window where it does not translate. -/
def State.ringBad (s : State) (g : Agent) (blk : Loc) (persist : Bool) : Nat → Nat → Nat → Bool
  | 0, _, _ => false
  | k + 1, va, hi =>
    if hi ≤ va then false
    else
      let nxt := Nat.min hi (va / 0x10000 * 0x10000 + 0x10000)
      let bad := match s.ringLoc g (BitVec.ofNat 64 va) with
        | none => persist
        | some l => (decide (l.key < blk.key + 64) && decide (blk.key < l.key + (nxt - va))) ||
            (persist && s.locRegion l != s.locRegion blk)
      bad || s.ringBad g blk persist k nxt hi

/-- Whether the block stands where QINIT refuses it (R290). -/
def State.qinitPlace (s : State) (l : Loc) : Bool :=
  match s.locRegion l with
  | some .pkg | some (.dieLocal _) | some (.holm _) => true
  | _ => false

/-- Steps 2 and 3 of R286 on the block of QINIT, which it does not read: alignment, then translation. Where the block may
stand is one of its own checks (R290). -/
def State.initLoc (s : State) (g : Agent) (a : Word64) : Except Trap Loc := do
  if a.toNat % 64 != 0 then .error ⟨.misalign, 0, a⟩
  if !canonical a then .error ⟨.xlatePerm, 0, a⟩
  let l ← s.place g a 64 .write 0
  if s.isDevice l then .error ⟨.xlatePerm, 0, a⟩
  pure l

/-- QINIT (R290): template fields outside Table 19-1, FLAGS[1:0], the ring, and the place of the block. -/
def State.qinit (s : State) (a b : Word64) : Except Trap State := do
  let g := s.scalarAgent
  let l ← s.initLoc g a
  if b.toNat % 8 != 0 then .error ⟨.misalign, 0, b⟩
  let tl ← s.chunks g .read 8 8 b
  let t := Qcb.ofNat (leNat (s.loadChunks 8 tl))
  let range : Trap := ⟨.qcbRange, 0, a⟩
  let hintOk := decide (t.hint ≤ 3) || t.hint == 0xFF
  if 8 < t.size || t.cap == 0 || 2 ^ 24 < t.cap || !hintOk || t.base % 64 != 0 || t.flags % 4 != 0 then
    .error range
  if !s.qinitPlace l then .error range
  if t.persist && (match s.locRegion l with
      | some (.holm _) => false
      | _ => true) then .error range
  if !t.multi && s.homeDie l == none then .error range
  match s.ringTrap g t with
  | some t => .error t
  | none => pure ()
  if s.ringBad g l t.persist (t.ringBytes / 0x10000 + 2) t.base (t.base + t.ringBytes) then .error range
  let s := s.breakParked l.key
  let q : Qcb := { magic := 0x5143, ver := 1, size := t.size, flags := t.flags % 16, check := 0, cap := t.cap, hint := t.hint,
                   rsv1 := 0, head := 0, tail := 0, free := t.cap, wait := 0, base := t.base, rsv2 := 0 }
  pure ((s.putQcb l q).markClean l)

/-- QINIT (R290), held under R46 and after every earlier access (R287). -/
def execQinit (a b : XReg) (_c : Scope) (s : State) : Host.Outcome State Fault Refusal :=
  s.heldRel fun _ =>
    s.scalarTry ((s.qinit (s.mySc.rx a) (s.mySc.rx b)).map fun s' => s'.setMySc s'.mySc.retire)

/-- QCNT and QCLOSE: after every earlier access (R287), the block test, the test of the ring's place (R248), then `f`. -/
def State.qControl (s : State) (a : XReg) (f : State → Loc → Qcb → State) : Host.Outcome State Fault Refusal :=
  s.heldRel fun _ =>
    let va := s.mySc.rx a
    match s.blockLoc s.scalarAgent va with
    | .error t => .next (s.scalarTrap t)
    | .ok l =>
      let (s', c) := s.qTest l (ctxQAgent s.cur s.scalarAgent)
      match c with
      | some c => s.serial fun _ => .next (s'.scalarTrap ⟨c, 0, va⟩)
      | none =>
        match s'.ringTrap s.scalarAgent (s'.qcbAt l) with
        | some t => .next (s.scalarTrap t)
        | none =>
          let s := f s' l (s'.qcbAt l)
          .next (s.setMySc s.mySc.retire)

/-- QCNT (R291). -/
def execQcnt (o : X2) (_c : Scope) (s : State) : Host.Outcome State Fault Refusal :=
  s.qControl o.a fun s _ q => s.setMySc (s.mySc.wx o.d (BitVec.ofNat 64 (q.count + q.closed.toNat * 2 ^ 32)))
/-- QCLOSE (R289): parked operations are tested again by their wakes. -/
def execQclose (a : XReg) (_c : Scope) (s : State) : Host.Outcome State Fault Refusal :=
  s.qControl a fun s l q => if q.closed then s else s.putQcb l { q with flags := q.flags + 1 }

end Sys2Proof.Machine
end

