-- ==== Sys2Proof/Machine/FaultQueue.lean ====
section
/-!
DEFINITION. Fault records and the die's fault queue (R319, R320, R367).
-/
namespace Sys2Proof.Machine

/-- What a fault record says (Table 21-4), besides the die and SEQ. -/
structure FaultRec where
  kind   : Nat
  cause  : BitVec 8 := 0
  tag    : BitVec 16 := 0
  tid    : Nat := 0
  core   : Nat := 0
  ctx    : Nat := 0
  pc     : Word64 := 0
  va     : Word64 := 0
  pa     : Nat := 0
  detail : Nat := 0
  deriving DecidableEq, Repr

/-- The 64 bytes of a record (Table 21-4). -/
def FaultRec.bytes (r : FaultRec) (d : DieIx) (seq : Nat) : List Byte :=
  leBytes 1 r.kind ++ leBytes 1 r.cause.toNat ++ leBytes 1 d.val ++ leBytes 1 0 ++ leBytes 2 r.tag.toNat ++ leBytes 2 0 ++
    leBytes 4 r.tid ++ leBytes 1 r.core ++ leBytes 1 r.ctx ++ leBytes 2 0 ++
    leBytes 8 r.pc.toNat ++ leBytes 8 r.va.toNat ++ leBytes 8 r.pa ++ leBytes 8 r.detail ++ leBytes 8 seq ++ leBytes 8 0

/-- DFQLOST counts a dropped record and saturates (R319). -/
def Die.lose (x : Die) : Die := { x with dfqlost := if x.dfqlost = 0xFFFFFFFF then x.dfqlost else x.dfqlost + 1 }

/-- Enqueues a record on a die's fault queue as a `.NB` operation; a record that cannot be enqueued is counted as lost,
and its number is used up (R319, R320). -/
def State.faultRecord (s : State) (d : DieIx) (r : FaultRec) : State :=
  let seq := (s.die d).seq
  let s := s.setDie d { s.die d with seq := seq + 1 }
  if (s.die d).dfqb = 0 then s.setDie d (s.die d).lose
  else
    match s.qOp ⟨s.dieAgent d, some d⟩ (s.die d).dfqb ⟨true, 1, false, .raw (r.bytes d seq), none⟩ with
    | .grant s' g _ => if g = 0 then s'.setDie d (s'.die d).lose else s'
    | .fault s' _ | .park s' => s'.setDie d (s'.die d).lose

/-- A record names the context it concerns, if it concerns one: its physical core and its number there (Table 21-4, R367). -/
def FaultRec.of (r : FaultRec) (c : Option CtxIx) : FaultRec :=
  match c with
  | some c => { r with core := (CtxIx.core c).val, ctx := c.val % 8 }
  | none => r

/-- A record about a context's task: its die, core, context, tag and TID (R367). -/
def State.ctxRecord (s : State) (c : CtxIx) (r : FaultRec) : State :=
  let t := (s.ctx c).task
  s.faultRecord (CtxIx.die c)
    (({ r with tag := s.tagOf t, tid := tidOf t } : FaultRec).of (some c))

end Sys2Proof.Machine
end

