-- ==== Sys2Proof/Machine/Objects.lean ====
section
/-!
DEFINITION. Barrier objects (R295 to R299), signal objects (R300, R301), byte counts (R272), user-level interrupts (R303
to R305), and withdrawing a parked operation (R53).
-/
namespace Sys2Proof.Machine

/-! ### Barrier objects -/

/-- The location of a completion object of `n` bytes for the instruction that acts on it: alignment, then translation; a
barrier object lies on no UC page (R295, R301). -/
def State.objLoc (s : State) (g : Agent) (a : Word64) (n : Nat) (k : Kind) : Except Trap Loc := do
  if a.toNat % n != 0 then .error ⟨.misalign, 0, a⟩
  let l ← s.vecLoc g a n 1 k 0
  if n = 32 ∧ l.isUc then .error ⟨.xlatePerm, 0, a⟩
  pure l

/-- The location of a barrier object that an engine is to count into, checked when the entry is performed: translation, then
alignment, in the row order of R159; the contents are not tested (R179, R229, R241). -/
def State.countLoc (s : State) (g : Agent) (a : Word64) : Except Trap Loc := do
  let l ← s.vecPlace g a 32 32 .rw 0
  if l.isUc then .error ⟨.xlatePerm, 0, a⟩
  pure l

/-- A barrier object (Table 19-6). -/
structure BarObj where
  phase    : Nat
  scope    : Nat
  nocarry  : Bool
  rsv      : Nat
  expected : Nat
  arrived  : Nat
  waiters  : Nat
  deriving DecidableEq, Repr

/-- The object of 32 bytes. -/
def BarObj.ofNat (x : Nat) : BarObj where
  phase := bits x 0 32
  scope := bits x 32 3
  nocarry := bits x 35 1 == 1
  rsv := bits x 36 28
  expected := bits x 64 64
  arrived := bits x 128 64
  waiters := bits x 192 64

/-- The 32 bytes of an object. -/
def BarObj.toNat (o : BarObj) : Nat :=
  o.phase + o.scope * 2 ^ 32 + o.nocarry.toNat * 2 ^ 35 + o.rsv * 2 ^ 36 + o.expected * 2 ^ 64 + o.arrived * 2 ^ 128 +
    o.waiters * 2 ^ 192

/-- A scope code of 5 to 7, or a nonzero reserved bit, makes an object invalid (R295). -/
def BarObj.valid (o : BarObj) : Bool := decide (o.scope ≤ 4) && o.rsv == 0

/-- One addition of `b` bytes (R296). -/
def BarObj.add (o : BarObj) (b : Nat) : BarObj :=
  let arr := (o.arrived + b) % 2 ^ 64
  if o.expected ≤ arr then
    { o with phase := (o.phase + 1) % 2 ^ 32, arrived := if o.nocarry then 0 else arr - o.expected }
  else { o with arrived := arr }

/-- The object at a location. -/
def State.barAt (s : State) (l : Loc) : BarObj := .ofNat (s.loadLe l 32)
/-- Writes the object in one step at the home. -/
def State.putBar (s : State) (l : Loc) (o : BarObj) : State := s.homeStore l (leBytes 32 o.toNat)
/-- Rewrites WAITERS (R297), also where a store has made the object invalid since its BWAITs parked. -/
def State.setWaiters (s : State) (key : Nat) : State :=
  let l := keyLoc key
  s.putBar l { s.barAt l with waiters := Nat.min 0xFFFF (s.bwaits.filter fun w => w.1 == key).length }

/-- The physical address of a location; 0 in the local window, which has none (R320). -/
def Loc.pa : Loc → Nat
  | .mem pa | .uc pa => pa
  | .win _ _ => 0

/-- An engine's addition: an invalid object, or one whose scope the engine cannot reach, drops it and is reported with a
kind-6 record on the fault queue of `d` (R295, R333, R367). -/
def State.engineAdd (s : State) (l : Loc) (b minScope : Nat) (d : DieIx) (r : FaultRec) : State :=
  let o := s.barAt l
  if o.valid && decide (minScope ≤ o.scope) then s.putBar l (o.add b)
  else s.faultRecord d { r with kind := 6, detail := b, pa := l.pa }

/-- A barrier instruction, once it may act: the object at xa, checked (R295), then `k`. -/
def State.onBar (s : State) (ready : Bool) (a : XReg) (kd : Kind)
    (k : State → Loc → BarObj → Host.Outcome State Fault Refusal) : Host.Outcome State Fault Refusal :=
  s.waits ready fun _ =>
    let va := s.mySc.rx a
    match s.objLoc s.scalarAgent va 32 kd with
    | .error t => .next (s.scalarTrap t)
    | .ok l =>
      let o := s.barAt l
      if o.valid then k s l o else .next (s.scalarTrap ⟨.scope, 0, va⟩)

/-- BINIT (R297): xd[63:36] and xd[31:0] must be zero, or it faults SCOPE. It names the object without testing what it
held. -/
def execBinit (o : X3) (s : State) : Host.Outcome State Fault Refusal :=
  s.held fun _ =>
    let va := s.mySc.rx o.a
    match s.objLoc s.scalarAgent va 32 .rw with
    | .error t => .next (s.scalarTrap t)
    | .ok l =>
      let w := (s.mySc.rx o.d).toNat
      if bits w 0 32 != 0 || bits w 36 28 != 0 then .next (s.scalarTrap ⟨.scope, 0, va⟩)
      else
        let b : BarObj := ⟨0, bits w 32 3, bits w 35 1 == 1, 0, (s.mySc.rx o.b).toNat, 0, 0⟩
        let s := (s.putBar l b).setWaiters l.key
        s.scalar id

/-- BARR (R297), held under R46. -/
def execBarr (a b : XReg) (s : State) : Host.Outcome State Fault Refusal :=
  s.onBar (s.me.settled && s.intervalReady) a .rw fun s l o => (s.putBar l (o.add (s.mySc.rx b).toNat)).scalar Scalar.endInterval
/-- BARR.REL (R297): held under R46, and after every earlier access. -/
def execBarrRel (a b : XReg) (s : State) : Host.Outcome State Fault Refusal :=
  s.onBar (s.me.settled && s.accessesDone) a .rw fun s l o => (s.putBar l (o.add (s.mySc.rx b).toNat)).scalar Scalar.endInterval
/-- BPHASE (R297): a read, which R46 does not hold. -/
def execBphase (o : X2) (s : State) : Host.Outcome State Fault Refusal :=
  s.onBar s.intervalReady o.a .read fun s _ b => s.scalar fun sc => sc.wx o.d (BitVec.ofNat 64 b.phase)

/-- (PHASE − token) mod 2^32. -/
def phaseDist (phase : Nat) (token : BitVec 32) : Nat := (phase + 2 ^ 32 - token.toNat) % 2 ^ 32

/-- BWAIT (R299): a read, which R46 does not hold. -/
def execBwait (o : X3) (s : State) : Host.Outcome State Fault Refusal :=
  s.onBar s.intervalReady o.a .read fun s l b =>
    let d := phaseDist b.phase ((s.mySc.rx o.b).setWidth 32)
    if d = 0 then
      let s := s.setMe { s.me with parked := some (.bwait o) }
      .next (({ s with bwaits := s.bwaits ++ [(l.key, s.cur)] } : State).setWaiters l.key)
    else if d ≤ 2 ^ 31 then s.scalar fun sc => (sc.wx o.d (BitVec.ofNat 64 d)).endInterval
    else .next (s.scalarTrap ⟨.waitFuture, 0, s.mySc.rx o.a⟩)

/-! ### Signal objects -/

/-- The failure value −2^63 (R300). -/
def signalFailed : Nat := 2 ^ 63
/-- value := (value − b) mod 2^64 at a location. -/
def State.signalSub (s : State) (l : Loc) (b : Nat) : State :=
  s.homeStore l (leBytes 8 ((s.loadLe l 8 + 2 ^ 64 - b % 2 ^ 64) % 2 ^ 64))
/-- The failure write. -/
def State.signalFail (s : State) (l : Loc) : State := s.homeStore l (leBytes 8 signalFailed)
/-- A signal value is ≤ 0, read as signed. -/
def signalDone (v : Nat) : Bool := v == 0 || decide (2 ^ 63 ≤ v)

/-- SIGDEC (R300): a supervisor instruction, and a release. -/
def execSigdec (a b : XReg) (s : State) : Host.Outcome State Fault Refusal :=
  s.privileged fun _ => s.heldRel fun _ =>
    match s.objLoc s.scalarAgent (s.mySc.rx a) 8 .rw with
    | .error t => .next (s.scalarTrap t)
    | .ok l => (s.signalSub l (s.mySc.rx b).toNat).scalar Scalar.endInterval

/-- SIGWAIT (R301): a read, which R46 does not hold. -/
def execSigwait (a : XReg) (s : State) : Host.Outcome State Fault Refusal :=
  s.waits s.intervalReady fun _ =>
    match s.objLoc s.scalarAgent (s.mySc.rx a) 8 .read with
    | .error t => .next (s.scalarTrap t)
    | .ok l =>
      if signalDone (s.loadLe l 8) then s.scalar Scalar.endInterval
      else .next (s.setMe { s.me with parked := some (.sigwait a) })

/-- SIGWAIT_WAKE (R301): the object is tested again. -/
def execSigwaitWake (c : CtxIx) (s : State) : Host.Outcome State Fault Refusal :=
  match (s.ctx c).parked with
  | some (.sigwait a) =>
    let s := { s with cur := c }
    execSigwait a (s.setMe { s.me with parked := none })
  | _ => .next s

/-- Takes a context's BWAIT off its list and lowers WAITERS (R297). -/
def State.withdrawBwait (s : State) (c : CtxIx) : State :=
  (s.bwaits.filter fun w => w.2 == c).foldl (fun s w => s.setWaiters w.1)
    { s with bwaits := s.bwaits.filter fun w => w.2 != c }

/-- BWAIT_WAKE (R299): PHASE is tested again. -/
def execBwaitWake (c : CtxIx) (s : State) : Host.Outcome State Fault Refusal :=
  match (s.ctx c).parked with
  | some (.bwait o) =>
    let s := { s.withdrawBwait c with cur := c }
    execBwait o (s.setMe { s.me with parked := none })
  | _ => .next s

/-! ### Signal objects of launches -/

/-- A dispatch unit's write of a signal object (R38): a decrement, or the failure value; one that cannot be made is
dropped and recorded as kind 12. -/
def State.signalWrite (s : State) (d : DieIx) (g : Agent) (va : Word64) (tag : BitVec 16) (failure : Bool) : State :=
  let lost := fun (s : State) => s.faultRecord d { kind := 12, tag := tag, va := va, detail := failure.toNat }
  if va = 0 then s
  else
    match s.objLoc g va 8 .write with
    | .error _ => lost s
    | .ok l => if s.loadErr l 8 then lost s else if failure then s.signalFail l else s.signalSub l 1

/-- The agent that translates a launch's objects (R41). -/
def Launch.agent (l : Launch) : Agent := ⟨l.satp, false, none, l.die, .l2, none⟩

/-- The failure value of a launch, written once (R49, R311, R327). -/
def State.failLaunch (s : State) (i : Nat) : State :=
  match s.launches[i]? with
  | none => s
  | some l =>
    if l.failed then s
    else (s.signalWrite l.die l.agent l.signal l.tag true).onLaunch i fun l => { l with failed := true }

/-! ### User-level interrupts -/

/-- Whether the event of a binding holds (Table 19-8). -/
def State.uliHolds (s : State) (c : CtxIx) (b : Binding) : Bool :=
  match b.kind with
  | 1 => let d := phaseDist (s.barAt (keyLoc b.obj)).phase b.token
         decide (1 ≤ d) && decide (d ≤ 2 ^ 31)
  | 2 => signalDone (s.loadLe (keyLoc b.obj) 8)
  | 3 => let q := s.qcbAt (keyLoc b.obj)
         decide (1 ≤ q.count) || q.closed
  | 4 => decide (1 ≤ (s.qcbAt (keyLoc b.obj)).free)
  | 5 =>
    match (s.ctx c).regs.feeds.toList[b.obj]? with
    | some f => f.st == .drained || (f.st == .idle && f.out)
    | none => false
  | _ => false

/-- ULIPEND[s] := 1, in every checkpoint too: no instruction wrote it (R47, R303). -/
def Scalar.pend (sc : Scalar) (slot : Nat) : Scalar := { sc with ulipend := sc.ulipend ||| BitVec.ofNat 16 (2 ^ slot) }

/-- Every armed binding whose event holds is cleared and sets its bit of ULIPEND (R303). -/
def State.uliEvents (s : State) : State :=
  s.binds.foldl (fun s p =>
    if s.uliHolds p.1 p.2 then
      ({ s with binds := s.binds.filter fun q => q != p } : State).setCtx p.1 ((s.ctx p.1).every fun sc => sc.pend p.2.slot)
    else s) s

/-- The object of a binding, checked as the instruction that waits on it would check it (R303). -/
def State.uliObj (s : State) (kind : Nat) (a : Word64) : Except Trap Nat :=
  match kind with
  | 1 => do
    let l ← s.objLoc s.scalarAgent a 32 .read
    if (s.barAt l).valid then pure l.key else .error ⟨.scope, 0, a⟩
  | 2 => do
    let l ← s.objLoc s.scalarAgent a 8 .read
    pure l.key
  | 5 => pure a.toNat
  | _ => do
    let l ← s.blockLoc s.scalarAgent a
    let q := s.qcbAt l
    if !q.multi && s.homeDie l != some (CtxIx.die s.cur).val then .error ⟨.scope, 0, a⟩ else pure l.key

/-- ULIARM (R303): kinds 6 to 15 and nonzero fields the kind does not use fault ILLEGAL. It is held like the instructions of
R46, since the slot it changes is no part of a checkpoint (log entry 10). -/
def execUliarm (o : X3) (s : State) : Host.Outcome State Fault Refusal :=
  s.held fun _ =>
    let w := (s.mySc.rx o.b).toNat
    let a := s.mySc.rx o.a
    let slot := bits w 0 4
    let kind := bits w 4 4
    let tok := bits w 32 32
    let bad := decide (5 < kind) || bits w 8 24 != 0 || (kind != 1 && tok != 0) || (kind == 0 && a != 0) ||
      (kind == 5 && decide (3 < a.toNat))
    if bad then .next (s.scalarTrap ⟨.illegal, 0, s.mySc.pc⟩)
    else
      let had := s.binds.any fun p => p.1 == s.cur && p.2.slot == slot
      let rest := s.binds.filter fun p => !(p.1 == s.cur && p.2.slot == slot)
      let fin := fun (s : State) => s.scalar fun sc => sc.wx o.d (if had then 1 else 0)
      if kind = 0 then fin { s with binds := rest }
      else
        match s.uliObj kind a with
        | .error t => .next (s.scalarTrap t)
        | .ok k => fin { s with binds := rest ++ [(s.cur, ⟨slot, kind, BitVec.ofNat 32 tok, k⟩)] }

/-! ### Withdrawing a parked operation -/

/-- Returns a context to the checkpoint of a MATT.B that waits for rows; the request leaves its quad's list (R53, R230). -/
def State.withdrawRows (s : State) (c : CtxIx) : State :=
  let q := CtxIx.quad c
  let x := s.ctx c
  match (s.quad q).waiting.contains c, x.viq with
  | true, e :: _ =>
    let s := s.setQuad q { s.quad q with waiting := (s.quad q).waiting.filter (· != c) }
    s.setCtx c (x.rollback e.chk)
  | _, _ => s

/-- Withdraws the parked operation of a context with no effect (R53): it leaves its wait list, a BAR is no arrival, and
a `.V` operation returns to the checkpoint of its entry; older entries, which have passed their fault points, go on. -/
def State.withdraw (s : State) (c : CtxIx) : State :=
  match (s.ctx c).parked with
  | none => s
  | some i =>
    let s := match i with
      | .bwait _ => s.withdrawBwait c
      | _ => s.withdrawQueue c
    let x := (s.ctx c).unpark
    match i, x.viq[x.passedLen]? with
    | .qenqV _, some e | .qdeqV _, some e => s.setCtx c (x.rollbackAt x.passedLen e.chk)
    | _, _ => s.setCtx c x

/-- What no longer stands parked, because a rollback has undone it, leaves the wait lists of its object (R47, R288, R297). -/
def State.sweep (s : State) : State :=
  let gone := (s.bwaits.filter fun w => match (s.ctx w.2).parked with
    | some (.bwait _) => false
    | _ => true).map (·.2) ++ (s.qwaits.filter fun w => (s.ctx w.ctx).parked.isNone).map (·.ctx)
  gone.foldl (fun s c => (s.withdrawBwait c).withdrawQueue c) s

end Sys2Proof.Machine
end

