-- ==== Sys2Proof/Machine/Flags.lean ====
section
/-!
DEFINITION. Sticky flags (Table 5-7, R109, R110): the bits of FFLAGS that a meaning sets.
-/
namespace Sys2Proof.Machine

/-- Flags to set. -/
abbrev Flags := BitVec 8
/-- No flag. -/
def fNone : Flags := 0x00
/-- Invalid operation. -/
def fNV : Flags := 0x01
/-- Division by zero. -/
def fDZ : Flags := 0x02
/-- Overflow. -/
def fOF : Flags := 0x04
/-- Underflow. -/
def fUF : Flags := 0x08
/-- Inexact. -/
def fNX : Flags := 0x10
/-- Integer saturation. -/
def fSAT : Flags := 0x20
/-- Void join element. -/
def fWV : Flags := 0x40
/-- Weighted loop stopped on WLIM. -/
def fWL : Flags := 0x80

/-- `f` when `c`. -/
def fIf (c : Bool) (f : Flags) : Flags := if c then f else fNone

end Sys2Proof.Machine
end

