-- ==== Sys2Proof/Machine/Num.lean ====
section
/-!
DEFINITION. Number formats and arithmetic (chapter 6): decoding (R87 to R92), rounding (R97 to R100), special values
(R101 to R103), conversions (R104), weights (R96) and quantisation (R93). Values are exact: a mantissa, an exponent of
two, and a sticky bit for a positive remainder below the last bit (division and square root).
-/
namespace Sys2Proof.Machine

/-- The exact value of an encoding or of an operation. -/
inductive FV where
  | nan (sig : Bool)
  | inf (neg : Bool)
  /-- (−1)^neg × (m + ε) × 2^e, with 0 < ε < 1 when `st` and ε = 0 otherwise -/
  | fin (neg : Bool) (m : Nat) (e : Int) (st : Bool)
  deriving DecidableEq, Repr

/-- Format parameters (Table 6-2). -/
structure Fmt where
  bits : Nat
  ebits : Nat
  mbits : Nat
  bias : Nat
  hasInf : Bool
  /-- canonical NaN, or none in E2M1 -/
  nan : Option Nat
  /-- encoding of the largest finite magnitude -/
  maxMag : Nat
  deriving DecidableEq, Repr

/-- FP64. -/
def fmtF64 : Fmt := ⟨64, 11, 52, 1023, true, some 0x7FF8000000000000, 0x7FEFFFFFFFFFFFFF⟩
/-- FP32. -/
def fmtF32 : Fmt := ⟨32, 8, 23, 127, true, some 0x7FC00000, 0x7F7FFFFF⟩
/-- FP16. -/
def fmtF16 : Fmt := ⟨16, 5, 10, 15, true, some 0x7E00, 0x7BFF⟩
/-- BF16. -/
def fmtBf16 : Fmt := ⟨16, 8, 7, 127, true, some 0x7FC0, 0x7F7F⟩
/-- E5M2. -/
def fmtE5m2 : Fmt := ⟨8, 5, 2, 15, true, some 0x7E, 0x7B⟩
/-- E4M3 (R88). -/
def fmtE4m3 : Fmt := ⟨8, 4, 3, 7, false, some 0x7F, 0x7E⟩
/-- E2M1 (Table 6-3). -/
def fmtE2m1 : Fmt := ⟨4, 2, 1, 1, false, none, 0x7⟩

/-- The format of a floating-point element type. -/
def fmtOf : EType → Option Fmt
  | .f64 => some fmtF64 | .f32 => some fmtF32 | .f16 => some fmtF16 | .bf16 => some fmtBf16
  | .e5m2 => some fmtE5m2 | .e4m3 => some fmtE4m3 | .e2m1 => some fmtE2m1
  | _ => none

/-- A rounding mode (Table 6-6). -/
inductive Mode where
  | rne | rtz | rdn | rup | rmm
  deriving DecidableEq, Repr

/-- FRM as a mode (R83: values above 4 are never stored). -/
def frmMode (frm : BitVec 3) : Mode :=
  match frm.toNat with
  | 0 => .rne
  | 1 => .rtz
  | 2 => .rdn
  | 3 => .rup
  | _ => .rmm
/-- The mode of a rounding field (R97). -/
def rndMode (r : Rnd) (frm : BitVec 3) : Mode :=
  match r with
  | .rne => .rne
  | .rtz => .rtz
  | .rdn => .rdn
  | .rup => .rup
  | .rmm => .rmm
  | .frm => frmMode frm

/-- Value of an encoding (R87 to R90). -/
def Fmt.decode (f : Fmt) (x : Nat) : FV :=
  let s := x / 2 ^ (f.bits - 1) % 2 == 1
  let e := x / 2 ^ f.mbits % 2 ^ f.ebits
  let m := x % 2 ^ f.mbits
  if f.hasInf && e == 2 ^ f.ebits - 1 then
    if m = 0 then .inf s else .nan (m / 2 ^ (f.mbits - 1) == 0)
  else if !f.hasInf && f.nan.isSome && x % 2 ^ (f.bits - 1) == 0x7F then .nan false
  else if e = 0 then .fin s m (1 - (f.bias : Int) - f.mbits) false
  else .fin s (m + 2 ^ f.mbits) ((e : Int) - f.bias - f.mbits) false

/-- Value of an E8M0 scale (R91). -/
def decodeE8m0 (x : Nat) : FV := if x % 256 = 255 then .nan false else .fin false 1 ((x % 256 : Nat) - 127 : Int) false

/-- Value of an encoding of a floating-point type. -/
def decodeFp (t : EType) (x : Nat) : FV :=
  match fmtOf t with
  | some f => f.decode x
  | none => decodeE8m0 x

/-- m × 2^e at quantum 2^q: the integer part, the remainder against the half, and whether anything is left. -/
def atQuantum (m : Nat) (e : Int) (st : Bool) (q : Int) : Nat × Nat × Nat × Bool :=
  if q ≤ e then (m * 2 ^ (e - q).toNat, 0, 2, st)
  else
    let h := 2 ^ (q - e).toNat
    (m / h, 2 * (m % h), h, st)

/-- Rounds m × 2^e to an integer multiple of 2^q under a mode (Table 6-6); the Bool says inexact. -/
def roundInt (md : Mode) (neg : Bool) (m : Nat) (e : Int) (st : Bool) (q : Int) : Nat × Bool :=
  let (k, r2, h, st) := atQuantum m e st q
  let inexact := r2 != 0 || st
  let up := match md with
    | .rne => decide (h < r2) || (r2 == h && (st || k % 2 == 1))
    | .rmm => decide (h ≤ r2)
    | .rtz => false
    | .rdn => neg && inexact
    | .rup => !neg && inexact
  (if up then k + 1 else k, inexact)

/-- Sign bit of a format. -/
def Fmt.sign (f : Fmt) (neg : Bool) : Nat := if neg then 2 ^ (f.bits - 1) else 0
/-- Encoding of an infinity (formats that have one). -/
def Fmt.infEnc (f : Fmt) (neg : Bool) : Nat := f.sign neg + (2 ^ f.ebits - 1) * 2 ^ f.mbits
/-- The largest finite value, signed. -/
def Fmt.maxEnc (f : Fmt) (neg : Bool) : Nat := f.sign neg + f.maxMag
/-- Rounding into E5M2, E4M3 and E2M1 saturates (R88, R100). -/
def Fmt.saturates (f : Fmt) : Bool := f.bits ≤ 8

/-- round_to (R98 to R100). A signalling NaN's NV is set by the operation that met it (R101, R104). -/
def Fmt.round (f : Fmt) (v : FV) (md : Mode) : Nat × Flags :=
  match v with
  | .nan _ =>
    match f.nan with
    | some n => (n, fNone)
    | none => (0, fNV)
  | .inf neg => if f.hasInf then (f.infEnc neg, fNone) else (f.maxEnc neg, fOF)
  | .fin neg m e st =>
    if m = 0 ∧ st = false then (f.sign neg, fNone)
    else
      let top : Int := (Nat.log2 m : Int) + e
      let emin : Int := 1 - (f.bias : Int)
      let q : Int := max top emin - f.mbits
      let (k, inexact) := roundInt md neg m e st q
      let mag := (q - (emin - f.mbits)).toNat * 2 ^ f.mbits + k
      if f.maxMag < mag then
        let toInf := match md with
          | .rne | .rmm => true
          | .rtz => false
          | .rdn => neg
          | .rup => !neg
        (if !f.saturates && toInf then f.infEnc neg else f.maxEnc neg, fOF ||| fNX)
      else
        let tiny := decide (top < emin) &&
          (k == 0 || decide ((roundInt md neg m e st (top - f.mbits)).1 < 2 ^ (emin - top + f.mbits).toNat))
        (f.sign neg + mag, fIf inexact fNX ||| fIf (inexact && tiny) fUF)

/-- round_to a floating-point type. -/
def roundFp (t : EType) (v : FV) (md : Mode) : Nat × Flags :=
  match fmtOf t with
  | some f => f.round v md
  | none => (0, fNone)

/-! ### Exact operations -/

/-- A zero. -/
def FV.isZero : FV → Bool
  | .fin _ m _ st => m == 0 && !st
  | _ => false
/-- An infinity. -/
def FV.isInf : FV → Bool
  | .inf _ => true
  | _ => false
/-- A NaN. -/
def FV.isNan : FV → Bool
  | .nan _ => true
  | _ => false
/-- A signalling NaN. -/
def FV.isSnan : FV → Bool
  | .nan g => g
  | _ => false
/-- The sign. -/
def FV.negative : FV → Bool
  | .nan _ => false
  | .inf n => n
  | .fin n _ _ _ => n
/-- The value with its sign changed. -/
def FV.neg : FV → FV
  | .nan g => .nan g
  | .inf n => .inf (!n)
  | .fin n m e st => .fin (!n) m e st
/-- The value times 2^k. -/
def FV.scale (v : FV) (k : Int) : FV :=
  match v with
  | .fin n m e st => .fin n m (e + k) st
  | _ => v

/-- The signed integer (−1)^n × m × 2^(e − b), for b ≤ e. -/
def fixAt (n : Bool) (m : Nat) (e b : Int) : Int :=
  let k : Int := ((m * 2 ^ (e - b).toNat : Nat) : Int)
  if n then -k else k

/-- Exact sum of two finite values; an exact zero takes its sign as IEEE 754-2019 gives (R98 step 3). -/
def addFin (md : Mode) (n1 : Bool) (m1 : Nat) (e1 : Int) (n2 : Bool) (m2 : Nat) (e2 : Int) : FV :=
  let b := min e1 e2
  let t := fixAt n1 m1 e1 b + fixAt n2 m2 e2 b
  if t = 0 then
    if n1 == n2 then .fin n1 0 0 false else .fin (md == .rdn) 0 0 false
  else .fin (decide (t < 0)) t.natAbs b false

/-- a + b with the specials of R101; the flags are NV. -/
def FV.add (md : Mode) (a b : FV) : FV × Flags :=
  match a, b with
  | .nan g, y => (.nan false, fIf (g || y.isSnan) fNV)
  | x, .nan g => (.nan false, fIf (g || x.isSnan) fNV)
  | .inf n, .inf k => if n == k then (.inf n, fNone) else (.nan false, fNV)
  | .inf n, .fin _ _ _ _ => (.inf n, fNone)
  | .fin _ _ _ _, .inf n => (.inf n, fNone)
  | .fin n1 m1 e1 _, .fin n2 m2 e2 _ => (addFin md n1 m1 e1 n2 m2 e2, fNone)

/-- a − b. -/
def FV.sub (md : Mode) (a b : FV) : FV × Flags := FV.add md a b.neg

/-- a × b with the specials of R101. -/
def FV.mul (a b : FV) : FV × Flags :=
  match a, b with
  | .nan g, y => (.nan false, fIf (g || y.isSnan) fNV)
  | x, .nan g => (.nan false, fIf (g || x.isSnan) fNV)
  | .inf n, .inf k => (.inf (n != k), fNone)
  | .inf n, .fin k m _ _ => if m = 0 then (.nan false, fNV) else (.inf (n != k), fNone)
  | .fin k m _ _, .inf n => if m = 0 then (.nan false, fNV) else (.inf (n != k), fNone)
  | .fin n1 m1 e1 _, .fin n2 m2 e2 _ => (.fin (n1 != n2) (m1 * m2) (e1 + e2) false, fNone)

/-- a × b + c exactly (R105): 0 × ∞ sets NV even when c is a quiet NaN (R101). -/
def FV.fma (md : Mode) (a b c : FV) : FV × Flags :=
  let (p, f1) := FV.mul a b
  let (r, f2) := FV.add md p c
  (r, f1 ||| f2)

/-- The quotient of two nonzero finite values, to more bits than any format holds, with a sticky bit. -/
def divFin (n : Bool) (m1 : Nat) (e1 : Int) (m2 : Nat) (e2 : Int) : FV :=
  let k := Nat.log2 m2 + 80
  let t := m1 * 2 ^ k
  .fin n (t / m2) (e1 - e2 - k) (t % m2 != 0)

/-- a / b with the specials of R101. -/
def FV.div (a b : FV) : FV × Flags :=
  match a, b with
  | .nan g, y => (.nan false, fIf (g || y.isSnan) fNV)
  | x, .nan g => (.nan false, fIf (g || x.isSnan) fNV)
  | .inf _, .inf _ => (.nan false, fNV)
  | .inf n, .fin k _ _ _ => (.inf (n != k), fNone)
  | .fin k _ _ _, .inf n => (.fin (n != k) 0 0 false, fNone)
  | .fin n1 m1 e1 _, .fin n2 m2 e2 _ =>
    if m2 = 0 then if m1 = 0 then (.nan false, fNV) else (.inf (n1 != n2), fDZ)
    else if m1 = 0 then (.fin (n1 != n2) 0 0 false, fNone)
    else (divFin (n1 != n2) m1 e1 m2 e2, fNone)

/-- floor(sqrt n) for n < 4^bits, bit by bit from the top. -/
def isqrt (n : Nat) : Nat → Nat → Nat
  | 0, r => r
  | b + 1, r => if (r + 2 ^ b) * (r + 2 ^ b) ≤ n then isqrt n b (r + 2 ^ b) else isqrt n b r

/-- sqrt a (R101): below −0 is invalid; sqrt(−0) = −0. -/
def FV.sqrt (a : FV) : FV × Flags :=
  match a with
  | .nan g => (.nan false, fIf g fNV)
  | .inf n => if n then (.nan false, fNV) else (.inf false, fNone)
  | .fin n m e _ =>
    if m = 0 then (.fin n 0 0 false, fNone)
    else if n then (.nan false, fNV)
    else
      let (m, e) := if e % 2 = 0 then (m, e) else (2 * m, e - 1)
      let t := m * 4 ^ 64
      let r := isqrt t (Nat.log2 t / 2 + 1) 0
      (.fin false r (e / 2 - 64) (r * r != t), fNone)

/-- Exact comparison of two numbers (no NaN): −1, 0 or 1; −0 equals +0. -/
def FV.cmp (a b : FV) : Int :=
  match a, b with
  | .inf n, .inf k => if n == k then 0 else if n then -1 else 1
  | .inf n, _ => if n then -1 else 1
  | _, .inf n => if n then 1 else -1
  | .fin n1 m1 e1 _, .fin n2 m2 e2 _ =>
    let b := min e1 e2
    (fixAt n1 m1 e1 b - fixAt n2 m2 e2 b).sign
  | _, _ => 0

/-- A comparison (R103). -/
def fpCompare (c : Cond) (a b : FV) : Bool × Flags :=
  if a.isNan || b.isNan then
    let ordered := c != .eq && c != .ne
    (c == .ne, fIf (ordered || a.isSnan || b.isSnan) fNV)
  else
    let k := a.cmp b
    let r := match c with
      | .eq => k == 0
      | .ne => k != 0
      | .lt => decide (k < 0)
      | .le => decide (k ≤ 0)
      | .gt => decide (0 < k)
      | .ge => decide (0 ≤ k)
    (r, fNone)

/-- minimumNumber and maximumNumber on encodings (R102): −0 below +0; both NaN give the canonical NaN. -/
def Fmt.minMax (f : Fmt) (isMax : Bool) (x y : Nat) : Nat × Flags :=
  let a := f.decode x
  let b := f.decode y
  let fl := fIf (a.isSnan || b.isSnan) fNV
  if a.isNan && b.isNan then (f.nan.getD 0, fl)
  else if a.isNan then (y, fl)
  else if b.isNan then (x, fl)
  else
    let k := a.cmp b
    let aLess := decide (k < 0) || (k == 0 && a.negative && !b.negative)
    (if aLess != isMax then x else y, fl)

/-- FCLASS (R138). -/
def Fmt.classOf (f : Fmt) (x : Nat) : Nat :=
  match f.decode x with
  | .nan g => if g then 2 ^ 8 else 2 ^ 9
  | .inf n => if n then 2 ^ 0 else 2 ^ 7
  | .fin n m _ _ =>
    if m = 0 then if n then 2 ^ 3 else 2 ^ 4
    else if m < 2 ^ f.mbits then if n then 2 ^ 2 else 2 ^ 5
    else if n then 2 ^ 1 else 2 ^ 6

/-! ### Integers -/

/-- The integer an encoding holds (Table 6-5). -/
def intVal (t : EType) (x : Nat) : Int :=
  let w := t.width
  let u := x % 2 ^ w
  if t.signed && decide (2 ^ (w - 1) ≤ u) then (u : Int) - 2 ^ w else u
/-- Smallest value of an integer type. -/
def intMin (t : EType) : Int := if t.signed then -(2 ^ (t.width - 1)) else 0
/-- Largest value of an integer type. -/
def intMax (t : EType) : Int := if t.signed then 2 ^ (t.width - 1) - 1 else 2 ^ t.width - 1
/-- The encoding of an integer mod 2^w. -/
def intEnc (w : Nat) (v : Int) : Nat := (v % 2 ^ w).toNat
/-- Clamps to the range of a type; the Bool says clamped. -/
def intClamp (t : EType) (v : Int) : Int × Bool :=
  if v < intMin t then (intMin t, true) else if intMax t < v then (intMax t, true) else (v, false)

/-- An exact integer as a value. -/
def FV.ofInt (v : Int) : FV := .fin (decide (v < 0)) v.natAbs 0 false

/-- FP to integer (Table 6-7). -/
def fpToInt (t : EType) (v : FV) (md : Mode) : Nat × Flags :=
  match v with
  | .nan _ => (intEnc t.width (intMax t), fNV)
  | .inf n => (intEnc t.width (if n then intMin t else intMax t), fNV)
  | .fin n m e st =>
    let (k, inexact) := roundInt md n m e st 0
    let i : Int := if n then -(k : Int) else k
    let (c, cl) := intClamp t i
    (intEnc t.width c, if cl then fNV else fIf inexact fNX)

/-- A conversion of Table 6-7 between FP and integer types; a signalling NaN source sets NV. -/
def convertVal (td ts : EType) (x : Nat) (md : Mode) : Nat × Flags :=
  if ts.isInt then
    let v := intVal ts x
    if td.isInt then
      let (c, cl) := intClamp td v
      (intEnc td.width c, fIf cl fSAT)
    else roundFp td (.ofInt v) md
  else
    let v := decodeFp ts x
    if td.isInt then fpToInt td v md
    else
      let (r, f) := roundFp td v md
      (r, f ||| fIf v.isSnan fNV)

/-! ### Weights (R96) -/

/-- An exact value as a weight: rounded to a multiple of 2^−15 to nearest even, clamped, no flag but NV for a NaN. -/
def toWeight (v : FV) : Nat × Flags :=
  match v with
  | .nan _ => (0, fNV)
  | .inf n => (if n then 0 else 0x8000, fNone)
  | .fin n m e st => if n then (0, fNone) else (Nat.min 0x8000 (roundInt .rne false m e st (-15)).1, fNone)
/-- A weight as a value. -/
def ofWeight (w : Nat) : FV := .fin false w (-15) false

/-! ### MX (R92, R93) -/

/-- An MX element under a scale byte (R92). -/
def mxVal (t : EType) (x scale : Nat) : FV :=
  if scale % 256 = 255 then .nan false else (decodeFp t x).scale ((scale % 256 : Nat) - 127 : Int)

/-- emax of an element format (R93). -/
def mxEmax : EType → Int
  | .e2m1 => 2
  | .e4m3 => 8
  | _ => 15

/-- floor(log2 |v|) of a nonzero finite value. -/
def FV.log2? : FV → Option Int
  | .fin _ m e _ => if m = 0 then none else some ((Nat.log2 m : Int) + e)
  | _ => none

/-- The block exponent e of R93 for the active values; none when one is a NaN (scale 0xFF). -/
def mxExp (t : EType) (vs : List FV) : Option Int :=
  if vs.any FV.isNan then none
  else if vs.any FV.isInf then some 127
  else
    match vs.filterMap FV.log2? with
    | [] => some (-127)
    | l :: ls => some (max (-127) (min 127 (ls.foldl max l - mxEmax t)))

/-- Scale byte of a block exponent (R93). -/
def mxScale : Option Int → Nat
  | none => 255
  | some e => (e + 127).toNat

/-- The code of one active value of a block (R93); a NaN value sets NV. -/
def mxCode (t : EType) (e : Option Int) (v : FV) (md : Mode) : Nat × Flags :=
  match e with
  | none => (0, fIf v.isNan fNV)
  | some k => roundFp t (v.scale (-k)) md

end Sys2Proof.Machine
end

