-- ==== Sys2Proof/Machine/VAtomic.lean ====
section
/-!
DEFINITION. Atomics and reductions in memory (R173, R174), windowed gathers (R169) and bitmap blocks (R170 to R172).
-/
namespace Sys2Proof.Machine

/-! ### VAMO -/

/-- The least index of the list whose address an earlier one has (R173). -/
def dupFrom (addr : Nat → Word64) : List Nat → List Nat → Option Nat
  | _, [] => none
  | seen, j :: js => if seen.any fun i => addr i == addr j then some j else dupFrom addr (j :: seen) js

/-- VAMO (R173): data in vd, index in vd + 1. -/
def perfVamo (o : VamoArgs) : Perf := fun e s =>
  let sc := e.chk
  let n := amoBytes o.dword
  match vregAdd o.v 1 with
  | none => .trap s (e.trap .reservedReg)
  | some vi =>
    if sc.ew < 8 * n then .trap s (e.trap .illegal)
    else
      let g := e.agent s.cur
      let addr := addrIndex o.a vi s sc
      let act := s.actives sc o.m
      let dup := dupFrom addr [] act
      let (ls, t) := s.locate g .rw n n (fun i => [addr i]) (act.filter fun i => dup.all fun j => decide (i < j))
      let (ls, t) := s.cutBad e (ls, t <|> dup.map fun j => ⟨.atomicDup, j, addr j⟩)
      let s := s.fillTlbs g (fun i => [addr i]) ls
      .of (ls.foldl (fun s p =>
        match p.2 with
        | l :: _ =>
          let old := s.loadLe l n
          let s := s.storeLe (some (CtxIx.core s.cur)) l n (amoNew o.op n old (elem (s.vreg o.v) p.1 (8 * n)))
          s.setV o.v (setElem (s.vreg o.v) p.1 (8 * n) old)
        | [] => s) s) t
/-- VAMO (R173): an ordered VAMO ends a strip interval. -/
def execVamo (o : VamoArgs) (s : State) : Host.Outcome State Fault Refusal :=
  s.viq (.vamo o) none (if o.ord = .none then id else Scalar.endInterval) (perfVamo o)

/-! ### VSRED -/

/-- One application of a VSRED operation on `w`-bit values: the result and its flags (R174). -/
def sredOp (op : SredOp) (w a b : Nat) : Nat × Flags :=
  match op with
  | .fadd =>
    let f := if w = 64 then fmtF64 else fmtF32
    let (v, g) := FV.add .rne (f.decode a) (f.decode b)
    let (r, h) := f.round v .rne
    (r, g ||| h)
  | .add => (amoNew .add (w / 8) a b, fNone)
  | .and => (a &&& b, fNone)
  | .or => (a ||| b, fNone)
  | .xor => (a ^^^ b, fNone)
  | .min => (amoNew .min (w / 8) a b, fNone)
  | .max => (amoNew .max (w / 8) a b, fNone)
  | .minn => (amoNew .minn (w / 8) a b, fNone)
  | .maxn => (amoNew .maxn (w / 8) a b, fNone)

/-- Combines values in increasing element order, one operation at a time. -/
def sredFold (op : SredOp) (w : Nat) : Nat → List Nat → Nat × Flags
  | a, [] => (a, fNone)
  | a, b :: bs =>
    let (r, f) := sredOp op w a b
    let (r', f') := sredFold op w r bs
    (r', f ||| f')

/-- VSRED (R174): data in v, index in v + 1; each distinct address is updated once with the combined value. Addresses are
told apart by their translated locations, so two virtual addresses of one location are one address (DESIGN CHOICE, log
entry 39). -/
def perfVsred (o : VStore) (op : SredOp) : Perf := fun e s =>
  let sc := e.chk
  let w := ewBits o.e sc
  match vregAdd o.v 1 with
  | none => .trap s (e.trap .reservedReg)
  | some vi =>
    if widthBad sc w false true || decide (w < 32) then .trap s (e.trap .illegal)
    else
      let g := e.agent s.cur
      let addr := addrIndex o.a vi s sc
      let (ls, t) := s.cutBad e (s.locate g .rw (w / 8) (w / 8) (fun i => [addr i]) (s.actives sc o.m))
      let s := s.fillTlbs g (fun i => [addr i]) ls
      let src := s.vreg o.v
      let firsts := ls.filter fun p => !(ls.any fun q => decide (q.1 < p.1) && q.2 == p.2)
      let (s, f) := firsts.foldl (fun (acc : State × Flags) p =>
        match p.2, (ls.filter fun q => q.2 == p.2).map fun q => elem src q.1 w with
        | l :: _, v :: vs =>
          let (c, f1) := sredFold op w v vs
          let (r, f2) := sredOp op w (acc.1.loadLe l (w / 8)) c
          (acc.1.storeLe (some (CtxIx.core s.cur)) l (w / 8) r, acc.2 ||| f1 ||| f2)
        | _, _ => acc) (s, fNone)
      .flagged s f t
/-- VSRED (R174). -/
def execVsred (o : VStore) (op : SredOp) (s : State) : Host.Outcome State Fault Refusal :=
  s.viq (.vsred o op) none id (perfVsred o op)

/-! ### VLDW -/

/-- The window element j of VLDW, or none where it would fault (R169). -/
def State.windowElem (s : State) (g : Agent) (a : Word64) (w j : Nat) : Option Nat :=
  match s.vecLoc g (a + BitVec.ofNat 64 (j * (w / 8))) (w / 8) (w / 8) .read j with
  | .ok l => some (s.loadLe l (w / 8))
  | .error _ => none

/-- VLDW (R169): the window into vd + 1, then the elements its indexes name; an error in an index leaves the elements below it done
(R321). -/
def perfVldw (v : VReg) (a : XReg) (x : VReg) (mo : MReg) (ew : EwSel) : Perf := fun e s =>
  let sc := e.chk
  let w := ewBits ew sc
  match vregAdd v 1 with
  | none => .trap s (e.trap .reservedReg)
  | some vw =>
    if widthBad sc w false true then .trap s (e.trap .illegal)
    else
      let b := sc.rx a
      let nb := w / 8
      if b.toNat % nb != 0 then .trap s ⟨.misalign, 0, b⟩
      else
        let g := e.agent s.cur
        let win := (List.range sc.vlm).map fun j => s.windowElem g b w j
        let bad := s.badElem e
        let s := s.accessAt g (((List.range sc.vlm).filter fun j => (win.getD j none).isSome).map fun j => b + BitVec.ofNat 64 (j * nb))
        let s := s.setV vw (vecDest (s.vreg vw) sc w fun j => (win.getD j none).getD 0)
        let idx := s.vreg x
        let old := s.vreg v
        let hit := fun i : Nat =>
          let k := sext sc.ew (elem idx i sc.ew)
          if 0 ≤ k ∧ k < ((sc.vlm * nb : Nat) : Int) ∧ k.toNat % nb = 0 then win.getD (k.toNat / nb) none else none
        let s := s.setV v (vecWrite old (sc.upTo bad) w fun i =>
          if i < sc.vstart.toNat then some (elem old i w) else some ((hit i).getD (elem old i w)))
        let m := s.mreg mo
        let kept := fun i => decide (i < sc.vl ∧ i < sc.vstart.toNat) || bad.any fun n => decide (n ≤ i)
        let s := s.setM mo (maskOf (fun i => if kept i then m.getLsbD i else decide (i < sc.vl) && (hit i).isNone) 4096)
        .of s (bad.map regTrap)
/-- VLDW (R169). -/
def execVldw (v : VReg) (a : XReg) (x : VReg) (mo : MReg) (ew : EwSel) (s : State) : Host.Outcome State Fault Refusal :=
  s.viq (.vldw v a x mo ew) none id (perfVldw v a x mo ew)

/-! ### Bitmap blocks -/

/-- Number of 1 bits of a 64-bit word. -/
def popc (x : Nat) : Nat := ((List.range 64).filter fun i => ebit x i).length
/-- Number of 1 bits below bit `d`. -/
def rank (x d : Nat) : Nat := popc (x % 2 ^ d)

/-- XOR of a list of bytes. -/
def xorBytes (bs : List Nat) : Nat := bs.foldl (· ^^^ ·) 0
/-- The check byte of a header (Table 9-2). -/
def bitmapCheck (h : Nat) : Nat :=
  xorBytes (((List.range 16).filter (· != 3)).map fun i => bits h (8 * i) 8) ^^^ 0xA5

/-- `n` bitmap words from word `k` of the block body; an entry that has passed its fault point keeps the words it was located with. -/
def State.bitmapWords (s : State) (g : Agent) (a : Word64) (i k : Nat) : Nat → Except Trap (List Nat)
  | 0 => pure []
  | n + 1 => do
    let r ← s.bitmapWords g a i k n
    let l ← s.vecLoc g (a + BitVec.ofNat 64 (16 + 8 * (k + n))) 8 8 .read i
    pure (r ++ [(s.atPoint g).loadLe l 8])

/-- Walks levels `n` of the block for element `e` (R170): `start` is the first word of the level, `count` its words, `w` the word
of the path. Answers the number of the element's value and the number of bitmap words, or none when absent. Every word of a level
is read where an element is present, and a fault on any of them is a fault of that element, where R171 names the values and the
header only (DESIGN CHOICE, log entry 39). -/
def State.bitmapWalk (s : State) (g : Agent) (a : Word64) (i e : Nat) : Nat → Nat → Nat → Nat → Except Trap (Option (Nat × Nat))
  | 0, _, _, _ => pure none
  | n + 1, start, count, w => do
    let d := e / 64 ^ n % 64
    let own ← s.bitmapWords g a i (start + w) 1
    let x := own.headD 0
    if !ebit x d then pure none
    else
      let ws ← s.bitmapWords g a i start count
      let before := ((ws.take w).map popc).sum + rank x d
      if n = 0 then pure (some (before, start + count))
      else s.bitmapWalk g a i e n (start + count) ((ws.map popc).sum) before

/-- One element of a block: its value, or none when absent (R171). -/
def State.bitmapElem (s : State) (g : Agent) (a : Word64) (levels w i e : Nat) : Except Trap (Option Nat) := do
  let r ← s.bitmapWalk g a i e levels 0 1 0
  match r with
  | none => pure none
  | some (k, words) =>
    let at8 := a + BitVec.ofNat 64 (16 + 8 * words + k * w / 8)
    let l ← s.vecLoc g at8 (elemBytes w) 1 .read i
    pure (some (if w < 8 then s.loadLe l 1 / 2 ^ (k * w % 8) % 2 ^ w else s.loadLe l (w / 8)))

/-- Elements in order until one faults. -/
def State.bitmapElems (s : State) (g : Agent) (a : Word64) (levels w base : Nat) :
    List Nat → List (Nat × Option Nat) × Option Trap
  | [] => ([], none)
  | i :: is =>
    match s.bitmapElem g a levels w i (base + i) with
    | .error t => ([], some t)
    | .ok x =>
      let (r, t) := s.bitmapElems g a levels w base is
      ((i, x) :: r, t)

/-- The addresses that `State.bitmapWalk` reads. -/
def State.bitmapReads (s : State) (g : Agent) (a : Word64) (e : Nat) : Nat → Nat → Nat → Nat → List Word64
  | 0, _, _, _ => []
  | n + 1, start, count, w =>
    let word := fun k => a + BitVec.ofNat 64 (16 + 8 * k)
    match s.bitmapWords g a 0 (start + w) 1, s.bitmapWords g a 0 start count with
    | .ok own, .ok ws =>
      let d := e / 64 ^ n % 64
      if !ebit (own.headD 0) d then [word (start + w)]
      else
        let before := ((ws.take w).map popc).sum + rank (own.headD 0) d
        (List.range count).map (fun k => word (start + k)) ++ s.bitmapReads g a e n (start + count) ((ws.map popc).sum) before
    | _, _ => []

/-- Keeps the translations of the header, the words and the values that the elements `is` read (R258). -/
def State.bitmapFill (s : State) (g : Agent) (a : Word64) (levels w base : Nat) (is : List Nat) : State :=
  if s.choices.fill then
    s.fillAddrs g (a :: is.flatMap fun i =>
      s.bitmapReads g a (base + i) levels 0 1 0 ++
        match s.bitmapWalk g a i (base + i) levels 0 1 0 with
        | .ok (some (k, words)) => [a + BitVec.ofNat 64 (16 + 8 * words + k * w / 8)]
        | _ => [])
  else s

/-- Reads the 16-byte header at xa: alignment first (R171). -/
def State.bitmapHeader (s : State) (g : Agent) (a : Word64) : Except Trap Nat := do
  if a.toNat % 16 != 0 then .error ⟨.misalign, 0, a⟩
  let l ← s.vecLoc g a 16 1 .read 0
  pure (s.loadLe l 16)

/-- The header checks of R171. -/
def bitmapBad (h w base vl : Nat) : Bool :=
  let lv := bits h 0 8
  decide (lv < 2) || decide (4 < lv) || bits h 20 4 != 0 || bits h 64 64 != 0 || bits h 24 8 != bitmapCheck h ||
    (match etypeOf (bits h 8 8) with
      | some t => t.width != w
      | none => true) || decide (64 ^ lv < base + vl)

/-- VLDB (R171): unmasked; the header is the one read at issue. Values narrower than a byte are taken, as R172 counts them, though R159
allows w < 8 with unit stride alone; so does VSTB (DESIGN CHOICE, log entry 41). -/
def perfVldb (v : VReg) (a b : XReg) (mo : MReg) (ew : EwSel) : Perf := fun e s =>
  let sc := e.chk
  let w := ewBits ew sc
  if sc.ew < w then .trap s (e.trap .illegal)
  else
    let g := e.agent s.cur
    let base := (sc.rx b).toNat
    let hd : Except Trap Nat := match e.rcd with
      | some r => .ok (r.toNat % 2 ^ 128)
      | none => s.bitmapHeader g (sc.rx a)
    match hd with
    | .error t => .trap s t
    | .ok h =>
      if bitmapBad h w base sc.vl then .trap s (e.trap .shapeRecord)
      else
        let is := (List.range sc.vl).filter fun i => decide (sc.vstart.toNat ≤ i)
        let (xs, t) := s.bitmapElems g (sc.rx a) (bits h 0 8) w base is
        let lim := limitOf sc t
        let get := fun i => (xs.find? fun p => p.1 == i).bind (·.2)
        let old := s.vreg v
        let m := s.mreg mo
        let s := s.bitmapFill g (sc.rx a) (bits h 0 8) w base (xs.map (·.1))
        let s := s.setV v (loadDest old sc w lim t.isSome fun i => some ((get i).getD 0))
        let s := s.setM mo (maskOf (fun i =>
          if t.isSome && decide (lim ≤ i) then m.getLsbD i
          else if sc.vl ≤ i then false
          else if i < sc.vstart.toNat then m.getLsbD i
          else (get i).isSome) 4096)
        .of s t
/-- VLDB (R171): its header is read as it issues, after the accesses of older strip intervals (R158, R265). -/
def execVldb (v : VReg) (a b : XReg) (mo : MReg) (ew : EwSel) (s : State) : Host.Outcome State Fault Refusal :=
  s.issueRead fun _ =>
    let r := match s.bitmapHeader (agentOf s.cur s.mySc) (s.mySc.rx a) with
      | .ok h => some (BitVec.ofNat 512 h)
      | .error _ => none
    s.viq (.vldb v a b mo ew) r id (perfVldb v a b mo ew)

/-- The bytes of the two-level block of elements 0 to VL − 1 (R172). -/
def bitmapBlock (ty w vl : Nat) (present : Nat → Bool) (val : Nat → Nat) : List Byte :=
  let is := (List.range vl).filter present
  let words := (List.range 64).map fun d => packBits (fun k => decide (64 * d + k < vl) && present (64 * d + k)) 64
  let root := packBits (fun d => words.getD d 0 != 0) 64
  let nnz := is.length
  let h := 2 + ty * 2 ^ 8 + nnz * 2 ^ 32
  let vals := packNat w (fun k => val (is.getD k 0)) nnz
  leBytes 16 (h + bitmapCheck h * 2 ^ 24) ++ leBytes 8 root ++ (words.filter (· != 0)).flatMap (leBytes 8 ·) ++
    leBytes ((nnz * w + 7) / 8) vals

/-- After a fault of VSTB each byte of the destination is old or new: a free bit decides for every byte that can be
written (R172, log entry 6). -/
def State.partialBytes (s : State) (c : CoreIx) (g : Agent) (a : Word64) : List Byte → State
  | [] => s
  | b :: bs =>
    let (f, s) := s.free 1
    let s := match s.vecLoc g a 1 1 .write 0 with
      | .ok l => if f = 1 then s.storeLoc (some c) l [b] else s
      | .error _ => s
    s.partialBytes c g (a + 1) bs

/-- VSTB and VSTB.NTF (R172, R168). -/
def perfVstb (o : VStore) (b : XReg) (ntf : Bool) : Perf := fun e s =>
  let sc := e.chk
  let w := ewBits o.e sc
  let c := CtxIx.core s.cur
  let ty := (sc.rx b).toNat
  let tyOk := match etypeOf ty with
    | some t => t.width == w
    | none => false
  if sc.ew < w || !tyOk || (ntf && sc.pwaddr == 0) then .trap s (e.trap .illegal)
  else
    let a := sc.rx o.a
    if a.toNat % 16 != 0 then .trap s ⟨.misalign, 0, a⟩
    else
      let g := e.agent s.cur
      let src := s.vreg o.v
      let val := fun i => elem src i w
      let block := bitmapBlock ty w sc.vl (fun i => s.active sc o.m i && val i != 0) val
      match s.progress { e with chk := { sc with vstart := 0 } } ntf with
      | .error t => .trap s t
      | .ok pw =>
        match s.span g .write a block.length with
        | .error t => .trap (s.partialBytes c g a block) t
        | .ok sp =>
          let n := s.countActive sc o.m sc.vl
          let s := (s.storeSpan (some c) sp block).fillSpan g a block.length
          .done (match pw with
            | some l => (s.storeLe (some c) l 8 n).fillAddrs g [sc.pwaddr]
            | none => s)
/-- VSTB (R172). -/
def execVstb (o : VStore) (b : XReg) (s : State) : Host.Outcome State Fault Refusal :=
  s.viq (.vstb o b) none id (perfVstb o b false)
/-- VSTB.NTF (R172, R168). -/
def execVstbNtf (o : VStore) (b : XReg) (s : State) : Host.Outcome State Fault Refusal :=
  s.viq (.vstbNtf o b) none Scalar.endInterval (perfVstb o b true)

end Sys2Proof.Machine
end

