-- ==== Sys2Proof/Machine/Feeds.lean ====
section
/-!
DEFINITION. Feeds and the ferry (R74, R177 to R179). The ferry moves elements when an instruction of the feed is
performed, or, in a run that holds it (`choices.ferryHeld`), when an event says so (log entry 5).
-/
namespace Sys2Proof.Machine

/-! ### The ferry -/

/-- Elements of four strips, each at most one vector register long (R177). -/
def FeedSlot.room (f : FeedSlot) : Nat := 4 * (8192 / f.w)
/-- The address of element k (R177). -/
def FeedSlot.addr (f : FeedSlot) (k : Nat) : Word64 := f.base + BitVec.ofNat 64 (k * f.stride * f.w / 8)
/-- Element k through memory. -/
def State.feedLoc (s : State) (g : Agent) (f : FeedSlot) (k : Nat) (kd : Kind) : Except Trap Loc :=
  let nb := elemBytes f.w
  s.vecLoc g (f.addr k) nb nb kd 0

/-- Fetches up to `n` further elements of an input feed; stops on a fault (R178). -/
def State.ferryFetch (s : State) (g : Agent) (f : FeedSlot) : Nat → FeedSlot
  | 0 => f
  | n + 1 =>
    let f := s.ferryFetch g f n
    if f.fault.isSome || decide (f.len ≤ f.ferry) || decide (f.room ≤ f.buf.length) then f
    else
      match s.feedLoc g f f.ferry .read with
      | .error t => { f with fault := some (t.cause, t.addr) }
      | .ok l => { f with buf := f.buf ++ [BitVec.ofNat 64 (s.readElem l f.ferry f.w)], ferry := f.ferry + 1 }

/-- ended once every element is fetched, drained once none is left (Table 9-3). -/
def FeedSlot.settle (f : FeedSlot) : FeedSlot :=
  if f.len ≤ f.ferry then { f with st := if f.buf.isEmpty then .drained else .ended } else f

/-- The ferry of an input feed fetches as far ahead as it may. -/
def State.ferryIn (s : State) (g : Agent) (f : FeedSlot) : FeedSlot := (s.ferryFetch g f f.room).settle

/-- A feed slot after its ferry has fetched, with the translations of what it fetched kept (R258). -/
def State.ferryRun (s : State) (g : Agent) (i : FeedIx) (f : FeedSlot) : State :=
  let y := s.ferryIn g f
  (s.setFeed i y).accessAt g ((List.range (y.ferry - f.ferry)).map fun k => f.addr (f.ferry + k))

/-- Writes the appended elements of an output feed in order; stops on a fault (R179). -/
def State.ferryWrite (s : State) (g : Agent) (c : CoreIx) (f : FeedSlot) : List Word64 → State × FeedSlot
  | [] => (s, { f with buf := [] })
  | x :: xs =>
    match s.feedLoc g f f.ferry .write with
    | .error t => (s, { f with buf := x :: xs, fault := some (t.cause, t.addr) })
    | .ok l =>
      ((s.writeElem c l f.ferry f.w x.toNat).fillAddrs g [f.addr f.ferry]).ferryWrite g c { f with ferry := f.ferry + 1 } xs

/-- The ferry of an output feed writes what has been appended. -/
def State.ferryOut (s : State) (g : Agent) (c : CoreIx) (f : FeedSlot) : State × FeedSlot := s.ferryWrite g c f f.buf

/-! ### FCFG -/

/-- Whether a slot is open or ended (Table 5-2). -/
def FeedSlot.live (f : FeedSlot) : Bool := f.st == .open || f.st == .ended
/-- Unreserved bytes of a core's strip-buffer region: each open feed reserves 4 KiB (R80, R177). -/
def State.stripFree (s : State) (c : CoreIx) : Nat :=
  let used := ((List.finRange 1536).filter fun x => CtxIx.core x == c).map fun x =>
    ((s.ctx x).regs.feeds.toList.filter fun f => f.st == .open).length
  ((s.core c).pool2 - (s.core c).pool1) * 4096 - 4096 * used.sum

/-- FCFG (R177). A length of 2^40 or more, which the rule's range leaves out without naming a fault, is ILLEGAL (DESIGN CHOICE,
log entry 39). R177 gives its faults no order and a misaligned base no fault; the model's (DESIGN CHOICE, log entry 44): FEED for the
state of the slot, ILLEGAL for the length or for w < 8 with s > 1, MISALIGN with SADDR = the base for a base not aligned to w/8, at
FCFG itself, and last FEED for lack of room. -/
def perfFcfg (f : FeedIx) (a b : XReg) (stride : Fin 16) (out : Bool) (ew : EwSel) : Perf := fun e s =>
  let sc := e.chk
  let x := s.feed f
  let w := ewBits ew sc
  let base := sc.rx a
  let len := (sc.rx b).toNat
  let k := stride.val + 1
  if x.st != .idle && x.st != .drained then .trap s (e.trap .feed)
  else if decide (2 ^ 40 ≤ len) || (decide (w < 8) && k != 1) then .trap s (e.trap .illegal)
  else if 8 ≤ w && base.toNat % (w / 8) != 0 then .trap s ⟨.misalign, 0, base⟩
  else if s.stripFree (CtxIx.core s.cur) < 4096 then .trap s (e.trap .feed)
  else
    let y : FeedSlot := ⟨.open, out, base, len, w, k, 0, 0, [], none, none⟩
    let y := if out then { y with st := if len = 0 then .ended else .open } else if len = 0 then y.settle else y
    .done (if out || y.st != .open || s.choices.ferryHeld then s.setFeed f y else s.ferryRun (e.agent s.cur) f y)
/-- FCFG (R177). -/
def execFcfg (f : FeedIx) (a b : XReg) (stride : Fin 16) (out : Bool) (e : EwSel) (s : State) :
    Host.Outcome State Fault Refusal :=
  s.viq (.fcfg f a b stride out e) none id (perfFcfg f a b stride out e)

/-! ### FLD -/

/-- Elements of an input feed that no queued FLD has been granted (R178). -/
def Context.fldAvail (x : Context) (f : FeedIx) (buf : Nat) : Nat :=
  buf - (x.viq.map fun e => match e.instr with
    | .fld _ g => if g = f then e.grant else 0
    | _ => 0).sum

/-- Moving the elements that an FLD was granted as it issued. One that was granted none because the ferry stopped raises the
ferry's fault, which is then forgotten, so that a replay retries the element; one that found the feed drained moves none and leaves vd,
whose tail is that of a move (R178). -/
def perfFld (v : VReg) (f : FeedIx) : Perf := fun e s =>
  let sc := e.chk
  let x := s.feed f
  if x.st == .idle || x.out then .trap s (e.trap .feed)
  else if sc.ew < x.w then .trap s (e.trap .illegal)
  else
    match x.buf.isEmpty, x.fault with
    | true, some (c, a) => .trap (s.setFeed f { x with fault := none }) ⟨c, 0, a⟩
    | _, _ => if x.st == .drained then .done s else
      let n := e.grant
      let old := s.vreg v
      let new := vecDest old sc x.w fun i =>
        if i < n then (x.buf.getD i 0).toNat else if vtTp sc.vt then 0 else elem old i x.w
      let x := ({ x with buf := x.buf.drop n, pos := x.pos + n } : FeedSlot).settle
      let s := s.setV v new
      .done (if s.choices.ferryHeld || x.st != .open then s.setFeed f x else s.ferryRun (e.agent s.cur) f x)

/-- What FLD decides as it issues, on the slot as the ferry has filled it: none where it parks, else its grant (R178). An FLD
that is to fault is granted nothing. -/
def Context.fldGrant (x : Context) (f : FeedIx) (y : FeedSlot) : Option Nat :=
  let avail := x.fldAvail f y.buf.length
  if y.st == .idle || y.out || decide (x.regs.sc.ew < y.w) || decide (y.len ≤ y.ferry ∧ avail = 0) then some 0
  else if avail = 0 then (if y.fault.isSome then some 0 else none)
  else some (Nat.min x.regs.sc.vl avail)

/-- FLD (R178): it sets VL as it issues and ends a strip interval, or parks; in the state of R50 it faults first. -/
def execFld (v : VReg) (f : FeedIx) (s : State) : Host.Outcome State Fault Refusal :=
  if s.viqDeadlock then s.deadlockTrap else
  let y := s.feed f
  let t := if s.choices.ferryHeld || y.st != .open || y.out then s else s.ferryRun (agentOf s.cur s.mySc) f y
  match s.me.fldGrant f (t.feed f) with
  | none => .next (t.setMe { t.me with parked := some (.fld v f) })
  | some n =>
    t.viqWith (.fld v f) { Captured.none with grant := n }
      (fun sc => ({ sc with vl := n } : Scalar).endInterval) (perfFld v f)

/-- FLD_WAKE (R42, R178): the ferry has fetched, and the parked FLD looks again. -/
def execFldWake (c : CtxIx) (s : State) : Host.Outcome State Fault Refusal :=
  match (s.ctx c).parked with
  | some (.fld v f) =>
    let s := { s with cur := c }
    let s := s.ferryRun (agentOf c s.mySc) f (s.feed f)
    execFld v f (s.setMe { s.me with parked := none })
  | _ => .next s

/-! ### FST and FEND -/

/-- The write fault a slot has to report, taken off the slot so that the ferry retries on the replay (R179). -/
def State.feedFault (s : State) (f : FeedIx) : Option (State × Trap) :=
  match (s.feed f).fault with
  | some (c, a) => some (s.setFeed f { s.feed f with fault := none }, ⟨c, 0, a⟩)
  | none => none

/-- The ferry writes what an output slot holds, when it is not held back or is full. -/
def State.feedFlush (s : State) (g : Agent) (f : FeedIx) (force : Bool) : State :=
  if s.choices.ferryHeld && !force then s
  else
    let (s, x) := s.ferryOut g (CtxIx.core s.cur) (s.feed f)
    s.setFeed f x

/-- FST (R179). -/
def perfFst (v : VReg) (f : FeedIx) : Perf := fun e s =>
  let sc := e.chk
  let x := s.feed f
  if !x.out || x.st != .open then .trap s (e.trap .feed)
  else if sc.ew < x.w then .trap s (e.trap .illegal)
  else if x.len < x.pos + sc.vl then .trap s (e.trap .feed)
  else
    match s.feedFault f with
    | some (s, t) => .trap s t
    | none =>
      let g := e.agent s.cur
      let s := s.feedFlush g f (decide (x.room < x.buf.length + sc.vl))
      match s.feedFault f with
      | some (s, t) => .trap s t
      | none =>
        let x := s.feed f
        let els := (List.range sc.vl).map fun i => BitVec.ofNat 64 (elem (s.vreg v) i x.w)
        .done ((s.setFeed f { x with buf := x.buf ++ els, pos := x.pos + sc.vl }).feedFlush g f false)
/-- FST (R179). -/
def execFst (v : VReg) (f : FeedIx) (m : MSel) (ch : Bool) (e : EwSel) (s : State) : Host.Outcome State Fault Refusal :=
  s.viq (.fst v f m ch e) none id (perfFst v f)

/-- FEND (Table 9-3, R179); x0 names no object. -/
def perfFend (f : FeedIx) (a : XReg) : Perf := fun e s =>
  let x := s.feed f
  let bo := a != 0
  if !x.out then
    if bo || !x.live then .trap s (e.trap .feed) else .done (s.setFeed f FeedSlot.idle)
  else if x.st != .open then .trap s (e.trap .feed)
  else
    match s.feedFault f with
    | some (s, t) => .trap s t
    | none =>
      let g := e.agent s.cur
      let s := s.feedFlush g f false
      match s.feedFault f with
      | some (s, t) => .trap s t
      | none =>
        let x := s.feed f
        if bo then
          match s.countLoc g (e.chk.rx a) with
          | .error t => .trap s t
          | .ok l => .done ((s.setFeed f { x with st := .ended, bo := some (BitVec.ofNat 64 l.key) }).fillAddrs g [e.chk.rx a])
        else .done (s.setFeed f { x with st := .ended })
/-- FEND (R179). -/
def execFend (f : FeedIx) (a : XReg) (m : MSel) (e : EwSel) (s : State) : Host.Outcome State Fault Refusal :=
  s.viq (.fend f a m e) none id (perfFend f a)

/-! ### Feed events -/

/-- FEED_INPUT_ENDED (Table 9-3): the ferry fetches what is left of an open input feed, as far as it may. -/
def execFeedInputEnded (c : CtxIx) (f : FeedIx) (s : State) : Host.Outcome State Fault Refusal :=
  let s := { s with cur := c }
  let x := s.feed f
  if x.st == .open && !x.out then .next (s.ferryRun (agentOf c s.mySc) f x) else .next s

/-- Adds bytes to an object that an engine counts into: pending until BYTE_COUNT_ADD (R272). -/
def State.owe (s : State) (key bytes : Nat) : State :=
  let t := s.me.task
  { s with counts := s.counts ++ [⟨key, bytes, 0, CtxIx.die s.cur, s.tagOf t, t, some s.cur⟩] }

/-- FEED_OUTPUT_DONE (Table 9-3, R179): what is left of an ended output feed is written, the slot becomes idle, still marked as
an output feed's (kind 5 of Table 19-8), and the byte count is owed to the object of FEND. A fault that nothing is left to report goes to the die's fault queue. -/
def execFeedOutputDone (c : CtxIx) (f : FeedIx) (s : State) : Host.Outcome State Fault Refusal :=
  let s := { s with cur := c }
  let x := s.feed f
  if x.st == .ended && x.out then
    let (s, y) := s.ferryOut (agentOf c s.mySc) (CtxIx.core c) { x with fault := none }
    let s := s.setFeed f { FeedSlot.idle with out := true }
    match y.fault with
    | some (cause, a) =>
      .next (s.ctxRecord c { kind := 4, cause := cause.code, va := a, pc := s.mySc.pc, detail := f.val })
    | none =>
      match x.bo with
      | some k => .next (s.owe k.toNat ((x.len * x.w + 7) / 8))
      | none => .next s
  else .next s

end Sys2Proof.Machine
end

