-- ==== Sys2Proof/Machine/Astk.lean ====
section
/-!
DEFINITION. The activation stack: APUSH and APOP (R180, R181).
-/
namespace Sys2Proof.Machine

/-- n padded to a multiple of 16. -/
def pad16 (n : Nat) : Nat := (n + 15) / 16 * 16

/-- The 16-byte header of a frame (R180). -/
def frameHeader (len : Nat) (tag : Byte) : List Byte :=
  let low := leBytes 4 len ++ [tag, 0]
  low ++ leBytes 2 (crc16 low).toNat ++ leBytes 8 0

/-- Whether a header is the frame of a tag: its check, its reserved fields and its tag (R181). -/
def frameOk (h : List Byte) (tag : Byte) : Bool :=
  leNat ((h.drop 6).take 2) == (crc16 (h.take 6)).toNat && h.getD 5 0 == 0 && leNat (h.drop 8) == 0 && h.getD 4 0 == tag

/-- ASP past a frame of `n` bytes. -/
def Scalar.frameTop (sc : Scalar) (n : Nat) : Nat := sc.asp.toNat + pad16 n + 16

/-- The copy of APUSH (R181). The 32-bit length of the header keeps xb mod 2^32, where R181 bounds xb by the stack alone
(DESIGN CHOICE, log entry 39). -/
def perfApush (a b : XReg) (tag : Byte) : Perf := fun e s =>
  let sc := e.chk
  let n := (sc.rx b).toNat
  let asp := sc.asp
  if sc.asl.toNat < sc.frameTop n then .trap s ⟨.astkOver, 0, asp⟩
  else
    let g := e.agent s.cur
    match s.span g .read (sc.rx a) n with
    | .error t => .trap s t
    | .ok src =>
      match s.span g .write asp (pad16 n + 16) with
      | .error t => .trap s t
      | .ok dst =>
        let pad := List.replicate (pad16 n - n) 0
        let s := s.storeSpan (some (CtxIx.core s.cur)) dst (s.loadSpan src ++ pad ++ frameHeader n tag)
        .done ((s.fillSpan g (sc.rx a) n).fillSpan g asp (pad16 n + 16))
/-- APUSH (R181): it moves ASP as it issues, unless the frame passes ASL. -/
def execApush (a b : XReg) (tag : Byte) (s : State) : Host.Outcome State Fault Refusal :=
  let top := s.mySc.frameTop (s.mySc.rx b).toNat
  s.viq (.apush a b tag) none
    (fun sc => ({ sc with asp := if sc.asl.toNat < top then sc.asp else BitVec.ofNat 64 top } : Scalar).endInterval)
    (perfApush a b tag)

/-- APOP (R181); once it has passed its fault point, the header is the one it was located with. -/
def perfApop (o : X3) (tag : Byte) : Perf := fun e s =>
  let sc := e.chk
  let asp := sc.asp
  if asp.toNat < sc.asb.toNat + 16 then .trap s ⟨.astkUnder, 0, asp⟩
  else
    let g := e.agent s.cur
    let hdr := asp - 16
    match s.span g .read hdr 16 with
    | .error t => .trap s t
    | .ok hl =>
      let h := (s.atPoint g).loadSpan hl
      if !frameOk h tag then .trap s ⟨.astkTag, 0, hdr⟩
      else
        let len := leNat (h.take 4)
        let n := Nat.min len (sc.rx o.b).toNat
        let base := hdr - BitVec.ofNat 64 (pad16 len)
        match s.span g .read base n with
        | .error t => .trap s t
        | .ok src =>
          match s.span g .write (sc.rx o.a) n with
          | .error t => .trap s t
          | .ok dst =>
            let s := s.storeSpan (some (CtxIx.core s.cur)) dst (s.loadSpan src)
            let s := ((s.fillSpan g hdr 16).fillSpan g base n).fillSpan g (sc.rx o.a) n
            .done (s.every fun c => { c.wxAs sc.ulinh o.d (BitVec.ofNat 64 len) with asp := base })
/-- APOP (R181). -/
def execApop (o : X3) (tag : Byte) (s : State) : Host.Outcome State Fault Refusal :=
  s.viq (.apop o tag) none Scalar.endInterval (perfApop o tag)

end Sys2Proof.Machine
end

