-- ==== Sys2Proof/Machine/Block.lean ====
section
/-!
DEFINITION. Element blocks: starting one (R131, R132, R186, R187), its shadow registers and arm stack (R188, R192, R218),
its write rule (R192, R214), its limits (R194), STOP (R189) and its abort (R190).
-/
namespace Sys2Proof.Machine

/-! ### Reading a block's registers -/

/-- The captured scalar side of a block. -/
abbrev Block.sc (b : Block) : Scalar := b.entry.chk
/-- The address of the word at the current position. -/
def Block.addr (b : Block) : Word64 := b.hdr + BitVec.ofNat 64 (16 + 8 * b.pos)
/-- raise(cause, 0, the word's address) (R190). -/
def Block.bad (b : Block) (c : Cause) : Trap := ⟨c, 0, b.addr⟩
/-- A BLOCK_FORMAT fault: SADDR is the header's address (R132, R221). -/
def Block.format (b : Block) : Trap := ⟨.blockFormat, 0, b.hdr⟩

/-- A vector register as a word of the block reads it: its shadow when it is declared (R188). -/
def Block.v (b : Block) (s : State) (r : VReg) : VBits :=
  match b.shV.find? fun p => p.1 == r with
  | some p => p.2
  | none => s.vreg r
/-- A mask register as a word of the block reads it. -/
def Block.m (b : Block) (s : State) (r : MReg) : MBits :=
  match b.shM.find? fun p => p.1 == r with
  | some p => p.2
  | none => s.mreg r
/-- A weight register as a word of the block reads it. -/
def Block.w (b : Block) (s : State) (r : WReg) : VBits :=
  match b.shW.find? fun p => p.1 == r with
  | some p => p.2
  | none => s.wreg r
/-- Writes a shadow; a register that is not declared has none, and R132 lets no word write it. -/
def Block.setV (b : Block) (r : VReg) (x : VBits) : Block :=
  { b with shV := b.shV.map fun p => if p.1 == r then (r, x) else p }
/-- Writes a mask shadow. -/
def Block.setM (b : Block) (r : MReg) (x : MBits) : Block :=
  { b with shM := b.shM.map fun p => if p.1 == r then (r, x) else p }
/-- Writes a weight shadow. -/
def Block.setW (b : Block) (r : WReg) (x : VBits) : Block :=
  { b with shW := b.shW.map fun p => if p.1 == r then (r, x) else p }

/-- m8 + d. -/
def mdst (d : Fin 4) : MReg := ⟨8 + d.val, by omega⟩

/-! ### Elements -/

/-- Whether one stack entry lets element i run (R218). -/
def ArmEntry.lets (a : ArmEntry) (i : Nat) : Bool :=
  match a with
  | .region _ runs prns _ cur _ => ((runs.getD cur 0).getLsbD i) && !((prns.getD cur 0).getLsbD i)
  | .loop _ live _ => live.getLsbD i
/-- inrun(i) (R218). -/
def Block.inrun (b : Block) (i : Nat) : Bool := b.arms.all fun a => a.lets i
/-- Whether a mask field selects element i. -/
def Block.selects (b : Block) (s : State) (m : MSel) (i : Nat) : Bool :=
  match m with
  | none => true
  | some r => (b.m s r).getLsbD i
/-- active(i) in a block (R192). -/
def Block.active (b : Block) (s : State) (m : MSel) (i : Nat) : Bool :=
  decide (i < b.sc.vl) && b.inrun i && b.selects s m i
/-- The active elements in order. -/
def Block.actives (b : Block) (s : State) (m : MSel) : List Nat := (List.range b.sc.vl).filter fun i => b.active s m i

/-- Element i after a write of R192: `res i` where the instruction writes it, unchanged where that is none. -/
def Block.cell (b : Block) (s : State) (m : MSel) (old : Nat) (res : Nat → Option Nat) (i : Nat) : Nat :=
  if b.sc.vl ≤ i then (if vtTp b.sc.vt then 0 else old)
  else if !b.inrun i then old
  else if !b.selects s m i then (if vtMp b.sc.vt then 0 else old)
  else (res i).getD old

/-- A vector destination of width `w` (R192). -/
def Block.putV (b : Block) (s : State) (d : VReg) (w : Nat) (m : MSel) (res : Nat → Option Nat) : Block :=
  let old := b.v s d
  b.setV d (vecDest old b.sc w fun i => b.cell s m (elem old i w) res i)
/-- A mask destination, to bit 4,095 (R192). -/
def Block.putM (b : Block) (s : State) (d : MReg) (m : MSel) (res : Nat → Bool) : Block :=
  let old := b.m s d
  b.setM d (maskOf (fun i => b.cell s m (elem old i 1) (fun i => some (res i).toNat) i == 1) 4096)
/-- A weight destination, to element 511 (R214); no value is above 0x8000 (R73). -/
def Block.putW (b : Block) (s : State) (d : WReg) (m : MSel) (res : Nat → Option Nat) : Block :=
  let old := b.w s d
  b.setW d (BitVec.ofNat 8192 (packNat 16 (fun i => b.cell s m (elem old i 16) (fun i => (res i).map (Nat.min 0x8000)) i) 512))
/-- A vector destination outside the mask policy: elements below VL are `f`, the others follow the tail policy. -/
def Block.putAll (b : Block) (s : State) (d : VReg) (w : Nat) (f : Nat → Nat) : Block :=
  let old := b.v s d
  b.setV d (vecDest old b.sc w fun i => if i < b.sc.vl then f i else if vtTp b.sc.vt then 0 else elem old i w)

/-- setflag, held back until STOP (R8, R188). -/
def Block.addFlags (b : Block) (f : Flags) : Block := { b with flags := b.flags ||| f }
/-- The flags of the active elements. -/
def Block.flagsOf (b : Block) (s : State) (m : MSel) (f : Nat → Flags) : Flags :=
  (b.actives s m).foldl (fun a i => a ||| f i) fNone
/-- The next word. -/
def Block.advance (b : Block) : Block := { b with pos := b.pos + 1 }

/-- Writes `res i` to each active element of d with its flags, and goes on (R192). -/
def Block.lanewise (b : Block) (s : State) (d : VReg) (w : Nat) (m : MSel) (res : Nat → Nat × Flags) : Block :=
  ((b.putV s d w m fun i => some (res i).1).addFlags (b.flagsOf s m fun i => (res i).2)).advance

/-- One VSQ push, held back; the seventeenth faults (R194). -/
def Block.push (b : Block) (x : Nat) : Except Trap Block :=
  if 16 ≤ b.pushes.length then .error (b.bad .blockLimit)
  else .ok { b with pushes := b.pushes ++ [BitVec.ofNat 64 x] }
/-- A pushed element: sign-extended for an s type, zero-extended otherwise (R204, R208). -/
def pushVal (t : EType) (x : Nat) : Nat := if t.signed then intEnc 64 (intVal t x) else x

/-- A width above EW faults ILLEGAL before any element (R77, R195). -/
def Block.fits (b : Block) (w : Nat) : Except Trap Unit := if b.sc.ew < w then .error (b.bad .illegal) else .ok ()
/-- An ILLEGAL of R195. -/
def Block.illIf (b : Block) (c : Bool) : Except Trap Unit := if c then .error (b.bad .illegal) else .ok ()
/-- The mode of a word's rounding field (R97). -/
def Block.mode (b : Block) (r : Rnd) : Mode := rndMode r b.sc.frm

/-! ### Words -/

/-- What a word does to the block in flight of the acting context: everything it writes is in the block (R188). -/
abbrev Word := State → Block → Except Trap Block

/-- The abort of R190: no trace but the trap. -/
def State.blockTrap (s : State) (b : Block) (t : Trap) : State := s.takeTrap s.cur b.sc t b.sc.pc true

/-- Executes a word on the block in flight. -/
def State.onBlock (s : State) (f : Word) : Host.Outcome State Fault Refusal :=
  match s.me.block with
  | none => .fault .noBlock
  | some b =>
    match f s b with
    | .ok b' => .next (s.setMe { s.me with block := some b' })
    | .error t => .next (s.blockTrap b t)

/-! ### Starting a block -/

/-- The shadows of a header: copies of the declared registers (R187). -/
def State.openBlock (s : State) (e : Entry) (a : Word64) (h : Nat) (ws : List (BitVec 64)) : Block where
  entry := e
  hdr := a
  words := ws
  pos := 0
  shV := (List.finRange 48).filterMap fun k => if ebit h k.val then some (k, s.vreg k) else none
  shM := (List.finRange 4).filterMap fun k => if ebit h (56 + k.val) then some (mdst k, s.mreg (mdst k)) else none
  shW := (List.finRange 8).filterMap fun k => if ebit h (48 + k.val) then some (k, s.wreg k) else none
  arms := []
  flags := 0
  pushes := []
  stores := []
  count := []

/-- Step 4 of R189: the buffered stores are performed (R211). -/
def State.drainStores (s : State) (ss : List (Nat × List Byte)) : State :=
  ss.foldl (fun s p => s.storeLoc (some (CtxIx.core s.cur)) (keyLoc p.1) p.2) s

/-- Starts the block whose header stands at `a` (R132, R186); of one that has passed its STOP, the stores are left. A misaligned target faults before any fetch, and a fetch
fault or a defect of the header or the words is a block fault (R190). A block that pushes does not start while the VSQ is
full (R50). -/
def State.startBlock (s : State) (e : Entry) (a : Word64) : PerfOut :=
  let g := e.agent s.cur
  if e.draining then .done (s.drainStores e.stores)
  else if a &&& 7 != 0 then .trap s ⟨.misalign, 0, a⟩
  else if 16 ≤ s.mySc.vsq.length && s.entryPushes e then .wait s
  else
    match s.fetchBlock g a 2 with
    | .error t => .trap s t 0 true
    | .ok (hw, s) =>
      let h := (hw.getD 0 0).toNat
      let c := (hw.getD 1 0).toNat
      let bad : Trap := ⟨.blockFormat, 0, a⟩
      if headerBad h c then .trap s bad 0 true
      else
        match s.fetchBlock g (a + 16) (bits c 0 16) with
        | .error t => .trap s t 0 true
        | .ok (ws, s) =>
          if wordsBad h ws then .trap s bad 0 true
          else .done (s.setMe { s.me with block := some (s.openBlock e a h ws) })

/-- VFETCH: the target is PC + 4 × sext(off26, 26) (R123). -/
def perfVfetch (o : BitVec 26) : Perf := fun e s => s.startBlock e (branchTarget e.chk.pc o)
/-- VFETCH (R186). -/
def execVfetch (o : BitVec 26) (s : State) : Host.Outcome State Fault Refusal := s.viq (.vfetch o) none id (perfVfetch o)
/-- VFETCHX: the target is xa (R123). -/
def perfVfetchx (a : XReg) : Perf := fun e s => s.startBlock e (e.chk.rx a)
/-- VFETCHX (R186). -/
def execVfetchx (a : XReg) (s : State) : Host.Outcome State Fault Refusal := s.viq (.vfetchx a) none id (perfVfetchx a)

/-! ### STOP -/

/-- The registers that words of a block write. -/
def wordsWrite (ws : List (BitVec 64)) : List Res := ws.flatMap fun w => (rawDests w.toNat).filterMap Dest.res

/-- Step 2 of R189: shadows, pushes and flags. What they write on the scalar side stands in every younger checkpoint; a register
that is written holds no error any more (R321). -/
def State.commitRegs (s : State) (b : Block) : State :=
  let s := b.shV.foldl (fun s p => s.setV p.1 p.2) s
  let s := b.shM.foldl (fun s p => s.setM p.1 p.2) s
  let s := b.shW.foldl (fun s p => s.setW p.1 p.2) s
  let s := if s.me.badRegs.isEmpty then s
    else s.setMe { s.me with badRegs := s.me.badRegs.filter fun p => !p.res.any (wordsWrite b.words).contains }
  s.every fun sc => { sc.setFlags b.flags with vsq := sc.vsq ++ b.pushes }

/-- STOP (R189, R221): it waits for room on the VSQ, commits, sets VSTART to 0 and performs the buffered stores; while the lanes are
held, these wait for the lanes. -/
def execStop (s : State) : Host.Outcome State Fault Refusal :=
  match s.me.block with
  | none => .fault .noBlock
  | some b =>
    if !b.arms.isEmpty then .next (s.blockTrap b b.format)
    else if 16 < s.mySc.vsq.length + b.pushes.length then .next s
    else
      let s := ((s.setMe { s.me with block := none }).commitRegs b).zeroVstart
      let rest : Entry := { b.entry with passed := some (s.xlates (b.entry.agent s.cur)), stores := b.stores }
      .next (if s.choices.lanesHeld && rest.draining then s.setMe { s.me with viq := rest :: s.me.viq } else s.drainStores b.stores)

end Sys2Proof.Machine
end

