-- ==== Sys2Proof/Machine/ChainRules.lean ====
section
/-!
DEFINITION. What may start chained on an older entry that runs (R45, R193), element groups, and how entries that have started are recorded
in VTF0 to VTF3 where the older one faults (R316, R317).
-/
namespace Sys2Proof.Machine

/-- Vector registers that an entry writes element for element, faulting precisely at one of them (Table 9-1, R173). -/
def loadDests : Instr → List VReg
  | .vld o | .vlds o _ | .vld2 o | .vldx o _ => [o.v]
  | .vldb v _ _ _ _ => [v]
  | .vamo o => if o.ord = .none ∨ o.ord = .rel then [o.v] else []
  | .vldg o n => fieldRegs o.v n.val
  | _ => []

/-- The registers that a younger entry reads under its chain bit, where that bit is set (Table 7-4, Table 7-8). -/
def chainReads : Instr → List VReg
  | .vst o => if o.ch then [o.v] else []
  | .vsts o _ | .vstsNtf o _ | .vst2 o _ | .vstx o _ _ | .vstb o _ | .vstbNtf o _ | .vsred o _ | .vrred o _ _ _ =>
    if o.ch then [o.v] else []
  | .vstg o n _ => if o.ch then fieldRegs o.v n.val else []
  | .fst v _ _ ch _ => if ch then [v] else []
  | .mopa _ v _ _ _ | .mopav _ v _ _ _ _ | .mwrs _ v _ _ => if v.ch then [v.r] else []
  | _ => []

/-- What a store performs of the elements it is cut to: a notifying store writes its progress word only when it completes, since
that write is a release (R168). The groups of any other entry that had started are discarded (R316). -/
def chainPerf : Instr → Option Perf
  | .vst o => some (perfVst { o with ntf := false })
  | .vsts o b | .vstsNtf o b => some (perfVsts o b false)
  | .vstg o n _ => some (perfVstg o n false)
  | .vst2 o _ => some (perfVst2 o false)
  | .vstx o x _ => some (perfVstx o x false)
  | _ => none

/-- An entry cut to the elements below `n`, whose tail is left alone. -/
def Entry.upTo (y : Entry) (n : Nat) : Entry := { y with chk := y.chk.upTo (some n) }

/-- Elements of an element group (R45). -/
def groupSize (sc : Scalar) : Nat := 1024 / sc.ew

/-- Whether a block may start chained on the registers `ds` (R193): it declares none of them, a word reads one, and every word
that reads one marks it, may chain and reads it at width EW. -/
def blockChains (ds : List VReg) (sc : Scalar) (h : Nat) (ws : List (BitVec 64)) : Bool :=
  let is := decodedWords ws
  let reads := (is.flatMap chainSources).filter fun p => ds.contains p.1.r
  !reads.isEmpty && reads.all (fun p => p.1.ch && p.2 == sc.ew) && !ds.any (fun d => ebit h d.val) &&
    is.all fun i => !(plainSources sc.vl i).any ds.contains && !(wordScales i && (vtSc sc.vt).any ds.contains)

/-- Whether the younger entry is a block that may start chained on `ds`: its text is fetched and sound. -/
def State.blockStarts (s : State) (ds : List VReg) (y : Entry) : Bool :=
  match s.blockText y with
  | some (h, ws) => blockChains ds y.chk h ws
  | none => false

/-- Whether a younger entry that is no block reads one of `ds`, and only under its chain bit. -/
def storeChains (ds : List VReg) (i : Instr) : Bool :=
  let unmarked := (resOf i).1.filter fun r => !((chainReads i).map Res.v).contains r
  (chainReads i).any ds.contains && !unmarked.any (ds.map Res.v).contains

/-- Whether entry `y` may have started chained on the registers `ds` of the older load `h` (R45): it reads them under its chain
bits and depends on `h` in no other way; their accesses stand in one interval, and `y` is no release before its data. -/
def State.mayChain (s : State) (h y : Entry) (ds : List VReg) : Bool :=
  let a := s.entryRes h
  let b := s.entryRes y
  let acc := (s.entryAccess y).1 || (s.entryAccess y).2
  y.chk.ew == h.chk.ew && (s.blockStarts ds y || storeChains ds y.instr) &&
    !(a.2.any fun r => b.1.contains r && !(ds.map Res.v).contains r) && !(a.2.any b.2.contains) && !(a.1.any b.2.contains) &&
    (!acc || h.chk.ivl == y.chk.ivl) && (!afterAll y.instr || ((chainPerf y.instr).isSome && !releases y.instr))
where
  /-- A store that is a release itself waits for every earlier access (R167). -/
  releases : Instr → Bool
    | .vst o => o.rel
    | _ => false

/-- The registers that an entry may write group by group, for an entry chained on it to follow (R45). -/
def groupDests : Instr → List VReg
  | .vsplat o => [o.v]
  | i => loadDests i

/-- The younger entries of `rest` that have started chained on the older entry `p` and completed some element groups, at most four, each
with the first element of its first group that is not completed (R316, R317). -/
def State.startedOn (s : State) (p : Entry) (rest : List Entry) : List (Entry × Nat) :=
  ((rest.filter fun e => e.passed.isSome && decide (0 < e.chk.vstart.toNat) && s.mayChain p e (groupDests p.instr)).map fun e =>
    (e, e.chk.vstart.toNat / groupSize e.chk * groupSize e.chk)).take 4

/-- A VTF (Table 5-9): V, VSTART, and OFF in words from SEPC. -/
def vtfWord (epc pc : Word64) (start : Nat) : Word64 :=
  1#64 ||| (BitVec.ofNat 64 (start % 4096) <<< 1) ||| ((((pc - epc) >>> 2).setWidth 32).setWidth 64 <<< 16)

/-- Step 2 of R313: the started entries go to VTF0 upward. -/
def Scalar.recordVtf (sc : Scalar) (r : List (Entry × Nat)) : Scalar :=
  { sc with vtf := Vector.ofFn fun i =>
      match r[i.val]? with
      | some (y, start) => vtfWord sc.sepc y.chk.pc start
      | none => sc.vtf[i.val] }

/-- The shape records that recorded entries read are kept for their replays, which complete them (R161, R280). -/
def Context.keepRecorded (x : Context) (r : List (Entry × Nat)) : Context :=
  r.foldl (fun x p => x.putHold (p.1.hold true 0) p.1.chk) x

/-- The acting context after its trap, with the started entries recorded. -/
def State.recordStarted (s : State) (r : List (Entry × Nat)) : State :=
  if r.isEmpty then s
  else
    let s := s.setMySc (s.mySc.recordVtf r)
    s.setMe (s.me.keepRecorded r)

end Sys2Proof.Machine
end

