-- ==== Sys2Proof/Machine/Matrix.lean ====
section
/-!
DEFINITION. The quad matrix unit (chapter 14): bands (R230 to R232), tile state (R233, R234), steps (R235, R239), slices
(R240), stores (R241), the gradient buffer (R242 to R244) and the weight buffer (R236 to R238).
-/
namespace Sys2Proof.Machine

/-! ### Bands -/

/-- MSTATE[1]. -/
def Scalar.band (sc : Scalar) : Bool := sc.mstate.getLsbD 1
/-- MSTATE[0]. -/
def Scalar.tile (sc : Scalar) : Bool := sc.mstate.getLsbD 0
/-- The quad of the acting context. -/
def State.myQuad (s : State) : QuadIx := CtxIx.quad s.cur
/-- The 32 contexts of a quad. -/
def quadCtxs (q : QuadIx) : List CtxIx := (List.finRange 1536).filter fun c => CtxIx.quad c == q

/-- Rows of ended tasks that are still attached on a context: TEXIT detaches as MDET does, in its turn behind the instructions of the
matrix unit that have not completed (R155, R231). -/
def Context.endedRows (x : Context) : Nat :=
  ((x.viq.filterMap fun e => match e.past with
    | some p => if (resOf e.instr).1.contains .matrix then some (e.task, p.regs.sc.mgrant.toNat) else none
    | none => none).dedup.map (·.2)).sum

/-- Rows attached in a quad: bands of its contexts, and bands held for pre-empted tasks (R230, R232). -/
def State.attached (s : State) (q : QuadIx) : Nat :=
  ((quadCtxs q).map fun c => (s.sc c).mgrant.toNat + (s.ctx c).endedRows).sum + ((s.quad q).heldRows.map (·.2)).sum

/-- g of R230 for a request. -/
def State.rowGrant (s : State) (q : QuadIx) (req : Nat) : Nat :=
  let a := s.attached q
  Nat.min req (Nat.min (128 - a) ((s.quad q).rowCap - a) / 16 * 16)

/-- req of R230. -/
def rowReq (x : Word64) : Nat := Nat.min 128 ((posOf x + 15) / 16 * 16)

/-- Undefined accumulators of the acting context (R75, R233). -/
def State.freeAcc (s : State) : State :=
  let n := s.freeCtr
  let a : Vector (Vector (BitVec 4096) 128) 4 :=
    Vector.ofFn fun k => Vector.ofFn fun i => Config.freeBits 4096 (n + 128 * k.val + i.val)
  ({ s with freeCtr := n + 512 } : State).setMe { s.me with regs := { s.me.regs with acc := a } }

/-- The grant's writes (R230). -/
def State.grantRows (s : State) (inh : Bool) (d : XReg) (g : Nat) : State :=
  let s := if 0 < g then s.freeAcc else s
  s.every fun c =>
    ({ c with mgrant := BitVec.ofNat 8 g, mstate := if 0 < g then 2 else 0 } : Scalar).wxAs inh d (BitVec.ofNat 64 g)

/-- Replaces the waiting list of a quad. -/
def State.setWaiting (s : State) (q : QuadIx) (ws : List CtxIx) : State := s.setQuad q { s.quad q with waiting := ws }

/-- MATT (R230): while a MATT.B of the quad waits, a nonzero request is granted 0. -/
def perfMatt (o : X2) : Perf := fun e s =>
  let q := s.myQuad
  let req := rowReq (e.chk.rx o.a)
  if e.chk.band then .trap s (e.trap .matrixState)
  else .done (s.grantRows e.chk.ulinh o.d (if (s.quad q).waiting.isEmpty then s.rowGrant q req else 0))
/-- MATT (R230). -/
def execMatt (o : X2) (s : State) : Host.Outcome State Fault Refusal := s.viq (.matt o) none id (perfMatt o)

/-- MATT.B (R230): waits in arrival order. -/
def perfMattB (o : X2) : Perf := fun e s =>
  let q := s.myQuad
  let req := rowReq (e.chk.rx o.a)
  let ws := (s.quad q).waiting
  if e.chk.band then .trap s (e.trap .matrixState)
  else if req = 0 then .done (s.grantRows e.chk.ulinh o.d 0)
  else
    let older := ws.takeWhile (· != s.cur)
    let g := if older.isEmpty then s.rowGrant q req else 0
    if g = 0 then .wait (if ws.contains s.cur then s else s.setWaiting q (ws ++ [s.cur]))
    else .done ((s.setWaiting q (ws.filter (· != s.cur))).grantRows e.chk.ulinh o.d g)
/-- MATT.B (R230). -/
def execMattB (o : X2) (s : State) : Host.Outcome State Fault Refusal := s.viq (.mattB o) none id (perfMattB o)

/-- MATT_B_GRANT (R230): the oldest waiting request of the quad is looked at again. -/
def execMattBGrant (q : QuadIx) (s : State) : Host.Outcome State Fault Refusal :=
  match (s.quad q).waiting with
  | [] => .next s
  | c :: _ =>
    let s := { s with cur := c }
    match s.me.viq with
    | e :: _ =>
      match e.instr with
      | .mattB o => .next (s.runHead (perfMattB o))
      | _ => .next s
    | [] => .next s

/-- What MDET does (R231); TEXIT detaches the same way (R155). -/
def Scalar.detach (sc : Scalar) : Scalar := { sc with mgrant := 0, mstate := 0 }
/-- MDET (R231): accumulators are named by nothing until the next MATT, which leaves them undefined. -/
def perfMdet : Perf := fun _ s => .done (s.every Scalar.detach)
/-- MDET (R231). -/
def execMdet (s : State) : Host.Outcome State Fault Refusal := s.viq .mdet none id perfMdet

/-- MTEN (R233). -/
def perfMten : Perf := fun e s =>
  if e.chk.band then .done (s.every fun c => { c with mstate := c.mstate ||| 1 }) else .trap s (e.trap .matrixState)
/-- MTEN (R233). -/
def execMten (s : State) : Host.Outcome State Fault Refusal := s.viq .mten none id perfMten

/-- MTDIS (R233). -/
def perfMtdis : Perf := fun e s =>
  if e.chk.tile then .done (s.freeAcc.every fun c => { c with mstate := c.mstate &&& 2 }) else .done s
/-- MTDIS (R233). -/
def execMtdis (s : State) : Host.Outcome State Fault Refusal := s.viq .mtdis none id perfMtdis

/-! ### Accumulators -/

/-- An accumulator of the acting context. -/
def State.acc (s : State) (a : AccIx) : Vector (BitVec 4096) 128 := s.me.regs.acc[a.val]
/-- Writes an accumulator. -/
def State.setAcc (s : State) (a : AccIx) (x : Vector (BitVec 4096) 128) : State :=
  s.setMe { s.me with regs := { s.me.regs with acc := s.me.regs.acc.set a.val x } }
/-- Element (i, j). -/
def State.accElem (s : State) (a : AccIx) (i j : Nat) : Nat := elem ((s.acc a).toList.getD i 0) j 32

/-- The requirement of Table 14-1 for instructions that need the tile state. -/
def Entry.needTile (e : Entry) (s : State) (k : Unit → PerfOut) : PerfOut :=
  if e.chk.band && e.chk.tile then k () else .trap s (e.trap .matrixState)

/-- MZERO (R234). -/
def perfMzero (a : AccIx) : Perf := fun e s => e.needTile s fun _ => .done (s.setAcc a (Vector.replicate 128 0))
/-- MZERO (R234). -/
def execMzero (a : AccIx) (s : State) : Host.Outcome State Fault Refusal := s.viq (.mzero a) none id (perfMzero a)

/-! ### Steps -/

/-- Matrix element types as element types. -/
def matEType : MatT → EType
  | .bf16 => .bf16 | .f16 => .f16 | .e4m3 => .e4m3 | .e5m2 => .e5m2 | .e2m1 => .e2m1
  | .s8 => .s8 | .s4 => .s4 | .s2 => .s2
/-- Step depth p (R235). -/
def stepDepth : EType → Nat
  | .e4m3 | .e5m2 | .s8 => 2
  | .e2m1 | .s4 => 4
  | .s2 => 8
  | _ => 1
/-- The FP8 and FP4 types, whose operands may be MX (R235). -/
def mxType : EType → Bool
  | .e4m3 | .e5m2 | .e2m1 => true
  | _ => false

/-- The exact sum of values: a NaN operand gives NaN, infinities of opposite sign give NaN and NV, beside a quiet NaN too
(R101, R108). -/
def sumExact (vs : List FV) : FV × Flags :=
  let both := vs.any (fun v => v.isInf && v.negative) && vs.any (fun v => v.isInf && !v.negative)
  if vs.any FV.isNan || both then (.nan false, fIf (vs.any FV.isSnan || both) fNV)
  else
    match vs with
    | [] => (.fin false 0 0 false, fNone)
    | v :: r => (r.foldl (fun a b => (FV.add .rne a b).1) v, fNone)

/-- One addition of the products of a step into an FP32 accumulator, rounded once (R108, R239). -/
def fpStep (acc : Nat) (ps : List (FV × FV)) : Nat × Flags :=
  let qs := ps.map fun p => FV.mul p.1 p.2
  let (v, f) := sumExact (fmtF32.decode acc :: qs.map (·.1))
  let (r, g) := fmtF32.round v .rne
  (r, qs.foldl (fun a q => a ||| q.2) (f ||| g))

/-- One addition of the products of a step into an s32 accumulator (R108, R239). -/
def intStep (acc : Nat) (ps : List (Int × Int)) : Nat :=
  intEnc 32 ((acc : Int) + (ps.map fun p => p.1 * p.2).sum)

/-- The FP value of element x of a step's operand under an optional scale byte. -/
def stepVal (t : EType) (x : Nat) (sc : Option Nat) : FV :=
  match sc with
  | some b => mxVal t x b
  | none => decodeFp t x

/-- A step (R239): `b k j` is element B[k][j] with its scale byte, or none when absent. -/
def State.stepRow (s : State) (a : AccIx) (t : EType) (A : Nat → Nat → Nat × Option Nat)
    (B : Nat → Nat → Option (Nat × Option Nat)) (mc : MSel) (i : Nat) : List (Nat × Flags) :=
  let p := stepDepth t
  (List.range 128).map fun j =>
    let old := s.accElem a i j
    let T := (List.range p).filterMap fun u => (B u j).map fun b => (A i u, b)
    if !s.selects mc j || T.isEmpty then (old, fNone)
    else if t.isInt then (intStep old (T.map fun q => (intVal t q.1.1, intVal t q.2.1)), fNone)
    else fpStep old (T.map fun q => (stepVal t q.1.1 q.1.2, stepVal t q.2.1 q.2.2))

/-- All rows of a step: the accumulator afterwards and the flags. -/
def State.stepAll (s : State) (a : AccIx) (t : EType) (rows : Nat) (A : Nat → Nat → Nat × Option Nat)
    (B : Nat → Nat → Option (Nat × Option Nat)) (mr mc : MSel) : Vector (BitVec 4096) 128 × Flags :=
  (List.range rows).foldl (fun (x : Vector (BitVec 4096) 128 × Flags) i =>
    if s.selects mr i then
      let r := s.stepRow a t A B mc i
      (x.1.setIfInBounds i (BitVec.ofNat 4096 (packNat 32 (fun j => (r.getD j (0, 0)).1) 128)),
        r.foldl (fun f q => f ||| q.2) x.2)
    else x) (s.acc a, fNone)

/-- The scale byte of byte `b` of the captured scale register, for an MX operand (R235). -/
def State.stepScale (s : State) (sc : Scalar) (t : EType) (b : Nat) : Option Nat :=
  if mxType t then (vtSc sc.vt).map fun r => elem (s.vreg r) b 8 else none

/-- The A operand of a step (R235). -/
def State.stepA (s : State) (sc : Scalar) (t : EType) (v : VReg) (i u : Nat) : Nat × Option Nat :=
  let k := stepDepth t * i + u
  (elem (s.vreg v) k t.width, s.stepScale sc t (k / 32))
/-- The B operand of MOPAV (R235). -/
def State.stepB (s : State) (sc : Scalar) (t : EType) (v : VReg) (u j : Nat) : Option (Nat × Option Nat) :=
  let k := stepDepth t * j + u
  some (elem (s.vreg v) k t.width, s.stepScale sc t (16 + k / 32))

/-- B[k][j] of a weight image with its scale byte (R236). -/
def WeightImage.at? (w : WeightImage) (k j : Nat) : Option (Nat × Option Nat) :=
  (w.elems.find? fun x => x.1 == k * 128 + j).map fun x =>
    (x.2.toNat, w.scales.map fun b => (b.getD (4 * k + j / 32) 0).toNat)

/-- Finishes a step. -/
def State.step1 (s : State) (e : Entry) (a : AccIx) (v : VReg) (t : EType) (B : Nat → Nat → Option (Nat × Option Nat))
    (mr mc : MSel) : PerfOut :=
  let (x, f) := s.stepAll a t e.chk.mgrant.toNat (s.stepA e.chk t v) B mr mc
  .done ((s.setAcc a x).entryFlags f)

/-- MOPA (R239). -/
def perfMopa (a : AccIx) (v : VSrc) (k : Fin 512) (mr mc : MSel) : Perf := fun e s =>
  e.needTile s fun _ =>
    let w := (s.quad s.myQuad).wbuf
    if k.val % stepDepth w.ty != 0 then .trap s (e.trap .illegal)
    else s.step1 e a v.r w.ty (fun u j => w.at? (k.val + u) j) mr mc
/-- MOPA (R239). -/
def execMopa (a : AccIx) (v : VSrc) (k : Fin 512) (mr mc : MSel) (s : State) : Host.Outcome State Fault Refusal :=
  s.viq (.mopa a v k mr mc) none id (perfMopa a v k mr mc)

/-- MOPAV (R239). -/
def perfMopav (a : AccIx) (v : VSrc) (b : VReg) (mr mc : MSel) (t : MatT) : Perf := fun e s =>
  e.needTile s fun _ => s.step1 e a v.r (matEType t) (s.stepB e.chk (matEType t) b) mr mc
/-- MOPAV (R239). -/
def execMopav (a : AccIx) (v : VSrc) (b : VReg) (mr mc : MSel) (t : MatT) (s : State) : Host.Outcome State Fault Refusal :=
  s.viq (.mopav a v b mr mc t) none id (perfMopav a v b mr mc t)

/-! ### Slices -/

/-- Replaces the low `n` 32-bit elements of a vector. -/
def setLow32 (v : VBits) (f : Nat → Nat) (n : Nat) : VBits :=
  BitVec.ofNat 8192 (packNat 32 f n + v.toNat / 2 ^ (32 * n) * 2 ^ (32 * n))

/-- MRDS (R240). -/
def perfMrds (a : AccIx) (v : VReg) (i : Fin 128) (col : Bool) : Perf := fun e s =>
  e.needTile s fun _ =>
    let g := e.chk.mgrant.toNat
    if col then .done (s.setV v (setLow32 (s.vreg v) (fun r => s.accElem a r i.val) g))
    else if g ≤ i.val then .trap s (e.trap .illegal)
    else .done (s.setV v (setLow32 (s.vreg v) (fun j => s.accElem a i.val j) 128))
/-- MRDS (R240). -/
def execMrds (a : AccIx) (v : VReg) (i : Fin 128) (col : Bool) (s : State) : Host.Outcome State Fault Refusal :=
  s.viq (.mrds a v i col) none id (perfMrds a v i col)

/-- MWRS (R240). -/
def perfMwrs (a : AccIx) (v : VSrc) (i : Fin 128) (col : Bool) : Perf := fun e s =>
  e.needTile s fun _ =>
    let g := e.chk.mgrant.toNat
    let x := s.vreg v.r
    if col then
      .done (s.setAcc a ((s.acc a).mapFinIdx fun r row _ => if r < g then setElem row i.val 32 (elem x r 32) else row))
    else if g ≤ i.val then .trap s (e.trap .illegal)
    else .done (s.setAcc a ((s.acc a).setIfInBounds i.val (BitVec.ofNat 4096 (x.toNat % 2 ^ 4096))))
/-- MWRS (R240). -/
def execMwrs (a : AccIx) (v : VSrc) (i : Fin 128) (col : Bool) (s : State) : Host.Outcome State Fault Refusal :=
  s.viq (.mwrs a v i col) none id (perfMwrs a v i col)

/-! ### Storing rows through a shape record -/

/-- base + j·stride1 + r·stride2 (R241). -/
def recAddr (r : BitVec 512) (row j : Nat) : Word64 :=
  BitVec.ofNat 64 (recNat r 0 8) + BitVec.ofInt 64 ((j : Int) * recInt r 0x10 + (row : Int) * recInt r 0x20)

/-- The barrier object of a record with flags[0] = 1 (R241). -/
def State.recObject (s : State) (g : Agent) (r : BitVec 512) : Except Trap (Option Loc) :=
  if recNat r 0x33 1 % 2 = 1 then (s.countLoc g (BitVec.ofNat 64 (recNat r 0x28 8))).map some else pure none

/-- What is owed to the object of a record, whose translation is kept (R241, R258). -/
def State.oweRecord (s : State) (g : Agent) (r : BitVec 512) (bo : Option Loc) (bytes : Nat) : State :=
  match bo with
  | some l => (s.owe l.key bytes).fillAddrs g [BitVec.ofNat 64 (recNat r 0x28 8)]
  | none => s

/-- Stores rows in order; each row is translated before it is stored. `cell row j` gives the bits and flags of an
element. Answers the state, the flags, the bytes stored and the fault of the first row that faults. -/
def State.storeRows (s : State) (g : Agent) (r : BitVec 512) (size : Nat) (cols : List Nat)
    (cell : State → Nat → Nat → Nat × Flags) : List Nat → State × Flags × Nat × Option Trap
  | [] => (s, fNone, 0, none)
  | row :: rows =>
    match cols.mapM fun j => (s.vecLoc g (recAddr r row j) size size .write row).map fun l => (j, l) with
    | .error t => (s, fNone, 0, some t)
    | .ok ls =>
      let (s, f) := ls.foldl (fun (x : State × Flags) p =>
        let (b, f) := cell s row p.1
        ((x.1.storeLe (some (CtxIx.core s.cur)) p.2 size b).fillTlb g (recAddr r row p.1), x.2 ||| f)) (s, fNone)
      let (s, f2, n, t) := s.storeRows g r size cols cell rows
      (s, f ||| f2, n + ls.length * size, t)

/-- Bytes stored by earlier executions of the instruction, as it captured them: those of an execution that is being replayed
(R241). -/
def Entry.earlier (e : Entry) : Nat := if e.chk.vstart = 0 then 0 else e.grant

/-- The lowest row from VSTART upward at which an MSTT meets an error in a mask or in its accumulator (R321). -/
def State.badRow (s : State) (e : Entry) (o : MsArgs) (r : BitVec 512) : Option Nat :=
  if s.me.badRegs.isEmpty then none
  else
    ((List.range (recNat r 12 4)).filter fun i => decide (e.chk.vstart.toNat ≤ i)).find? fun i =>
      s.me.maskStruck o.mr i || (s.selects o.mr i && (List.range (recNat r 8 4)).any fun j =>
        s.me.maskStruck o.mc j || (s.selects o.mc j && s.me.accStruck o.acc i j))

/-- MSTT (R241). -/
def perfMstt (o : MsArgs) : Perf := fun e s =>
  e.needTile s fun _ =>
    match e.record s o.a with
    | .error t => .trap s t
    | .ok r =>
      let d0 := recNat r 8 4
      let d1 := recNat r 12 4
      let dt := match recType r with
        | some .f32 => some EType.f32
        | some .bf16 => some .bf16
        | some .f16 => some .f16
        | some .s32 => some .s32
        | _ => none
      let bad := d0 == 0 || decide (128 < d0) || d1 == 0 || decide (e.chk.mgrant.toNat < d1) ||
        decide (2 ≤ recNat r 0x33 1) || !recAccOk r
      match bad, dt with
      | false, some t =>
        let g := e.unitAgent s.cur
        match s.recObject g r with
        | .error t => .trap s t
        | .ok bo =>
          let had := e.earlier
          let rows := (List.range d1).filter fun i => decide (e.chk.vstart.toNat ≤ i) && s.selects o.mr i
          let cols := (List.range d0).filter fun j => s.selects o.mc j
          let cell := fun (s : State) (i j : Nat) =>
            let x := s.accElem o.acc i j
            if t == .s32 then (x, fNone) else convertVal t .f32 x .rne
          let bad := s.badRow e o r
          let (s, f, n, tr) := s.storeRows g r (t.width / 8) cols cell (rows.filter fun i => bad.all fun k => decide (i < k))
          match tr <|> bad.map regTrap with
          | some t => .trap (s.keepDone e (had + n)) t f
          | none => .done ((s.oweRecord g r bo (had + n)).entryFlags f)
      | _, _ => .trap s (e.trap .shapeRecord)
/-- MSTT (R241): its record is read as it issues. -/
def execMstt (o : MsArgs) (s : State) : Host.Outcome State Fault Refusal :=
  s.withRecord o.a fun k s => s.viqWith (.mstt o) k id (perfMstt o)

/-! ### The gradient buffer -/

/-- What a slot held when the contents last became undefined: a free value; +0 before any power loss (R242). -/
def Quad.gradFree (q : Quad) (i : Nat) : BitVec 32 :=
  match q.gradBase with
  | none => 0
  | some n => Config.freeBits 32 (n + i)
/-- A slot of the gradient buffer. -/
def Quad.slot (q : Quad) (i : Nat) : Nat := (fget 0 q.grad i ^^^ q.gradFree i).toNat
/-- Writes a slot. -/
def Quad.setSlot (q : Quad) (i x : Nat) : Quad := { q with grad := fset 0 q.grad i (BitVec.ofNat 32 x ^^^ q.gradFree i) }

/-- The checks of Table R242 that MGACC and MGST share. -/
def gradBad (r : BitVec 512) (maxRows : Nat) : Bool :=
  let d0 := recNat r 8 4
  let d1 := recNat r 12 4
  d0 == 0 || decide (128 < d0) || d1 == 0 || decide (maxRows < d1) || decide (2 ^ 21 < recNat r 0x18 4 + d0 * d1) ||
    decide (8 ≤ recNat r 0x33 1) || !recAccOk r

/-- The region an MGACC works on: the entry of its base, or a new one; none when it faults (R242). -/
def Quad.regionFor (q : Quad) (r : BitVec 512) : Option GradRegion :=
  let base := recNat r 0x18 4
  let d0 := recNat r 8 4
  let d1 := recNat r 12 4
  match q.regions.find? fun x => x.base == base with
  | some x => if x.dim0 == d0 && x.dim1 == d1 then some x else none
  | none =>
    let overlap := q.regions.any fun x => decide (base < x.base + x.dim0 * x.dim1) && decide (x.base < base + d0 * d1)
    if overlap || decide (64 ≤ q.regions.length) then none
    else
      let accf := recNat r 0x32 1 % 16
      some ⟨base, d0, d1, accf, if accf = 1 then 1 else recNat r 0x32 1 / 16, recNat r 0x38 4, recNat r 0x3C 4⟩

/-- Replaces or adds a region entry. -/
def Quad.putRegion (q : Quad) (x : GradRegion) : Quad :=
  if q.regions.any fun y => y.base == x.base then
    { q with regions := q.regions.map fun y => if y.base == x.base then x else y }
  else { q with regions := q.regions ++ [x] }

/-- One addition into a slot: the new slot, the flags and whether it was absorbed (R112, R243). -/
def gradAdd (state a o : Nat) : Nat × Flags × Bool :=
  let f := if state = 0 then fmtBf16 else fmtF32
  let old := if state = 0 then o % 2 ^ 16 else o
  let av := fmtF32.decode a
  let ov := f.decode old
  let (v, f1) := FV.add .rne av ov
  let (r, f2) := f.round v .rne
  let fin := !av.isNan && !av.isInf && !ov.isNan && !ov.isInf
  (r, f1 ||| f2, fin && !av.isZero && r == old)

/-- A BF16 value as an FP32 value, exactly; a NaN is the canonical one (R89). -/
def widenBf16 (x : Nat) : Nat := if (fmtBf16.decode x).isNan then 0x7FC00000 else x * 2 ^ 16

/-- Promotion: every BF16 element of the region is widened (R112). -/
def Quad.promote (q : Quad) (x : GradRegion) : Quad :=
  ((List.range (x.dim0 * x.dim1)).foldl (fun q i => q.setSlot (x.base + i) (widenBf16 (q.slot (x.base + i) % 2 ^ 16))) q).putRegion
    { x with state := 1 }

/-- The slots of a new BF16 region: the high 16 bits of each are zero (R111). -/
def Quad.narrow (q : Quad) (x : GradRegion) : Quad :=
  (List.range (x.dim0 * x.dim1)).foldl (fun q i => q.setSlot (x.base + i) (q.slot (x.base + i) % 2 ^ 16)) q

/-- MGACC (R243): it names no barrier object, and neither checks nor adds to one where flags[0] = 1, which Table 6-10 lists as read by
MGACC (DESIGN CHOICE, log entry 41). A region that it opens as BF16 takes the low halves of its slots, and their high halves become
zero (R111). -/
def perfMgacc (o : MsArgs) : Perf := fun e s =>
  e.needTile s fun _ =>
    match e.record s o.a with
    | .error t => .trap s t
    | .ok r =>
      let qi := s.myQuad
      let q := s.quad qi
      match gradBad r e.chk.mgrant.toNat, q.regionFor r with
      | false, some x =>
        let q := if x.state = 0 ∧ !q.regions.any (fun y => y.base == x.base) then q.narrow x else q
        let els := (List.range x.dim1).flatMap fun i =>
          if s.selects o.mr i then ((List.range x.dim0).filter fun j => s.selects o.mc j).map fun j => (i, j) else []
        let (q, f, n) := els.foldl (fun (y : Quad × Flags × Nat) p =>
          let k := x.base + p.1 * x.dim0 + p.2
          let (v, f, ab) := gradAdd x.state (s.accElem o.acc p.1 p.2) (y.1.slot k)
          (y.1.setSlot k v, y.2.1 ||| f, if ab then y.2.2 + 1 else y.2.2)) (q, fNone, 0)
        let cnt := if x.accf = 2 ∧ x.state = 0 then Nat.min (2 ^ 32 - 1) (x.count + n) else x.count
        let x := { x with count := cnt }
        let q := q.putRegion x
        let q := if x.accf = 2 ∧ x.state = 0 ∧ x.thresh ≠ 0 ∧ x.thresh ≤ cnt then q.promote x else q
        .done ((s.setQuad qi q).entryFlags f)
      | _, _ => .trap s (e.trap .shapeRecord)
/-- MGACC (R243). -/
def execMgacc (o : MsArgs) (s : State) : Host.Outcome State Fault Refusal :=
  s.withRecord o.a fun k s => s.viqWith (.mgacc o) k id (perfMgacc o)

/-- Whether an MGST of another context of the quad that has passed its fault point works on the region at a base: it releases the region, so
that another waits for it (R244, R366). -/
def State.gradHeld (s : State) (base : Nat) : Bool :=
  (quadCtxs s.myQuad).any fun c => c != s.cur && (s.ctx c).viq.any fun e => e.passed.isSome && match e.instr with
    | .mgst _ => e.rcd.any fun r => recNat r 0x18 4 == base
    | _ => false

/-- MGST (R244). A record whose element type is neither .f32 nor .bf16 faults SHAPE_RECORD (DESIGN CHOICE, log entry 44: the table of R242 names
the two types and gives that row no limit). Where dim0 or dim1 of the record differs from the entry's, the rows and the stride of the slots
that are written follow the record, and the clear of step 3 follows the entry (DESIGN CHOICE, log entry 44: R244 is silent). -/
def perfMgst (a : XReg) : Perf := fun e s =>
  if !e.chk.band then .trap s (e.trap .matrixState)
  else
    match e.record s a with
    | .error t => .trap s t
    | .ok r =>
      let qi := s.myQuad
      let q := s.quad qi
      let dt := match recType r with
        | some .f32 => some EType.f32
        | some .bf16 => some .bf16
        | _ => none
      match gradBad r 128, dt, q.regions.find? fun x => x.base == recNat r 0x18 4 with
      | false, some t, some x =>
        let g := e.unitAgent s.cur
        let fl := recNat r 0x33 1
        if e.passed.isNone && s.gradHeld x.base then .wait s else
        match s.recObject g r with
        | .error t => .trap s t
        | .ok bo =>
          let rec0 := e.chk.rx a
          match s.vecLoc g rec0 64 1 .write 0 with
          | .error t => .trap s t
          | .ok rl =>
            let had := e.earlier
            let d0 := recNat r 8 4
            let rows := if ebit fl 2 then [] else (List.range (recNat r 12 4)).filter fun i => decide (e.chk.vstart.toNat ≤ i)
            let st := if x.state = 0 then EType.bf16 else .f32
            let cell := fun (_ : State) (i j : Nat) =>
              let v := q.slot (x.base + i * d0 + j) % 2 ^ st.width
              if t == st then (v, fNone) else convertVal t st v .rne
            let (s, f, n, tr) := s.storeRows g r (t.width / 8) (List.range d0) cell rows
            match tr with
            | some t => .trap (s.keepDone e (had + n)) t f
            | none =>
              let c := some (CtxIx.core s.cur)
              let off := fun k => match rl with
                | .mem pa => Loc.mem (pa + k)
                | .win w p => Loc.win w (p + k)
                | .uc pa => Loc.uc (pa + k)
              let s := s.storeLe c (off 0x32) 1 (x.accf + x.state * 16)
              let s := s.storeLe c (off 0x38) 4 x.count
              let q := s.quad qi
              let q := if ebit fl 1 then (List.range (x.dim0 * x.dim1)).foldl (fun q i => q.setSlot (x.base + i) 0) q else q
              let s := s.setQuad qi { q with regions := q.regions.filter fun y => y.base != x.base }
              .done (((s.oweRecord g r bo (had + n)).fillAddrs g [rec0]).entryFlags f)
      | _, _, _ => .trap s (e.trap .shapeRecord)
/-- MGST (R244). -/
def execMgst (a : XReg) (s : State) : Host.Outcome State Fault Refusal :=
  s.withRecord a fun k s => s.viqWith (.mgst a) k id (perfMgst a)

/-! ### The weight buffer -/

/-- The (k, j) of slot e under a layout code, as k·128 + j (Table 14-2). -/
def layoutSlot (code e : Nat) : Nat :=
  match code with
  | 0 => e
  | 1 => e % 512 * 128 + e / 512
  | 2 => (16 * (e / 2048) + e % 256 / 16) * 128 + 16 * (e / 256 % 8) + e % 16
  | 3 => (2 * (e / 256) + e % 2) * 128 + e % 256 / 2
  | _ => (4 * (e / 512) + e % 4) * 128 + e % 512 / 4

/-- The header and root checks of R237 on the first 24 bytes. -/
def imageBad (h root : Nat) : Bool :=
  bits h 0 8 != 3 || bits h 20 4 != 0 || bits h 64 64 != 0 || bits h 24 8 != bitmapCheck h ||
    (match etypeOf (bits h 8 8) with
      | some .bf16 | some .f16 | some .e4m3 | some .e5m2 | some .e2m1 | some .s8 | some .s4 | some .s2 => false
      | _ => true) || decide (5 ≤ bits h 16 4) || decide (2 ^ 16 ≤ root)

/-- 64-bit words of a list of bytes. -/
def wordsOf (bs : List Byte) (n : Nat) : List Nat := (List.range n).map fun i => leNat ((bs.drop (8 * i)).take 8)
/-- The set bits of the words of a level, as digits below `pre`. -/
def levelSlots (pre : List Nat) (ws : List Nat) : List Nat :=
  (pre.zip ws).flatMap fun p => ((List.range 64).filter fun d => ebit p.2 d).map fun d => p.1 * 64 + d

/-- The image at xa, whose header and root have been read, and its length (R236, R237): every byte is translated and read, or the first
fault is raised with element 0. An MWLD that has passed its fault point keeps the bitmap words it was located with. -/
def State.loadImage (s : State) (g : Agent) (a : Word64) (h root : Nat) (mx : Bool) : Except Trap (WeightImage × Nat) := do
  let read := fun (off n : Nat) => (s.span g .read (a + BitVec.ofNat 64 off) n).map s.loadSpan
  let words := fun (off n : Nat) => (s.span g .read (a + BitVec.ofNat 64 off) n).map (s.atPoint g).loadSpan
  let d0 := levelSlots [0] [root]
  let b1 ← words 24 (8 * d0.length)
  let d1 := levelSlots d0 (wordsOf b1 d0.length)
  let b2 ← words (24 + 8 * d0.length) (8 * d1.length)
  let es := levelSlots d1 (wordsOf b2 d1.length)
  let t := (etypeOf (bits h 8 8)).getD .bf16
  let voff := 24 + 8 * (d0.length + d1.length)
  let vbytes := (es.length * t.width + 7) / 8
  let vals ← read voff vbytes
  let big := leNat vals
  let elems := es.zipIdx.map fun p =>
    (layoutSlot (bits h 16 4) p.1, BitVec.ofNat 64 (big / 2 ^ (t.width * p.2) % 2 ^ t.width))
  if mxType t && mx then do
    let soff := (voff + vbytes + 63) / 64 * 64
    let scs ← read soff 2048
    pure (⟨t, bits h 16 4, elems, some scs⟩, soff + 2048)
  else pure (⟨t, bits h 16 4, elems, none⟩, voff + vbytes)

/-- MWLD (R237, R238): the image becomes current in one step, in this step or, while the lanes are held, in
WEIGHT_BUFFER_SWITCH; the entry completes with it. The root word at xa + 16 is translated and read before the checks of the header, so
its fault comes before SHAPE_RECORD (DESIGN CHOICE, log entry 44: R237 gives the two no order). -/
def perfMwld (a : XReg) (layout : Option (Fin 16)) : Perf := fun e s =>
  let qi := s.myQuad
  let q := s.quad qi
  if !e.chk.band then .trap s (e.trap .matrixState)
  else if q.wnext.isSome then .wait s
  else
    let g := e.unitAgent s.cur
    let xa := e.chk.rx a
    let hd : Except Trap Nat := match e.rcd with
      | some r => .ok r.toNat
      | none => s.bitmapHeader g xa
    match hd with
    | .error t => .trap s t
    | .ok h =>
      match (s.span g .read (xa + 16) 8).map (s.atPoint g).loadSpan with
      | .error t => .trap s t
      | .ok rb =>
        let root := leNat rb
        if imageBad h root then .trap s (e.trap .shapeRecord)
        else if layout.any fun n => n.val != bits h 16 4 then .trap s (e.trap .layoutMismatch)
        else
          match s.loadImage g xa h root (vtSc e.chk.vt).isSome with
          | .error t => .trap s t
          | .ok (w, n) =>
            let s := s.fillSpan g xa n
            if s.choices.lanesHeld then .wait (s.setQuad qi { s.quad qi with wnext := some (w, s.cur) })
            else .done (s.setQuad qi { s.quad qi with wbuf := w })
/-- MWLD (R237): its header is read as it issues, after the accesses of older strip intervals (R158, R265). -/
def execMwld (a : XReg) (layout : Option (Fin 16)) (s : State) : Host.Outcome State Fault Refusal :=
  s.issueRead fun _ =>
    let r := match s.bitmapHeader { agentOf s.cur s.mySc with tlb := .l2 } (s.mySc.rx a) with
      | .ok h => some (BitVec.ofNat 512 h)
      | .error _ => none
    s.viq (.mwld a layout) r id (perfMwld a layout)

/-- The switch of R238, which completes the MWLD. -/
def State.switchWeights (s : State) (q : QuadIx) : State :=
  match (s.quad q).wnext with
  | none => s
  | some (w, c) =>
    let s := s.setQuad q { s.quad q with wbuf := w, wnext := none }
    let x := s.ctx c
    let mine := fun (e : Entry) => match e.instr with
      | .mwld _ _ => true
      | _ => false
    let sc := x.regs.sc
    s.setCtx c ({ x with viq := x.viq.eraseP mine }.setSc
      (if (x.viq.find? mine).any (fun (e : Entry) => e.task == x.task) then { sc with vstart := 0 } else sc))
/-- WEIGHT_BUFFER_SWITCH (R238). -/
def execWeightBufferSwitch (q : QuadIx) (s : State) : Host.Outcome State Fault Refusal := .next (s.switchWeights q)

end Sys2Proof.Machine
end

