-- ==== Sys2Proof/Machine/Narrows.lean ====
section
/-!
DEFINITION. Narrows: flits and replay (R328, R329), peer windows (R331), NSEND (R182 to R184), VRRED (R175, R176),
transfers received (R332, R333), lane shedding and loss of a port (R334).
-/
namespace Sys2Proof.Machine

/-! ### Sending -/

/-- Splits bytes into flit payloads of 256 bytes, the last padded with zeros (R328); `n` bounds the number. -/
def flitChunks : Nat → List Byte → List (List Byte)
  | 0, _ => []
  | n + 1, bs =>
    if bs.isEmpty then []
    else
      let c := bs.take 256
      (c ++ List.replicate (256 - c.length) 0) :: flitChunks n (bs.drop 256)

/-- Bits [63:0] of a control word (Table 23-1). -/
def ctlBits (seq vc : Nat) (nak : Bool) (ack : Nat) : Nat :=
  seq % 2 ^ 24 + vc % 4 * 2 ^ 24 + nak.toNat * 2 ^ 26 + ack % 2 ^ 24 * 2 ^ 32

/-- Puts a flit on the link, with the control word that this end forms at that moment (Table 23-1): the number of the flit and
its channel, whether this end asks for a replay, the last flit it has received in order, and the CRC. -/
def Port.put (p : Port) (f : Flit) : Port :=
  let w := ctlBits f.seq f.vc p.nakOut (p.expect + 2 ^ 24 - 1)
  { p with wire :=
      ⟨BitVec.ofNat 128 (w + (crc32c (f.payload ++ leBytes 8 w)).toNat * 2 ^ 64), f.payload⟩ :: p.wire }

/-- Whether the link carries flits. -/
def Port.runs (p : Port) : Bool := !(p.pausing || p.down || p.lanes == 0)

/-- The flit that goes next: the oldest of the highest-numbered channel that holds one and has credits. Within a channel the
order is kept, and a channel without credits holds back no other (R330); the order among channels is free, and a run orders
them by granting credits (DESIGN CHOICE, log entry 5). -/
def Port.sendable (p : Port) : Option Flit :=
  (List.finRange 4).reverse.findSome? fun v => if p.credit[v.val] then p.egress.find? fun f => f.vc == v.val else none

/-- Sends one flit of the egress buffer: it takes the next number and stays in the replay buffer until an ACK covers it
(R329). -/
def Port.sendOne (p : Port) (f : Flit) : Port :=
  let g := { f with seq := p.sendSeq }
  ({ p with egress := p.egress.erase f, replay := p.replay ++ [g], sendSeq := (p.sendSeq + 1) % 2 ^ 24 } : Port).put g

/-- Sends up to `n` flits while the replay buffer has room. -/
def Port.sendN : Nat → Port → Port
  | 0, p => p
  | n + 1, p =>
    if 4096 ≤ p.replay.length then p
    else
      match p.sendable with
      | some f => Port.sendN n (p.sendOne f)
      | none => p

/-- Sends what can be sent (R329, R330, R334). -/
def Port.transmit (p : Port) : Port := if p.runs then Port.sendN p.egress.length p else p

/-- Replays from the first flit not yet acknowledged (R329). -/
def Port.replayAll (p : Port) : Port := if p.runs then p.replay.foldl Port.put p else p

/-- Whether the egress buffer of 4 MiB has room for `n` flits of VC0 or VC1; 256 KiB of it are reserved for VC2 and VC3
(R334). -/
def Port.fits (p : Port) (n : Nat) : Bool :=
  let low := (p.egress.filter fun f => decide (f.vc < 2)).length
  decide (256 * (low + n) + Nat.max (256 * (p.egress.length - low)) (2 ^ 18) ≤ 4 * 2 ^ 20)

/-- Puts flits into the egress buffer of a port and sends what can be sent. Flits of VC0 and VC1 are given to it only where `Port.fits`;
answers and notices on VC2 and VC3 are taken also where the buffer has no room for them, since R334 names a stall for NSEND and VRRED
alone (DESIGN CHOICE, log entry 41). -/
def State.pushFlits (s : State) (p : PortIx) (vc id : Nat) (fs : List (List Byte)) : State :=
  let x := s.port p
  s.setPort p ({ x with egress := x.egress ++ fs.map fun b => ⟨0, vc, b, id⟩ } : Port).transmit

/-- The flits of `n` bytes. -/
def flitsOf (n : Nat) : Nat := (n + 255) / 256

/-- Sends a transfer: it begins at the start of a flit with its 64-byte header, and its data follows packed (R332). -/
def State.transmit (s : State) (p : PortIx) (vc id : Nat) (hdr : BitVec 512) (data : List Byte) : State :=
  let bs := leBytes 64 hdr.toNat ++ data
  s.pushFlits p vc id (flitChunks (flitsOf bs.length) bs)

/-- The header of a transfer this module sends. -/
def State.header (s : State) (kind source id : Nat) (remote : Word64) (count fmt tid : Nat) : BitVec 512 :=
  Config.xferHeader kind source s.host.nself.toNat id remote count fmt tid

/-- A transfer completion, or a failure completion, for the peer's transfer of that id (R332, Table 23-2). -/
def State.answer (s : State) (p : PortIx) (ok : Bool) (id : Nat) : State :=
  s.transmit p 2 id (s.header (if ok then 5 else 6) 0 id 0 0 0 0) []

/-! ### Peer windows -/

/-- An outbound entry's fields (Table 23-5). -/
structure Window where
  base   : Nat
  size   : Nat
  reduce : Bool
  rfmt   : RredT
  peer   : Nat
  remote : Word64
  deriving DecidableEq, Repr

/-- RFMT. -/
def rfmtOf (n : Nat) : RredT :=
  match n with
  | 0 => .f32
  | 1 => .bf16
  | 2 => .s32
  | _ => .s64
/-- The code of RFMT, and of the destination type of VRRED. -/
def rredCode : RredT → Nat
  | .f32 => 0
  | .bf16 => 1
  | .s32 => 2
  | .s64 => 3
/-- Bytes of a reduce format. -/
def rredBytes : RredT → Nat
  | .f32 | .s32 => 4
  | .bf16 => 2
  | .s64 => 8

/-- An enabled outbound entry; other sizes than 2^16 to 2^40 disable it. -/
def windowOf (w : Word64 × Word64) : Option Window :=
  let x := w.1.toNat
  let sz := bits x 40 6
  if ebit x 63 && decide (16 ≤ sz) && decide (sz ≤ 40) then
    some ⟨bits x 16 24 * 2 ^ 16, 2 ^ sz, ebit x 46, rfmtOf (bits x 47 2), bits x 49 12, w.2⟩
  else none

/-- The port and aperture offset of a peer-window address. -/
def peerOffset (pa : Nat) : Option (PortIx × Nat) :=
  if h : 0x80000000000 ≤ pa ∧ pa < 0x100000000000 then
    some (⟨(pa - 0x80000000000) / 0x10000000000, by omega⟩, (pa - 0x80000000000) % 0x10000000000)
  else none

/-- The lowest-numbered enabled entry that holds the whole range; `len` gives the range's bytes under an entry (R331). No entry covers
offsets outside the 1 TiB of the aperture. -/
def Port.window (p : Port) (o : Nat) (len : Window → Nat) : Option Window :=
  (p.outW.toList.filterMap windowOf).find? fun w => decide (w.base ≤ o) && decide (o + len w ≤ Nat.min (w.base + w.size) (2 ^ 40))

/-- The entry a destination uses, or none where the sender faults NARROWS (R331). -/
def State.peerWindow (s : State) (pa : Nat) (vrred : Bool) (len : Window → Nat) : Option (PortIx × Window × Word64) := do
  let (p, o) ← peerOffset pa
  let x := s.port p
  let w ← x.window o len
  if x.lanes == 0 || x.down || w.peer != x.npeer.toNat || (vrred && !w.reduce) then none
  else some (p, w, w.remote + BitVec.ofNat 64 (o - w.base))

/-- A location that may lie in a peer window: canonical, translation, device registers, alignment (R159). -/
def State.peerLoc (s : State) (g : Agent) (a : Word64) (n al : Nat) (k : Kind) (i : Nat) : Except Trap Loc := do
  if !canonical a then .error ⟨.xlatePerm, i, a⟩
  let l ← s.place g a n k i
  if s.isDevice l then .error ⟨.xlatePerm, i, a⟩
  if a.toNat % al != 0 then .error ⟨.misalign, i, a⟩
  pure l

/-! ### NSEND -/

/-- A value of the source or residual format. -/
def bfOrF32 (bf : Bool) : Fmt := if bf then fmtBf16 else fmtF32
/-- Element type of a quantiser. -/
def quantType : NQuant → EType
  | .mx4 => .e2m1
  | _ => .e4m3
/-- Bytes of `n` codes and the offset of their scales (R183). -/
def codeBytes (q : NQuant) (n : Nat) : Nat := (n * (quantType q).width + 7) / 8
/-- Offset of the scale bytes: the first 64-byte boundary at or after the end of the codes. -/
def scaleOff (q : NQuant) (n : Nat) : Nat := (codeBytes q n + 63) / 64 * 64
/-- Bytes of the destination range in an entry's mode (R182). -/
def nsendBytes (q : NQuant) (n srcSize : Nat) (w : Window) : Nat :=
  if w.reduce then n * rredBytes w.rfmt
  else
    match q with
    | .raw => n * srcSize
    | _ => scaleOff q n + (n + 31) / 32

/-- One block quantised: its scale byte, its codes, and each element less what was sent (R183). -/
def quantBlock (q : NQuant) (xs : List FV) : Nat × List Nat × List FV :=
  let t := quantType q
  let e := mxExp t xs
  let sc := mxScale e
  let cs := xs.map fun v => (mxCode t e v .rne).1
  (sc, cs, (xs.zip cs).map fun p => (FV.sub .rne p.1 (mxVal t p.2 sc)).1)

/-- The operands of an NSEND, checked and located (R182): window, source, residuals, completion object. -/
structure NsendPlan where
  n      : Nat
  win    : Option (PortIx × Window × Word64)
  src    : List (Loc × Nat)
  res    : List (Loc × Nat)
  compl  : Completion

/-- The completion object of an NSEND: translation, then alignment (R182). -/
def State.nsendObj (s : State) (g : Agent) (o : NsendArgs) (sc : Scalar) : Except Trap Completion :=
  if !o.compl then .ok .none
  else
    let a := sc.rx (xregAdd o.b 2)
    if o.bar then (s.countLoc g a).map fun l => .barrier l.key else (s.vecPlace g a 8 8 .rw 0).map fun l => .signal l.key

/-- A source or residual range of `n` elements of `size` bytes: the checks of its first address, in the order of R159, then
every part of it; a range in a peer window faults NARROWS. -/
def State.nsendRange (s : State) (g : Agent) (k : Kind) (a : Word64) (size n : Nat) : Except Trap (List (Loc × Nat)) := do
  let _ ← s.vecPlace g a 1 size k 0
  s.span g k a (n * size)

/-- Translates a destination range part by part, 64 KiB at most: whether each part lies in the aperture where the first does,
from `pa` upward. A part that does not translate faults at its own address. -/
def State.peerParts (s : State) (g : Agent) : Nat → Word64 → Nat → Nat → Except Trap Bool
  | 0, _, _, _ => pure true
  | fuel + 1, a, pa, n =>
    if n = 0 then pure true
    else do
      let m := Nat.min n (0x10000 - a.toNat % 0x10000)
      let l ← s.peerLoc g a 1 1 .write 0
      let r ← s.peerParts g fuel (a + BitVec.ofNat 64 m) (pa + m) (n - m)
      pure (l == .mem pa && r)

/-- The checks of R182. Where several fail, the completion object's is reported, then those of the destination: its first address, the
window, its alignment, which an entry in write mode does not ask of `.RAW`, and the rest of its range; then the source's and the
residuals' (DESIGN CHOICE, log entry 41). -/
def State.nsendPlan (s : State) (e : Entry) (o : NsendArgs) : Except Trap NsendPlan := do
  let sc := e.chk
  let g := e.agent s.cur
  let n := (sc.rx o.b).toNat
  if 2 ^ 24 < n then .error (e.trap .illegal)
  let compl ← s.nsendObj g o sc
  if n = 0 then pure ⟨0, none, [], [], compl⟩
  else do
    let ss := if o.srcBf16 then 2 else 4
    let d := sc.rx o.d
    let l ← s.peerLoc g d 1 1 .write 0
    let bad : Trap := ⟨.narrows, 0, d⟩
    match l with
    | .win _ _ | .uc _ => .error bad
    | .mem pa =>
      match s.peerWindow pa false (nsendBytes o.q n ss) with
      | none => .error bad
      | some (p, w, r) => do
        let al := if w.reduce then rredBytes w.rfmt else if o.q = .raw then 1 else 64
        if d.toNat % al != 0 then .error ⟨.misalign, 0, d⟩
        let len := nsendBytes o.q n ss w
        if !(← s.peerParts g (len / 0x10000 + 2) d pa len) then .error bad
        let src ← s.nsendRange g .read (sc.rx o.a) ss n
        let res ← if o.ef then s.nsendRange g .rw (sc.rx (xregAdd o.b 1)) (if o.rfBf16 then 2 else 4) n else pure []
        pure ⟨n, some (p, w, r), src, res, compl⟩

/-- The `i`-th little-endian element of `size` bytes. -/
def elemOfBytes (bs : List Byte) (size i : Nat) : Nat := leNat ((bs.drop (size * i)).take size)
/-- The values of `n` elements of a format. -/
def valuesOf (bf : Bool) (bs : List Byte) (n : Nat) : List FV :=
  (List.range n).map fun i => (bfOrF32 bf).decode (elemOfBytes bs (if bf then 2 else 4) i)

/-- The detail of a kind-5 record: port in the low half, peer id in the high half (log entry 13). -/
def peerDetail (p : PortIx) (peer : BitVec 12) : Nat := p.val + peer.toNat * 2 ^ 32

/-- A transfer that fails: −2^63 to its signal object, no bytes, and a kind-5 record on the sending die's fault queue
(R332, R367). -/
def State.failSend (s : State) (x : Nsend) : State :=
  let s := { s with nsends := s.nsends.filter fun y => y.id != x.id }
  let s := match x.compl with
    | .signal k => s.signalFail (keyLoc k)
    | _ => s
  s.faultRecord x.die (({ kind := 5, tag := x.tag, tid := tidOf x.task, detail := peerDetail x.port (s.port x.port).npeer } :
    FaultRec).of x.ctx)

/-- The pieces of a range from byte `off` on, `n` bytes of them. -/
def spanAt : List (Nat × Nat) → Nat → Nat → List (Loc × Nat)
  | [], _, _ => []
  | (k, m) :: t, off, n =>
    if n = 0 then []
    else if m ≤ off then spanAt t (off - m) n
    else (keyLoc (k + off), Nat.min n (m - off)) :: spanAt t 0 (n - Nat.min n (m - off))

/-- An uncorrectable error that the quantiser meets once no instruction is left to report it: the transfer fails, with a
kind-4 record (DESIGN CHOICE, log entry 40). -/
def State.quantError (s : State) (j : QuantJob) : State :=
  match s.nsends.find? fun x => x.id == j.id with
  | none => s
  | some x =>
    (s.faultRecord x.die (({ kind := 4, cause := Cause.memUncorrectable.code, tag := x.tag, tid := tidOf x.task } :
      FaultRec).of x.ctx)).failSend x

/-- Reads and sends one block of 32 elements, and writes its residuals (R183). -/
def State.readBlock (s : State) (j : QuantJob) : State × Option QuantJob :=
  let k := Nat.min 32 (j.n - 32 * j.next)
  let ss := if j.srcBf then 2 else 4
  let rs := if j.resBf then 2 else 4
  let sp := spanAt j.src (32 * j.next * ss) (k * ss)
  let rp := spanAt j.res (32 * j.next * rs) (k * rs)
  if (sp ++ rp).any fun p => s.loadErr p.1 p.2 then (s.quantError j, none)
  else
    let raw := s.loadSpan sp
    let j' := { j with next := j.next + 1 }
    if j.quant = .raw then (s, some { j' with pend := j.pend ++ raw })
    else
      let g := valuesOf j.srcBf raw k
      let xs := if j.ef then
          (g.zip (valuesOf j.resBf (s.loadSpan rp) k)).map fun q =>
            fmtF32.decode (fmtF32.round (FV.add .rne q.1 q.2).1 .rne).1
        else g
      let (scale, codes, resid) := quantBlock j.quant xs
      let rf := bfOrF32 j.resBf
      let s := if j.ef then
          s.storeSpan none rp (resid.flatMap fun r =>
            leBytes rs (if scale = 255 then rf.nan.getD 0 else (rf.round r .rne).1))
        else s
      (s, some { j' with
        pend := j.pend ++ leBytes (codeBytes j.quant k) (packNat (quantType j.quant).width (fun i => codes.getD i 0) k)
        scales := j.scales ++ [BitVec.ofNat 8 scale] })

/-- One step of the quantiser: a flit that is full goes to the egress buffer; else the next block is read; the scale bytes
follow the codes; the last flit is padded (R328). None when the transfer is wholly in flits. -/
def State.jobStep (s : State) (j : QuantJob) : State × Option QuantJob :=
  if 256 ≤ j.pend.length then (s.pushFlits j.port 0 j.id [j.pend.take 256], some { j with pend := j.pend.drop 256 })
  else if 32 * j.next < j.n then s.readBlock j
  else if !j.scales.isEmpty then (s, some { j with pend := j.pend ++ j.scales, scales := [] })
  else (s.pushFlits j.port 0 j.id (flitChunks 1 j.pend), none)

/-- Runs a transfer until it is wholly in flits or the egress buffer has no room; then the quantiser stops reading (R334). -/
def State.runJob : Nat → State → QuantJob → State × Option QuantJob
  | 0, s, j => (s, some j)
  | n + 1, s, j =>
    if !(s.port j.port).fits 1 then (s, some j)
    else
      match s.jobStep j with
      | (s, none) => (s, none)
      | (s, some j) => State.runJob n s j

/-- Runs the transfers of one port in order. -/
def State.runJobs (s : State) : List QuantJob → State × List QuantJob
  | [] => (s, [])
  | j :: js =>
    match State.runJob (j.n + 8) s j with
    | (s, some j) => (s, j :: js)
    | (s, none) => s.runJobs js

/-- The quantiser of a port goes on as far as its egress buffer has room (R183, R334). -/
def State.pump (s : State) (p : PortIx) : State :=
  let r := ({ s with jobs := s.jobs.filter fun j => j.port != p } : State).runJobs (s.jobs.filter fun j => j.port == p)
  { r.1 with jobs := r.1.jobs ++ r.2 }

/-- A completion that takes effect: a signal object is decremented, or a barrier object is owed its bytes (R184). -/
def State.complete (s : State) (c : Completion) (add : CountAdd) : State :=
  match c with
  | .none => s
  | .signal k => s.signalSub (keyLoc k) 1
  | .barrier k => { s with counts := s.counts ++ [{ add with obj := k }] }

/-- The source encoding of a transfer: the type of its elements, or of the codes of its quantiser (R332). -/
def nsendSource (o : NsendArgs) : Nat :=
  match o.q with
  | .raw => etypeCode (if o.srcBf16 then .bf16 else .f32)
  | q => etypeCode (quantType q)

/-- Keeps the translations of an NSEND that transfers `len` bytes: its completion object, destination, source and residuals (R182, R258). -/
def State.nsendFill (s : State) (g : Agent) (o : NsendArgs) (sc : Scalar) (n len : Nat) : State :=
  let s := if o.compl then s.fillAddrs g [sc.rx (xregAdd o.b 2)] else s
  let s := (s.fillSpan g (sc.rx o.d) len).fillSpan g (sc.rx o.a) (n * if o.srcBf16 then 2 else 4)
  if o.ef then s.fillSpan g (sc.rx (xregAdd o.b 1)) (n * if o.rfBf16 then 2 else 4) else s

/-- NSEND (R182 to R184): once past its checks the transfer proceeds on its own, as its port's quantiser reads the source. -/
def perfNsend (o : NsendArgs) : Perf := fun e s =>
  match s.nsendPlan e o with
  | .error t => .trap s t
  | .ok p =>
    let tag := s.tagOf e.task
    let ss := if o.srcBf16 then 2 else 4
    let s := s.nsendFill (e.agent s.cur) o e.chk p.n ((p.win.map fun w => nsendBytes o.q p.n ss w.2.1).getD 0)
    match p.win with
    | none => .done (s.complete p.compl ⟨0, 0, 0, CtxIx.die s.cur, tag, e.task, some s.cur⟩)
    | some (port, w, remote) =>
      let kind : XferKind := if w.reduce then .reduceAdd else .write
      let x : Nsend := ⟨s.nextId, port, false, kind, o.q, remote, p.n, w.rfmt, p.compl, p.n * ss, none, CtxIx.die s.cur, tag,
        e.task, some s.cur⟩
      let hdr := s.header (if w.reduce then 1 else 0) (nsendSource o) s.nextId remote p.n (rredCode w.rfmt) 0
      let keys := fun (l : List (Loc × Nat)) => l.map fun q => (q.1.key, q.2)
      let j : QuantJob := ⟨s.nextId, port, keys p.src, keys p.res, o.q, o.ef, o.srcBf16, o.rfBf16, p.n, 0, leBytes 64 hdr.toNat, []⟩
      .done (({ s with nsends := s.nsends ++ [x], jobs := s.jobs ++ [j], nextId := s.nextId + 1 } : State).pump port)
/-- NSEND (R182 to R184). -/
def execNsend (o : NsendArgs) (s : State) : Host.Outcome State Fault Refusal :=
  s.viq (.nsend o) none id (perfNsend o)

/-- Whether every flit of a transfer has been sent and acknowledged. -/
def State.sent (s : State) (x : Nsend) : Bool :=
  !(s.jobs.any fun j => j.id == x.id) &&
    !(((s.port x.port).egress ++ (s.port x.port).replay).any fun f => f.id == x.id && decide (f.vc < 2))

/-- Whether an earlier transfer on the same channel of the same link has not completed: transfers of one channel are applied
in order (R333). -/
def State.sendsBefore (s : State) (x : Nsend) : Bool :=
  (s.nsends.takeWhile fun y => y.id != x.id).any fun y => y.port == x.port && y.vrred == x.vrred

/-- NSEND_COMPLETE (R184): every element has been applied at the peer. Nothing happens while the transfer is not wholly sent
or an earlier one on its channel is open. -/
def execNsendComplete (id : Nat) (s : State) : Host.Outcome State Fault Refusal :=
  match s.nsends.find? fun x => x.id == id with
  | none => .next s
  | some x =>
    if !s.sent x || s.sendsBefore x then .next s
    else
      let s := { s with nsends := s.nsends.filter fun y => y.id != id }
      let s := match x.ntf with
        | some (k, n) => s.storeLoc none (keyLoc k) (leBytes 8 n)
        | none => s
      .next (s.complete x.compl ⟨0, x.bytes, 0, x.die, x.tag, x.task, x.ctx⟩)

/-- FAILURE_COMPLETION (R332). -/
def execFailureCompletion (p : PortIx) (id : Nat) (s : State) : Host.Outcome State Fault Refusal :=
  match s.nsends.find? fun x => x.id == id && x.port == p with
  | none => .next s
  | some x => .next (s.failSend x)

/-! ### VRRED -/

/-- The source type of a contribution, and whether it carries scales (R176); none where the table has a dash. -/
def rredSource (t : RredT) (w : Nat) : Option (EType × Bool) :=
  match t, w with
  | .f32, 32 => some (.f32, false)
  | .f32, 16 | .bf16, 16 => some (.bf16, false)
  | .f32, 8 | .bf16, 8 => some (.e4m3, true)
  | .f32, 4 | .bf16, 4 => some (.e2m1, true)
  | .s32, 32 | .s64, 32 => some (.s32, false)
  | .s32, 16 | .s64, 16 => some (.s16, false)
  | .s32, 8 | .s64, 8 => some (.s8, false)
  | .s64, 64 => some (.s64, false)
  | _, _ => none

/-- VRRED (R175, R176): one contribution of the active elements, to the home of the area or to a peer; with no room in the
port's egress buffer it waits in its VIQ entry (R334). -/
def perfVrred (o : VStore) (t : RredT) (ntf ord : Bool) : Perf := fun e s =>
  let sc := e.chk
  let w := ewBits o.e sc
  match rredSource t w with
  | none => .trap s (e.trap .illegal)
  | some (st, mx) =>
    if sc.ew < w || (mx && (vtSc sc.vt).isNone) || (ntf && sc.pwaddr == 0) then .trap s (e.trap .illegal)
    else
      let g := e.agent s.cur
      let a := sc.rx o.a
      let v := sc.vstart.toNat
      let nb := rredBytes t
      match s.progress e ntf with
      | .error tr => .trap s tr
      | .ok pw =>
        match s.peerLoc g (a - 16) 16 16 .write v with
        | .error tr => .trap s tr
        | .ok hl =>
          let addr := fun i => a + BitVec.ofNat 64 (i * nb)
          let rec locs : List Nat → List (Nat × Loc) × Option Trap
            | [] => ([], none)
            | i :: is =>
              match s.peerLoc g (addr i) nb nb .write i with
              | .error tr => ([], some tr)
              | .ok l => let (r, tr) := locs is; ((i, l) :: r, tr)
          let (ls, tr) := s.cutBad e (locs (s.actives sc o.m))
          let s := s.fillAddrs g ((if ntf then [sc.pwaddr] else []) ++ (a - 16) :: ls.map fun p => addr p.1)
          let lim := limitOf sc tr
          let cnt := s.countActive sc o.m lim
          let src := s.vreg o.v
          let scales := (vtSc sc.vt).map s.vreg
          let scaleOf := fun i => if mx then scales.map fun r => elem r (i / 32) 8 else none
          let tag := s.tagOf e.task
          let nt := pw.map fun l => (l.key, cnt)
          let peer := s.isPeer hl || ls.any fun p => s.isPeer p.2
          if peer then
            -- one window entry holds every element of the contribution
            let last := (ls.getLast?.map fun p => p.1 + 1).getD 0
            match hl with
            | .win _ _ | .uc _ => .trap s ⟨.narrows, v, a⟩
            | .mem pa =>
              match s.peerWindow (pa + 16) true (fun _ => last * nb) with
              | none => .trap s ⟨.narrows, v, a⟩
              | some (port, _, remote) =>
                if ls.any fun p => p.2 != .mem (pa + 16 + p.1 * nb) then .trap s ⟨.narrows, v, a⟩
                else if tr.isSome && ls.isEmpty then .of s tr
                else
                  let data := leBytes ((sc.vl * w + 7) / 8) (packNat w (fun i => elem src i w) sc.vl) ++
                    (if mx then leBytes ((sc.vl + 31) / 32) ((scales.getD 0).toNat) else []) ++
                    leBytes 512 (packBits (fun i => ls.any fun p => p.1 == i) 4096)
                  if !(s.port port).fits (flitsOf (64 + data.length)) then .wait s
                  else
                    let x : Nsend := ⟨s.nextId, port, true, if ord then .vrredOrd else .vrred, .raw, remote, sc.vl, t, .none, 0,
                      nt, CtxIx.die s.cur, tag, e.task, some s.cur⟩
                    let hdr := s.header (if ord then 3 else 2) (etypeCode st) s.nextId remote sc.vl (rredCode t) sc.tid.toNat
                    .of (({ s with nsends := s.nsends ++ [x], nextId := s.nextId + 1 } : State).transmit port 1 s.nextId hdr data) tr
          else if tr.isSome && ls.isEmpty then .of s tr
          else
            let c : Contrib := ⟨hl.key, ls.map fun p => (p.2.key, st, elem src p.1 w, scaleOf p.1), t, ord, sc.tid.toNat, sc.satp,
              sc.sup, CtxIx.die s.cur, tag, e.task, some s.cur, nt, none, none⟩
            .of { s with contribs := s.contribs ++ [c] } tr
/-- VRRED (R176); the write of a progress word is a release, and ends a strip interval (R264). -/
def execVrred (o : VStore) (t : RredT) (ntf ord : Bool) (s : State) : Host.Outcome State Fault Refusal :=
  s.viq (.vrred o t ntf ord) none (ntfEnds ntf) (perfVrred o t ntf ord)

/-- old + value in the destination type (R176). -/
def rredAdd (t : RredT) (old : Nat) (src : EType) (x : Nat) (scale : Option Nat) : Nat :=
  match t with
  | .f32 | .bf16 =>
    let f := if t = .f32 then fmtF32 else fmtBf16
    let v := match scale with
      | some sc => mxVal src x sc
      | none => decodeFp src x
    (f.round (FV.add .rne (f.decode old) v).1 .rne).1
  | .s32 => intEnc 32 (intVal .s32 old + intVal src x)
  | .s64 => intEnc 64 (intVal .s64 old + intVal src x)

/-- The 16-byte header of an area (R175): barrier object VA, next rank, contributor count. -/
def State.areaHeader (s : State) (k : Nat) : Nat × Nat × Nat :=
  let h := s.loadLe (keyLoc k) 16
  (bits h 0 64, bits h 64 32, bits h 96 16)

/-- The die of the L2 slice that homes a physical address (Table 16-2). -/
def State.sliceDie (s : State) (pa : Nat) : DieIx :=
  match s.skerry.region pa with
  | some (.dieLocal d, _, _) | some (.holm d, _, _) => ⟨d % 4, by omega⟩
  | some (_, lo, _) => ⟨hmix ((pa - lo) / 128) 256 / 64 % 4, by omega⟩
  | none => 0

/-- The die that homes the root table of a port's NRSATP (R367). -/
def State.portDie (s : State) (p : PortIx) : DieIx := s.sliceDie (satpRoot (s.port p).nrsatp)

/-- A kind-5 record about a contribution. -/
def State.dropContrib (s : State) (c : Contrib) : State :=
  match c.peer with
  | some (p, id, _) => s.faultRecord (s.portDie p) { kind := 5, detail := peerDetail p id }
  | none => s.faultRecord c.die (({ kind := 5, tag := c.tag, tid := tidOf c.task } : FaultRec).of c.ctx)

/-- The completion, or failure completion, of a contribution that arrived from a peer (R332). -/
def State.answerContrib (s : State) (c : Contrib) (ok : Bool) : State :=
  match c.peer with
  | some (p, _, id) => s.answer p ok id
  | none => s

/-- A receiving unit applies one contribution (R176): with .ORD only when next rank is its rank; a contributor count of
0 under .ORD, or a barrier object that cannot be used, drops it. The unit reaches the barrier object that the header names in
the sender's address space, at the sender's privilege, with no local window (DESIGN CHOICE, log entry 39); for a contribution
from a peer, as R332 states. -/
def State.applyContrib (s : State) (c : Contrib) : State :=
  let (bo, rank, count) := s.areaHeader c.hdr
  let g : Agent := ⟨c.satp, c.sup, none, c.die, .l2, none⟩
  let obj : Except Trap (Option Loc) :=
    if bo = 0 then .ok none else (s.countLoc g (BitVec.ofNat 64 bo)).map some
  match obj with
  | .error _ => (s.dropContrib c).answerContrib c false
  | .ok obj =>
    if c.ord && count == 0 then (s.dropContrib c).answerContrib c false
    else
      let nb := rredBytes c.ty
      let s := c.dests.foldl (fun s d =>
        let l := keyLoc d.1
        s.storeLe none l nb (rredAdd c.ty (s.loadLe l nb) d.2.1 d.2.2.1 d.2.2.2)) s
      let s := if c.ord then s.homeStore (keyLoc (c.hdr + 8)) (leBytes 4 ((rank + 1) % count)) else s
      let s := match c.ntf with
        | some (k, n) => s.storeLoc none (keyLoc k) (leBytes 8 n)
        | none => s
      let b := c.dests.length * nb
      let min := if c.peer.isSome then 3 else 0
      let die := match c.peer with
        | some (p, _) => s.portDie p
        | none => c.die
      let add := fun k => (⟨k, b, min, die, c.tag, c.task, c.ctx⟩ : CountAdd)
      ({ s with counts := s.counts ++ (match obj with
          | some l => [add l.key]
          | none => []) ++ (match c.inBo with
          | some k => [add k]
          | none => []) } : State).answerContrib c true

/-- Whether a contribution's turn by rank has come (R176); a contributor count of 0 drops it at once. -/
def State.rankDue (s : State) (c : Contrib) : Bool :=
  if c.ord then
    let (_, rank, count) := s.areaHeader c.hdr
    count == 0 || rank == c.tid % count
  else true

/-- Whether two contributions arrived on one link. -/
def sameLink (c d : Contrib) : Bool :=
  match c.peer, d.peer with
  | some p, some q => p.1 == q.1
  | _, _ => false

/-- Whether contribution `n` may be applied as far as its rank goes and its link, on which nothing that arrived earlier is
pending (R333). -/
def State.eligible (s : State) (n : Nat) : Bool :=
  match s.contribs[n]? with
  | none => false
  | some c => s.rankDue c && (s.contribs.take n).all fun d => !sameLink c d

/-- Whether contribution `n` may be applied next: none that arrived before it, to the same area or through the receive path
as it did, could be applied now (R176, R333). -/
def State.contribReady (s : State) (n : Nat) : Bool :=
  s.eligible n && (List.range n).all fun m =>
    match s.contribs[m]?, s.contribs[n]? with
    | some d, some c => !(s.eligible m && (d.hdr == c.hdr || (d.peer.isSome && c.peer.isSome)))
    | _, _ => true

/-- VRRED_APPLY (R176). -/
def execVrredApply (n : Nat) (s : State) : Host.Outcome State Fault Refusal :=
  match s.contribs[n]? with
  | none => .next s
  | some c =>
    if s.contribReady n then .next (({ s with contribs := s.contribs.eraseIdx n } : State).applyContrib c) else .next s

/-- BYTE_COUNT_ADD (R272): an engine adds its counted bytes once they have been performed. -/
def execByteCountAdd (n : Nat) (s : State) : Host.Outcome State Fault Refusal :=
  match s.counts[n]? with
  | none => .next s
  | some c =>
    .next (({ s with counts := s.counts.eraseIdx n } : State).engineAdd (keyLoc c.obj) c.bytes c.minScope c.die
      (({ kind := 6, tag := c.tag, tid := tidOf c.task } : FaultRec).of c.ctx))

/-! ### Receiving -/

/-- The inbound agent of a port (R332): NRSATP, user privilege, no local window. -/
def State.portAgent (s : State) (p : PortIx) : Agent := ⟨(s.port p).nrsatp, false, none, s.portDie p, .l2, none⟩

/-- The enabled inbound entry that holds a range wholly (R332). -/
def Port.inbound (p : Port) (a n : Nat) : Option InEntry :=
  p.inW.toList.find? fun e => e.en && decide (e.base.toNat ≤ a) && decide (a + n ≤ e.base.toNat + e.size.toNat)

/-- The value of element `i` of a transfer (R92, R183). -/
def transferVal (t : Transfer) (i : Nat) : FV :=
  match t.quant with
  | .raw => decodeFp t.src (leNat ((t.data.drop (i * (t.src.width / 8))).take (t.src.width / 8)))
  | q =>
    let w := (quantType q).width
    mxVal (quantType q) (bits (leNat t.data) (w * i) w) ((t.scales.getD (i / 32) 0).toNat)

/-- old + value for a reduce-add transfer (R183): FP rounds once; integers round to nearest even and clamp. -/
def reduceAdd (f : RredT) (old : Nat) (v : FV) : Nat :=
  match f with
  | .f32 => (fmtF32.round (FV.add .rne (fmtF32.decode old) v).1 .rne).1
  | .bf16 => (fmtBf16.round (FV.add .rne (fmtBf16.decode old) v).1 .rne).1
  | .s32 => (fpToInt .s32 (FV.add .rne (.ofInt (intVal .s32 old)) v).1 .rne).1
  | .s64 => (fpToInt .s64 (FV.add .rne (.ofInt (intVal .s64 old)) v).1 .rne).1

/-- The bytes of the destination range of a transfer. -/
def transferBytes (t : Transfer) : Nat :=
  match t.kind with
  | .write => (match t.quant with
    | .raw => t.data.length
    | q => scaleOff q t.count + t.scales.length)
  | _ => t.count * rredBytes t.rfmt

/-- The active elements of a contribution (R176): those its mask selects, each once. -/
def transferActives (t : Transfer) : List Nat := (List.range t.count).filter t.active.contains

/-- One element's source of a received contribution: type, bits, scale byte. -/
def transferSource (t : Transfer) (i : Nat) : EType × Nat × Option Nat :=
  let w := t.src.width
  (t.src, bits (leNat t.data) (w * i) w,
    if t.src.mxElem then some ((t.scales.getD (i / 32) 0).toNat) else none)

/-- Locations of elements in order; none if one does not translate. -/
def State.rxLocs (s : State) (g : Agent) (a : Word64) (nb : Nat) : List Nat → Option (List (Nat × Loc))
  | [] => some []
  | i :: is =>
    match s.vecLoc g (a + BitVec.ofNat 64 (i * nb)) nb 1 .write 0 with
    | .error _ => none
    | .ok l => (s.rxLocs g a nb is).map fun r => (i, l) :: r

/-- Applies a transfer at this module, or none when a check or a translation fails (R332, R333). -/
def State.receive (s : State) (p : PortIx) (t : Transfer) : Option State := do
  let a := t.remote
  let e ← (s.port p).inbound a.toNat (transferBytes t)
  let g := s.portAgent p
  let bo ← if e.bo = 0 then some none
    else match s.countLoc g e.bo with
      | .ok l => some (some l.key)
      | .error _ => none
  let die := s.portDie p
  let owe := fun (s : State) (b : Nat) => match bo with
    | some k => { s with counts := s.counts ++ [(⟨k, b, 3, die, 0, none, none⟩ : CountAdd)] }
    | none => s
  match t.kind with
  | .write =>
    match t.quant with
    | .raw =>
      match s.span g .write a t.data.length with
      | .error _ => none
      | .ok sp => some (owe (s.storeSpan none sp t.data) t.data.length)
    | q =>
      match s.span g .write a t.data.length, s.span g .write (a + BitVec.ofNat 64 (scaleOff q t.count)) t.scales.length with
      | .ok sp, .ok sq => some (owe ((s.storeSpan none sp t.data).storeSpan none sq t.scales) (t.data.length + t.scales.length))
      | _, _ => none
  | .reduceAdd => do
    let nb := rredBytes t.rfmt
    let ls ← s.rxLocs g a nb (List.range t.count)
    let s := ls.foldl (fun s x => s.storeLe none x.2 nb (reduceAdd t.rfmt (s.loadLe x.2 nb) (transferVal t x.1))) s
    some (owe s (t.count * nb))
  | .vrred | .vrredOrd => do
    let nb := rredBytes t.rfmt
    let ls ← s.rxLocs g a nb (transferActives t)
    let hl ← match s.vecLoc g (a - 16) 16 16 .write 0 with
      | .ok l => some l
      | .error _ => none
    let c : Contrib := ⟨hl.key, ls.map fun x => (x.2.key, transferSource t x.1), t.rfmt, t.kind == .vrredOrd, t.tid, g.satp, false,
      die, 0, none, none, none, bo, some (p, t.peer, t.id)⟩
    some { s with contribs := s.contribs ++ [c] }

/-- Whether a contribution that may be applied next came through the receive path, or stands before one that did and whose turn by rank
has come, at the same area. -/
def State.leadsArrived (s : State) (k : Nat) : Bool :=
  s.contribReady k && match s.contribs[k]? with
    | none => false
    | some c => c.peer.isSome || (List.range s.contribs.length).any fun m => decide (k < m) && s.eligible m &&
        (s.contribs[m]?).any fun d => d.peer.isSome && d.hdr == c.hdr

/-- The contributions that have arrived through the receive path and whose turn has come are applied, in the order of their arrival, with
those of this module that come before them at their areas. -/
def State.applyArrived : Nat → State → State
  | 0, s => s
  | n + 1, s =>
    match (List.range s.contribs.length).find? s.leadsArrived with
    | none => s
    | some k =>
      match s.contribs[k]? with
      | none => s
      | some c => State.applyArrived n (({ s with contribs := s.contribs.eraseIdx k } : State).applyContrib c)

/-- What the receive path has done before it applies a transfer: a reduce-add comes after the contributions that arrived before it on
any link and whose turn by rank has come (R333). -/
def State.inOrder (s : State) (t : Transfer) : State :=
  match t.kind with
  | .reduceAdd => s.applyArrived s.contribs.length
  | _ => s

/-- TRANSFER_RECEIVE (R332): a transfer that fails a check is dropped, recorded as kind 5, and answered with a failure
completion on VC2; one that is applied is answered with a completion, a contribution when its unit applies it. -/
def execTransferReceive (p : PortIx) (t : Transfer) (s : State) : Host.Outcome State Fault Refusal :=
  let s := s.inOrder t
  match s.receive p t with
  | some s' => .next (if t.kind = .vrred ∨ t.kind = .vrredOrd then s' else s'.answer p true t.id)
  | none => .next ((s.faultRecord (s.portDie p) { kind := 5, detail := peerDetail p t.peer }).answer p false t.id)

/-- Whether an acknowledgement of `a` covers a flit (R329). -/
def covers (a : Nat) (f : Flit) : Bool := decide ((a + 2 ^ 24 - f.seq) % 2 ^ 24 < 2 ^ 23)

/-- An acknowledgement covers every flit up to it (R329). -/
def Port.ack (p : Port) (a : Nat) : Port :=
  { p with acked := a, replay := p.replay.filter fun f => !covers a f }

/-- FLIT_RECEIVE (R328, R329): a flit whose CRC fails, or that is not the next expected, is discarded and NAK is returned; a
duplicate is dropped. A flit whose CRC holds carries an ACK, and with NAK it has the transmitter replay; an ACK makes room, so
the transmitter and the quantiser go on. -/
def execFlitReceive (p : PortIx) (f : RxFlit) (s : State) : Host.Outcome State Fault Refusal :=
  let x := s.port p
  if crc32c (f.payload ++ leBytes 8 (ctlBits f.seq f.vc f.nak f.ack)) != f.crc then .next (s.setPort p { x with nakOut := true })
  else
    let x := x.ack (f.ack % 2 ^ 24)
    let seq := f.seq % 2 ^ 24
    let behind := (x.expect + 2 ^ 24 - seq) % 2 ^ 24
    let x := if behind = 0 then
        { x with expect := (seq + 1) % 2 ^ 24, nakOut := false, received := x.received ++ [⟨seq, f.vc % 4, f.payload, 0⟩] }
      else if behind < 2 ^ 23 then x
      else { x with nakOut := true }
    let x := if f.nak then x.replayAll else x
    .next ((s.setPort p x.transmit).pump p)

/-- REPLAY_TIMEOUT (R329): the flits not yet acknowledged are sent again. -/
def execReplayTimeout (p : PortIx) (s : State) : Host.Outcome State Fault Refusal :=
  .next (s.setPort p (s.port p).replayAll)

/-- A virtual channel runs out of credits, or is granted some (R330). -/
def State.grantCredit (s : State) (p : PortIx) (vc : Fin 4) (ok : Bool) : State :=
  let x := s.port p
  (s.setPort p ({ x with credit := x.credit.set vc.val ok } : Port).transmit).pump p

/-! ### Lanes and loss of a port -/

/-- PORT_OFFLINE (R334): every transfer that has not completed fails, and every pending contribution is dropped with a
kind-5 record. -/
def State.portOffline (s : State) (p : PortIx) : State :=
  let s := s.setPort p { s.port p with lanes := 0, down := true, pausing := false, egress := [], replay := [] }
  let s := (s.nsends.filter fun x => x.port == p).foldl (fun s x => s.failSend x)
    { s with jobs := s.jobs.filter fun j => j.port != p }
  let mine := fun (c : Contrib) => c.peer.any fun q => q.1 == p
  (s.contribs.filter mine).foldl (fun s c => s.dropContrib c) { s with contribs := s.contribs.filter fun c => !mine c }

/-- LANES of a number of lanes. -/
def lanesCode (n : Nat) : BitVec 2 := if 16 ≤ n then 3 else if 8 ≤ n then 2 else if 4 ≤ n then 1 else 0

/-- Lanes in use for a cap and a number of working lanes: 16, 8 or 4. -/
def lanesFor (cap working : Nat) : Nat :=
  let n := Nat.min cap working
  if 16 ≤ n then 16 else if 8 ≤ n then 8 else if 4 ≤ n then 4 else 0

/-- LANE_SHED (R334): the link pauses to retrain at fewer lanes, or the port goes offline with fewer than 4. -/
def execLaneShed (p : PortIx) (working : Nat) (s : State) : Host.Outcome State Fault Refusal :=
  let x := s.port p
  let n := lanesFor x.laneCap working
  if x.down then .next s
  else if n = 0 then .next (s.portOffline p)
  else .next (s.setPort p { x with pausing := true, lanes := lanesCode n })

/-- LINK_RETRAIN_DONE (R328, R334): the link replays and resumes, and the peer's id is learned; the third failure in a row
takes the port offline. -/
def execLinkRetrainDone (p : PortIx) (ok : Bool) (peer : BitVec 12) (s : State) : Host.Outcome State Fault Refusal :=
  let x := s.port p
  if ok then
    let n := if x.lanes = 0 then lanesCode x.laneCap else x.lanes
    let y : Port := { x with pausing := false, down := false, failed := 0, npeer := peer, lanes := n }
    .next ((s.setPort p y.replayAll.transmit).pump p)
  else if 3 ≤ x.failed + 1 then .next ((s.setPort p { x with failed := 0 }).portOffline p)
  else .next (s.setPort p { x with failed := x.failed + 1 })

end Sys2Proof.Machine
end

