-- ==== Sys2Proof/Machine/Elements.lean ====
section
/-!
DEFINITION. Element-block arithmetic: floating point (R196), integers (R197, R198), compares and masks (R199 to R201).
-/
namespace Sys2Proof.Machine

/-! ### Floating point -/

/-- A floating-point word: types outside Table 10-1 and widths above EW fault ILLEGAL (R195); each active element is
`f` of the decoded format and the element number. -/
def Block.fp (b : Block) (s : State) (d : VReg) (m : MSel) (t : EType) (f : Fmt → Nat → Nat × Flags) : Except Trap Block := do
  b.illIf (!t.isFp)
  b.fits t.width
  match fmtOf t with
  | some k => pure (b.lanewise s d t.width m (f k))
  | none => .error (b.bad .illegal)

/-- The exact value of element i of a source. -/
def Block.fv (b : Block) (s : State) (k : Fmt) (r : VSrc) (i : Nat) : FV := k.decode (elem (b.v s r.r) i k.bits)

/-- Rounds an exact value once (R105). -/
def rounded (k : Fmt) (md : Mode) (v : FV × Flags) : Nat × Flags :=
  let (r, f) := k.round v.1 md
  (r, v.2 ||| f)

/-- A word of two FP sources. -/
def wordFp2 (o : VE2r) (op : Mode → FV → FV → FV × Flags) : Word := fun s b =>
  let md := b.mode o.r
  b.fp s o.d o.m o.t fun k i => rounded k md (op md (b.fv s k o.a i) (b.fv s k o.b i))
/-- A fused word. -/
def wordFp3 (o : VE3r) (op : Mode → FV → FV → FV → FV × Flags) : Word := fun s b =>
  let md := b.mode o.r
  b.fp s o.d o.m o.t fun k i => rounded k md (op md (b.fv s k o.a i) (b.fv s k o.b i) (b.fv s k o.c i))
/-- VFMIN and VFMAX (R102). -/
def wordMinMax (o : VE2) (isMax : Bool) : Word := fun s b =>
  b.fp s o.d o.m o.t fun k i => k.minMax isMax (elem (b.v s o.a.r) i k.bits) (elem (b.v s o.b.r) i k.bits)
/-- VFABS, VFNEG and VFSGN: the sign bit of an element that is no NaN; a NaN gives the canonical NaN (R89, R196). -/
def wordSign (d : VReg) (a : VSrc) (m : MSel) (t : EType) (sg : Fmt → State → Block → Nat → Bool) : Word := fun s b =>
  b.fp s d m t fun k i =>
    let x := elem (b.v s a.r) i k.bits
    if (k.decode x).isNan then (k.nan.getD 0, fNone) else (x % 2 ^ (k.bits - 1) + k.sign (sg k s b i), fNone)
/-- The sign bit of element i of a source. -/
def signAt (r : VSrc) (k : Fmt) (s : State) (b : Block) (i : Nat) : Bool := ebit (elem (b.v s r.r) i k.bits) (k.bits - 1)

/-- VFADD (R196). -/
def execVfadd (o : VE2r) (s : State) : Host.Outcome State Fault Refusal := s.onBlock (wordFp2 o (fun md x y => FV.add md x y))
/-- VFSUB (R196). -/
def execVfsub (o : VE2r) (s : State) : Host.Outcome State Fault Refusal := s.onBlock (wordFp2 o (fun md x y => FV.sub md x y))
/-- VFMUL (R196). -/
def execVfmul (o : VE2r) (s : State) : Host.Outcome State Fault Refusal := s.onBlock (wordFp2 o (fun _ x y => FV.mul x y))
/-- VFDIV (R196). -/
def execVfdiv (o : VE2r) (s : State) : Host.Outcome State Fault Refusal := s.onBlock (wordFp2 o (fun _ x y => FV.div x y))
/-- VFMA (R196). -/
def execVfma (o : VE3r) (s : State) : Host.Outcome State Fault Refusal := s.onBlock (wordFp3 o (fun md x y z => FV.fma md x y z))
/-- VFMS (R196). -/
def execVfms (o : VE3r) (s : State) : Host.Outcome State Fault Refusal := s.onBlock (wordFp3 o (fun md x y z => FV.fma md x y z.neg))
/-- VFNMA (R196). -/
def execVfnma (o : VE3r) (s : State) : Host.Outcome State Fault Refusal := s.onBlock (wordFp3 o (fun md x y z => FV.fma md x.neg y z))
/-- VFSQRT (R196). -/
def execVfsqrt (o : VE1r) (s : State) : Host.Outcome State Fault Refusal := s.onBlock (fun s b =>
  let md := b.mode o.r
  b.fp s o.d o.m o.t fun k i => rounded k md (b.fv s k o.a i).sqrt)
/-- VFMIN (R102, R196). -/
def execVfmin (o : VE2) (s : State) : Host.Outcome State Fault Refusal := s.onBlock (wordMinMax o false)
/-- VFMAX (R102, R196). -/
def execVfmax (o : VE2) (s : State) : Host.Outcome State Fault Refusal := s.onBlock (wordMinMax o true)
/-- VFABS (R196). -/
def execVfabs (o : VE1) (s : State) : Host.Outcome State Fault Refusal := s.onBlock (wordSign o.d o.a o.m o.t fun _ _ _ _ => false)
/-- VFNEG (R196). -/
def execVfneg (o : VE1) (s : State) : Host.Outcome State Fault Refusal := s.onBlock (wordSign o.d o.a o.m o.t fun k s b i => !signAt o.a k s b i)
/-- VFSGN (R196): the sign of b counts even when b is a NaN. -/
def execVfsgn (o : VE2) (s : State) : Host.Outcome State Fault Refusal := s.onBlock (wordSign o.d o.a o.m o.t (signAt o.b))

/-! ### Integers -/

/-- An integer word: each active element is `f` of the width and the two elements (R197). -/
def wordInt (o : VE2) (f : Nat → Nat → Nat → Nat × Flags) : Word := fun s b => do
  b.illIf (!o.t.isInt)
  let w := o.t.width
  b.fits w
  pure (b.lanewise s o.d w o.m fun i => f w (elem (b.v s o.a.r) i w) (elem (b.v s o.b.r) i w))
/-- An integer word that sets no flag; the result is kept mod 2^w. -/
def wordArith (o : VE2) (f : Nat → Int → Int → Int → Int → Int) : Word :=
  wordInt o fun w x y => (intEnc w (f w x y (sext w x) (sext w y)), fNone)
/-- A saturating word: the exact result, clamped (R95, R197). -/
def wordSat (o : VE2) (signed : Bool) (f : Int → Int → Int) : Word :=
  wordInt o fun w x y =>
    let v := if signed then f (sext w x) (sext w y) else f x y
    let lo : Int := if signed then -(2 ^ (w - 1)) else 0
    let hi : Int := if signed then 2 ^ (w - 1) - 1 else 2 ^ w - 1
    (intEnc w (max lo (min hi v)), fIf (decide (v < lo) || decide (hi < v)) fSAT)

/-- VADD (R197). -/
def execVadd (o : VE2) (s : State) : Host.Outcome State Fault Refusal := s.onBlock (wordArith o fun _ x y _ _ => x + y)
/-- VSUB (R197). -/
def execVsub (o : VE2) (s : State) : Host.Outcome State Fault Refusal := s.onBlock (wordArith o fun _ x y _ _ => x - y)
/-- VMUL (R197). -/
def execVmul (o : VE2) (s : State) : Host.Outcome State Fault Refusal := s.onBlock (wordArith o fun _ x y _ _ => x * y)
/-- VMULH (R197). -/
def execVmulh (o : VE2) (s : State) : Host.Outcome State Fault Refusal := s.onBlock (wordArith o fun w _ _ x y => x * y / 2 ^ w)
/-- VMULHN (R197). -/
def execVmulhn (o : VE2) (s : State) : Host.Outcome State Fault Refusal := s.onBlock (wordArith o fun w x y _ _ => x * y / 2 ^ w)
/-- VAND (R197). -/
def execVand (o : VE2) (s : State) : Host.Outcome State Fault Refusal := s.onBlock (wordInt o fun _ x y => (x &&& y, fNone))
/-- VOR (R197). -/
def execVor (o : VE2) (s : State) : Host.Outcome State Fault Refusal := s.onBlock (wordInt o fun _ x y => (x ||| y, fNone))
/-- VXOR (R197). -/
def execVxor (o : VE2) (s : State) : Host.Outcome State Fault Refusal := s.onBlock (wordInt o fun _ x y => (x ^^^ y, fNone))
/-- VSLL (R197). -/
def execVsll (o : VE2) (s : State) : Host.Outcome State Fault Refusal := s.onBlock (wordInt o fun w x y => (x * 2 ^ (y % w) % 2 ^ w, fNone))
/-- VSRL (R197). -/
def execVsrl (o : VE2) (s : State) : Host.Outcome State Fault Refusal := s.onBlock (wordInt o fun w x y => (x / 2 ^ (y % w), fNone))
/-- VSRA (R197). -/
def execVsra (o : VE2) (s : State) : Host.Outcome State Fault Refusal := s.onBlock (wordInt o fun w x y => (intEnc w (sext w x / 2 ^ (y % w)), fNone))
/-- VMIN (R197). -/
def execVmin (o : VE2) (s : State) : Host.Outcome State Fault Refusal := s.onBlock (wordArith o fun _ _ _ x y => min x y)
/-- VMAX (R197). -/
def execVmax (o : VE2) (s : State) : Host.Outcome State Fault Refusal := s.onBlock (wordArith o fun _ _ _ x y => max x y)
/-- VMINN (R197). -/
def execVminn (o : VE2) (s : State) : Host.Outcome State Fault Refusal := s.onBlock (wordArith o fun _ x y _ _ => min x y)
/-- VMAXN (R197). -/
def execVmaxn (o : VE2) (s : State) : Host.Outcome State Fault Refusal := s.onBlock (wordArith o fun _ x y _ _ => max x y)
/-- VSADD (R197). -/
def execVsadd (o : VE2) (s : State) : Host.Outcome State Fault Refusal := s.onBlock (wordSat o true fun x y => x + y)
/-- VSSUB (R197). -/
def execVssub (o : VE2) (s : State) : Host.Outcome State Fault Refusal := s.onBlock (wordSat o true fun x y => x - y)
/-- VSADDN (R197). -/
def execVsaddn (o : VE2) (s : State) : Host.Outcome State Fault Refusal := s.onBlock (wordSat o false fun x y => x + y)
/-- VSSUBN (R197). -/
def execVssubn (o : VE2) (s : State) : Host.Outcome State Fault Refusal := s.onBlock (wordSat o false fun x y => x - y)

/-- VDOT (R198): the accumulator width must equal EW. -/
def wordVdot (o : VDotArgs) : Word := fun s b => do
  let w := o.t.width
  let ws := o.st.width
  b.illIf (!vdotOk o.t o.st || w != b.sc.ew)
  pure (b.lanewise s o.d w o.m fun i =>
    let p := (List.range (w / ws)).map fun k =>
      intVal o.st (elem (b.v s o.a.r) (i * (w / ws) + k) ws) * intVal o.st (elem (b.v s o.b.r) (i * (w / ws) + k) ws)
    (intEnc w ((elem (b.v s o.d) i w : Int) + p.sum), fNone))
/-- VDOT (R198). -/
def execVdot (o : VDotArgs) (s : State) : Host.Outcome State Fault Refusal := s.onBlock (wordVdot o)

/-! ### Compares and masks -/

/-- A mask word: bit i for each active element, with its flags (R192, R199). -/
def Block.maskwise (b : Block) (s : State) (d : Fin 4) (m : MSel) (res : Nat → Bool × Flags) : Block :=
  ((b.putM s (mdst d) m fun i => (res i).1).addFlags (b.flagsOf s m fun i => (res i).2)).advance

/-- VFCMP (R103, R199). -/
def wordVfcmp (o : VCmpArgs) : Word := fun s b => do
  b.illIf (!o.t.isFp)
  b.fits o.t.width
  match fmtOf o.t with
  | some k => pure (b.maskwise s o.d o.m fun i => fpCompare o.c (b.fv s k o.a i) (b.fv s k o.b i))
  | none => .error (b.bad .illegal)
/-- VFCMP (R199). -/
def execVfcmp (o : VCmpArgs) (s : State) : Host.Outcome State Fault Refusal := s.onBlock (wordVfcmp o)

/-- A condition between integers. -/
def intCompare (c : Cond) (x y : Int) : Bool :=
  match c with
  | .eq => x == y
  | .ne => x != y
  | .lt => decide (x < y)
  | .le => decide (x ≤ y)
  | .gt => decide (y < x)
  | .ge => decide (y ≤ x)
/-- VCMP (R199). -/
def wordVcmp (o : VCmpArgs) : Word := fun s b => do
  b.illIf (!o.t.isInt)
  let w := o.t.width
  b.fits w
  pure (b.maskwise s o.d o.m fun i =>
    (intCompare o.c (intVal o.t (elem (b.v s o.a.r) i w)) (intVal o.t (elem (b.v s o.b.r) i w)), fNone))
/-- VCMP (R199). -/
def execVcmp (o : VCmpArgs) (s : State) : Host.Outcome State Fault Refusal := s.onBlock (wordVcmp o)

/-- Mask logic (R200). -/
def wordMask (o : MOp) (f : Bool → Bool → Bool) : Word := fun s b =>
  .ok (b.maskwise s o.d o.m fun i => (f ((b.m s o.a).getLsbD i) ((b.m s o.b).getLsbD i), fNone))

/-- MAND (R200). -/
def execMand (o : MOp) (s : State) : Host.Outcome State Fault Refusal := s.onBlock (wordMask o fun x y => x && y)
/-- MOR (R200). -/
def execMor (o : MOp) (s : State) : Host.Outcome State Fault Refusal := s.onBlock (wordMask o fun x y => x || y)
/-- MXOR (R200). -/
def execMxor (o : MOp) (s : State) : Host.Outcome State Fault Refusal := s.onBlock (wordMask o fun x y => xor x y)
/-- MANDN (R200). -/
def execMandn (o : MOp) (s : State) : Host.Outcome State Fault Refusal := s.onBlock (wordMask o fun x y => x && !y)
/-- MSET (R200). -/
def execMset (d : Fin 4) (m : MSel) (val : Bool) (s : State) : Host.Outcome State Fault Refusal :=
  s.onBlock fun s b => .ok (b.maskwise s d m fun _ => (val, fNone))

/-- The active elements whose bit of ma is 1 (R201). -/
def Block.hits (b : Block) (s : State) (a : MReg) (m : MSel) : List Nat := (b.actives s m).filter fun i => (b.m s a).getLsbD i
/-- MPOPC (R201). -/
def execMpopc (a : MReg) (m : MSel) (s : State) : Host.Outcome State Fault Refusal :=
  s.onBlock fun s b => (b.push (b.hits s a m).length).map Block.advance
/-- MFIRST (R201). -/
def execMfirst (a : MReg) (m : MSel) (s : State) : Host.Outcome State Fault Refusal :=
  s.onBlock fun s b => (b.push ((b.hits s a m).headD (2 ^ 64 - 1))).map Block.advance

end Sys2Proof.Machine
end

