-- ==== Sys2Proof/Machine/Moves.lean ====
section
/-!
DEFINITION. Element-block conversions and moves (R202 to R204), permutes and matching (R205 to R207), reductions and
scans (R106, R107, R208, R209).
-/
namespace Sys2Proof.Machine

/-! ### Conversions -/

/-- The element formats that scales apply to (R202). -/
def scaled (t : EType) : Bool := t.mxElem
/-- The scale byte of element i, from the register that VT.SCREG names (R78). -/
def Block.scale (b : Block) (s : State) (i : Nat) : Option Nat := (vtSc b.sc.vt).map fun r => elem (b.v s r) (i / 32) 8

/-- A conversion of one element (R104, R202): `sb` is its scale byte when VT.SCREG names a register. -/
def convertMx (td ts : EType) (x : Nat) (md : Mode) (sb : Option Nat) : Nat × Flags :=
  if ts.isInt && td.isInt then convertVal td ts x md
  else
    let v := if ts.isInt then FV.ofInt (intVal ts x)
      else
        match sb with
        | some q => if scaled ts then mxVal ts x q else decodeFp ts x
        | none => decodeFp ts x
    if td.isInt then fpToInt td v md
    else
      let nv := fIf v.isSnan fNV
      match sb with
      | some q =>
        if scaled td then
          if q = 255 then (0, fNV)
          else
            let (r, f) := roundFp td (v.scale (127 - q)) md
            (r, f ||| nv)
        else
          let (r, f) := roundFp td v md
          (r, f ||| nv)
      | none =>
        let (r, f) := roundFp td v md
        (r, f ||| nv)

/-- VCVT (R202). -/
def wordVcvt (o : VCvtArgs) : Word := fun s b => do
  b.illIf (o.t == .e8m0 || o.st == .e8m0)
  b.fits (max o.t.width o.st.width)
  let md := b.mode o.r
  pure (b.lanewise s o.d o.t.width o.m fun i =>
    convertMx o.t o.st (elem (b.v s o.a.r) i o.st.width) md (b.scale s i))
/-- VCVT (R202). -/
def execVcvt (o : VCvtArgs) (s : State) : Host.Outcome State Fault Refusal := s.onBlock (wordVcvt o)

/-- The exponent of block k of a quantisation over its active elements (R93, R203). -/
def Block.blockExp (b : Block) (s : State) (m : MSel) (t : EType) (val : Nat → FV) (k : Nat) : Option Int :=
  mxExp t (((List.range 32).filter fun j => b.active s m (32 * k + j)).map fun j => val (32 * k + j))

/-- VQMX (R203). -/
def wordVqmx (o : VQmxArgs) : Word := fun s b => do
  b.illIf (!o.t.mxElem || !o.st.isFp || o.sd == o.d)
  b.fits (max o.t.width o.st.width)
  let md := b.mode o.r
  let val := fun i => decodeFp o.st (elem (b.v s o.a.r) i o.st.width)
  let n := (b.sc.vl + 31) / 32
  let b1 := b.lanewise s o.d o.t.width o.m fun i => mxCode o.t (b.blockExp s o.m o.t val (i / 32)) (val i) md
  let old := b.v s o.sd
  pure (b1.setV o.sd (BitVec.ofNat 8192 (packNat 8 (fun k =>
    if k < n then mxScale (b.blockExp s o.m o.t val k) else if vtTp b.sc.vt then 0 else elem old k 8) 1024)))
/-- VQMX (R203). -/
def execVqmx (o : VQmxArgs) (s : State) : Host.Outcome State Fault Refusal := s.onBlock (wordVqmx o)

/-! ### Moves -/

/-- A word that moves elements of width `t` and sets no flag. -/
def wordMove (d : VReg) (m : MSel) (t : EType) (f : Block → Nat → Nat) (s : State) (b : Block) : Except Trap Block := do
  b.fits t.width
  pure (b.lanewise s d t.width m fun i => (f b i, fNone))

/-- VMOV (R204). -/
def execVmov (o : VE1) (s : State) : Host.Outcome State Fault Refusal :=
  s.onBlock fun s b => wordMove o.d o.m o.t (fun b i => elem (b.v s o.a.r) i o.t.width) s b
/-- VBCAST (R204). -/
def wordVbcast (o : VE1i) : Word := fun s b => do
  b.fits o.t.width
  b.illIf (decide (b.sc.vlm ≤ o.i.val))
  wordMove o.d o.m o.t (fun b _ => elem (b.v s o.a.r) o.i.val o.t.width) s b
/-- VBCAST (R204). -/
def execVbcast (o : VE1i) (s : State) : Host.Outcome State Fault Refusal := s.onBlock (wordVbcast o)
/-- VEXT (R204): the element is read as it stands. -/
def wordVext (a : VSrc) (t : EType) (i : Fin 4096) : Word := fun s b => do
  b.illIf (t == .e8m0)
  b.fits t.width
  b.illIf (decide (b.sc.vlm ≤ i.val))
  let b ← b.push (pushVal t (elem (b.v s a.r) i.val t.width))
  pure b.advance
/-- VEXT (R204). -/
def execVext (a : VSrc) (t : EType) (i : Fin 4096) (s : State) : Host.Outcome State Fault Refusal :=
  s.onBlock (wordVext a t i)
/-- The number of active elements below i. -/
def Block.rank (b : Block) (s : State) (m : MSel) (i : Nat) : Nat := ((List.range i).filter fun j => b.active s m j).length
/-- VIOTA (R204). -/
def wordViota (d : VReg) (m : MSel) (t : EType) : Word := fun s b => do
  b.illIf (!t.isInt)
  wordMove d m t (fun b i => b.rank s m i % 2 ^ t.width) s b
/-- VIOTA (R204). -/
def execViota (d : VReg) (m : MSel) (t : EType) (s : State) : Host.Outcome State Fault Refusal := s.onBlock (wordViota d m t)

/-! ### Permutes and matching -/

/-- VSLUP (R205): an active element below the distance is left unchanged. -/
def wordVslup (o : VE1i) : Word := fun s b => do
  b.illIf (o.t == .e8m0)
  let w := o.t.width
  b.fits w
  pure (b.putV s o.d w o.m fun i => if o.i.val ≤ i then some (elem (b.v s o.a.r) (i - o.i.val) w) else none).advance
/-- VSLUP (R205). -/
def execVslup (o : VE1i) (s : State) : Host.Outcome State Fault Refusal := s.onBlock (wordVslup o)
/-- VSLDN (R205). -/
def wordVsldn (o : VE1i) : Word := fun s b => do
  b.illIf (o.t == .e8m0)
  wordMove o.d o.m o.t
    (fun b i => if i + o.i.val < b.sc.vl then elem (b.v s o.a.r) (i + o.i.val) o.t.width else 0) s b
/-- VSLDN (R205). -/
def execVsldn (o : VE1i) (s : State) : Host.Outcome State Fault Refusal := s.onBlock (wordVsldn o)
/-- VPERM (R206). -/
def wordVperm (o : VE2) : Word := fun s b => do
  b.illIf (o.t == .e8m0)
  wordMove o.d o.m o.t (fun b i =>
    let j := elem (b.v s o.b.r) i o.t.width
    if j < b.sc.vl then elem (b.v s o.a.r) j o.t.width else 0) s b
/-- VPERM (R206). -/
def execVperm (o : VE2) (s : State) : Host.Outcome State Fault Refusal := s.onBlock (wordVperm o)
/-- VCOMP (R206): elements from the count up to VL − 1 are unchanged. -/
def wordVcomp (o : VE1) : Word := fun s b => do
  b.illIf (o.t == .e8m0)
  let w := o.t.width
  b.fits w
  let act := b.actives s o.m
  let old := b.v s o.d
  pure (b.putAll s o.d w fun i =>
    match act[i]? with
    | some j => elem (b.v s o.a.r) j w
    | none => elem old i w).advance
/-- VCOMP (R206). -/
def execVcomp (o : VE1) (s : State) : Host.Outcome State Fault Refusal := s.onBlock (wordVcomp o)
/-- VEXPD (R206). -/
def wordVexpd (o : VE1) : Word := fun s b => do
  b.illIf (o.t == .e8m0)
  wordMove o.d o.m o.t (fun b i => elem (b.v s o.a.r) (b.rank s o.m i) o.t.width) s b
/-- VEXPD (R206). -/
def execVexpd (o : VE1) (s : State) : Host.Outcome State Fault Refusal := s.onBlock (wordVexpd o)
/-- VMATCH (R207). -/
def wordVmatch (o : VE1) : Word := fun s b => do
  b.illIf (o.t == .e8m0)
  let w := o.t.width
  b.fits w
  let pat := fun i => elem (b.v s o.a.r) i w
  pure (b.lanewise s o.d w o.m fun i =>
    let n := ((List.range i).filter fun j => b.active s o.m j && pat j == pat i).length
    (Nat.min n (2 ^ w - 1), fIf (decide (2 ^ w - 1 < n)) fSAT))
/-- VMATCH (R207). -/
def execVmatch (o : VE1) (s : State) : Host.Outcome State Fault Refusal := s.onBlock (wordVmatch o)

/-! ### Reductions -/

/-- The three combinations of a reduction. -/
inductive RedOp where
  | sum | max | min
  deriving DecidableEq, Repr

/-- One combination of two elements (R106, R208). -/
def combine (op : RedOp) (t : EType) (md : Mode) (x y : Nat) : Nat × Flags :=
  match fmtOf t with
  | some k =>
    match op with
    | .sum => rounded k md (FV.add md (k.decode x) (k.decode y))
    | .max => k.minMax true x y
    | .min => k.minMax false x y
  | none =>
    match op with
    | .sum => (intEnc t.width ((x : Int) + y), fNone)
    | .max => (if intVal t x < intVal t y then y else x, fNone)
    | .min => (if intVal t y < intVal t x then y else x, fNone)

/-- The value of an empty reduction (R106, R208). -/
def emptyRed (op : RedOp) (t : EType) : Nat :=
  match fmtOf t with
  | some k =>
    match op with
    | .sum => 0
    | .max => k.infEnc true
    | .min => k.infEnc false
  | none =>
    match op with
    | .sum => 0
    | .max => intEnc t.width (intMin t)
    | .min => intEnc t.width (intMax t)

/-- The node of level k that covers indices from j·2^k (R106). -/
def redTree (f : Nat → Nat → Nat × Flags) (leaf : Nat → Option Nat) : Nat → Nat → Option Nat × Flags
  | 0, j => (leaf j, fNone)
  | k + 1, j =>
    match redTree f leaf k (2 * j), redTree f leaf k (2 * j + 1) with
    | (some x, p), (some y, q) => let (r, g) := f x y; (some r, p ||| q ||| g)
    | (some x, p), (none, q) => (some x, p ||| q)
    | (none, p), (y, q) => (y, p ||| q)

/-- An element as it is written as a result: a NaN is the canonical one, though no combination has made it (R89). -/
def canonNan (t : EType) (x : Nat) : Nat :=
  match fmtOf t with
  | some k => if (k.decode x).isNan then k.nan.getD 0 else x
  | none => x

/-- ceil(log2 n). -/
def clog2 (n : Nat) : Nat := if n ≤ 1 then 0 else Nat.log2 (n - 1) + 1

/-- The head of the segment that holds element i: the nearest element at or below i whose bit is set, or element 0. -/
def Block.headOf (b : Block) (s : State) (seg : MSel) : Nat → Nat
  | 0 => 0
  | i + 1 =>
    match seg with
    | none => 0
    | some r => if (b.m s r).getLsbD (i + 1) then i + 1 else b.headOf s seg i

/-- The reduction of the segment with head h (R106, R208). -/
def Block.segRed (b : Block) (s : State) (op : RedOp) (t : EType) (md : Mode) (a : VSrc) (m seg : MSel) (h : Nat) : Nat × Flags :=
  let n := ((List.range b.sc.vl).filter fun i => b.headOf s seg i == h).length
  let leaf := fun j => if j < n && b.active s m (h + j) then some (elem (b.v s a.r) (h + j) t.width) else none
  let (r, f) := redTree (combine op t md) leaf (clog2 n) 0
  (canonNan t (r.getD (emptyRed op t)), f)

/-- A reduction (R208): `.X` pushes one result; otherwise each segment's result goes to its head. -/
def wordRed (op : RedOp) (d : Option VReg) (a : VSrc) (m : MSel) (t : EType) (md : Block → Mode) (seg : MSel) : Word :=
  fun s b => do
    b.fits t.width
    match d with
    | none =>
      b.illIf seg.isSome
      let (x, f) := b.segRed s op t (md b) a m none 0
      let b ← b.push (pushVal t x)
      pure (b.addFlags f).advance
    | some d =>
      let old := b.v s d
      let b1 := b.putAll s d t.width fun i =>
        if b.headOf s seg i == i then (b.segRed s op t (md b) a m seg i).1 else elem old i t.width
      let f := ((List.range b.sc.vl).filter fun i => b.headOf s seg i == i).foldl
        (fun f i => f ||| (b.segRed s op t (md b) a m seg i).2) fNone
      pure (b1.addFlags f).advance

/-- An FP reduction. -/
def wordFred (op : RedOp) (o : VRedArgs) : Word := fun s b => do
  b.illIf (!o.t.isFp)
  wordRed op o.d o.a o.m o.t (fun b => b.mode o.r) o.seg s b
/-- An integer reduction. -/
def wordIred (op : RedOp) (o : VRedIArgs) : Word := fun s b => do
  b.illIf (!o.t.isInt)
  wordRed op o.d o.a o.m o.t (fun _ => .rne) o.seg s b

/-- VFREDSUM (R208). -/
def execVfredsum (o : VRedArgs) (s : State) : Host.Outcome State Fault Refusal := s.onBlock (wordFred .sum o)
/-- VFREDMAX (R208). -/
def execVfredmax (o : VRedArgs) (s : State) : Host.Outcome State Fault Refusal := s.onBlock (wordFred .max o)
/-- VFREDMIN (R208). -/
def execVfredmin (o : VRedArgs) (s : State) : Host.Outcome State Fault Refusal := s.onBlock (wordFred .min o)
/-- VREDSUM (R208). -/
def execVredsum (o : VRedIArgs) (s : State) : Host.Outcome State Fault Refusal := s.onBlock (wordIred .sum o)
/-- VREDMAX (R208). -/
def execVredmax (o : VRedIArgs) (s : State) : Host.Outcome State Fault Refusal := s.onBlock (wordIred .max o)
/-- VREDMIN (R208). -/
def execVredmin (o : VRedIArgs) (s : State) : Host.Outcome State Fault Refusal := s.onBlock (wordIred .min o)

/-! ### Scans -/

/-- One round of a scan at distance d: y_i ⊕ y_(i−d) within a segment; a combination at an element that is not active
sets no flag (R107, R109). -/
def scanRound (f : Nat → Nat → Nat × Flags) (head : Nat → Nat) (act : Nat → Bool) (d : Nat) (y : List (Option Nat)) :
    List (Option Nat) × Flags :=
  let cells := (List.range y.length).map fun i =>
    let own := y.getD i none
    if d ≤ i - head i then
      match own, y.getD (i - d) none with
      | some a, some c => let (r, g) := f a c; (some r, if act i then g else fNone)
      | none, some c => (some c, fNone)
      | _, none => (own, fNone)
    else (own, fNone)
  (cells.map (·.1), cells.foldl (fun f c => f ||| c.2) fNone)

/-- The rounds of a scan over at most 4,096 elements. -/
def scanRounds (f : Nat → Nat → Nat × Flags) (head : Nat → Nat) (act : Nat → Bool) : Nat → Nat → List (Option Nat) → List (Option Nat) × Flags
  | 0, _, y => (y, fNone)
  | n + 1, d, y =>
    if d < y.length then
      let (z, g) := scanRound f head act d y
      let (r, h) := scanRounds f head act n (2 * d) z
      (r, g ||| h)
    else (y, fNone)

/-- A scan (R107, R209). -/
def wordScan (d : VReg) (a : VSrc) (m : MSel) (t : EType) (md : Block → Mode) (seg : MSel) : Word := fun s b => do
  let w := t.width
  b.fits w
  let act := fun i => b.active s m i
  let y := (List.range b.sc.vl).map fun i => if act i then some (elem (b.v s a.r) i w) else none
  let (r, f) := scanRounds (combine .sum t (md b)) (b.headOf s seg) act 12 1 y
  pure ((b.putV s d w m fun i => (r.getD i none).map (canonNan t)).addFlags f).advance

/-- VFSCAN (R209). -/
def execVfscan (o : VScanArgs) (s : State) : Host.Outcome State Fault Refusal :=
  s.onBlock fun s b => do
    b.illIf (!o.t.isFp)
    wordScan o.d o.a o.m o.t (fun b => b.mode o.r) o.seg s b
/-- VSCAN (R209). -/
def execVscan (o : VScanIArgs) (s : State) : Host.Outcome State Fault Refusal :=
  s.onBlock fun s b => do
    b.illIf (!o.t.isInt)
    wordScan o.d o.a o.m o.t (fun _ => .rne) o.seg s b

end Sys2Proof.Machine
end

