-- ==== Sys2Proof/Machine/Weighted.lean ====
section
/-!
DEFINITION. Fractional predicates (chapter 12) and per-element memory (R210, R211, R222, R227, R228).
-/
namespace Sys2Proof.Machine

/-! ### Weights -/

/-- The check of R213, the first that depends on operand values (step 4 of R118): a type that the word does not accept comes before
it. -/
def Block.weighted (b : Block) : Except Trap Unit := if b.sc.ew < 16 then .error (b.bad .weightEw) else .ok ()
/-- Weight element i. -/
def Block.wt (b : Block) (s : State) (r : WReg) (i : Nat) : Nat := elem (b.w s r) i 16
/-- Whether a weight runs (R212). -/
def Block.runs (b : Block) (s : State) (r : WReg) (i : Nat) : Bool := decide (b.sc.theta.toNat < b.wt s r i)
/-- A weight destination with flags (R214). -/
def Block.weightwise (b : Block) (s : State) (d : WReg) (m : MSel) (res : Nat → Nat × Flags) : Block :=
  ((b.putW s d m fun i => some (res i).1).addFlags (b.flagsOf s m fun i => (res i).2)).advance

/-- WRAMP (R215): t = k × x + 0.5, exact; a NaN t sets NV. -/
def wordWramp (a c : VSrc) (m : MSel) (w : WReg) : Word := fun s b => do
  b.weighted
  b.fits 32
  pure (b.weightwise s w m fun i =>
    toWeight (FV.fma .rne (b.fv s fmtF32 c i) (b.fv s fmtF32 a i) (.fin false 1 (-1) false)).1)
/-- WRAMP (R215). -/
def execWramp (a c : VSrc) (m : MSel) (w : WReg) (s : State) : Host.Outcome State Fault Refusal :=
  s.onBlock (wordWramp a c m w)
/-- WCMP (R216). -/
def wordWcmp (a : MReg) (m : MSel) (w : WReg) : Word := fun s b => do
  b.weighted
  pure (b.weightwise s w m fun i => (if (b.m s a).getLsbD i then 0x8000 else 0, fNone))
/-- WCMP (R216). -/
def execWcmp (a : MReg) (m : MSel) (w : WReg) (s : State) : Host.Outcome State Fault Refusal := s.onBlock (wordWcmp a m w)
/-- WCOMP (R216). -/
def wordWcomp (m : MSel) (d r : WReg) : Word := fun s b => do
  b.weighted
  pure (b.weightwise s d m fun i => (0x8000 - b.wt s r i, fNone))
/-- WCOMP (R216). -/
def execWcomp (m : MSel) (d r : WReg) (s : State) : Host.Outcome State Fault Refusal := s.onBlock (wordWcomp m d r)
/-- WMUL (R216). -/
def wordWmul (m : MSel) (d p q : WReg) : Word := fun s b => do
  b.weighted
  pure (b.weightwise s d m fun i => (toWeight (FV.mul (ofWeight (b.wt s p i)) (ofWeight (b.wt s q i))).1))
/-- WMUL (R216). -/
def execWmul (m : MSel) (d p q : WReg) (s : State) : Host.Outcome State Fault Refusal := s.onBlock (wordWmul m d p q)

/-- WMOV (R217). -/
def wordWmov (dir : WMovDir) (m : MSel) (t : EType) (r : Rnd) (w : WReg) : Word := fun s b => do
  b.illIf (!t.wmovOk)
  b.weighted
  b.fits t.width
  match dir with
  | .toWeight a =>
    pure (b.weightwise s w m fun i =>
      let x := elem (b.v s a.r) i t.width
      if t.isInt then (Nat.min x 0x8000, fNone) else toWeight (decodeFp t x))
  | .toVector d =>
    pure (b.lanewise s d t.width m fun i =>
      let x := b.wt s w i
      if t.isInt then (x, fNone) else roundFp t (ofWeight x) (b.mode r))
/-- WMOV (R217). -/
def execWmov (dir : WMovDir) (m : MSel) (t : EType) (r : Rnd) (w : WReg) (s : State) : Host.Outcome State Fault Refusal :=
  s.onBlock (wordWmov dir m t r w)

/-! ### Regions -/

/-- WBEGIN (R219). -/
def wordWbegin (arms : Arms) (pf : Bool) : Word := fun s b => do
  b.weighted
  if 8 ≤ b.arms.length then .error b.format
  let ws := arms.list
  let runs := ws.map fun r => maskOf (fun i => decide (i < b.sc.vl) && b.inrun i && b.runs s r i) 512
  pure ({ b with arms := .region ws runs (ws.map fun _ => 0) pf 0 b.pos :: b.arms } : Block).advance
/-- WBEGIN (R219). -/
def execWbegin (arms : Arms) (pf : Bool) (s : State) : Host.Outcome State Fault Refusal := s.onBlock (wordWbegin arms pf)
/-- WNEXT (R220, R221). -/
def wordWnext : Word := fun _ b => do
  b.weighted
  match b.arms with
  | .region ws runs prns pf cur site :: r =>
    if cur + 1 = ws.length then .error b.format
    else pure ({ b with arms := .region ws runs prns pf (cur + 1) site :: r } : Block).advance
  | _ => .error b.format
/-- WNEXT (R220). -/
def execWnext (s : State) : Host.Outcome State Fault Refusal := s.onBlock wordWnext
/-- WEND (R220, R221). -/
def wordWend : Word := fun _ b => do
  b.weighted
  match b.arms with
  | .region ws _ _ _ cur _ :: r =>
    if cur + 1 = ws.length then pure ({ b with arms := r } : Block).advance else .error b.format
  | _ => .error b.format
/-- WEND (R220). -/
def execWend (s : State) : Host.Outcome State Fault Refusal := s.onBlock wordWend

/-! ### Joins and gradients -/

/-- The running terms of a join at element i: weight encoding and arm value (R223). -/
def Block.terms (b : Block) (s : State) (k : Fmt) (a : VReg) (ws : List WReg) (i : Nat) : List (Nat × FV) :=
  (ws.zipIdx).filterMap fun p =>
    if b.runs s p.1 i then
      (vregAdd a p.2).map fun r => (b.wt s p.1 i, k.decode (elem (b.v s r) i k.bits))
    else none

/-- N / S of a join, rounded once (R223, Table 12-3). -/
def joinVal (k : Fmt) (md : Mode) (ts : List (Nat × FV)) : Nat × Flags :=
  let vs := ts.map (·.2)
  if vs.any FV.isNan then (k.nan.getD 0, fIf (vs.any FV.isSnan) fNV)
  else if vs.any (fun v => v.isInf && v.negative) && vs.any (fun v => v.isInf && !v.negative) then (k.nan.getD 0, fNV)
  else
    let ps := ts.map fun p => (FV.mul (ofWeight p.1) p.2).1
    let n := match ps with
      | [] => FV.fin false 0 0 false
      | p :: r => r.foldl (fun x y => (FV.add md x y).1) p
    k.round (FV.div n (.fin false (ts.map (·.1)).sum (-15) false)).1 md

/-- WJOIN (R223): a void element is left unchanged and sets WV. -/
def wordWjoin (o : WJoinArgs) : Word := fun s b => do
  b.illIf (!o.t.isFp)
  b.weighted
  b.fits o.t.width
  match fmtOf o.t with
  | none => .error (b.bad .illegal)
  | some k =>
    let md := b.mode o.r
    let ts := fun i => b.terms s k o.a.r o.arms.list i
    let b1 := b.putV s o.d o.t.width o.m fun i => if (ts i).isEmpty then none else some (joinVal k md (ts i)).1
    pure (b1.addFlags (b.flagsOf s o.m fun i => if (ts i).isEmpty then fWV else (joinVal k md (ts i)).2)).advance
/-- WJOIN (R223). -/
def execWjoin (o : WJoinArgs) (s : State) : Host.Outcome State Fault Refusal := s.onBlock (wordWjoin o)

/-- WGJOIN (R224). -/
def wordWgjoin (o : WGJoinArgs) : Word := fun s b => do
  b.weighted
  b.fits 32
  let md := b.mode o.r
  pure (b.lanewise s o.d 32 o.m fun i =>
    if b.runs s o.wa i && b.runs s o.wb i then
      let (d, f1) := FV.sub md (b.fv s fmtF32 o.ya i) (b.fv s fmtF32 o.yb i)
      let (p, f2) := FV.mul (b.fv s fmtF32 o.dy i) d
      let (q, f3) := FV.div p (.fin false (b.wt s o.wa i + b.wt s o.wb i) (-15) false)
      rounded fmtF32 md (q, f1 ||| f2 ||| f3)
    else (0, fNone))
/-- WGJOIN (R224). -/
def execWgjoin (o : WGJoinArgs) (s : State) : Host.Outcome State Fault Refusal := s.onBlock (wordWgjoin o)
/-- WGRAMP (R225). -/
def wordWgramp (o : WGRampArgs) : Word := fun s b => do
  b.weighted
  b.fits 32
  let md := b.mode o.r
  pure (b.lanewise s o.d 32 o.m fun i =>
    let w := b.wt s o.w i
    if 0 < w ∧ w < 0x8000 then rounded fmtF32 md (FV.mul (b.fv s fmtF32 o.g i) (b.fv s fmtF32 o.k i)) else (0, fNone))
/-- WGRAMP (R225). -/
def execWgramp (o : WGRampArgs) (s : State) : Host.Outcome State Fault Refusal := s.onBlock (wordWgramp o)

/-! ### Loops -/

/-- WCONT (R130, R221, R226). -/
def wordWcont (w : WReg) (dist : Fin 256) : Word := fun s b => do
  if dist.val = 0 ∨ b.pos < dist.val then .error b.format
  b.weighted
  let p := b.pos
  let body := p - dist.val
  let inner := match b.arms with
    | .region _ _ _ _ _ site :: _ => decide (body ≤ site)
    | _ => false
  if inner then .error b.format
  let on := match b.arms with
    | .loop site live trips :: r => if site = p then some (live, trips, r) else none
    | _ => none
  let (live, trips, rest) := match on with
    | some (live, trips, r) => (maskOf (fun i => live.getLsbD i && b.runs s w i) 512, trips + 1, r)
    | none => (maskOf (fun i => decide (i < b.sc.vl) && b.inrun i && b.runs s w i) 512, 1, b.arms)
  if live ≠ 0 ∧ trips < b.sc.wlim.toNat then
    if on.isNone ∧ 8 ≤ b.arms.length then .error b.format
    else pure { b with arms := .loop p live trips :: rest, pos := body }
  else
    -- a live element that is pruned from the arm is not active, and sets no flag (R8, R109)
    let stopped := (List.range b.sc.vl).any fun i => live.getLsbD i && rest.all fun a => a.lets i
    pure ({ b with arms := rest, flags := b.flags ||| fIf stopped fWL } : Block).advance
/-- WCONT (R226). -/
def execWcont (w : WReg) (dist : Fin 256) (s : State) : Host.Outcome State Fault Refusal := s.onBlock (wordWcont w dist)

/-! ### Memory -/

/-- The register and address of element i (R210). -/
def Block.elemAddr (b : Block) (s : State) (a : VReg) (off : BitVec 13) (i : Nat) : Word64 :=
  let base := match vregAdd a (i / 128) with
    | some r => elem (b.v s r) (i % 128) 64
    | none => 0
  BitVec.ofNat 64 base + off.signExtend 64

/-- Whether the address registers of a word run past v47 (R210). -/
def Block.addrBad (b : Block) (a : VReg) : Bool := decide (0 < b.sc.vl) && decide (48 ≤ a.val + (b.sc.vl - 1) / 128)

/-- The latest buffered store that covers a byte. -/
def Block.stored (b : Block) (key : Nat) : Option (Nat × List Byte) :=
  b.stores.reverse.find? fun p => decide (keyBytes p.1 ≤ keyBytes key) && decide (keyBytes key < keyBytes p.1 + p.2.length)
/-- One byte as the block sees it: the latest buffered store that covers it, or memory (R210). -/
def Block.byte (b : Block) (s : State) (key : Nat) : Byte :=
  match b.stored key with
  | some p => p.2.getD (keyBytes key - keyBytes p.1) 0
  | none => ((s.loadLoc (keyLoc key) 1).headD 0)
/-- Whether a read of `n` bytes meets an uncorrectable error (R321): only bytes that no buffered store covers are read from memory
(R210). -/
def Block.readErr (b : Block) (s : State) (l : Loc) (n : Nat) : Bool :=
  s.loadErr l n && (List.range n).any fun k => s.loadErr (keyLoc (l.key + k)) 1 && (b.stored (l.key + k)).isNone
/-- `n` bytes as the block sees them. -/
def Block.read (b : Block) (s : State) (l : Loc) (n : Nat) : Nat := leNat ((List.range n).map fun k => b.byte s (l.key + k))
/-- Appends a buffered store. -/
def Block.buffer (b : Block) (l : Loc) (n x : Nat) : Block := { b with stores := b.stores ++ [(l.key, leBytes n x)] }
/-- Counts element i for R194; its ninth STE or WSTA word faults. -/
def Block.countStore (b : Block) (i : Nat) : Except Trap Block :=
  let n := fget 0 b.count i
  if 8 ≤ n then .error ⟨.blockLimit, i, b.addr⟩ else .ok { b with count := fset 0 b.count i (n + 1) }

/-- Prunes element i from the current arm of the innermost region, when that region has .PF and another arm still runs
for the element (R222). -/
def pruneArms (i : Nat) : List ArmEntry → Option (List ArmEntry × WReg)
  | [] => none
  | .loop site live trips :: r => (pruneArms i r).map fun q => (.loop site live trips :: q.1, q.2)
  | .region ws runs prns pf cur site :: r =>
    let prns' := prns.zipIdx.map fun p => if p.2 = cur then setElem p.1 i 1 1 else p.1
    let left := (runs.zip prns').any fun p => p.1.getLsbD i && !p.2.getLsbD i
    match pf && left, ws[cur]? with
    | true, some w => some (.region ws runs prns' pf cur site :: r, w)
    | _, _ => none

/-- The block after a memory fault `t` of element i: pruned, or the abort (R222). -/
def Block.prune (b : Block) (s : State) (i : Nat) (t : Trap) : Except Trap Block :=
  match pruneArms i b.arms with
  | none => .error t
  | some (arms, w) => .ok ({ b with arms := arms }.setW w (setElem (b.w s w) i 16 0))

/-- The location of element i of a memory word, checked under R159 with what the block `b` has stored so far. -/
def Block.elemLoc (b0 b : Block) (s : State) (a : VReg) (off : BitVec 13) (w : Nat) (k : Kind) (i : Nat) : Except Trap Loc := do
  let va := b0.elemAddr s a off i
  let l ← s.vecPlace (agentOf s.cur b0.sc) va (w / 8) (w / 8) k i
  if k != .write && b.readErr s l (w / 8) then .error ⟨.memUncorrectable, i, va⟩
  pure l

/-- The located elements of a memory word in order: `f` performs an element on the block, which counts under R194 where it
stores; a faulting one is pruned or aborts, and does not count. -/
def Block.eachElem (b0 : Block) (s : State) (a : VReg) (off : BitVec 13) (w : Nat) (k : Kind) (store : Bool)
    (f : Block → Nat → Loc → Block) : List Nat → Block → Except Trap Block
  | [], b => .ok b
  | i :: is, b => do
    let b ← match b0.elemLoc b s a off w k i with
      | .error t => b.prune s i t
      | .ok l => if store then (b.countStore i).map fun c => f c i l else .ok (f b i l)
    b0.eachElem s a off w k store f is b

/-- Executes a word that accesses memory for its active elements: the translations of those located are kept (R258). -/
def State.onElems (s : State) (a : VReg) (off : BitVec 13) (w : Nat) (k : Kind) (m : MSel) (f : Word) :
    Host.Outcome State Fault Refusal :=
  match s.me.block, s.onBlock f with
  | some b, .next t =>
    .next (if t.me.block.isNone || !s.choices.fill then t
      else t.fillAddrs (agentOf s.cur b.sc)
        (((b.actives s m).filter fun i => (b.elemLoc b s a off w k i).toOption.isSome).map (b.elemAddr s a off)))
  | _, o => o

/-- LDE (R210, R222, R227): the values read are gathered first, and the destination is written by the write rule of R192
as the word began. -/
def wordLde (o : LdeArgs) : Word := fun s b => do
  let w := o.t.width
  b.illIf (decide (w < 8))
  if b.addrBad o.a.r then .error (b.bad .reservedReg)
  b.fits w
  let act := b.actives s o.m
  let b1 ← b.eachElem s o.a.r o.off w .read false (fun b _ _ => b) act b
  let vals := act.filterMap fun i =>
    match b.elemLoc b s o.a.r o.off w .read i with
    | .ok l => some (i, b.read s l (w / 8))
    | .error _ => none
  let b2 := b.putV s o.d w o.m fun i => (vals.find? fun p => p.1 == i).map (·.2)
  pure ({ b1 with shV := b2.shV } : Block).advance
/-- LDE (R210). -/
def execLde (o : LdeArgs) (s : State) : Host.Outcome State Fault Refusal := s.onElems o.a.r o.off o.t.width .read o.m (wordLde o)

/-- STE (R210, R222, R227). -/
def wordSte (o : SteArgs) : Word := fun s b => do
  let w := o.t.width
  b.illIf (decide (w < 8))
  if b.addrBad o.a.r then .error (b.bad .reservedReg)
  b.fits w
  let b1 ← b.eachElem s o.a.r o.off w .write true
    (fun c i l => c.buffer l (w / 8) (elem (b.v s o.b.r) i w)) (b.actives s o.m) b
  pure b1.advance
/-- STE (R210). -/
def execSte (o : SteArgs) (s : State) : Host.Outcome State Fault Refusal := s.onElems o.a.r o.off o.t.width .write o.m (wordSte o)

/-- One weighted addition, rounded once: a weight of zero contributes +0, or a NaN for an infinite value (R228). -/
def weightedAdd (k : Fmt) (md : Mode) (old w x : Nat) : Nat × Flags :=
  let (p, f) := FV.mul (ofWeight w) (k.decode x)
  let p := if w = 0 ∧ !p.isNan then FV.fin false 0 0 false else p
  let (r, g) := FV.add md (k.decode old) p
  rounded k md (r, f ||| g)

/-- WSTA (R222, R228): each element reads what the earlier elements of the word left. -/
def wordWsta (o : WstaArgs) : Word := fun s b => do
  b.illIf (!o.t.isFp)
  if b.addrBad o.a.r then .error (b.bad .reservedReg)
  b.weighted
  let w := o.t.width
  b.fits w
  match fmtOf o.t with
  | none => .error (b.bad .illegal)
  | some k =>
    let md := b.mode o.r
    let b1 ← b.eachElem s o.a.r 0 w .rw true (fun c i l =>
      let (r, f) := weightedAdd k md (c.read s l (w / 8)) (b.wt s o.w i) (elem (b.v s o.b.r) i w)
      (c.buffer l (w / 8) r).addFlags f) (b.actives s o.m) b
    pure b1.advance
/-- WSTA (R228). -/
def execWsta (o : WstaArgs) (s : State) : Host.Outcome State Fault Refusal := s.onElems o.a.r 0 o.t.width .rw o.m (wordWsta o)

end Sys2Proof.Machine
end

