-- ==== Sys2Proof/Machine/RegErrors.lean ====
section
/-!
DEFINITION. Uncorrectable errors in registers (R321), for the instructions that work on their operands as a whole and for the words of
an element block (R190): where such a read meets one, and what still comes before it (log entry 38).
-/
namespace Sys2Proof.Machine

/-! ### Entries -/

/-- Whether a step of a matrix accumulator meets an error: in a mask, or, where a selected element has a term, in the element, in an
operand of the term or in its scale byte (R235, R239). -/
def State.stepStruck (s : State) (e : Entry) (a : AccIx) (v : VReg) (t : EType) (b : Option VReg)
    (B : Nat → Nat → Option (Nat × Option Nat)) (mr mc : MSel) : Bool :=
  let p := stepDepth t
  let scale := fun k => mxType t && (vtSc e.chk.vt).any fun r => s.me.struck (elemRange (.v r) k 8)
  let termBad := fun i j u =>
    s.me.struck (elemRange (.v v) (p * i + u) t.width) || scale ((p * i + u) / 32) ||
      b.any fun r => s.me.struck (elemRange (.v r) (p * j + u) t.width) || scale (16 + (p * j + u) / 32)
  (List.range e.chk.mgrant.toNat).any fun i => s.me.maskStruck mr i || (s.selects mr i && (List.range 128).any fun j =>
    s.me.maskStruck mc j || (s.selects mc j &&
      let us := (List.range p).filter fun u => (B u j).isSome
      !us.isEmpty && (s.me.accStruck a i j || us.any (termBad i j))))

/-- Whether an instruction that works on its operands as a whole, and is replayed whole, meets an error in one of them: VSTB, FST,
QENQ.V, matrix steps and slices, and MGACC. -/
def State.wholeBad (s : State) (e : Entry) : Bool :=
  let x := s.me
  let sc := e.chk
  let g := sc.mgrant.toNat
  match e.instr with
  | .vstb _ _ | .vstbNtf _ _ => (s.badElem { e with chk := { sc with vstart := 0 } }).isSome
  | .fst v f _ _ _ => (List.range sc.vl).any fun i => x.struck (elemRange (.v v) i (s.feed f).w)
  | .qenqV o => (List.range sc.vl).any fun i => x.struck (elemRange (.v o.v) i sc.ew)
  | .mopa a v k mr mc =>
    let w := (s.quad s.myQuad).wbuf
    s.stepStruck e a v.r w.ty none (fun u j => w.at? (k.val + u) j) mr mc
  | .mopav a v b mr mc t => s.stepStruck e a v.r (matEType t) (some b) (s.stepB sc (matEType t) b) mr mc
  | .mrds a _ i col => if col then (List.range g).any fun r => x.accStruck a r i.val
    else (List.range 128).any fun j => x.accStruck a i.val j
  | .mwrs _ v _ col => (List.range (if col then g else 128)).any fun j => x.struck (elemRange (.v v.r) j 32)
  | .mgacc o =>
    match e.rcd with
    | none => false
    | some r => (List.range (recNat r 12 4)).any fun i => x.maskStruck o.mr i || (s.selects o.mr i &&
        (List.range (recNat r 8 4)).any fun j => x.maskStruck o.mc j || (s.selects o.mc j && x.accStruck o.acc i j))
  | _ => false

/-- Accumulators that an entry writes whole. -/
def accWrites : Instr → List AccIx
  | .mzero a => [a]
  | _ => []

/-- The registers an entry has written hold no error any more. -/
def State.clearBad (s : State) (i : Instr) : State :=
  if s.me.badRegs.isEmpty then s
  else s.setMe { s.me with badRegs := s.me.badRegs.filter fun p =>
    match p with
    | .acc a _ _ => !(accWrites i).contains a
    | p => !p.res.any (resOf i).2.contains }

/-- Performs an entry. Its own checks come first; one that works on its operands as a whole then faults on an error in them with nothing
performed and SELEM 0, since it starts again from the beginning (R321). -/
def State.performSound (s : State) (e : Entry) (p : Perf) : PerfOut :=
  match p e s with
  | .done t => if !s.me.badRegs.isEmpty && s.wholeBad e then .trap s (regTrap 0) else .done (t.clearBad e.instr)
  | o => o

/-! ### Block words -/

/-- The bits that element `n` of a word reads when it runs, beside its mask (Table 7-12): sources at their widths, scales, masks and
weights, addresses of 64 bits (R210), and of a join only the arms that run (R223). Of STE and WSTA, those of the address. -/
def Block.elemBits (b : Block) (s : State) (i : Instr) (n : Nat) : List BitRange :=
  let v := fun (r : VSrc) (k w : Nat) => elemRange (.v r.r) k w
  let wt := fun (r : WReg) => elemRange (.w r) n 16
  let adr := fun (r : VSrc) => ((vregAdd r.r (n / 128)).map fun q => elemRange (.v q) (n % 128) 64).toList
  let bits := match i with
    | .vdot o => [v o.a n o.t.width, v o.b n o.t.width, elemRange (.v o.d) n o.t.width]
    | .vcomp o | .vmatch o => [v o.a n o.t.width]
    | .vexpd o => [v o.a (b.rank s o.m n) o.t.width]
    | .vbcast o => [v o.a o.i.val o.t.width]
    | .vslup o => if o.i.val ≤ n then [v o.a (n - o.i.val) o.t.width] else []
    | .vsldn o => if n + o.i.val < b.sc.vl then [v o.a (n + o.i.val) o.t.width] else []
    | .vperm o =>
      let j := elem (b.v s o.b.r) n o.t.width
      v o.b n o.t.width :: if j < b.sc.vl then [v o.a j o.t.width] else []
    | .vfredsum o | .vfredmax o | .vfredmin o => [v o.a n o.t.width]
    | .vredsum o | .vredmax o | .vredmin o => [v o.a n o.t.width]
    | .vfscan o => [v o.a n o.t.width]
    | .vscan o => [v o.a n o.t.width]
    | .wramp a c _ _ => [v a n 32, v c n 32]
    | .wmov (.toWeight a) _ t _ _ => [v a n t.width]
    | .wjoin o => o.arms.list.zipIdx.flatMap fun p =>
      if b.runs s p.1 n then ((vregAdd o.a.r p.2).map fun r => elemRange (.v r) n o.t.width).toList else []
    | .wgjoin o => if b.runs s o.wa n && b.runs s o.wb n then [v o.dy n 32, v o.ya n 32, v o.yb n 32] else []
    | .wgramp o => if 0 < b.wt s o.w n ∧ b.wt s o.w n < 0x8000 then [v o.g n 32, v o.k n 32] else []
    | .lde o => adr o.a
    | .ste o => adr o.a
    | .wsta o => adr o.a
    | _ => (chainSources i).map fun p => v p.1 n p.2
  bits ++ (if wordScales i then ((vtSc b.sc.vt).map fun r => elemRange (.v r) (n / 32) 8).toList else []) ++
    (maskOperands i).map (fun r => elemRange (.m r) n 1) ++ match i with
    | .wsta _ => []
    | _ => (weightOperands i).map wt

/-- The bits that element `n` of STE or WSTA reads as data, once its address has been checked (R210, R228). -/
def dataBits (i : Instr) (n : Nat) : List BitRange :=
  match i with
  | .ste o => [elemRange (.v o.b.r) n o.t.width]
  | .wsta o => [elemRange (.v o.b.r) n o.t.width, elemRange (.w o.w) n 16]
  | _ => []

/-- Whether element `n` takes part in a word before its mask: it is in the run of the arms, or still live in the loop of a WCONT. -/
def Block.takesPart (b : Block) (i : Instr) (n : Nat) : Bool :=
  match i, b.arms with
  | .wcont _ _, .loop site live _ :: r => if site = b.pos then live.getLsbD n else (ArmEntry.loop site live 0 :: r).all fun a => a.lets n
  | _, _ => b.inrun n

/-- The registers that words of the block have written by now: those before the next word, and the bodies of the loops it is in. -/
def Block.written (b : Block) : List Res :=
  let last := b.arms.foldl (fun m a => match a with
    | .loop site _ _ => Nat.max m site
    | .region _ _ _ _ _ _ => m) b.pos
  wordsWrite (b.words.take last)

/-- The elements at which the next word of a block meets an error in a register it reads: in the mask or segment bit of an element that
takes part, or in an operand of an active one; with whether it is met in data alone, which is read once the address has been checked. A
register that an earlier word of the block has written holds none (R188). -/
def State.wordBad (s : State) (b : Block) (i : Instr) : List (Nat × Bool) :=
  let parts := s.me.badRegs.filter fun p => !p.res.any b.written.contains
  if parts.isEmpty then []
  else
    let hit := fun r => parts.any fun p => p.hits r
    let bit := fun (m : MSel) n => m.any fun r => hit (elemRange (.m r) n 1)
    match i with
    | .vext a t k => if hit (elemRange (.v a.r) k.val t.width) then [(k.val, false)] else []
    | _ => (List.range b.sc.vl).filterMap fun n =>
        let on := b.takesPart i n && b.selects s (wordMask? i) n
        if (decide (0 < n) && bit (wordSeg? i) n) || (b.takesPart i n && bit (wordMask? i) n) || (on && (b.elemBits s i n).any hit) then
          some (n, false)
        else if on && (dataBits i n).any hit then some (n, true)
        else none

/-- Faults of a word that come before it reads an element (step 4 of R118). -/
def wholeCause (c : BitVec 8) : Bool := [Cause.illegal, .reservedReg, .blockFormat, .weightEw].any fun k => c == k.code

/-- The block in flight cut to the elements below `n`. -/
def State.cutBlock (s : State) (n : Nat) : State :=
  s.setMe { s.me with block := s.me.block.map fun b => { b with entry := { b.entry with chk := { b.entry.chk with vl := n } } } }

/-- A word of the block `b` where it meets errors in registers at the elements given, the lowest first: its faults that no element causes
come first, then those of the elements below, then, where the error is in data, that of the element's address (R190, R210). A region
that prunes this element has it read no data (R222). `run` executes the word. -/
def State.wordStruck (s : State) (b : Block) (run : State → Host.Outcome State Fault Refusal) :
    List (Nat × Bool) → Host.Outcome State Fault Refusal
  | [] => run s
  | (n, late) :: bad =>
    let trap := Host.Outcome.next (s.blockTrap b (regTrap n))
    let whole := fun (t : State) => Host.Outcome.next (t.setMySc { t.mySc with vl := b.sc.vl })
    match run s, run (s.cutBlock (Nat.min n b.sc.vl)), run (s.cutBlock (Nat.min (n + 1) b.sc.vl)) with
    | .next t, .next u, .next v =>
      if t.me.block.isNone && wholeCause t.mySc.scause then .next t
      else if u.me.block.isNone then whole u
      else if !late then trap
      else
        match v.me.block with
        | none => if v.mySc.scause == Cause.blockLimit.code then trap else whole v
        | some c => if c.inrun n then trap else s.wordStruck b run bad
    | _, _, _ => trap

end Sys2Proof.Machine
end

