-- ==== Sys2Proof/Machine/Lanes.lean ====
section
/-!
DEFINITION. VIQ entries in the lanes (R44, R45): what each queued instruction does when it is performed, entries performed
before older ones, fault points (R46), entries that outlive their task (R49), and the event VIQ_ENTRY_START.
-/
namespace Sys2Proof.Machine

/-- What a queued instruction does when the lanes take it; none for an instruction that never enters the VIQ. VSETL,
VSETLX, STRIP and VPRF leave only the mark of the end of an interval (R158, R166); SETFIB has written its mask as it
issued. -/
def perfOf : Instr → Option Perf
  | .vsetl _ _ | .vsetlx _ | .strip _ _ _ _ | .setfib _ _ _ | .vprf _ _ _ => some perfNone
  | .vsplat o => some (perfVsplat o)
  | .vldxAcq v a x m c => some (perfVldxAcq v a x m c)
  | .vstsNtf o b => some (perfVsts o b true)
  | .vld o => some (perfVld o)
  | .vlds o b => some (perfVlds o b)
  | .vldg o n => some (perfVldg o n)
  | .vld2 o => some (perfVld2 o)
  | .vst o => some (perfVst o)
  | .vsts o b => some (perfVsts o b false)
  | .vstg o n ntf => some (perfVstg o n ntf)
  | .vst2 o ntf => some (perfVst2 o ntf)
  | .vldx o x => some (perfVldx o x)
  | .vstx o x ntf => some (perfVstx o x ntf)
  | .vldw v a x mo e => some (perfVldw v a x mo e)
  | .vldb v a b mo e => some (perfVldb v a b mo e)
  | .vstb o b => some (perfVstb o b false)
  | .vstbNtf o b => some (perfVstb o b true)
  | .vamo o => some (perfVamo o)
  | .vsred o op => some (perfVsred o op)
  | .vrred o t ntf ord => some (perfVrred o t ntf ord)
  | .fcfg f a b k out e => some (perfFcfg f a b k out e)
  | .fld v f => some (perfFld v f)
  | .fst v f _ _ _ => some (perfFst v f)
  | .fend f a _ _ => some (perfFend f a)
  | .apush a b tag => some (perfApush a b tag)
  | .apop o tag => some (perfApop o tag)
  | .nsend o => some (perfNsend o)
  | .matt o => some (perfMatt o)
  | .mattB o => some (perfMattB o)
  | .mdet => some perfMdet
  | .mten => some perfMten
  | .mtdis => some perfMtdis
  | .mzero a => some (perfMzero a)
  | .mopa a v k mr mc => some (perfMopa a v k mr mc)
  | .mopav a v b mr mc t => some (perfMopav a v b mr mc t)
  | .mrds a v i col => some (perfMrds a v i col)
  | .mwrs a v i col => some (perfMwrs a v i col)
  | .mstt o => some (perfMstt o)
  | .mgacc o => some (perfMgacc o)
  | .mgst a => some (perfMgst a)
  | .mwld a l => some (perfMwld a l)
  | .vfetch o => some (perfVfetch o)
  | .vfetchx a => some (perfVfetchx a)
  | .qenqV o => some (perfQenqV o)
  | .qdeqV o => some (perfQdeqV o)
  | _ => none

/-! ### Entries that outlive their task -/

/-- An uncorrectable error in an entry of a task that has ended: a kind-2 record under its tag, and its launch fails (R49,
R367). -/
def State.lateError (s : State) (e : Entry) (t : Trap) : State :=
  let r : FaultRec := ({ kind := 2, cause := t.cause.code, tag := s.tagOf e.task, tid := tidOf e.task, pc := e.chk.pc,
                         va := t.addr } : FaultRec).of (some s.cur)
  let s := s.faultRecord (CtxIx.die s.cur) r
  match e.task with
  | some u => s.failLaunch u.launch
  | none => s

/-- Performs an entry of a task that has ended, with `rest` left in the queue: it runs as its own task's, on the registers of that task,
which the task's other entries then find as it leaves them; nothing of it reaches the registers of the next task, or its VSQ and
flags (R49). -/
def State.performStale (s : State) (e : Entry) (rest : List Entry) (p : Perf) : State :=
  let x := s.me
  let own := e.past.getD ⟨x.regs, x.badRegs⟩
  let back := fun (t : State) => t.setMe { x with viq := rest.map fun o =>
    if o.task == e.task && o.past.isSome then { o with past := some ⟨t.me.regs, t.me.badRegs⟩ } else o }
  match (s.setMe { x with task := e.task, viq := rest, regs := own.regs, badRegs := own.bad }).performSound e p with
  | .done t => back t
  | .trap t f _ _ => (back t).lateError e f
  | .wait t => t.setMe x

/-! ### Performing entries -/

/-- An entry that stays in its queue: an MWLD that has read its image and waits for WEIGHT_BUFFER_SWITCH alone has passed its fault point
(R46, R238). -/
def State.waiting (s : State) (e : Entry) : Entry :=
  match e.instr, (s.quad s.myQuad).wnext with
  | .mwld _ _, some (_, c) =>
    if c = s.cur ∧ e.passed.isNone then { e with passed := some (s.xlates (e.unitAgent s.cur)) } else e
  | _, _ => e

/-- Performs entry `n` of the acting context's queue. -/
def State.perform (s : State) (n : Nat) : State :=
  match s.me.viq[n]? with
  | none => s
  | some e =>
    match perfOf e.instr with
    | none => s
    | some p =>
      let rest := s.me.viq.eraseIdx n
      if e.task != s.me.task then s.performStale e rest p
      else
        match (s.setMe { s.me with viq := rest }).performSound e p with
        | .done t => t.completed e
        | .trap t x f blk => (t.entryTrap e x f blk).recordStarted (s.startedOn e (s.me.viq.drop (n + 1)))
        | .wait t => t.setMe { t.me with viq := t.me.viq.insertIdx n (t.waiting e) }

/-- The entries at the head of the queue that have passed their fault points complete, up to `n` of them. -/
def State.finish : Nat → State → State
  | 0, s => s
  | n + 1, s =>
    match s.me.viq with
    | e :: _ => if e.passed.isSome then State.finish n (s.perform 0) else s
    | [] => s

/-- Every entry of the acting context that has passed its fault point completes. -/
def State.finishPassed (s : State) : State := s.finish s.me.viq.length

/-- The lanes take the oldest entry of the acting context. An element block in flight holds those that have not passed their
fault points, and an entry that waits parked is looked at again by its wake. -/
def State.startEntry (s : State) : State :=
  if (s.me.entryParked || s.me.block.isSome) && s.me.passedLen = 0 then s else s.perform 0

/-- Entries that are performed in their turn only: those that wait for something of their own (R230, R238, R334), and queue
operations, which are performed as they issue. -/
def inTurn : Instr → Bool
  | .matt _ | .mattB _ | .mwld _ _ | .vrred _ _ _ _ | .qenqV _ | .qdeqV _ => true
  | _ => false

/-- Whether entry `n` may be performed before the older ones: each of them has passed its fault point, and it depends on none of
them (R45). -/
def State.mayStart (s : State) (n : Nat) (e : Entry) : Bool :=
  !inTurn e.instr && (s.me.viq.take n).all fun p => p.passed.isSome && s.mayPass p e

/-- The lanes take entry `n` of the acting context: what it writes does not stand in the checkpoints of the older ones. Where it faults,
these complete first (R47). -/
def State.startAt (s : State) (n : Nat) : State :=
  match s.me.viq[n]? with
  | none => s
  | some e =>
    if n = 0 then s.startEntry
    else if !s.mayStart n e || ((s.me.entryParked || s.me.block.isSome) && e.passed.isNone) || e.task != s.me.task then s
    else
      match (perfOf e.instr).map fun p => (s.setMe { s.me with viq := s.me.viq.eraseIdx n }).performSound e p with
      | some (.done t) => (t.setMe { t.me with viq := s.me.viq.take n ++ t.me.viq.drop n }).completed e
      | some (.trap _ _ _ _) => (s.finish n).perform 0
      | _ => s

/-! ### Fault points -/

/-- Entries that may pass their fault point before they are performed: vector memory instructions, and the instructions of the matrix unit
and the activation stack that access memory, as everything they access has been translated; and entries that only mark the end of an
interval or write what was decided as they issued, as they start (R46). Every other entry passes it as it is performed. -/
def pointed : Instr → Bool
  | .vld _ | .vlds _ _ | .vldg _ _ | .vld2 _ | .vldx _ _ | .vldxAcq _ _ _ _ _ | .vldw _ _ _ _ _ | .vldb _ _ _ _ _ | .vst _
  | .vsts _ _ | .vstsNtf _ _ | .vstg _ _ _ | .vst2 _ _ | .vstx _ _ _ | .vstb _ _ | .vstbNtf _ _ | .vamo _ | .vsred _ _
  | .vrred _ _ _ _ | .nsend _ | .apush _ _ _ | .apop _ _ | .mstt _ | .mgst _ | .mwld _ _ | .vsplat _ | .vsetl _ _ | .vsetlx _ | .strip _ _ _ _ | .setfib _ _ _
  | .vprf _ _ _ => true
  | _ => false

/-- Whether a pointed entry that waits has been translated: one that has no room in an egress buffer (R334). -/
def waitsPassed : Instr → Bool
  | .vrred _ _ _ _ | .nsend _ => true
  | _ => false

/-- Whether what an entry is translated with stays as it is until it is performed: one that works under a record or a header has it, and
the words of a bitmap block or an image and the header of a frame do not lie in the local window. -/
def Entry.fixed (e : Entry) : Bool :=
  match e.instr with
  | .vld2 _ | .vst2 _ _ | .mstt _ | .mgst _ => e.rcd.isSome
  | .vldb _ a _ _ _ | .mwld a _ => e.rcd.isSome && (winOff (e.chk.rx a)).isNone
  | .apop _ _ => (winOff (e.chk.asp - 16)).isNone
  | _ => true

/-- What decides which locations an entry accesses, beside what it captured as it issued: its mask, its indexes, the elements of a VSTB,
which give the block its length, and the frames of the activation stack. -/
def pointReads : Instr → List Res
  | .vld o | .vlds o _ | .vldg o _ | .vld2 o | .vsplat o => mselRes o.m
  | .vldx o i => .v i :: mselRes o.m
  | .vldxAcq _ _ i m _ => .v i :: mselRes m
  | .vldw _ _ i _ _ => [.v i]
  | .vst o => mselRes o.m
  | .vsts o _ | .vstsNtf o _ | .vst2 o _ | .vstg o _ _ | .vrred o _ _ _ => mselRes o.m
  | .vstx o i _ => .v i :: mselRes o.m
  | .vstb o _ | .vstbNtf o _ => .v o.v :: mselRes o.m
  | .vamo o => ((vregAdd o.v 1).map Res.v).toList ++ mselRes o.m
  | .vsred o _ => ((vregAdd o.v 1).map Res.v).toList ++ mselRes o.m
  | .mstt o => mselRes o.mr ++ mselRes o.mc
  | .apush _ _ _ | .apop _ _ => [.astk]
  | _ => []

/-- Whether an older entry may still change what decides the locations of a younger one: a register or a frame that it reads for them,
memory that holds the frame of an APOP, or the region of an MGST. -/
def State.decides (s : State) (p e : Entry) : Bool :=
  (s.entryRes p).2.any (pointReads e.instr).contains ||
    match e.instr, p.instr with
    | .apop _ _, _ => (s.entryAccess p).2
    | .mgst _, .mgst _ => true
    | _, _ => false

/-- Whether entry `n` can be translated: every older one has passed its fault point, and changes nothing that decides what it accesses. -/
def State.mayPoint (s : State) (n : Nat) (e : Entry) : Bool :=
  pointed e.instr && e.fixed && e.task == s.me.task && s.me.block.isNone && (s.me.viq.take n).all fun p => !s.decides p e

/-- The oldest entry of the acting context that has not passed its fault point is translated (R46): what it would do now shows
whether it faults. Where it does not, it has passed and keeps the translations; where it does, it faults in its turn. -/
def State.passPoint (s : State) : State :=
  let n := s.me.passedLen
  match s.me.viq[n]? with
  | none => s
  | some e =>
    let g := if (resOf e.instr).1.contains .matrix then e.unitAgent s.cur else e.agent s.cur
    let pass := s.setMe { s.me with viq := s.me.viq.set n { e with passed := some (s.xlates g) } }
    let free := { s with choices := { s.choices with lanesHeld := false } }
    if !s.mayPoint n e then s
    else
      match (perfOf e.instr).map fun p => (free.setMe { s.me with viq := s.me.viq.eraseIdx n }).performSound e p with
      | some (.done _) => pass
      | some (.trap _ _ _ _) => (s.finish n).perform 0
      | some (.wait _) => if waitsPassed e.instr then pass else s
      | none => s

/-- VIQ_ENTRY_START (R45). -/
def execViqEntryStart (c : CtxIx) (s : State) : Host.Outcome State Fault Refusal :=
  .next ({ s with cur := c } : State).startEntry

end Sys2Proof.Machine
end

