-- ==== Sys2Proof/Machine/Chain.lean ====
section
/-!
DEFINITION. Chained starts (R45, R193, R316, R317) and element groups (R45): while an older load of the context runs, younger entries that
read its results with a chain bit may have started, and a store among them may have performed the element groups that the load has
completed. Where the load then faults, they are recorded in VTF0 to VTF3.
-/
namespace Sys2Proof.Machine

/-- The younger entries that had started chained on the older load `h`, which has performed its elements below `k`, with what
they had performed by then and the element each is recorded with (R316): at most `room` of them (R317). `gs` says of each entry
that follows `h` how far it was: 0 not started, g + 1 started with g element groups completed, no more than the load has. `older`
are the entries between that had not started, on which a started one does not depend. A store starts its groups once all its
elements have been translated (R258). -/
def State.chained (s : State) (h : Entry) (ds : List VReg) (k : Nat) :
    Nat → List Entry → List Entry → List Nat → State × List (Entry × Nat)
  | room, older, y :: ys, g :: gs =>
    let n := groupSize h.chk
    if room = 0 ∨ k / n = 0 then (s, [])
    else if g = 0 ∨ !s.mayChain h y ds ∨ !older.all (s.mayPass · y) then s.chained h ds k room (y :: older) ys gs
    else
      match (chainPerf y.instr).map fun p => (p y s, p (y.upTo (Nat.min (g - 1) (k / n) * n)) s) with
      | none =>
        let (t, r) := s.chained h ds k (room - 1) older ys gs
        (t, (y, 0) :: r)
      | some (.done _, .done s') =>
        let done := Nat.min (g - 1) (k / n) * n
        let (t, r) := s'.chained h ds k (room - 1) older ys gs
        (t, (y, Nat.max done (y.chk.vstart.toNat / n * n)) :: r)
      | some _ => s.chained h ds k room (y :: older) ys gs
  | _, _, _, _ => (s, [])

/-- The lanes take the oldest entry of the acting context that has not passed its fault point, and younger ones have started
chained on it (R317). Where it completes, the younger ones are performed in their turn with the same result; where it faults,
what they had completed stands and they are recorded. -/
def State.startChained (s : State) (gs : List Nat) : State :=
  let s := s.finishPassed
  if s.me.block.isSome || s.me.entryParked then s
  else
    match s.me.viq with
    | [] => s
    | e :: rest =>
      match perfOf e.instr with
      | none => s
      | some p =>
        match (s.setMe { s.me with viq := rest }).performSound e p with
        | .trap v t f false =>
          let (u, r) := v.chained e (loadDests e.instr) t.elem 4 [] rest gs
          (u.entryTrap e t f false).recordStarted r
        | _ => s.perform 0

/-! ### Element groups -/

/-- What an entry that works element by element performs of the elements it is cut to: a plain vector load or store, a VAMO without
ordering, a VLDB or a VSPLAT. -/
def groupPerf : Instr → Option Perf
  | .vld o => some (perfVld o)
  | .vlds o b => some (perfVlds o b)
  | .vldg o n => some (perfVldg o n)
  | .vld2 o => some (perfVld2 o)
  | .vldx o x => some (perfVldx o x)
  | .vldb v a b mo e => some (perfVldb v a b mo e)
  | .vamo o => if o.ord = .none then some (perfVamo o) else none
  | .vsplat o => some (perfVsplat o)
  | i => chainPerf i

/-- Whether entry `n` may perform its elements below `k` before the older entries: each of them has passed its fault point, and it depends
on none of them, or is chained on one whose elements below `k` are performed (R45). -/
def State.mayGroup (s : State) (n k : Nat) (e : Entry) : Bool :=
  !inTurn e.instr && (s.me.viq.take n).all fun p => p.passed.isSome &&
    (s.mayPass p e || (s.mayChain p e (groupDests p.instr) && decide (k ≤ p.chk.vstart.toNat)))

/-- The lane groups complete the first `g` element groups of entry `n`, which has passed its fault point (R45): its elements in them are
performed, and the others are left for later, so that accesses of the context and of others, and the groups of an entry chained on it,
may come between (R265). -/
def State.startGroups (s : State) (n g : Nat) : State :=
  match s.me.viq[n]? with
  | none => s
  | some e =>
    let k := Nat.min (g * groupSize e.chk) e.chk.vl
    if e.passed.isNone || e.task != s.me.task || !s.mayGroup n k e || decide (k ≤ e.chk.vstart.toNat) || decide (4096 ≤ k) then s
    else
      match (groupPerf e.instr).map fun p => (s.setMe { s.me with viq := s.me.viq.eraseIdx n }).performSound (e.upTo k) p with
      | some (.done t) =>
        let rest : Entry := { e with chk := { e.chk with vstart := BitVec.ofNat 12 k } }
        t.setMe { t.me with viq := s.me.viq.take n ++ rest :: t.me.viq.drop n }
      | _ => s

end Sys2Proof.Machine
end

