-- ==== Sys2Proof/Machine/Crypto.lean ====
section
/-!
DEFINITION. The algorithms that R357 and R358 name: SHA-384 and SHA-256, verification of an ECDSA P-384 signature, and of an LMS
signature with LMS_SHA256_M32_H10 and LMOTS_SHA256_N32_W8 (RFC 8554). The manual names them and does not restate them (PRESUMED, log
entry 43).
-/
namespace Sys2Proof.Machine

/-! ### SHA-2 -/

/-- A big-endian number of bytes, the most significant first. -/
def beNat (bs : List Byte) : Nat := bs.foldl (fun n b => n * 256 + b.toNat) 0
/-- `n` bytes of a number, the most significant first. -/
def beBytes (n x : Nat) : List Byte := (leBytes n x).reverse

/-- The round constants of SHA-384: the first 64 bits of the fractional parts of the cube roots of the first 80 primes; those of SHA-256
are their upper halves. -/
def shaK : List (BitVec 64) :=
  [0x428a2f98d728ae22, 0x7137449123ef65cd, 0xb5c0fbcfec4d3b2f, 0xe9b5dba58189dbbc] ++
  [0x3956c25bf348b538, 0x59f111f1b605d019, 0x923f82a4af194f9b, 0xab1c5ed5da6d8118] ++
  [0xd807aa98a3030242, 0x12835b0145706fbe, 0x243185be4ee4b28c, 0x550c7dc3d5ffb4e2] ++
  [0x72be5d74f27b896f, 0x80deb1fe3b1696b1, 0x9bdc06a725c71235, 0xc19bf174cf692694] ++
  [0xe49b69c19ef14ad2, 0xefbe4786384f25e3, 0x0fc19dc68b8cd5b5, 0x240ca1cc77ac9c65] ++
  [0x2de92c6f592b0275, 0x4a7484aa6ea6e483, 0x5cb0a9dcbd41fbd4, 0x76f988da831153b5] ++
  [0x983e5152ee66dfab, 0xa831c66d2db43210, 0xb00327c898fb213f, 0xbf597fc7beef0ee4] ++
  [0xc6e00bf33da88fc2, 0xd5a79147930aa725, 0x06ca6351e003826f, 0x142929670a0e6e70] ++
  [0x27b70a8546d22ffc, 0x2e1b21385c26c926, 0x4d2c6dfc5ac42aed, 0x53380d139d95b3df] ++
  [0x650a73548baf63de, 0x766a0abb3c77b2a8, 0x81c2c92e47edaee6, 0x92722c851482353b] ++
  [0xa2bfe8a14cf10364, 0xa81a664bbc423001, 0xc24b8b70d0f89791, 0xc76c51a30654be30] ++
  [0xd192e819d6ef5218, 0xd69906245565a910, 0xf40e35855771202a, 0x106aa07032bbd1b8] ++
  [0x19a4c116b8d2d0c8, 0x1e376c085141ab53, 0x2748774cdf8eeb99, 0x34b0bcb5e19b48a8] ++
  [0x391c0cb3c5c95a63, 0x4ed8aa4ae3418acb, 0x5b9cca4f7763e373, 0x682e6ff3d6b2b8a3] ++
  [0x748f82ee5defb2fc, 0x78a5636f43172f60, 0x84c87814a1f0ab72, 0x8cc702081a6439ec] ++
  [0x90befffa23631e28, 0xa4506cebde82bde9, 0xbef9a3f7b2c67915, 0xc67178f2e372532b] ++
  [0xca273eceea26619c, 0xd186b8c721c0c207, 0xeada7dd6cde0eb1e, 0xf57d4f7fee6ed178] ++
  [0x06f067aa72176fba, 0x0a637dc5a2c898a6, 0x113f9804bef90dae, 0x1b710b35131c471b] ++
  [0x28db77f523047d84, 0x32caab7b40c72493, 0x3c9ebe0a15c9bebc, 0x431d67c49c100d4c] ++
  [0x4cc5d4becb3e42b6, 0x597f299cfc657e2a, 0x5fcb6fab3ad6faec, 0x6c44198c4a475817]

/-- The upper half of a constant. -/
def shaHalf (x : BitVec 64) : BitVec 32 := (x >>> 32).setWidth 32

/-- What SHA-384 starts from: the square roots of the ninth to the sixteenth prime. -/
def sha384Init : List (BitVec 64) :=
  [0xcbbb9d5dc1059ed8, 0x629a292a367cd507, 0x9159015a3070dd17, 0x152fecd8f70e5939] ++
  [0x67332667ffc00b31, 0x8eb44a8768581511, 0xdb0c2e0d64f98fa7, 0x47b5481dbefa4fa4]
/-- What SHA-256 starts from: those of the first eight primes. -/
def sha256Init : List (BitVec 32) :=
  ([0x6a09e667f3bcc908, 0xbb67ae8584caa73b, 0x3c6ef372fe94f82b, 0xa54ff53a5f1d36f1] ++
  [0x510e527fade682d1, 0x9b05688c2b3e6c1f, 0x1f83d9abfb41bd6b, 0x5be0cd19137e2179] : List (BitVec 64)).map shaHalf

/-- The rotations of a SHA-2 function: of Σ0, Σ1, σ0 and σ1, the last number of a σ being a shift. -/
structure ShaRot where
  big0 : Nat × Nat × Nat
  big1 : Nat × Nat × Nat
  sml0 : Nat × Nat × Nat
  sml1 : Nat × Nat × Nat
  deriving DecidableEq, Repr

/-- Rotations of the 64-bit functions. -/
def rot64 : ShaRot := ⟨(28, 34, 39), (14, 18, 41), (1, 8, 7), (19, 61, 6)⟩
/-- Rotations of the 32-bit functions. -/
def rot32 : ShaRot := ⟨(2, 13, 22), (6, 11, 25), (7, 18, 3), (17, 19, 10)⟩

/-- Σ. -/
def bigSigma {w : Nat} (r : Nat × Nat × Nat) (x : BitVec w) : BitVec w :=
  x.rotateRight r.1 ^^^ x.rotateRight r.2.1 ^^^ x.rotateRight r.2.2
/-- σ. -/
def smallSigma {w : Nat} (r : Nat × Nat × Nat) (x : BitVec w) : BitVec w := x.rotateRight r.1 ^^^ x.rotateRight r.2.1 ^^^ (x >>> r.2.2)

/-- The message schedule, newest word first, `n` words beyond those of the block. -/
def shaExpand {w : Nat} (r : ShaRot) : Nat → List (BitVec w) → List (BitVec w)
  | 0, ws => ws
  | n + 1, ws =>
    let at_ := fun k => ws.getD (k - 1) 0
    shaExpand r n ((smallSigma r.sml1 (at_ 2) + at_ 7 + smallSigma r.sml0 (at_ 15) + at_ 16) :: ws)

/-- One round on the eight working words. -/
def shaRound {w : Nat} (r : ShaRot) (v : List (BitVec w)) (kw : BitVec w) : List (BitVec w) :=
  match v with
  | [a, b, c, d, e, f, g, h] =>
    let t1 := h + bigSigma r.big1 e + ((e &&& f) ^^^ (~~~e &&& g)) + kw
    let t2 := bigSigma r.big0 a + ((a &&& b) ^^^ (a &&& c) ^^^ (b &&& c))
    [t1 + t2, a, b, c, d + t1, e, f, g]
  | v => v

/-- One block of 16 words. -/
def shaBlock {w : Nat} (r : ShaRot) (ks v ws : List (BitVec w)) : List (BitVec w) :=
  let sched := (shaExpand r (ks.length - 16) ws.reverse).reverse
  let x := ((ks.zip sched).map fun p => p.1 + p.2).foldl (shaRound r) v
  (v.zip x).map fun p => p.1 + p.2

/-- The blocks of a padded message, of `n` bytes per word; `fuel` bounds their number. -/
def shaBlocks {w : Nat} (r : ShaRot) (n : Nat) (ks : List (BitVec w)) : Nat → List (BitVec w) → List Byte → List (BitVec w)
  | 0, v, _ => v
  | fuel + 1, v, bs =>
    if bs.isEmpty then v
    else
      let ws := (List.range 16).map fun k => BitVec.ofNat w (beNat ((bs.drop (n * k)).take n))
      shaBlocks r n ks fuel (shaBlock r ks v ws) (bs.drop (16 * n))

/-- A message with its padding to blocks of 16 words of `n` bytes: a 1 bit, zeros, and the length in bits in two words. -/
def shaPad (n : Nat) (bs : List Byte) : List Byte :=
  let m := bs.length + 1 + 2 * n
  bs ++ 0x80#8 :: List.replicate ((16 * n - m % (16 * n)) % (16 * n)) 0 ++ beBytes (2 * n) (8 * bs.length)

/-- SHA-384: 48 bytes. -/
def sha384 (bs : List Byte) : List Byte :=
  let p := shaPad 8 bs
  ((shaBlocks rot64 8 shaK (p.length / 128) sha384Init p).take 6).flatMap fun x => beBytes 8 x.toNat
/-- SHA-256: 32 bytes. -/
def sha256 (bs : List Byte) : List Byte :=
  let p := shaPad 4 bs
  (shaBlocks rot32 4 ((shaK.take 64).map shaHalf) (p.length / 64) sha256Init p).flatMap fun x => beBytes 4 x.toNat

/-! ### ECDSA P-384 -/

/-- The prime of the field of P-384. -/
def p384P : Nat := 2 ^ 384 - 2 ^ 128 - 2 ^ 96 + 2 ^ 32 - 1
/-- The order of its group. -/
def p384N : Nat := 0xffffffffffffffffffffffffffffffffffffffffffffffffc7634d81f4372ddf581a0db248b0a77aecec196accc52973
/-- The base point. -/
def p384G : Nat × Nat :=
  (0xaa87ca22be8b05378eb1c71ef320ad746e1d3b628ba79b9859f741e082542a385502f25dbf55296c3a545e3872760ab7,
   0x3617de4a96262c6f5d9e98bf9292dc29f8f41dbd289a147ce9da3113b5f0b8c00a60b1ce1d7e819d7a431d7c90ea0e5f)

/-- x^e mod m over the low `k` bits of e. -/
def powMod (m : Nat) : Nat → Nat → Nat → Nat
  | 0, _, _ => 1 % m
  | k + 1, x, e => (if e % 2 = 1 then x else 1) * powMod m k (x * x % m) (e / 2) % m
/-- The inverse modulo a prime of 384 bits. -/
def invMod (m x : Nat) : Nat := powMod m 384 (x % m) (m - 2)

/-- The sum of two points of the curve; none is the point at infinity. -/
def p384Add (a b : Option (Nat × Nat)) : Option (Nat × Nat) :=
  match a, b with
  | none, b => b
  | a, none => a
  | some (x, y), some (u, v) =>
    let p := p384P
    if x = u ∧ (y + v) % p = 0 then none
    else
      let l := if x = u then (3 * x * x + p - 3) * invMod p (2 * y) % p else (v + p - y) * invMod p (u + p - x) % p
      let z := (l * l + 2 * p - x - u) % p
      some (z, (l * (x + p - z) + p - y) % p)

/-- k · a over the low `n` bits of k. -/
def p384Mul : Nat → Nat → Option (Nat × Nat) → Option (Nat × Nat)
  | 0, _, _ => none
  | n + 1, k, a => p384Add (if k % 2 = 1 then a else none) (p384Mul n (k / 2) (p384Add a a))

/-- Whether r, s is a signature of a digest under a public key. -/
def ecdsaVerify (key : Nat × Nat) (digest : List Byte) (r s : Nat) : Bool :=
  let n := p384N
  if r = 0 ∨ s = 0 ∨ n ≤ r ∨ n ≤ s then false
  else
    let w := invMod n s
    match p384Add (p384Mul 384 (beNat digest * w % n) (some p384G)) (p384Mul 384 (r * w % n) (some key)) with
    | none => false
    | some (x, _) => x % n == r

/-! ### LMS -/

/-- The typecodes of LMS_SHA256_M32_H10, LMS_SHA256_M32_H15 and LMOTS_SHA256_N32_W8. -/
def lmsH10 : Nat := 6
/-- The second. -/
def lmsH15 : Nat := 7
/-- The third. -/
def lmotsW8 : Nat := 4

/-- The hash of a part of an LMS tree: identifier, a 32-bit number, a 16-bit label, and what is hashed. -/
def lmsHash (id : List Byte) (q label : Nat) (x : List Byte) : List Byte := sha256 (id ++ beBytes 4 q ++ beBytes 2 label ++ x)

/-- `n` further links of the chain of byte `i` of a one-time signature, from link `j`. -/
def lmotsChain (id : List Byte) (q i : Nat) : Nat → Nat → List Byte → List Byte
  | 0, _, x => x
  | n + 1, j, x => lmotsChain id q i n (j + 1) (lmsHash id q i (beBytes 1 j ++ x))

/-- The one-time public key that a signature of a message stands for. -/
def lmotsKey (id : List Byte) (q : Nat) (msg sig : List Byte) : List Byte :=
  let d := lmsHash id q 0x8181 ((sig.drop 4).take 32 ++ msg)
  let ck := (d.map fun b => 255 - b.toNat).sum
  let ends := (d ++ beBytes 2 ck).zipIdx.map fun p =>
    lmotsChain id q p.2 (255 - p.1.toNat) p.1.toNat ((sig.drop (36 + 32 * p.2)).take 32)
  lmsHash id q 0x8080 ends.flatten

/-- The root that a leaf and its path lead to. -/
def lmsRoot (id : List Byte) : Nat → Nat → List Byte → List Byte → List Byte
  | 0, _, x, _ => x
  | n + 1, node, x, path =>
    let y := path.take 32
    lmsRoot id n (node / 2) (lmsHash id (node / 2) 0x8383 (if node % 2 = 1 then y ++ x else x ++ y)) (path.drop 32)

/-- Whether 1,452 bytes are a signature of a message under an LMS public key: its identifier and its root. -/
def lmsVerify (id root msg sig : List Byte) : Bool :=
  let q := beNat (sig.take 4)
  let ots := (sig.drop 4).take 1124
  let node := 2 ^ 10 + q
  sig.length == 1452 && decide (q < 2 ^ 10) && beNat (ots.take 4) == lmotsW8 && beNat ((sig.drop 1128).take 4) == lmsH10 &&
    lmsRoot id 10 node (lmsHash id node 0x8282 (lmotsKey id q msg ots)) (sig.drop 1132) == root

end Sys2Proof.Machine
end

