-- ==== Sys2Proof/Machine/Save.lean ====
section
/-!
DEFINITION. The saved form of a context (R79), the save slots (R325), and bringing a context to a pre-emption point (R53).
-/
namespace Sys2Proof.Machine

/-! ### The 80 KiB layout -/

/-- Per-context CSR slot `n` of Table 5-4; core-wide and unassigned slots are 0. -/
def Scalar.csrSlot (sc : Scalar) (n : Nat) : Nat :=
  match n with
  | 0x00 => sc.vl
  | 0x01 => sc.vt.toNat
  | 0x02 => sc.vstart.toNat
  | 0x08 => sc.theta.toNat
  | 0x09 => sc.wlim.toNat
  | 0x10 => sc.fflags.toNat
  | 0x11 => sc.frm.toNat
  | 0x12 => sc.fiboff.toNat
  | 0x13 => sc.sstr.toNat
  | 0x14 => sc.pwaddr.toNat
  | 0x18 => sc.ulivec.toNat
  | 0x19 => sc.ulien.toNat + 2 * sc.ulinh.toNat
  | 0x1A => sc.ulipend.toNat
  | 0x21 => sc.instret.toNat
  | 0x28 => sc.tid.toNat
  | 0x29 => sc.tcore.toNat
  | 0x2A => sc.tquad.toNat
  | 0x2B => sc.tdie.toNat
  | 0x30 => sc.mgrant.toNat
  | 0x31 => sc.mstate.toNat
  | 0x38 => sc.asb.toNat
  | 0x39 => sc.asl.toNat
  | 0x3A => sc.asp.toNat
  | 0x49 => sc.pstat.toNat
  | 0x4A => sc.rvec.toNat
  | _ => 0

/-- Supervisor CSR slot `n` of Table 5-4. -/
def Scalar.supSlot (sc : Scalar) (n : Nat) : Nat :=
  match n with
  | 0 => sc.stvec.toNat
  | 1 => sc.sepc.toNat
  | 2 => sc.scause.toNat
  | 3 => sc.saddr.toNat
  | 4 => sc.selem.toNat
  | 5 => sc.sstatus.toNat
  | 6 => sc.satp.toNat
  | 8 => sc.vtf[0].toNat
  | 9 => sc.vtf[1].toNat
  | 10 => sc.vtf[2].toNat
  | 11 => sc.vtf[3].toNat
  | _ => 0

/-- Code of a feed state in the model's layout of a saved slot (log entry 16). -/
def FeedState.code : FeedState → Nat
  | .idle => 0
  | .open => 1
  | .ended => 2
  | .drained => 3

/-- The 64 bytes of a feed slot; the manual gives no layout (log entry 16). -/
def FeedSlot.bytes (f : FeedSlot) : List Byte :=
  leBytes 8 (f.st.code + f.out.toNat * 2 ^ 8 + f.w * 2 ^ 16 + f.stride * 2 ^ 24 + f.bo.isSome.toNat * 2 ^ 32) ++
    leBytes 8 (f.bo.getD 0).toNat ++ leBytes 8 f.base.toNat ++ leBytes 8 f.len ++ leBytes 8 f.pos ++ leBytes 8 f.ferry ++
    leBytes 16 0

/-- The 80 KiB of a context (Table 5-4); `shadow` are the bits of the block shadow, which holds nothing visible. The layout has
room for 16 VSQ values; what stands behind them is kept beside it (log entry 16). -/
def Regs.bytes (r : Regs) (shadow : BitVec 114688) : List Byte :=
  let sc := { r.sc with vsq := r.sc.vsq.take 16 }
  r.v.toList.flatMap (fun x => leBytes 1024 x.toNat) ++ r.m.toList.flatMap (fun x => leBytes 512 x.toNat) ++
    r.w.toList.flatMap (fun x => leBytes 1024 x.toNat) ++ leBytes 14336 shadow.toNat ++
    (leBytes 8 0 ++ (sc.x.toList.drop 1).flatMap fun x => leBytes 8 x.toNat) ++
    sc.shadow.toList.flatMap (fun x => leBytes 8 x.toNat) ++
    (sc.vsq.flatMap fun x => leBytes 8 x.toNat) ++ List.replicate (8 * (16 - sc.vsq.length)) 0 ++
    (leBytes 1 0 ++ leBytes 1 sc.vsq.length ++ leBytes 8 sc.vsqPops.toNat ++ leBytes 54 0) ++
    (List.range 96).flatMap (fun n => leBytes 8 (sc.csrSlot n)) ++
    r.feeds.toList.flatMap FeedSlot.bytes ++ leBytes 8 sc.pc.toNat ++
    (List.range 12).flatMap (fun n => leBytes 8 (sc.supSlot n)) ++ List.replicate 2456 0

/-- A feed slot read back: strips in flight are fetched again (R74); what an output feed still has to write is `old`'s. -/
def FeedSlot.ofBytes (f : Nat → Nat → Nat) (off : Nat) (old : FeedSlot) : FeedSlot :=
  let h := f off 8
  let out := bits h 8 1 == 1
  let pos := f (off + 32) 8
  { st := match bits h 0 8 with
      | 1 => .open
      | 2 => if out then .ended else .open
      | 3 => .drained
      | _ => .idle
    out := out
    base := BitVec.ofNat 64 (f (off + 16) 8)
    len := f (off + 24) 8
    w := bits h 16 8
    stride := bits h 24 8
    pos := pos
    ferry := if out then f (off + 40) 8 else pos
    buf := if out then old.buf else []
    fault := if out then old.fault else none
    bo := if bits h 32 1 = 1 then some (BitVec.ofNat 64 (f (off + 8) 8)) else none }

/-- No weight value is above 0x8000 (R73): an element above it becomes a free value in the range (DESIGN CHOICE, log entries 6 and 44: R73
bounds the value and does not name it). -/
def clampWeights (x : VBits) : VBits :=
  let clamp := fun a => if a ≤ 0x8000 then a else Nat.min 0x8000 (Config.weightAbove a).toNat
  BitVec.ofNat 8192 (packNat 16 (fun i => clamp (elem x i 16)) 512)

/-- A scalar side read back; privilege is user (R79). `f off n` is the `n`-byte value at an offset of the layout;
`tail` are the VSQ values that the layout has no room for. -/
def Scalar.ofBytes (f : Nat → Nat → Nat) (tail : List Word64) : Scalar :=
  let c := fun n => f (0x13200 + 8 * n) 8
  let p := fun n => f (0x13608 + 8 * n) 8
  { x := Vector.ofFn fun k => if k.val = 0 then 0 else BitVec.ofNat 64 (f (0x13000 + 8 * k.val) 8)
    pc := BitVec.ofNat 64 (f 0x13600 8)
    sup := false
    vl := c 0x00
    vt := BitVec.ofNat 11 (c 0x01)
    vstart := BitVec.ofNat 12 (c 0x02)
    theta := BitVec.ofNat 16 (c 0x08)
    wlim := BitVec.ofNat 13 (c 0x09)
    fflags := BitVec.ofNat 8 (c 0x10)
    frm := BitVec.ofNat 3 (c 0x11)
    fiboff := BitVec.ofNat 32 (c 0x12)
    sstr := BitVec.ofNat 64 (c 0x13)
    pwaddr := BitVec.ofNat 64 (c 0x14)
    ulivec := BitVec.ofNat 64 (c 0x18)
    ulien := c 0x19 % 2 == 1
    ulinh := c 0x19 / 2 % 2 == 1
    ulipend := BitVec.ofNat 16 (c 0x1A)
    instret := BitVec.ofNat 64 (c 0x21)
    tid := BitVec.ofNat 32 (c 0x28)
    tcore := BitVec.ofNat 32 (c 0x29)
    tquad := BitVec.ofNat 32 (c 0x2A)
    tdie := BitVec.ofNat 32 (c 0x2B)
    mgrant := BitVec.ofNat 8 (c 0x30)
    mstate := BitVec.ofNat 2 (c 0x31)
    asb := BitVec.ofNat 64 (c 0x38)
    asl := BitVec.ofNat 64 (c 0x39)
    asp := BitVec.ofNat 64 (c 0x3A)
    pstat := BitVec.ofNat 2 (c 0x49)
    rvec := BitVec.ofNat 64 (c 0x4A)
    stvec := BitVec.ofNat 64 (p 0)
    sepc := BitVec.ofNat 64 (p 1)
    scause := BitVec.ofNat 8 (p 2)
    saddr := BitVec.ofNat 64 (p 3)
    selem := BitVec.ofNat 12 (p 4)
    sstatus := BitVec.ofNat 3 (p 5)
    satp := BitVec.ofNat 64 (p 6)
    vtf := Vector.ofFn fun k => BitVec.ofNat 64 (p (8 + k.val))
    shadow := Vector.ofFn fun k => BitVec.ofNat 64 (f (0x13100 + 8 * k.val) 8)
    vsq := ((List.range (f 0x131C1 1)).map fun k => BitVec.ofNat 64 (f (0x13140 + 8 * ((f 0x131C0 1 + k) % 16)) 8)) ++ tail
    vsqPops := BitVec.ofNat 64 (f 0x131C2 8)
    ivl := 0 }

/-- Registers read back from a slot: the layout of R79, and acc0 to acc3 above the band record (R325). A weight element above
0x8000 is restored as a free value in the range of R73 (DESIGN CHOICE, log entries 6 and 44). -/
def Regs.ofBytes (f : Nat → Nat → Nat) (v : Saved) : Regs :=
  let sc := Scalar.ofBytes f v.vsqTail
  let rows := f 0x14000 1
  { sc := { sc with mgrant := BitVec.ofNat 8 rows, mstate := BitVec.ofNat 2 (f 0x14001 1) }
    v := Vector.ofFn fun k => BitVec.ofNat 8192 (f (1024 * k.val) 1024)
    m := Vector.ofFn fun k => BitVec.ofNat 4096 (f (0xC000 + 512 * k.val) 512)
    w := Vector.ofFn fun k => clampWeights (BitVec.ofNat 8192 (f (0xD800 + 1024 * k.val) 1024))
    feeds := Vector.ofFn fun k => FeedSlot.ofBytes f (0x13500 + 64 * k.val) v.feeds[k.val]
    acc := Vector.ofFn fun a => Vector.ofFn fun r =>
      if r.val < rows then BitVec.ofNat 4096 (f (0x14400 + 0x10000 * a.val + 512 * r.val) 512) else 0 }

/-! ### Save slots -/

/-- The core a saved task ran on: it resumes there (R29). -/
def Saved.core (v : Saved) : CoreIx := CtxIx.core v.ctx

/-- Physical address of save slot `k` of a die (R325). -/
def Die.slotBase (x : Die) (k : Nat) : Nat := x.dcsa.toNat + k * 0x80000
/-- Bytes a slot occupies. -/
def slotBytes : Nat := 0x58000
/-- A slot that lies wholly inside the die's local region (R248, R325). -/
def State.slotUsable (s : State) (d : DieIx) (k : Nat) : Bool :=
  let b := (s.die d).slotBase k
  decide (localBase d.val ≤ b) && decide (b + slotBytes ≤ localBase d.val + s.skerry.lshare * 2 ^ 30)
/-- The free slots of a die, lowest first. -/
def State.freeSlots (s : State) (d : DieIx) : List Nat :=
  (List.range (s.die d).dcsn.toNat).filter fun k => s.slotUsable d k && !(s.die d).slots.contains k
/-- Whether each die of the contexts has a free slot for every one of them (R157, R325). -/
def State.slotsFor (s : State) (cs : List CtxIx) : Bool :=
  (List.finRange 4).all fun d =>
    decide ((cs.filter fun c => CtxIx.die c == d).length ≤ (s.freeSlots d).length)

/-! ### Pre-emption points -/

/-- The entries of a context that have passed their fault points complete (R53); an MWLD that has read its image has passed its
fault point. -/
def State.completePassed (s : State) (c : CtxIx) : State :=
  let s := match (s.quad (CtxIx.quad c)).wnext with
    | some (_, k) => if k == c then s.switchWeights (CtxIx.quad c) else s
    | none => s
  { ({ s with cur := c } : State).finishPassed with cur := s.cur }

/-- Brings a context to a pre-emption point (R53): what has passed its fault point completes, a parked operation is withdrawn,
and the context returns to the checkpoint of the block in flight or of its oldest VIQ entry. Every VTF still valid is cleared
(R318). -/
def State.quiesce (s : State) (c : CtxIx) : State :=
  let s := ((s.completePassed c).withdraw c).withdrawRows c
  let x := s.ctx c
  let sc := match x.block, x.viq with
    | some b, _ => b.entry.chk
    | none, e :: _ => e.chk
    | none, [] => x.regs.sc
  s.setCtx c (x.rollback sc.clearVtf)

/-- The ferry writes what the output feeds of a context still hold. -/
def State.flushFeeds (s : State) (c : CtxIx) : State :=
  (List.finRange 4).foldl (fun s f =>
    let x := s.feed f
    if x.out && x.live then
      let (s, y) := s.ferryOut (agentOf c s.mySc) (CtxIx.core c) x
      s.setFeed f y
    else s) { s with cur := c }

/-! ### Save and restore -/

/-- An entry whose task ends before it keeps the registers it still works on (R49). -/
def Entry.outlive (x : Context) (e : Entry) : Entry := { e with past := e.past <|> some ⟨x.regs, x.badRegs⟩ }

/-- A context that has let its task go: registers keep what they hold, the band is detached, and entries that have passed their
fault points go on draining, on the registers as they stood (R49). -/
def Context.vacate (x : Context) : Context :=
  ({ x with
    viq := x.viq.map (Entry.outlive x), block := none, parked := none, task := none, sliceOut := false, down := false, holds := []
    stopReq := .none } : Context).setSc x.regs.sc.detach

/-- The save of R54 and R325, on a context at a pre-emption point: what its output feeds hold is written, then the layout of R79,
the band record and the accumulators go to a slot; the task waits with its launch; its rows stay reserved (R232). -/
def State.saveContext (s : State) (c : CtxIx) (slot : Nat) : State :=
  match (s.ctx c).task with
  | none => s
  | some t =>
    let s := s.flushFeeds c
    let d := CtxIx.die c
    let q := CtxIx.quad c
    let x := s.ctx c
    let r := x.regs
    let base := (s.die d).slotBase slot
    let (sh, s) := s.free 114688
    let rows := r.sc.mgrant.toNat
    let s := s.storePhys none base (r.bytes sh)
    let s := s.storePhys none (base + 0x14000) (leBytes 1 rows ++ leBytes 1 r.sc.mstate.toNat ++ leBytes 1 (q.val % 12) ++ leBytes 61 0)
    let s := (List.finRange 4).foldl (fun s (k : Fin 4) =>
      s.storePhys none (base + 0x14400 + 0x10000 * k.val)
        (((r.acc[k.val]).toList.take rows).flatMap fun row => leBytes 512 row.toNat)) s
    let v : Saved := ⟨t.tid, slot, c, x.bars,
      (s.binds.filter fun b => b.1 == c).map (·.2), r.feeds, r.sc.vsq.drop 16, x.holds, x.order, false⟩
    let s := s.onLaunch t.launch fun l => { l with saved := l.saved ++ [v] }
    let s := s.setDie d { s.die d with slots := slot :: (s.die d).slots }
    let s := if 0 < rows then s.setQuad q { s.quad q with heldRows := (s.quad q).heldRows ++ [(t, rows)] } else s
    let s := { s with binds := s.binds.filter fun b => b.1 != c }
    s.setCtx c (s.ctx c).vacate

/-- Saves contexts one after the other, each to the lowest free slot of its die. -/
def State.saveAll (s : State) (cs : List CtxIx) : State :=
  cs.foldl (fun s c => (s.quiesce c).saveContext c ((s.freeSlots (CtxIx.die c)).headD 0)) s

end Sys2Proof.Machine
end

