-- ==== Sys2Proof/Machine/Holm.lean ====
section
/-!
DEFINITION. The Holm layer: PFENCE (R276, R277, R307), commit records and scratchpad images (R306, R308), HOLM_PERSIST
(R274). The areas of R306 have no address, so a record is kept as its fields beside its snapshot or image.
-/
namespace Sys2Proof.Machine

/-- Whether a fence of context `c` covers a store: the context made it, for whichever task, or its task did, on whichever context
(R276). -/
def HolmStore.by (e : HolmStore) (c : CtxIx) (t : Option TaskRef) : Bool := e.ctx == c || e.task == t

/-- The stores of a context and of its task into Holm windows become persistent (R276). -/
def State.persistOwn (s : State) (c : CtxIx) : State :=
  let t := (s.ctx c).task
  { s with
    mram := (s.holmOwn.filter fun e => e.by c t).foldl (fun m e => m.putBytes e.pa (s.mem.bytes e.pa e.len)) s.mram
    holmOwn := s.holmOwn.filter fun e => !e.by c t }

/-- PFENCE.DIE (R276): it waits until the context's earlier accesses are performed, and ends a strip interval. -/
def execPfenceDie (s : State) : Host.Outcome State Fault Refusal :=
  s.heldRel fun _ => (s.persistOwn s.cur).scalar Scalar.endInterval

/-- The image in force of a core. -/
def Core.image (k : Core) : Image := if k.currentB then k.imageB else k.imageA

/-- The CRC of an image record: over its first 24 bytes and the image (DEDUCED, log entry 11). -/
def Image.sum (i : Image) : BitVec 32 := crc32c (leBytes 8 i.seq ++ leBytes 4 i.len ++ leBytes 12 0 ++ i.bytes)
/-- An image that may be restored (R309). -/
def Image.valid (i : Image) : Bool := i.state == 2 && i.crc == i.sum

/-- Step 2 of R307: the whole persistent part goes to the non-current image, which becomes current; the stored PSPB comes
into force (R82). -/
def Core.persistImage (k : Core) : Core :=
  let i : Image := ⟨Nat.max k.imageA.seq k.imageB.seq + 1, k.pspb, 0, 2, k.scratchAt 0 k.pspb⟩
  let i := { i with crc := i.sum }
  let k := if k.currentB then { k with imageA := i } else { k with imageB := i }
  { k with currentB := !k.currentB, pspbForce := k.pspb, cycleSaved := k.cycle }

/-- The CRC of a commit record: over its bits [191:0] and the snapshot (Table 19-10). -/
def HolmSlot.sum (h : HolmSlot) : BitVec 32 :=
  crc32c (leBytes 8 h.seq ++ leBytes 8 h.pc.toNat ++ leBytes 4 h.len ++ leBytes 4 h.pseq ++
    match h.snap with
    | some r => r.bytes h.shadow
    | none => [])
/-- A record that is complete: committed or planned. -/
def HolmSlot.closed (h : HolmSlot) : Bool := h.state == 2 || h.state == 3
/-- A valid record (R309). -/
def HolmSlot.valid (h : HolmSlot) : Bool := h.closed && h.crc == h.sum
/-- SEQ of a valid record; 0 for another. -/
def HolmSlot.seqOf (h : HolmSlot) : Nat := if h.valid then h.seq else 0

/-- Step 3 of R307 on a context: the slot that does not hold the latest record receives the snapshot `r` and its record. -/
def Context.record (x : Context) (r : Regs) (t : Option TaskRef) (pseq state : Nat) (cycle : Word64) (sh : BitVec 114688) :
    Context :=
  let a := x.holmA.seqOf
  let b := x.holmB.seqOf
  let h : HolmSlot := ⟨Nat.max a b + 1, r.sc.pc, 81920, pseq % 2 ^ 32, 0, state, some r, sh, cycle, t⟩
  let h := { h with crc := h.sum }
  if a ≤ b then { x with holmA := h } else { x with holmB := h }

/-- The start of step 3 of R307: the slot that does not hold the latest record has STATE 1. -/
def Context.openSlot (x : Context) : Context :=
  if x.holmA.seqOf ≤ x.holmB.seqOf then { x with holmA := { x.holmA with state := 1 } }
  else { x with holmB := { x.holmB with state := 1 } }

/-- Steps 2 and 3 of R307 on a context, with the registers `r` of task `t`; STATE is 2, or 3 for a planned stop (R308). -/
def State.persistPoint (s : State) (c : CtxIx) (r : Regs) (t : Option TaskRef) (state : Nat) : State :=
  let i := CtxIx.core c
  let k := (s.core i).persistImage
  let (sh, s) := (s.setCore i k).free 114688
  s.setCtx c ((s.ctx c).record r t k.image.seq state k.cycle sh)

/-- PFENCE.CORE (R277, R307): the effect of PFENCE.DIE, then, once every older VIQ entry has completed, the persist point
after the fence. -/
def execPfenceCore (s : State) : Host.Outcome State Fault Refusal :=
  s.serial fun _ =>
    let s := s.persistOwn s.cur
    let s := s.setMySc s.mySc.endInterval.retire
    .next (s.persistPoint s.cur s.me.regs s.me.task 2)

/-- HOLM_PERSIST (R251, R274): the MRAM write of the naturally aligned 8 bytes at an address of a Holm window completes. -/
def execHolmPersist (pa : Nat) (s : State) : Host.Outcome State Fault Refusal :=
  let b := pa / 8 * 8
  if inHolm pa then .next { s with mram := s.mram.putBytes b (s.mem.bytes b 8) } else .next s

/-- Both slots of a context say STATE 0 (R306). -/
def Context.clearHolm (x : Context) : Context :=
  { x with holmA := { x.holmA with state := 0 }, holmB := { x.holmB with state := 0 } }

end Sys2Proof.Machine
end

