-- ==== Sys2Proof/Machine/DispatchUnit.lean ====
section
/-!
DEFINITION. The dispatch units: launch records (R25 to R27, R34, R36), placing and starting tasks (R28 to R32, R35, R37),
ending them (R38, R49, R155, R368), pre-emption and resumption (R40, R53, R54, R324 to R327), and the instructions LAUNCH,
TEXIT and TSTOP (R155 to R157).
-/
namespace Sys2Proof.Machine

/-! ### Launch records -/

/-- The fields of a launch record (Tables 2-1 and 2-2). -/
structure LaunchRec where
  image  : Nat
  entry  : Nat
  count  : Nat
  tpc    : Nat
  cpq    : Nat
  qpd    : Nat
  dies   : Nat
  gang   : Bool
  prio   : Nat
  tag    : Nat
  ver    : Nat
  rsv    : Nat
  b0     : Nat
  b1     : Nat
  b2     : Nat
  arg    : Nat
  signal : Nat
  dep    : Nat
  token  : Nat
  space  : Nat
  deriving DecidableEq, Repr

/-- The record of 64 bytes; `rsv` is nonzero when any reserved field is. -/
def LaunchRec.ofNat (x : Nat) : LaunchRec where
  image := bits x 0 64
  entry := bits x 64 32
  count := bits x 96 32
  tpc := bits x 128 4
  cpq := bits x 132 3
  qpd := bits x 135 4
  dies := bits x 139 3
  gang := bits x 142 1 == 1
  prio := bits x 143 3
  tag := bits x 160 16
  ver := bits x 176 8
  rsv := bits x 146 14 + bits x 184 8 + bits x 240 16 + bits x 492 20
  b0 := bits x 192 16
  b1 := bits x 208 16
  b2 := bits x 224 16
  arg := bits x 256 64
  signal := bits x 320 64
  dep := bits x 384 64
  token := bits x 448 32
  space := bits x 480 12

/-- A valid entry of a die's address-space table: SATP and STVEC (Table 2-5, R41). Where the entry meets an uncorrectable error, what is read
is free (DESIGN CHOICE, log entry 44: R41 gives the case no outcome). -/
def State.spaceEntry (s : State) (d : DieIx) (k : Nat) : Option (Word64 × Word64) :=
  let x := s.die d
  let pa := x.dasb.toNat + 32 * k
  let e := if s.lostRange pa 32 then (Config.lostEntry pa s.freeCtr).toNat else s.mem.le pa 32
  let stvec := bits e 64 64
  if x.dasn.toNat ≤ k || bits e 128 64 != 1 || bits e 192 64 != 0 || stvec % 4 != 0 then none
  else some (BitVec.ofNat 64 (bits e 0 64), BitVec.ofNat 64 stvec)

/-- The first broken condition of R27, by its number in Table 21-5. -/
def State.rejectReason (s : State) (d : DieIx) (r : LaunchRec) : Option Nat :=
  let inRange := fun x hi => decide (1 ≤ x) && decide (x ≤ hi)
  if r.ver != 1 || r.rsv != 0 then some 1
  else if !(inRange r.tpc 8 && inRange r.cpq 4 && inRange r.qpd 12 && inRange r.dies 4) then some 2
  else if r.count == 0 then some 3
  else if r.gang && r.count != r.tpc * r.cpq * r.qpd * r.dies then some 4
  else if r.image % 64 != 0 || r.entry % 4 != 0 || r.signal % 8 != 0 || r.dep % 32 != 0 then some 5
  else if r.b0 % 20 != 0 || decide (r.b0 / 20 < r.tpc) || decide (8 < r.b0 / 20) || decide (r.b1 < r.b0) ||
      decide (r.b2 < r.b1) || decide (1008 < r.b2) then some 6
  else if (s.spaceEntry d r.space).isNone then some 8
  else none

/-! ### Rejecting a record -/

/-- Rejects a record (R27): a kind-1 record with the reason, then the failure value. -/
def State.reject (s : State) (d : DieIx) (g : Agent) (va : Word64) (tag : BitVec 16) (reason : Nat) : State :=
  (s.faultRecord d { kind := 1, tag := tag, detail := reason }).signalWrite d g va tag true

/-! ### Dequeuing -/

/-- A dequeued record is checked, and waits or is ready (R27, R36, R41). -/
def State.acceptLaunch (s : State) (d : DieIx) (r : LaunchRec) : State :=
  let sig := BitVec.ofNat 64 r.signal
  let tag := BitVec.ofNat 16 r.tag
  let sp := s.spaceEntry d r.space
  let g := match sp with
    | some e => ⟨e.1, false, none, d, .l2, none⟩
    | none => s.dieAgent d
  match s.rejectReason d r, sp with
  | none, some e =>
    let l : Launch := {
      die := d, image := BitVec.ofNat 64 r.image, entry := BitVec.ofNat 32 r.entry, count := r.count, tpc := r.tpc,
      cpq := r.cpq, qpd := r.qpd, dies := r.dies, gang := r.gang, prio := r.prio, tag := tag, pool0 := r.b0, pool1 := r.b1,
      pool2 := r.b2, arg := BitVec.ofNat 64 r.arg, signal := sig, dep := BitVec.ofNat 64 r.dep,
      token := BitVec.ofNat 32 r.token, satp := e.1, stvec := e.2, st := if r.dep = 0 then .ready else .waiting,
      readyAt := s.readySeq, next := 0, ended := [], failed := false, favoured := false, bound := [],
      saved := [] }
    { s with launches := s.launches ++ [l], readySeq := s.readySeq + 1 }
  | some reason, _ => s.reject d g sig tag reason
  | none, none => s.reject d g sig tag 8

/-- LAUNCH_DEQUEUE (R34): nothing before LQB is written, without power (R354), after a kind-11 record, while the dependence set
is full (R36), or while a context of the die waits to resume under R309 (R359). A dequeue that faults otherwise than R34 lists is
treated as those are: a kind-11 record with its cause, and no further dequeue (DESIGN CHOICE, log entry 39). -/
def execLaunchDequeue (d : DieIx) (s : State) : Host.Outcome State Fault Refusal :=
  let x := s.die d
  let waits := (List.finRange 1536).any fun c => CtxIx.die c == d && (s.ctx c).down
  if !x.lqWritten || !s.skerry.powered || x.lqStopped || decide (64 ≤ s.depn d) || waits then .next s
  else
    match s.qOp ⟨s.dieAgent d, some d⟩ x.lqb ⟨false, 1, false, .raw (List.replicate 64 0), none⟩ with
    | .fault s' t =>
      let s' := s'.faultRecord d { kind := 11, cause := t.cause.code, va := x.lqb }
      .next (s'.setDie d { s'.die d with lqStopped := true })
    | .park s' => .next s'
    | .grant s' g els => .next (if g = 0 then s' else s'.acceptLaunch d (.ofNat (leNat (els.headD []))))

/-- DEPENDENCE_READY (R36). An object whose reading meets an uncorrectable error cannot be used either: reason 9 (DESIGN CHOICE, log entry
44: R36's cases do not name the error). -/
def execDependenceReady (d : DieIx) (i : Nat) (s : State) : Host.Outcome State Fault Refusal :=
  match s.launches[i]? with
  | none => .next s
  | some l =>
    if l.die != d || l.st != .waiting then .next s
    else
      let rej := fun reason =>
        (s.onLaunch i fun l => { l with st := .rejected }).reject d l.agent l.signal l.tag reason
      match s.objLoc l.agent l.dep 32 .read with
      | .error _ => .next (rej 9)
      | .ok loc =>
        let o := s.barAt loc
        if !o.valid then .next (rej 9)
        else
          let k := phaseDist o.phase l.token
          if k = 0 then .next s
          else if k ≤ 2 ^ 31 then
            .next ({ s with readySeq := s.readySeq + 1 }.onLaunch i fun l => { l with st := .ready, readyAt := s.readySeq })
          else .next (rej 7)

/-! ### Placing tasks -/

/-- The position of a task: (TDIE, TQUAD, TCORE) (R28). -/
def Launch.position (l : Launch) (tid : Nat) : Nat × Nat × Nat := (l.tdie tid, l.tquad tid, l.tcore tid)

/-- A context that holds no task and is not to resume one. -/
def Context.free (x : Context) : Bool := x.task.isNone && !x.down
/-- The eight contexts of a core. -/
def coreCtxs (k : CoreIx) : List CtxIx := (List.finRange 8).map fun j => ⟨k.val * 8 + j.val, by omega⟩
/-- An idle core (R30): none of its contexts holds a task, and no entry of an ended task drains on it. -/
def State.idleCore (s : State) (k : CoreIx) : Bool := (coreCtxs k).all fun c => (s.ctx c).free && (s.ctx c).viq.isEmpty
/-- The core is idle or holds the launch's split (R30). -/
def State.splitFits (s : State) (l : Launch) (k : CoreIx) : Bool :=
  let x := s.core k
  x.powered && (s.idleCore k || (x.pool0 == l.pool0 && x.pool1 == l.pool1 && x.pool2 == l.pool2))
/-- Contexts of a core that tasks of launch `i` occupy. -/
def State.occupied (s : State) (i : Nat) (k : CoreIx) : Nat :=
  ((coreCtxs k).filter fun c => (s.ctx c).task.any fun t => t.launch == i).length

/-- Whether a position may be bound to a core, or is (R29). -/
def Launch.bindFits (l : Launch) (tid : Nat) (k : CoreIx) : Bool :=
  let p := l.position tid
  (CoreIx.die k).val == (l.die.val + p.1) % 4 &&
  match l.bound.find? fun b => b.1 == p with
  | some b => b.2 == k
  | none => l.bound.all fun b => b.2 != k && ((b.1.1 == p.1 && b.1.2.1 == p.2.1) == (CoreIx.quad b.2 == CoreIx.quad k))

/-- Whether task `tid` of launch `i` may be placed on a context (R29, R30). The n contexts that a core with split n may use are those
numbered below n (DESIGN CHOICE, log entry 17: R30 gives their number). -/
def State.placeOk (s : State) (i : Nat) (l : Launch) (tid : Nat) (c : CtxIx) : Bool :=
  let k := CtxIx.core c
  (s.ctx c).free && decide (c.val % 8 < l.pool0 / 20) && l.bindFits tid k && s.splitFits l k &&
    decide (s.occupied i k < l.tpc)

/-- Recuts an idle core's pool to a launch's split: scratchpad bytes become undefined, PSPB and the size in force 0
(R30, R82). -/
def State.recut (s : State) (l : Launch) (k : CoreIx) : State :=
  if s.idleCore k then
    let s := s.loseScratch k
    s.setCore k { s.core k with
      pool0 := l.pool0, pool1 := l.pool1, pool2 := l.pool2, pspb := 0, pspbForce := 0, rcache := [] }
  else s

/-- The scalar side at task start (Table 2-3); the ULI shadow copies and ASB, ASL and ASP, which have no value there, are
free values from index `n` on (log entry 6). -/
def Launch.startScalar (l : Launch) (tid n : Nat) : Scalar :=
  let w := fun k => Config.freeBits 64 (n + k)
  { Scalar.reset with
    x := Scalar.reset.x.set 3 l.arg
    pc := l.image + l.entry.setWidth 64
    satp := l.satp
    stvec := l.stvec
    tid := BitVec.ofNat 32 tid
    tcore := BitVec.ofNat 32 (l.tcore tid)
    tquad := BitVec.ofNat 32 (l.tquad tid)
    tdie := BitVec.ofNat 32 (l.tdie tid)
    asb := w 0 &&& ~~~15#64
    asl := w 1 &&& ~~~15#64
    asp := w 2 &&& ~~~15#64
    shadow := Vector.ofFn fun k => w (3 + k.val) }

/-- The registers at task start: v, m, w and the accumulators are undefined (R31, R75). -/
def Launch.startRegs (l : Launch) (tid n : Nat) : Regs where
  sc := l.startScalar tid n
  v := Vector.ofFn fun k => Config.freeBits 8192 (n + 11 + k.val)
  m := Vector.ofFn fun k => Config.freeBits 4096 (n + 59 + k.val)
  w := Vector.ofFn fun k => clampWeights (Config.freeBits 8192 (n + 71 + k.val))
  feeds := Vector.replicate 4 FeedSlot.idle
  acc := Vector.ofFn fun a => Vector.ofFn fun r => Config.freeBits 4096 (n + 79 + 128 * a.val + r.val)

/-- A context takes a task up at place `order` in the order of starts (R40): nothing is left of what it ran before but the entries
of an ended task that still drain, whose accesses stand in an older interval (R49). -/
def State.occupy (s : State) (c : CtxIx) (t : TaskRef) (r : Regs) (bars : Vector Nat 4) (order : Nat) (holds : List Hold) : State :=
  let x := s.ctx c
  let s := { s with nextId := s.nextId + 1, binds := s.binds.filter fun b => b.1 != c }
  s.setCtx c { x with
    regs := { r with sc := { r.sc with ivl := x.regs.sc.ivl + 1 } }
    block := none, parked := none, task := some t, startedAt := (s.core (CtxIx.core c)).cycle.toNat, sliceOut := false
    order := order, waited := 0, stopReq := .none, down := false, bars := bars, icache := [], bcache := [], holds := holds
    badRegs := [] }

/-- Starts task `tid` of launch `i` on a context (R29 to R31, R306). -/
def State.startTask (s : State) (i : Nat) (l : Launch) (tid : Nat) (c : CtxIx) : State :=
  let k := CtxIx.core c
  let s := s.recut l k
  let r := l.startRegs tid s.freeCtr
  let s := ({ s with freeCtr := s.freeCtr + 591 } : State).occupy c ⟨i, tid⟩ r (Vector.replicate 4 0) s.nextId []
  let s := s.setCtx c (s.ctx c).clearHolm
  s.onLaunch i fun l => { l with
    st := .running, next := tid + 1, favoured := false
    bound := if l.bound.any fun b => b.1 == l.position tid then l.bound else l.bound ++ [(l.position tid, k)] }

/-- Starts the next tasks of a launch on the given contexts, in TID order; stops at the first that does not fit. -/
def State.startNext (s : State) (i : Nat) : List CtxIx → State × Bool
  | [] => (s, true)
  | c :: cs =>
    match s.launches[i]? with
    | none => (s, false)
    | some l =>
      if decide (l.next < l.count) && s.placeOk i l l.next c then (s.startTask i l l.next c).startNext i cs else (s, false)

/-- Free contexts of a core that a task of launch `l` may take, with the core's split fit for it (R30). -/
def State.roomOn (s : State) (l : Launch) (k : CoreIx) : List CtxIx :=
  if s.splitFits l k then (coreCtxs k).filter fun c => (s.ctx c).free && decide (c.val % 8 < l.pool0 / 20) else []

/-- Cores of a quad with room for TPC tasks of a gang, among those that `ok` allows. -/
def State.gangCores (s : State) (l : Launch) (ok : CoreIx → Bool) (q : QuadIx) : List CoreIx :=
  (List.finRange 192).filter fun k => CoreIx.quad k == q && ok k && decide (l.tpc ≤ (s.roomOn l k).length)

/-- Quads of logical die `j` with room for CPQ cores of a gang (R29). -/
def State.gangQuads (s : State) (l : Launch) (ok : CoreIx → Bool) (j : Nat) : List QuadIx :=
  (List.finRange 48).filter fun q =>
    (QuadIx.die q).val == (l.die.val + j) % 4 && decide (l.cpq ≤ (s.gangCores l ok q).length)

/-- Places for every task of a gang, in TID order: TPC contexts on each of CPQ cores of QPD quads on each die (R29, R32). Every
position of a gang needs the same room, so there is a place for the gang exactly where each die has enough such quads. -/
def State.gangPlaces (s : State) (l : Launch) (ok : CoreIx → Bool) : Option (List CtxIx) :=
  (List.range l.count).mapM fun t => do
    let q ← (s.gangQuads l ok (l.tdie t))[l.tquad t]?
    let k ← (s.gangCores l ok q)[l.tcore t]?
    (s.roomOn l k)[t % l.tpc]?

/-- Places, on cores that `ok` allows, for what a launch needs next: every task of a gang, the next task of another launch (R32,
R35). -/
def State.findPlaces (s : State) (i : Nat) (ok : CoreIx → Bool) : Option (List CtxIx) :=
  match s.launches[i]? with
  | none => none
  | some l =>
    if decide (l.count ≤ l.next) then none
    else if l.gang then s.gangPlaces l ok
    else ((List.finRange 1536).find? fun c => ok (CtxIx.core c) && s.placeOk i l l.next c).map fun c => [c]

/-- A record that still has tasks to place. -/
def Launch.placing (l : Launch) : Bool := (l.st == .ready || l.st == .running) && decide (l.next < l.count)
/-- A launch with a task that waits to resume. -/
def Launch.resuming (l : Launch) : Bool := l.saved.any fun v => !v.lost

/-- Whether a saved task of launch `i` may resume on a context: the core it ran on, with fewer than TPC tasks of its launch on it,
its split, a free context (R29, R30). -/
def State.resumeOk (s : State) (i : Nat) (l : Launch) (v : Saved) (c : CtxIx) : Bool :=
  CtxIx.core c == v.core && (s.ctx c).free && decide (c.val % 8 < l.pool0 / 20) && s.splitFits l v.core && !v.lost &&
    decide (s.occupied i v.core < l.tpc)

/-- Contexts for the saved tasks of a gang, each on its own core and none twice (R29, R40). -/
def State.gangResume (s : State) (i : Nat) (l : Launch) : List Saved → List CtxIx → Option (List CtxIx)
  | [], _ => some []
  | v :: vs, used => do
    let c ← (List.finRange 1536).find? fun c => s.resumeOk i l v c && !used.contains c
    let cs ← s.gangResume i l vs (c :: used)
    pure (c :: cs)

/-- Contexts on which saved tasks of a launch can resume, on cores that `ok` allows: every one of a gang, none of whose tasks is down,
or one (R40). -/
def State.resumePlaces (s : State) (i : Nat) (l : Launch) (ok : CoreIx → Bool) : Option (List CtxIx) :=
  if l.saved.isEmpty then none
  else if l.gang then
    if !(l.saved.all fun v => ok v.core) ||
        (List.finRange 1536).any fun c => (s.ctx c).down && (s.ctx c).task.any fun t => t.launch == i then none
    else s.gangResume i l l.saved []
  else
    (l.saved.findSome? fun v =>
      if ok v.core then (List.finRange 1536).find? fun c => s.resumeOk i l v c else none).map fun c => [c]

/-- The launches of launch `l`'s class on its die, each with its index (R35). -/
def State.classOf (s : State) (l : Launch) : List (Launch × Nat) :=
  (s.launches.zipIdx).filter fun p => p.1.die == l.die && p.1.prio == l.prio
/-- Whether launch `i` is the first of its class on its die that has tasks to place: its record became ready before the others'
(R35). -/
def State.firstOfClass (s : State) (i : Nat) (l : Launch) : Bool :=
  (s.classOf l).all fun p => p.2 == i || !p.1.placing || decide (l.readyAt ≤ p.1.readyAt)
/-- Whether launch `i` is the head of its class (R35): the first of it, with no pre-empted task of the class left to resume before
its next one starts, unless a task of the class was pre-empted for it (R40; DEDUCED, log entry 17). -/
def State.headOfClass (s : State) (i : Nat) (l : Launch) : Bool :=
  s.firstOfClass i l && (l.favoured || (s.classOf l).all fun p => p.1.gang || !p.1.resuming)

/-- Whether launch `m` asks for contexts that another may have to leave it: it is the first of its class, or has tasks to resume. -/
def State.asks (s : State) (i : Nat) (m : Launch) : Bool := (m.placing && s.firstOfClass i m) || m.resuming
/-- The cores that launches of higher classes keep from launch `l`: those bound to positions of a record that is served, or of a launch
with tasks to resume (R35). -/
def State.heldCores (s : State) (l : Launch) : List CoreIx :=
  (s.launches.zipIdx).flatMap fun p =>
    if p.1.die == l.die && decide (l.prio < p.1.prio) && s.asks p.2 p.1 then p.1.bound.map (·.2) else []

/-- Whether a launch reserves contexts on other dies than its own (R37). -/
def Launch.remote (l : Launch) (cs : List CtxIx) : Bool := cs.any fun c => CtxIx.die c != l.die
/-- Whether a task that a launch has yet to place stands on another logical die than the first (R28, R37): the next one, or the
first of the next logical die. -/
def Launch.needsRemote (l : Launch) : Bool :=
  let n := l.next / (l.tpc * l.cpq * l.qpd)
  l.placing && decide (1 < l.dies) &&
    (decide (0 < n % l.dies) || decide ((n + 1) * (l.tpc * l.cpq * l.qpd) < l.count))
/-- Whether a task of launch `i` that is saved could resume on another die than its own now, if its unit held the right (R37; DESIGN
CHOICE, log entry 17: R37 names the right for what a launch starts). -/
def State.resumesRemote (s : State) (i : Nat) (l : Launch) : Bool :=
  let held := s.heldCores l
  if l.gang then (l.saved.any fun v => CoreIx.die v.core != l.die) && (s.resumePlaces i l fun k => !held.contains k).isSome
  else (s.resumePlaces i l fun k => CoreIx.die k != l.die && !held.contains k).isSome
/-- A unit that has contexts to reserve on another die, for the record it serves or for a task that can resume (R35, R37). -/
def State.needsRight (s : State) (d : DieIx) : Bool :=
  (s.launches.zipIdx).any fun p =>
    p.1.die == d && ((p.1.needsRemote && s.headOfClass p.2 p.1) || s.resumesRemote p.2 p.1)
/-- Whether the package reservation right stands at a unit, or every unit from its holder up to it passes it on (R37). -/
def State.hasRight (s : State) (d : DieIx) : Bool :=
  let h := s.skerry.resRight
  let n := (d.val + 4 - h.val) % 4
  (List.range n).all fun k => !s.needsRight ⟨(h.val + k) % 4, by omega⟩
/-- Where a unit has reserved contexts `cs` of other dies for launch `i`, it keeps the right while the launch has tasks to start on
them, and passes it on once it has started them (R37). -/
def State.passRight (s : State) (d : DieIx) (i : Nat) (l : Launch) (cs : List CtxIx) : State :=
  if l.remote cs then
    let last := (s.launches[i]?).all fun m => !m.needsRemote
    { s with skerry := { s.skerry with resRight := if last then ⟨(d.val + 1) % 4, by omega⟩ else d } }
  else s

/-- The cores a launch may take contexts of now: none that is kept from it (R35), and of another die only with the right (R37). -/
def State.openTo (s : State) (l : Launch) : CoreIx → Bool :=
  let held := s.heldCores l
  let right := s.hasRight l.die
  fun k => (CoreIx.die k == l.die || right) && !held.contains k

/-- Where launch `i` could start what it needs next, now. -/
def State.places (s : State) (i : Nat) (l : Launch) : Option (List CtxIx) := s.findPlaces i (s.openTo l)
/-- Where tasks of launch `i` could resume, now. -/
def State.backPlaces (s : State) (i : Nat) (l : Launch) : Option (List CtxIx) := s.resumePlaces i l (s.openTo l)

/-- Whether launch `m` could take contexts now. -/
def State.could (s : State) (i : Nat) (m : Launch) : Bool :=
  (m.placing && s.headOfClass i m && (s.places i m).isSome) || (s.backPlaces i m).isSome

/-- Whether contexts are held back from launch `l`: by a launch of a higher class that could be placed or resumed itself, or that
is bound to the core of one of them (R35); from a resume, also by a launch of its class for which a task was pre-empted (R40). -/
def State.heldBack (s : State) (l : Launch) (resume : Bool) (cs : List CtxIx) : Bool :=
  (cs.any fun c => (s.heldCores l).contains (CtxIx.core c)) ||
    (s.launches.zipIdx).any fun p =>
      let m := p.1
      m.die == l.die && ((decide (l.prio < m.prio) && s.could p.2 m) ||
        (resume && m.prio == l.prio && m.favoured && m.placing && s.headOfClass p.2 m && (s.places p.2 m).isSome))

/-- TASK_START (R28 to R32, R35, R37): the next tasks of a launch start on the given contexts; a gang starts whole. The right is
passed on once the launch has reserved what it needs on other dies. -/
def execTaskStart (d : DieIx) (i : Nat) (cs : List CtxIx) (s : State) : Host.Outcome State Fault Refusal :=
  match s.launches[i]? with
  | none => .next s
  | some l =>
    if l.die != d || !(s.die d).lqWritten || !l.placing || cs.isEmpty || !s.headOfClass i l || s.heldBack l false cs ||
        (l.remote cs && !s.hasRight d) || (l.gang && cs.length != l.count) then .next s
    else
      let (t, all) := s.startNext i cs
      .next (if !all && l.gang then s else t.passRight d i l cs)

/-! ### Ending tasks -/

/-- Ends the feeds of a context (R155): outputs are written out, with their byte counts; a fault is recorded as kind 4
(R179); inputs are abandoned. -/
def State.endFeeds (s : State) (c : CtxIx) : State :=
  (List.finRange 4).foldl (fun s f =>
    let x := s.feed f
    let s := if x.out && x.live then
        let (s, y) := s.ferryOut (agentOf c s.mySc) (CtxIx.core c) { x with fault := none }
        match y.fault with
        | some (cause, a) => s.ctxRecord c { kind := 4, cause := cause.code, va := a, pc := s.mySc.pc, detail := f.val }
        | none =>
          match x.bo with
          | some k => s.owe k.toNat ((x.len * x.w + 7) / 8)
          | none => s
      else s
    s.setFeed f FeedSlot.idle) { s with cur := c }

/-- Ends the task of a context as TEXIT does (R49, R155). -/
def State.endTask (s : State) (c : CtxIx) : State :=
  match (s.ctx c).task with
  | none => s
  | some t =>
    let s := s.endFeeds c
    let s := { s with binds := s.binds.filter fun b => b.1 != c }
    let s := s.setCtx c (s.ctx c).vacate
    s.onLaunch t.launch fun l => { l with ended := t.tid :: l.ended }

/-- TEXIT (R49, R155): held under R46 until every older entry has passed its fault point; the task has then ended, and what is
left of its entries drains. -/
def execTexit (s : State) : Host.Outcome State Fault Refusal :=
  s.waits s.me.settled fun _ => .next (s.endTask s.cur)

/-- Whether entries of ended tasks of launch `i` still drain. -/
def State.draining (s : State) (i : Nat) : Bool :=
  s.ctxs.toList.any fun x => x.viq.any fun e => e.task.any fun t => t.launch == i

/-- LAUNCH_COMPLETE (R38): every task has ended, and every vector instruction and ferry operation of them has completed. -/
def execLaunchComplete (i : Nat) (s : State) : Host.Outcome State Fault Refusal :=
  match s.launches[i]? with
  | none => .next s
  | some l =>
    if l.st != .running || decide (l.next < l.count) || decide (l.ended.length < l.count) || s.draining i then .next s
    else
      let s := s.onLaunch i fun l => { l with st := .done }
      .next (if l.failed then s else s.signalWrite l.die l.agent l.signal l.tag false)

/-- LAUNCH (R156): a blocking QENQ.M of 64 bytes; the record is read with the context's own translation, the queue with
the die's. On a queue of another element size it copies 2^SIZE bytes from xa, as QENQ.M does (DESIGN CHOICE, log entry 39). -/
def execLaunch (a : XReg) (s : State) : Host.Outcome State Fault Refusal :=
  let xa := s.mySc.rx a
  let d := CtxIx.die s.cur
  if xa.toNat % 64 != 0 then .next (s.scalarTrap ⟨.misalign, 0, xa⟩)
  else
    s.queueOp (.launch a) ⟨s.dieAgent d, some d⟩ (s.die d).lqb ⟨true, 1, true, .m xa s.scalarAgent, some s.cur⟩
      fun _ _ sc => sc

/-! ### Pre-emption -/

/-- The contexts that are stopped with a context: its whole gang, or itself (R40, R157). -/
def State.gangOf (s : State) (c : CtxIx) : List CtxIx :=
  match s.gangTask c with
  | none => [c]
  | some t => (List.finRange 1536).filter fun k => (s.ctx k).task.any fun u => u.launch == t.launch

/-- Every context of a list runs at user level (R324). -/
def State.userLevel (s : State) (cs : List CtxIx) : Bool := cs.all fun c => !(s.sc c).sup && !(s.ctx c).down

/-- Class of the task of a context. -/
def State.prioOf (s : State) (c : CtxIx) : Nat :=
  (((s.ctx c).task.bind fun t => s.launches[t.launch]?).map (·.prio)).getD 0

/-- Contexts a dispatch unit may pre-empt for launch `h`, on the dies the launch may use (R40): tasks of lower classes, unless the record is
held up by a pre-empted task of its own class, which goes before it; and, for a record that is ready, tasks of its class whose time slice
has run out. Not one that has been asked to stop. -/
def State.victims (s : State) (i : Nat) (h : Launch) (ready : Bool) : List CtxIx :=
  let head := s.headOfClass i h
  (List.finRange 1536).filter fun c =>
    let x := s.ctx c
    x.task.isSome && !x.down && x.stopReq == .none && decide (((CtxIx.die c).val + 4 - h.die.val) % 4 < h.dies) &&
      (ready || h.saved.any fun v => v.core == CtxIx.core c) &&
      ((decide (s.prioOf c < h.prio) && (!ready || head)) || (ready && s.prioOf c == h.prio && x.sliceOut))

/-- The state as it would be with the tasks gone from contexts, to see whether a pre-emption leads anywhere. -/
def State.without (s : State) (cs : List CtxIx) : State :=
  cs.foldl (fun s c => s.setCtx c { s.ctx c with task := none, viq := [] }) s

/-- Whether launch `i` could be placed, or resumed, on cores that `ok` allows. -/
def State.fitsOn (s : State) (i : Nat) (l : Launch) (ready : Bool) (ok : CoreIx → Bool) : Bool :=
  if ready then (s.findPlaces i ok).isSome else (s.resumePlaces i l ok).isSome

/-- Whether a core could take a task that launch `i` has to place or resume. -/
def State.serves (s : State) (i : Nat) (l : Launch) (ready : Bool) (ok : CoreIx → Bool) (k : CoreIx) : Bool :=
  if !ready then ok k && (coreCtxs k).any fun c => l.saved.any fun v => s.resumeOk i l v c
  else if l.gang then
    (List.range l.dies).any fun j => (s.gangQuads l ok j).contains (CoreIx.quad k) && (s.gangCores l ok (CoreIx.quad k)).contains k
  else ok k && (coreCtxs k).any fun c => s.placeOk i l l.next c

/-- Whether R40 chooses context `c` before `k`: the lowest class first, then the most recently started. -/
def State.sooner (s : State) (c k : CtxIx) : Bool :=
  decide (s.prioOf c < s.prioOf k) || (s.prioOf c == s.prioOf k && decide ((s.ctx k).order ≤ (s.ctx c).order))

/-- A list of contexts in the order in which R40 chooses them. -/
def State.ranked (s : State) (cs : List CtxIx) : List CtxIx := cs.foldr insert_ []
where
  /-- Puts a context before the first that is not chosen sooner. -/
  insert_ (c : CtxIx) : List CtxIx → List CtxIx
    | [] => [c]
    | k :: ks => if s.sooner c k then c :: k :: ks else k :: insert_ c ks

/-- The contexts that R40 chooses for launch `i`, the first to go first: of the candidates whose cores could serve it, in their order, as
many as it takes; none where all of them would not do, or the dies have no slot for each (R325). -/
def State.chosen (s : State) (i : Nat) (h : Launch) (ready : Bool) : List CtxIx :=
  let ok := s.openTo h
  let vs := s.victims i h ready
  let t := s.without (vs.flatMap s.gangOf)
  if t.fitsOn i h ready ok then
    let us := s.ranked (vs.filter fun c => (s.gangOf c).any fun k => t.serves i h ready ok (CtxIx.core k))
    match (List.range (us.length + 1)).find? fun n => (s.without ((us.take n).flatMap s.gangOf)).fitsOn i h ready ok with
    | none => []
    | some n => if s.slotsFor ((us.take n).flatMap s.gangOf).dedup then us.take n else []
  else []

/-- Launches that cannot be placed, or whose saved tasks cannot resume, each with the context that is to go first for it (R40). `true` is
for a record that is ready and the first of its class; one that a pre-empted task of its class goes before cannot be placed either.
`false` is for pre-empted tasks that cannot resume: R40 speaks of ready records only, and a unit pre-empts tasks of lower
classes for these too (DESIGN CHOICE, log entry 17). -/
def State.wants (s : State) : List (Nat × Bool × CtxIx) :=
  (s.launches.zipIdx).flatMap fun p =>
    let pick : Bool → List (Nat × Bool × CtxIx) := fun r => ((s.chosen p.2 p.1 r).take 1).map fun c => (p.2, r, c)
    (if p.1.placing && s.firstOfClass p.2 p.1 && !(s.headOfClass p.2 p.1 && (s.places p.2 p.1).isSome) then pick true else []) ++
      (if p.1.resuming && (s.backPlaces p.2 p.1).isNone then pick false else [])

/-- The launch for which R40 has context `c` pre-empted. -/
def State.preemptFor (s : State) (c : CtxIx) : Option (Nat × Bool × CtxIx) := s.wants.find? fun w => w.2.2 == c

/-- Whether a pre-emption of context `c` is due and takes place now: it has been asked for, or R40 asks for it, every member of
its gang runs at user level (R324), and each has a slot (R325). -/
def State.preemptDue (s : State) (c : CtxIx) : Bool :=
  let cs := s.gangOf c
  (s.ctx c).task.isSome && s.userLevel cs && s.slotsFor cs && ((s.ctx c).stopReq == .preempt || (s.preemptFor c).isSome)

/-- Asks contexts to stop: those at user level issue nothing more, and the stop takes effect when each has returned to user level
(R324; DEDUCED for a gang, log entry 36). What has been asked of a context before stands, but the end of its gang goes before it. -/
def State.askStop (s : State) (cs : List CtxIx) (r : StopReq) : State :=
  cs.foldl (fun s c =>
    if (s.ctx c).stopReq == .none || r == .gangEnd then s.setCtx c { s.ctx c with stopReq := r } else s) s

/-- Takes back what a TSTOP of context `by_` has asked of contexts. -/
def State.unaskStop (s : State) (by_ : CtxIx) : State :=
  { s with ctxs := s.ctxs.map fun x => if x.stopReq == .tstop by_ then { x with stopReq := .none } else x }

/-- Whether a context stands at the stop that was asked of it (R324). -/
def State.stopping (s : State) (c : CtxIx) : Bool :=
  match (s.ctx c).stopReq with
  | .none => false
  | .gangEnd => !(s.sc c).sup
  | _ => !(s.sc c).sup && s.slotsFor (s.gangOf c)

/-- PREEMPT (R40, R53, R54, R324, R325): a context, with its gang, is saved; where one of them runs at S level the request is kept
until its SRET; without a free slot for each nothing happens. What has passed its fault point completes first, and where that
ends in a trap, the trap is taken and the request is kept. A record of the victim's own class takes the context (R40). -/
def execPreempt (c : CtxIx) (s : State) : Host.Outcome State Fault Refusal :=
  let cs := s.gangOf c
  let w := s.preemptFor c
  if (s.ctx c).task.isNone || !((s.ctx c).stopReq == .preempt || w.isSome) || !s.slotsFor cs then .next s
  else if !s.userLevel cs then .next (s.askStop cs .preempt)
  else
    let s := cs.foldl State.completePassed s
    if !s.userLevel cs then .next (s.askStop cs .preempt)
    else
      let same := w.any fun w => w.2.1 && s.launches[w.1]?.any fun l => l.prio == s.prioOf c
      let s := s.saveAll cs
      .next (match w with
        | some (i, _, _) => if same then s.onLaunch i fun l => { l with favoured := true } else s
        | none => s)

/-- Whether the time slice of a context's task has run out: DSLICE scalar cycles since it last started or resumed, 0 counting as 1
(R40). DSLICE is that of the die of the task's core (DESIGN CHOICE, log entry 39). -/
def State.sliceOver (s : State) (c : CtxIx) : Bool :=
  let x := s.ctx c
  x.task.isSome &&
    decide (Nat.max 1 (s.die (CtxIx.die c)).dslice.toNat ≤ (s.core (CtxIx.core c)).cycle.toNat - x.startedAt)

/-- TIME_SLICE_EXPIRY (R40). -/
def execTimeSliceExpiry (c : CtxIx) (s : State) : Host.Outcome State Fault Refusal :=
  .next (if s.sliceOver c then s.setCtx c { s.ctx c with sliceOut := true } else s)

/-- A planned stop of contexts at user level (R157, R308): each is brought to a pre-emption point, what its output feeds hold is
written, its Holm-window stores are persistent, it is saved, and its slot is written with STATE 3. -/
def State.plannedStop (s : State) (cs : List CtxIx) : State :=
  cs.foldl (fun s c =>
    let t := (s.ctx c).task
    let s := ((s.quiesce c).flushFeeds c).persistOwn c
    let r := (s.ctx c).regs
    (s.saveContext c ((s.freeSlots (CtxIx.die c)).headD 0)).persistPoint c r t 3) s

/-- TSTOP (R157, R324): a target at S level is asked to stop, with its gang, and the TSTOP waits until every one of them has
returned to user level. As it completes, what it has asked is over. -/
def execTstop (o : X2) (s : State) : Host.Outcome State Fault Refusal :=
  s.privileged fun _ => s.serial fun _ =>
    let xa := (s.mySc.rx o.a).toNat
    let k := bits xa 0 8
    if h : k < 192 then
      let c : CtxIx := ⟨k * 8 + bits xa 8 3, by have : bits xa 8 3 < 8 := Nat.mod_lt _ (by decide)
                                                omega⟩
      if 2 ^ 11 ≤ xa || c == s.cur then .next (s.scalarTrap ⟨.illegal, 0, s.mySc.pc⟩)
      else
        let cs := s.gangOf c
        if (s.ctx c).task.isNone then (s.unaskStop s.cur).scalar fun sc => sc.wx o.d 0
        else if !s.slotsFor cs then (s.unaskStop s.cur).scalar fun sc => sc.wx o.d 2
        else if !s.userLevel cs then .next (s.askStop cs (.tstop s.cur))
        else
          let me := s.cur
          let s := { cs.foldl State.completePassed s with cur := me }
          if !s.userLevel cs then .next (s.askStop cs (.tstop me))
          else ({ (s.unaskStop me).plannedStop cs with cur := me } : State).scalar fun sc => sc.wx o.d 1
    else .next (s.scalarTrap ⟨.illegal, 0, s.mySc.pc⟩)

/-! ### Resumption -/

/-- A kind-7 record about a task (R311, R327, R367, R368): the context it stands on, was to resume on, or was saved from. -/
def State.lostRecord (s : State) (t : TaskRef) (c : CtxIx) (cause : BitVec 8) (detail : Nat) : State :=
  match s.launches[t.launch]? with
  | none => s
  | some l =>
    s.faultRecord l.die (({ kind := 7, cause := cause, tag := l.tag, tid := t.tid, detail := detail } : FaultRec).of (some c))

/-- A saved task leaves its slot and its reserved rows. -/
def State.dropSaved (s : State) (i : Nat) (v : Saved) : State :=
  let d := CoreIx.die v.core
  let q := CoreIx.quad v.core
  let s := s.setDie d { s.die d with slots := (s.die d).slots.filter (· != v.slot) }
  let s := s.setQuad q { s.quad q with heldRows := (s.quad q).heldRows.filter fun h => h.1 != ⟨i, v.tid⟩ }
  s.onLaunch i fun l => { l with saved := l.saved.filter fun u => u.tid != v.tid }

/-- Ends a running or parked task of a gang that is to end (R368). -/
def State.endMember (s : State) (c : CtxIx) : State :=
  match (s.ctx c).task with
  | none => s
  | some t =>
    let s := if (s.ctx c).down then s else s.quiesce c
    (s.endTask c).lostRecord t c 0 5

/-- R368: the other tasks of a gang with a task that cannot resume are ended, each with a kind-7 record of detail 5. One that runs
at S level is asked to stop, and ends after its SRET (R324). -/
def State.gangEnd (s : State) (i : Nat) : State :=
  match s.launches[i]? with
  | none => s
  | some l =>
    if !l.gang then s
    else
      let run := (List.finRange 1536).filter fun c => (s.ctx c).task.any fun t => t.launch == i
      let s := run.foldl (fun s c =>
        if (s.ctx c).down || !(s.sc c).sup then s.endMember c else s.askStop [c] .gangEnd) s
      l.saved.foldl (fun s v =>
        ((s.dropSaved i v).onLaunch i fun l => { l with ended := v.tid :: l.ended }).lostRecord ⟨i, v.tid⟩ v.ctx 0 5) s

/-- A stop asked of a context by the end of its gang takes effect once it has returned to user level (R324, R368). -/
def State.endAsked (s : State) (c : CtxIx) : State :=
  if (s.ctx c).stopReq == .gangEnd && !(s.sc c).sup then { s.endMember c with cur := s.cur } else s

/-- A task that is not resumed (R311, R327): a kind-7 record, the failure value, and the end of its gang. -/
def State.resumeLost (s : State) (t : TaskRef) (c : CtxIx) (cause : BitVec 8) (detail : Nat) : State :=
  let s := s.onLaunch t.launch fun l => { l with ended := t.tid :: l.ended }
  ((s.lostRecord t c cause detail).failLaunch t.launch).gangEnd t.launch

/-- Restores a saved task of launch `i` on a context (R54, R74, R232); PSTAT reads 0. A core
that still holds the launch's split is not recut (log entry 17). -/
def State.restoreSaved (s : State) (i : Nat) (l : Launch) (v : Saved) (c : CtxIx) : State :=
  let x := s.core (CtxIx.core c)
  let s := if x.pool0 == l.pool0 && x.pool1 == l.pool1 && x.pool2 == l.pool2 then s else s.recut l (CtxIx.core c)
  let base := (s.die (CtxIx.die c)).slotBase v.slot
  let r := Regs.ofBytes (fun off n => s.mem.le (base + off) n) v
  let r := { r with sc := { r.sc with pstat := 0 } }
  let s := (s.dropSaved i v).occupy c ⟨i, v.tid⟩ r v.bars v.order v.holds
  { s with binds := s.binds ++ v.binds.map fun b => (c, b) }

/-- Resumes saved tasks of launch `i` on contexts, in the order in which they were saved. A save slot that meets an
uncorrectable error loses its task (R327), and its gang. -/
def State.resumeNext (s : State) (i : Nat) : List CtxIx → State × Bool
  | [] => (s, true)
  | c :: cs =>
    match s.launches[i]? with
    | none => (s, false)
    | some l =>
      match l.saved.find? fun v => s.resumeOk i l v c with
      | none => (s, false)
      | some v =>
        if s.lostRange ((s.die (CtxIx.die c)).slotBase v.slot) slotBytes then
          let s := (s.dropSaved i v).resumeLost ⟨i, v.tid⟩ c 0 4
          if l.gang then (s, true) else s.resumeNext i cs
        else (s.restoreSaved i l v c).resumeNext i cs

/-- TASK_RESUME (R35, R37, R40, R54, R327): pre-empted tasks of a launch resume on the given contexts, unless a launch of a higher
class needs them; contexts on other dies take the reservation right; a gang resumes whole, and not while one of its tasks is
down. -/
def execTaskResume (i : Nat) (cs : List CtxIx) (s : State) : Host.Outcome State Fault Refusal :=
  match s.launches[i]? with
  | none => .next s
  | some l =>
    if s.heldBack l true cs || (l.remote cs && !s.hasRight l.die) || (l.gang && (cs.length != l.saved.length ||
        l.saved.any (·.lost) || (s.backPlaces i l).isNone)) then .next s
    else
      let (t, all) := s.resumeNext i cs
      .next (if !all && l.gang then s else t.passRight l.die i l cs)

/-! ### User-level interrupts -/

/-- ULI_DELIVERY (R305): the parked operation is withdrawn, x24 to x31 and the shadow copies exchange places, x31 holds
the return PC, and the pc goes to ULIVEC. A pre-emption that is due goes first. -/
def execUliDelivery (c : CtxIx) (s : State) : Host.Outcome State Fault Refusal :=
  let x := s.ctx c
  if x.regs.sc.uliDue && x.task.isSome && !s.preemptDue c then
    let wait := x.parked == some .waite
    let s := s.withdraw c
    let sc := s.sc c
    let ret := if wait then sc.pc + 4 else sc.pc
    let sc1 := (sc.swapShadow).wx 31 ret
    .next (s.setSc c { sc1 with ulinh := true, pc := sc.ulivec })
  else .next s

/-! ### Waking queue operations -/

/-- QUEUE_WAKE (R288): a parked operation is tested again; while another of its direction is parked ahead of it, it stays
parked. -/
def execQueueWake (c : CtxIx) (s : State) : Host.Outcome State Fault Refusal :=
  let s := { s with cur := c }
  match s.me.parked with
  | some (.qenqX o) => execQenqX o s
  | some (.qdeqX o) => execQdeqX o s
  | some (.qenqM o) => execQenqM o s
  | some (.qdeqM o) => execQdeqM o s
  | some (.launch a) => execLaunch a s
  | some (.qenqV o) => .next (s.runParked (perfQenqV o))
  | some (.qdeqV o) => .next (s.runParked (perfQdeqV o))
  | _ => .next s

end Sys2Proof.Machine
end

