-- ==== Sys2Proof/Machine/Power.lean ====
section
/-!
DEFINITION. Loss of power and resumption (R275, R309 to R311, R354, R368): UNPLANNED_POWER_LOSS, POWER_RESTORE,
PLANNED_STOP and THERMAL_TRIP.
-/
namespace Sys2Proof.Machine

/-! ### What is lost -/

/-- A context whose core loses power: it leaves every wait list, its queued work is gone, what its feeds have not moved is
lost (R275), its rows return to the quad (R232), its bindings are disarmed (R310), what it has asked of others by a TSTOP is over; its
task waits for POWER_RESTORE. -/
def State.loseContext (s : State) (c : CtxIx) : State :=
  let q := CtxIx.quad c
  let s := (s.withdrawBwait c).withdrawQueue c
  let s := s.setQuad q { s.quad q with waiting := (s.quad q).waiting.filter (· != c) }
  let s := match (s.quad q).wnext with
    | some (_, k) => if k == c then s.setQuad q { s.quad q with wnext := none } else s
    | none => s
  let s := ({ s with binds := s.binds.filter fun b => b.1 != c } : State).unaskStop c
  let x := s.ctx c
  s.setCtx c { x with viq := [], block := none, parked := none, holds := if x.down then x.holds else [], stopReq := .none, badRegs := [],
                      icache := [], bcache := [], down := x.task.isSome
                      regs := { x.regs with sc := x.regs.sc.detach, feeds := Vector.replicate 4 FeedSlot.idle } }

/-- The stores that the L1 of a core alone may hold as the core loses power, newest first (Table 17-5): each is lost, or a free choice has
its line written back with it and with what came before it; `back` are the lines written back. A lost store leaves the bytes, their
dirtiness and the mark of its line as they were. -/
def undoL1 (k : CoreIx) : List L1Store → List Nat → State → State
  | [], _, s => s
  | e :: es, back, s =>
    let line := lineOf e.pa
    if e.core != k || back.contains line then undoL1 k es back s
    else
      let (f, s) := s.free 1
      if f = 0 then undoL1 k es (line :: back) s
      else undoL1 k es back { s with
        mem := s.mem.putBytes e.pa e.old
        dirty := s.dirty.filter fun d => !e.fresh.contains d.1
        marks := if e.clean then s.marks.map fun m => if m.1 == line then (line, false) else m else s.marks }

/-- The L1 of a core that loses power is lost. -/
def State.loseL1 (s : State) (k : CoreIx) : State :=
  let t := undoL1 k s.l1 [] s
  { t with l1 := t.l1.filter fun e => e.core != k }

/-- A core that loses power: CYCLE stands at the value last saved (R85); the scratchpad is lost. -/
def State.loseCore (s : State) (k : CoreIx) : State :=
  let s := (coreCtxs k).foldl State.loseContext s
  let s := (s.loseScratch k).loseL1 k
  let x := s.core k
  s.setCore k { x with powered := false, floorHold := false, cycle := x.cycleSaved, rcache := [], tlbS := [], tlbV := [] }

/-- A quad none of whose cores has power: its matrix unit is lost with it (R238, R242). -/
def State.loseQuad (s : State) (q : QuadIx) : State :=
  let x := s.quad q
  ({ s with freeCtr := s.freeCtr + 2 ^ 21 } : State).setQuad q
    { x with wbuf := WeightImage.initial, wnext := none, grad := [], gradBase := some s.freeCtr, regions := [], rowCap := 128 }

/-- The lines of the LPDDR and fabric tiers of which the L2 of a die holds what their media lack. A byte stored through a UC page was
performed at the CXL port, and its line is not among them for it (R252). -/
def State.dirtyLines (s : State) (d : DieIx) : List Nat :=
  ((s.dirty.filter fun e => decide (0x20000000000 ≤ e.1) && homeOf d e.1).map fun e => lineOf e.1).dedup

/-- Memory after the loss of a die: the bytes of its memory are undefined, and so are the lines that its L2 alone held; its Holm window
holds its persisted bytes (Table 17-5; log entry 15). -/
def State.loseMemory (s : State) (d : DieIx) : State :=
  let lo := holmBase d.val
  let win := fun a => decide (lo ≤ a) && decide (a < lo + 0x8000000)
  let m := (s.dirtyLines d).foldl (fun m l => m.putBytes l ((List.range 128).map fun i => Config.freeBits 8 (s.freeCtr + l + i)))
    (s.mem.lose d s.freeCtr)
  { s with
    mem := (s.mram.cells.filter fun e => win e.1).foldl (fun m e => m.put e.1 (s.mram.byte e.1))
      { m with cells := m.cells.filter fun e => !win e.1 }
    holmOwn := s.holmOwn.filter fun e => !win e.pa
    dirty := s.dirty.filter fun e => !(homeOf d e.1 || win e.1)
    l1 := s.l1.filter fun e => !homeOf d e.pa
    freeCtr := s.freeCtr + 2 ^ 45 }

/-- Operations parked on queues whose blocks a die homes are withdrawn as it loses power: none is parked when it resumes, and WAIT
reads 0 (R294). -/
def State.withdrawHomed (s : State) (d : DieIx) : State :=
  let lo := holmBase d.val
  let mine := fun a => homeOf d a || (decide (lo ≤ a) && decide (a < lo + 0x8000000))
  (s.qwaits.filter fun w => mine w.qcb).foldl (fun s w => s.withdraw w.ctx) s

/-- A slot that is open, or whose record fails its CRC (Table 19-11). -/
def HolmSlot.broken (h : HolmSlot) : Bool := h.state == 1 || (h.closed && !h.valid)

/-- The record a task resumes from on a context, and whether the other slot is open or fails its CRC (R309). -/
def Context.winner (x : Context) (t : TaskRef) : Option (HolmSlot × Bool) :=
  let ok := fun h : HolmSlot => h.valid && h.task == some t
  let a := x.holmA
  let b := x.holmB
  if ok a && (!ok b || decide (b.seq ≤ a.seq)) then some (a, b.broken)
  else if ok b then some (b, a.broken)
  else none

/-- A pre-empted task whose save slot is lost with its die resumes like a running one (R311): on a free context of its
core that holds its record; without one it is lost when its core regains power. -/
def State.loseSaved (s : State) (i : Nat) (v : Saved) : State :=
  match (coreCtxs v.core).find? fun c => (s.ctx c).free && ((s.ctx c).winner ⟨i, v.tid⟩).isSome with
  | some c =>
    let s := s.dropSaved i v
    s.setCtx c { s.ctx c with task := some ⟨i, v.tid⟩, down := true, bars := v.bars, holds := v.holds }
  | none => s.onLaunch i fun l => { l with saved := l.saved.map fun u => if u.tid = v.tid then { u with lost := true } else u }

/-- A die that loses power: its memory, its TLB, and the tasks saved in its slots. -/
def State.loseDie (s : State) (d : DieIx) : State :=
  let s := (s.withdrawHomed d).loseMemory d
  let s := s.setDie d { s.die d with tlb2 := [] }
  (s.launches.zipIdx).foldl (fun s p =>
    (p.1.saved.filter fun v => CoreIx.die v.core == d).foldl (fun s v => s.loseSaved p.2 v) s) s

/-- Cores lose power; a quad is lost with the last of its cores, and a die with all of its own, whether or not they had power. -/
def State.lose (s : State) (ks : List CoreIx) : State :=
  let s := (ks.filter fun k => (s.core k).powered).foldl State.loseCore s
  let s := (List.finRange 48).foldl (fun s q =>
    if (ks.any fun k => CoreIx.quad k == q) &&
        (List.finRange 192).all fun k => CoreIx.quad k != q || !(s.core k).powered then s.loseQuad q else s) s
  (List.finRange 4).foldl (fun s d =>
    if (List.finRange 192).all fun k => CoreIx.die k != d || ks.contains k then s.loseDie d else s) s

/-- Whether a context's next instruction is a PFENCE.CORE that its drained lanes let run (R277, R307). -/
def State.atPfenceCore (s : State) (c : CtxIx) : Bool :=
  let x := s.ctx c
  x.task.isSome && !x.down && (s.core (CtxIx.core c)).powered && x.parked.isNone && x.drained &&
    match ({ s with cur := c } : State).fetchWord with
    | .ok (w, _) => (match decodeS w with | .ok .pfenceCore => true | _ => false)
    | .error _ => false

/-- A PFENCE.CORE that the loss cuts short (R307, Table 19-12): its steps 1 and 2 are done, and of step 3 the slot that does
not hold the latest record has STATE 1. -/
def State.cutFence (s : State) (c : CtxIx) : State :=
  if s.atPfenceCore c then
    let s := s.persistOwn c
    let s := s.setCore (CtxIx.core c) (s.core (CtxIx.core c)).persistImage
    s.setCtx c (s.ctx c).openSlot
  else s

/-- UNPLANNED_POWER_LOSS (R275): the loss of single cores, or of a die when every core of it is named; `cut` names contexts
whose PFENCE.CORE it interrupts. Stores that an L1 alone holds may be lost; every other access has been performed at its home when
its step ends, so none of them is lost on the way. -/
def execUnplannedPowerLoss (ks : List CoreIx) (cut : List CtxIx) (s : State) : Host.Outcome State Fault Refusal :=
  .next (((cut.filter fun c => ks.contains (CtxIx.core c)).foldl State.cutFence s).lose ks)

/-! ### Resumption -/

/-- Step 1 of R309: the valid image with the highest sequence, LEN as PSPB and the size in force. -/
def State.restoreScratch (s : State) (k : CoreIx) : State :=
  let s := s.loseScratch k
  let x := s.core k
  let useB := x.imageB.valid && (!x.imageA.valid || decide (x.imageA.seq < x.imageB.seq))
  let i := if useB then x.imageB else x.imageA
  let n := if i.valid then i.len else 0
  s.setCore k { (x.setScratch 0 (if i.valid then i.bytes else [])) with
    powered := true, currentB := useB, pspb := n, pspbForce := n, vcap := 8, lratio := 1 }

/-- A feed slot after a restore: the ferry fetches again what it had fetched for an input feed and FLD had not moved (R74). -/
def FeedSlot.refetch (f : FeedSlot) : FeedSlot :=
  if f.out || !f.live then f else { f with st := .open, ferry := f.pos, buf := [], fault := none }

/-- The registers a context resumes with (R74, R232, R303, R309, R310). -/
def HolmSlot.resumed (h : HolmSlot) (pstat : BitVec 2) : Regs :=
  let r := h.snap.getD Regs.reset
  let sc := { r.sc.detach with pstat := pstat, sup := false, pc := h.pc, ulipend := 0 }
  if pstat = 0 then { r with sc := sc, feeds := r.feeds.map FeedSlot.refetch }
  else { r with
    sc := { sc with ulinh := false, pc := if sc.rvec = 0 then h.pc else sc.rvec }
    feeds := Vector.replicate 4 FeedSlot.idle }

/-- A context that lost power resumes from its Holm slots, or is lost (R309 to R311). -/
def State.resumeDown (s : State) (c : CtxIx) : State :=
  let x := s.ctx c
  match x.task with
  | none => s.setCtx c { x with down := false }
  | some t =>
    match x.winner t with
    | none =>
      let y := x.vacate
      let s := s.setCtx c (y.setSc { y.regs.sc with pstat := 3 })
      s.resumeLost t c Cause.resumeLost.code 3
    | some (h, other) =>
      let p : BitVec 2 := if h.state = 3 then 0 else if other then 2 else 1
      s.occupy c t (h.resumed p) x.bars x.order (if p = 0 then x.holds else [])

/-- The launch of a gang that a context runs a task of. -/
def State.gangLaunch (s : State) (c : CtxIx) : Option (Nat × Launch) :=
  (s.gangTask c).bind fun t => (s.launches[t.launch]?).map fun l => (t.launch, l)

/-- Whether a context that lost power may resume: its core has power and LQB has been written on its die (R359); for a gang, this
holds of every such context, and each of its tasks that is saved has a context to resume on (R32, R310). -/
def State.mayResume (s : State) (c : CtxIx) : Bool :=
  (s.ctx c).down &&
    ((s.gangOf c).all fun k =>
      !(s.ctx k).down || ((s.core (CtxIx.core k)).powered && (s.die (CtxIx.die k)).lqWritten)) &&
    match s.gangLaunch c with
    | some (i, l) => (s.gangResume i l l.saved []).isSome
    | none => true

/-- A context that may resume does; the saved tasks of its gang resume with it (R32, R310). -/
def State.resumeWhole (s : State) (c : CtxIx) : State :=
  if !s.mayResume c then s
  else
    let t := s.resumeDown c
    match s.gangLaunch c with
    | some (i, l) =>
      (match s.gangResume i l l.saved [] with
        | some cs => if (t.launches[i]?).any fun m => m.resuming then (t.resumeNext i cs).1 else t
        | none => t)
    | none => t

/-- Saved tasks of a core whose save areas are lost and that no context holds a record of (R311). -/
def State.resumeLostSaved (s : State) (k : CoreIx) : State :=
  (s.launches.zipIdx).foldl (fun s p =>
    (p.1.saved.filter fun v => v.lost && v.core == k).foldl (fun s v =>
      (s.dropSaved p.2 v).resumeLost ⟨p.2, v.tid⟩ v.ctx Cause.resumeLost.code 3) s) s

/-- POWER_RESTORE (R309, R354, R359): a core regains power while the card has it, once LQB has been written on its die since the die
started; every context that may resume does. -/
def execPowerRestore (k : CoreIx) (s : State) : Host.Outcome State Fault Refusal :=
  let pending := !(s.core k).powered || ((coreCtxs k).any fun c => (s.ctx c).down) ||
    s.launches.any fun l => l.saved.any fun v => v.lost && v.core == k
  if !(s.die (CoreIx.die k)).lqWritten || !s.skerry.powered || !pending then .next s
  else
    let s := if (s.core k).powered then s else s.restoreScratch k
    let s := s.resumeLostSaved k
    .next ((List.finRange 1536).foldl State.resumeWhole s)

/-! ### Planned stop and trip -/

/-- PLANNED_STOP (R53, R308, R324, R325): Skerry stops a core when every context of it that holds a task, and of their gangs, runs
at user level and has a free slot. Until there are slots the core's clocks are held at the floor, and contexts at S level are
asked to stop. The scratchpad image is written and the core is without power. -/
def execPlannedStop (k : CoreIx) (s : State) : Host.Outcome State Fault Refusal :=
  let held := (coreCtxs k).filter fun c => (s.ctx c).task.isSome
  let cs := ((held.map s.gangOf).flatten).dedup
  if !(s.core k).powered then .next s
  else if !s.slotsFor cs then .next (s.setCore k { s.core k with floorHold := true })
  else if !s.userLevel cs then .next (s.askStop cs .planned)
  else
    let s := cs.foldl State.completePassed s
    if !s.userLevel cs then .next (s.askStop cs .planned)
    else
      let s := s.plannedStop cs
      let s := s.setCore k (s.core k).persistImage
      let s := { s with l1 := s.l1.filter fun e => e.core != k }
      .next (s.setCore k { s.core k with powered := false, floorHold := false })

/-- THERMAL_TRIP (R347, R354): at 115 °C (in sixteenths of a degree) every supply is removed; the effect on every die is
an unplanned loss. Nothing resumes before CARD_POWER_ON, and no unit dispatches before its LQB is written again (R354, R359). -/
def execThermalTrip (t : Nat) (s : State) : Host.Outcome State Fault Refusal :=
  if t < 115 * 16 then .next s
  else
    let s := s.lose (List.finRange 192)
    .next { s with
      dies := s.dies.map fun d => { d with lqWritten := false }
      skerry := { s.skerry with running := false, powered := false } }

end Sys2Proof.Machine
end

