-- ==== Sys2Proof/Machine/Boot.lean ====
section
/-!
DEFINITION. Start-up: the boot stages (R356), signed images (R357, R358), the supervisor (R359), the boot report (R360),
and LQB_WRITE (R34, R359).
-/
namespace Sys2Proof.Machine

/-! ### Signed images -/

/-- A signed image as its bytes: the 2,048-byte header of Table 25-2 and the payload. -/
structure Signed where
  bytes : List Byte
  deriving DecidableEq, Repr

/-- The `n`-byte field at an offset. -/
def Signed.field (i : Signed) (off n : Nat) : Nat := leNat ((i.bytes.drop off).take n)
/-- Payload of an image. -/
def Signed.payload (i : Signed) : List Byte := (i.bytes.drop 2048).take (i.field 0x10 8)
/-- Security version. -/
def Signed.version (i : Signed) : Nat := i.field 0x08 4

/-- The header conditions that both kinds share (R358). -/
def Signed.headerOk (i : Signed) (kind : Nat) : Bool :=
  decide (2048 ≤ i.bytes.length) && i.field 0 4 == 0x53494E48 && i.field 4 1 == kind && i.field 5 1 == 1 && i.field 6 2 == 0 &&
    i.field 0x0C 4 == 0 && decide (1 ≤ i.field 0x10 8) && decide (i.field 0x10 8 ≤ 64 * 2 ^ 20) &&
    decide (2048 + i.field 0x10 8 ≤ i.bytes.length) && i.field 0x20 4 % 4 == 0 && i.field 0x24 4 % 4 == 0 &&
    i.field 0x30 16 == 0 && i.field 0xD0 4 == 1452 && i.field 0xD4 4 == 0 && i.field 0x684 (2048 - 0x684) == 0

/-- A patch leaves the load PA and the boot choices zero. -/
def Signed.patchOk (i : Signed) : Bool := i.headerOk 1 && i.field 0x18 8 == 0 && i.field 0x28 8 == 0

/-- Usable LSHARE (R248). -/
def lshareOk (parity : Bool) (n : Nat) : Bool := decide (1 ≤ n) && decide (n ≤ if parity then 230 else 238)

/-- A supervisor's boot choices and its place lie within R248 and die 0's local region (R358). -/
def Signed.supOk (i : Signed) : Bool :=
  let par := i.field 0x28 1
  let n := i.field 0x29 1
  let load := i.field 0x18 8
  i.headerOk 2 && decide (par ≤ 1) && i.field 0x2A 6 == 0 && lshareOk (par == 1) n && load % 0x10000 == 0 &&
    decide (localBase 0 ≤ load) && decide (load + i.field 0x10 8 ≤ localBase 0 + n * 2 ^ 30)

/-- The bytes that both signatures cover. -/
def Signed.covered (i : Signed) : List Byte := i.bytes.take 0x70
/-- The payload hash matches (R358). -/
def Signed.hashOk (i : Signed) : Bool := sha384 i.payload == (i.bytes.drop 0x40).take 48
/-- Both signatures verify under the keys held in ROM (R357, R358); r and s are little-endian, as R4 has the values of several bytes
(DEDUCED, log entry 43). -/
def Signed.signedOk (i : Signed) : Bool :=
  ecdsaVerify (Config.romEcdsaKey.1.toNat, Config.romEcdsaKey.2.toNat) (sha384 i.covered) (i.field 0x70 48) (i.field 0xA0 48) &&
    lmsVerify (beBytes 16 Config.romLmsId.toNat) (beBytes 32 Config.romLmsRoot.toNat) i.covered ((i.bytes.drop 0xD8).take 1452)

/-- Admission (R358): the header, the payload hash, both signatures, the fused minimum. -/
def admitted (k : Skerry) (kind : Nat) (i : Signed) : Bool :=
  (if kind = 1 then i.patchOk else i.supOk) && i.hashOk && i.signedOk && decide (k.minVer.getD (kind - 1) 0 ≤ i.version)

/-- Copy A if it is admitted, else copy B if it is (R356). -/
def chooseCopy (k : Skerry) (kind : Nat) (a b : List Byte) : Option Signed :=
  if admitted k kind ⟨a⟩ then some ⟨a⟩ else if admitted k kind ⟨b⟩ then some ⟨b⟩ else none

/-! ### The module as it gains power -/

/-- The module as power is applied: registers at their reset values, persistent and external state kept: Holm windows and
records, CYCLE as saved, which is 0 until a value has been (R85), fuses, fabric media. Launches with a task to resume, or to report as lost
(R309, R311), are kept; the other records of the dispatch units are forgotten (log entry 18). -/
def State.powerUp (s : State) : State :=
  let live := fun (i : Nat) => s.ctxs.toList.any fun x => x.down && x.task.any fun t => t.launch == i
  { s with
    ctxs := s.ctxs.map fun x => if x.down then x else { Context.reset with holmA := x.holmA, holmB := x.holmB }
    cores := s.cores.map fun k => { Core.reset with
      pool0 := k.pool0, pool1 := k.pool1, pool2 := k.pool2, cycle := k.cycleSaved,
      cycleSaved := k.cycleSaved, scratch := k.scratch, scratchBase := k.scratchBase,
      imageA := k.imageA, imageB := k.imageB, currentB := k.currentB, powered := k.powered }
    quads := s.quads.map fun q => { Quad.reset with grad := q.grad, gradBase := q.gradBase }
    dies := Vector.replicate 4 Die.reset
    ports := Vector.replicate 8 Port.reset
    host := { HostPage.reset with sent := s.host.sent }
    skerry := { Skerry.reset with minVer := s.skerry.minVer, reports := s.skerry.reports, lmsLeaf := s.skerry.lmsLeaf }
    launches := s.launches.mapIdx fun i l =>
      if live i || !l.saved.isEmpty || l.st == .done || l.st == .rejected then l else { l with st := .done, failed := true }
    qwaits := [], bwaits := [], binds := [], counts := [], nsends := [], jobs := [], contribs := [], retire := [], lpFailed := []
    dirty := [], l1 := [], agenda := [] }

/-- BOOTST (Table 25-3). -/
def bootWord (stage err : Nat) (parity patch : Bool) : Word64 :=
  BitVec.ofNat 64 (stage + err * 2 ^ 4 + parity.toNat * 2 ^ 12 + patch.toNat * 2 ^ 13)

/-- A fatal failure (R356): the compute dies stay unstarted. -/
def State.bootFail (s : State) (err : Nat) (parity patch : Bool) : State :=
  { s with host := { s.host with bootst := bootWord 15 err parity patch } }

/-! ### The ROM's table -/

/-- Where the ROM builds its root table; the manual does not say (log entry 19). -/
def romRoot : Nat := 0x20000

/-- A 64 KiB leaf of the ROM's identity map: V, R, W, and X for the image; supervisor only (R257, R359). -/
def romLeaf (pa home : Nat) (x : Bool) : Nat := 1 + 2 + 4 + (if x then 8 else 0) + home * 2 ^ 7 + pa / 2 ^ 12 * 2 ^ 12

/-- What the ROM writes before the compute dies start. -/
def State.romWrite (s : State) (a : Nat) (bs : List Byte) : State := { s with mem := s.mem.putBytes a bs }
/-- Writes one table entry. -/
def State.putEntry (s : State) (a x : Nat) : State := s.romWrite a (leBytes 8 x)

/-- The page tables of the ROM's map are five level-3 tables: package HBM4E (0), dispatch pages (1), port pages (2), and
the one or two that hold the supervisor's image (3, 4). -/
def romL3 (k : Nat) : Nat := romRoot + 0x20000 * (k + 1)

/-- Maps one page identically through level-3 table `k`. -/
def State.romPage (s : State) (k pa home : Nat) (x : Bool) : State :=
  let l1 := pa / 2 ^ 39 % 512
  let l2 := romRoot + 0x2000 + 0x1000 * l1
  let s := s.putEntry romRoot (romRoot + 0x1000 + 1)
  let s := s.putEntry (romRoot + 0x1000 + 8 * l1) (l2 + 1)
  let s := s.putEntry (l2 + 8 * (pa / 2 ^ 30 % 512)) (romL3 k + 1)
  s.putEntry (romL3 k + 8 * (pa / 2 ^ 16 % 16384)) (romLeaf pa home x)

/-- The identity map of R359: the image, the boot report, the dispatch pages and the port pages, and nothing else: the tables are
cleared first. -/
def State.romMap (s : State) (load len : Nat) : State :=
  let s := s.romWrite romRoot (List.replicate (romL3 5 - romRoot) 0)
  let s := s.romPage 0 0 7 false
  let s := s.romPage 1 0xF000000000 7 false
  let s := (List.range 8).foldl (fun s p => s.romPage 2 (0xF100000000 + p * 0x10000) 7 false) s
  (List.range ((len + 0xFFFF) / 0x10000)).foldl (fun s i =>
    let pa := load + i * 0x10000
    s.romPage (if pa / 2 ^ 30 = load / 2 ^ 30 then 3 else 4) pa 0 true) s

/-! ### The boot report -/

/-- A bitmap of listed positions. -/
def bitmapOf (l : List Nat) (n : Nat) : Nat := packBits (fun i => l.contains i) n

/-- Puts a part of the boot report in its place. -/
def patchBytes (l : List Byte) (off : Nat) (bs : List Byte) : List Byte := l.take off ++ bs ++ l.drop (off + bs.length)
/-- SHA-384 of an image's header; zero where there is none. -/
def headerDigest (i : Option Signed) : List Byte := (i.map fun i => sha384 (i.bytes.take 2048)).getD (List.replicate 48 0)

/-- The 1,612 bytes of an attestation signature with LMS_SHA256_M32_H15 and LMOTS_SHA256_N32_W8: leaf index and typecodes as RFC 8554
places them, and what the device's key makes of the message (R360; log entry 43). -/
def lmsReport (leaf : Nat) (m : List Byte) : List Byte :=
  let x := leBytes 1600 (Config.attestLms leaf m).toNat
  beBytes 4 leaf ++ beBytes 4 lmotsW8 ++ x.take 1120 ++ beBytes 4 lmsH15 ++ x.drop 1120

/-- The part of the boot report that is signed, 0x000 to 0x0FF (R360); `f` fills what the manual gives no value. -/
def State.signedReport (s : State) (patch : Option Signed) (sup : Signed) (t : Training) (f : List Byte) : List Byte :=
  let head := leBytes 8 s.host.bootst.toNat ++ (List.range 4).flatMap (fun n => leBytes 8 (s.feature n).toNat) ++
    leBytes 1 s.skerry.lshare ++ leBytes 2 (bitmapOf (t.badStacks.map (·.val)) 16) ++ leBytes 1 (bitmapOf (t.badPorts.map (·.val)) 8)
  head ++ (f.take 0x40).drop head.length ++ leBytes 48 Config.romDigest.toNat ++ headerDigest patch ++ headerDigest (some sup) ++ leBytes 4 ((patch.map Signed.version).getD 0) ++ leBytes 4 sup.version ++
    leBytes 16 Config.deviceId.toNat ++ leBytes 4 (s.skerry.reports + 1).toNat ++ leBytes 20 0

/-- The boot report (R360): both signatures cover its first 256 bytes. The incremented leaf index is persistent before the ROM signs
with it; once all 32,768 leaves are used the LMS field is zero. What the manual gives no value is free (log entry 6), and the report
counter counts the reports written (log entry 19). -/
def State.bootReport (s : State) (patch : Option Signed) (sup : Signed) (t : Training) (certs : List Byte) : State :=
  let (f, s) := s.free 65536
  let m := s.signedReport patch sup t (leBytes 64 f.toNat)
  let leaf := s.skerry.lmsLeaf
  let left := decide (leaf < 32768)
  let l := patchBytes (leBytes 8192 f.toNat) 0
    (m ++ leBytes 96 (Config.attestEcdsa m).toNat ++ (if left then lmsReport leaf m else List.replicate 1612 0))
  let l := patchBytes l 0x800 (certs.take 0x1800)
  ({ s with skerry := { s.skerry with
      reports := s.skerry.reports + 1, lmsLeaf := if left then leaf + 1 else leaf } } : State).romWrite 0 l

/-! ### The supervisor -/

/-- The supervisor's task, as the model keeps it: a launch of one task that names no objects (log entry 5). -/
def supLaunch (pc stvec satp : Word64) : Launch where
  die := 0
  image := pc
  entry := 0
  count := 1
  tpc := 1
  cpq := 1
  qpd := 1
  dies := 1
  gang := false
  prio := 0
  tag := 0
  pool0 := 0
  pool1 := 0
  pool2 := 0
  arg := 0
  signal := 0
  dep := 0
  token := 0
  satp := satp
  stvec := stvec
  st := .running
  readyAt := 0
  next := 1
  ended := []
  failed := false
  favoured := false
  bound := [((0, 0, 0), 0)]
  saved := []

/-- Starts the supervisor on context 0 of core 0 at S level (R359); x10 holds the boot report's address. -/
def State.startSupervisor (s : State) (pc stvec : Word64) : State :=
  let satp : Word64 := BitVec.ofNat 64 (romRoot / 2 ^ 12)
  let l := supLaunch pc stvec satp
  let i := s.launches.length
  let s := match (s.ctx 0).task with
    | some t => (s.setCtx 0 (s.ctx 0).vacate).resumeLost t 0 Cause.resumeLost.code 3
    | none => s
  let s := if (s.core 0).powered then s else s.restoreScratch 0
  let s := { s with launches := s.launches ++ [l] }
  let sc := { l.startScalar 0 s.freeCtr with sup := true, x := Scalar.reset.x }
  let r := { l.startRegs 0 s.freeCtr with sc := sc }
  let s := ({ s with freeCtr := s.freeCtr + 591 } : State).occupy 0 ⟨i, 0⟩ r (Vector.replicate 4 0) s.nextId []
  s.setCtx 0 (s.ctx 0).clearHolm

/-- A port as it is trained (R356): offline where it fails, else up with the peer's id (R328). -/
def Port.trained (p : Port) (bad : Bool) (peer : BitVec 12) : Port :=
  if bad then { p with down := true } else { p with lanes := lanesCode p.laneCap, npeer := peer }

/-- CARD_POWER_ON (R356 to R360): the stages of Table 25-1; `t` says how training ends. -/
def execCardPowerOn (f : Flash) (t : Training) (s : State) : Host.Outcome State Fault Refusal :=
  if s.skerry.booted && s.skerry.powered then .next s
  else
    let s := s.powerUp
    let patch := chooseCopy s.skerry 1 f.patchA f.patchB
    match chooseCopy s.skerry 2 f.supA f.supB with
    | none => .next (s.bootFail 2 false patch.isSome)
    | some sup =>
      let par := sup.field 0x28 1 == 1
      let s := { s with skerry := { s.skerry with parity := par, lshare := sup.field 0x29 1 } }
      if !t.sound then .next (s.bootFail 3 par patch.isSome)
      else if (List.finRange 16).all fun k => t.badStacks.contains k then .next (s.bootFail 4 par patch.isSome)
      else
        let s := (List.finRange 4).foldl (fun s d => s.setDie d { s.die d with
          offline := (List.range 4).filter fun j => t.badStacks.any fun k => k.val == d.val * 4 + j }) s
        let s := (List.finRange 8).foldl (fun s p =>
          s.setPort p ((s.port p).trained (t.badPorts.contains p) t.peers[p.val])) s
        let load := sup.field 0x18 8
        let err := if patch.isSome then 0 else 1
        let s := { s with
          host := { s.host with bootst := bootWord 2 err par patch.isSome }
          skerry := { s.skerry with booted := true, powered := true, running := true } }
        let s := (s.romWrite load sup.payload).bootReport patch sup t f.certs
        let s := s.romMap load sup.payload.length
        let at_ := fun off => BitVec.ofNat 64 (load + sup.field off 4)
        let s := s.startSupervisor (at_ 0x20) (at_ 0x24)
        let s := s.setSc 0 ((s.sc 0).wx 10 0)
        .next { s with
          host := { s.host with bootst := bootWord 3 err par patch.isSome }
          skerry := { s.skerry with
            minVer := [s.skerry.minVer.getD 0 0, Nat.max (s.skerry.minVer.getD 1 0) sup.version] } }

/-- LQB_WRITE (R34, R359): a die's LQB is written; its dispatch unit may dequeue. -/
def execLqbWrite (d : DieIx) (v : Word64) (s : State) : Host.Outcome State Fault Refusal := .next (s.setLqb d v)

end Sys2Proof.Machine
end

