-- ==== Sys2Proof/Machine/Governor.lean ====
section
/-!
DEFINITION. Power and thermal control: PACE notices (R335, R351, R352), the governor's period (R345 to R347), the damage
integral (R348), the hard gradient, the current limit (R350) and Skerry's watchdog (R353). Temperatures are in sixteenths
of a degree or kelvin (log entry 21).
-/
namespace Sys2Proof.Machine

/-! ### PACE notices -/

/-- The bytes of a notice: its fields in the order of R335, from the lowest bit up (log entry 12). -/
def noticeBytes (n : Notice) : List Byte :=
  leBytes 10 ((if n.release then 2 else 1) + n.ceiling.toNat * 2 ^ 8 + n.tag.toNat * 2 ^ 16 + n.origin.toNat * 2 ^ 32 +
    n.seq.toNat * 2 ^ 44)

/-- Sends a ceiling or a release for a tag through the ports of a mask (R335). -/
def State.sendNotice (s : State) (mask : Nat) (tag : BitVec 16) (ceiling : Nat) (release : Bool) : State :=
  let seq := s.skerry.sendSeq + 1
  let n : Notice := ⟨release, BitVec.ofNat 8 ceiling, tag, s.host.nself, seq⟩
  let s := { s with skerry := { s.skerry with sendSeq := seq } }
  (List.finRange 8).foldl (fun s p =>
    if ebit mask p.val && !(s.port p).down then s.transmit p 3 0 (s.header 4 0 0 0 0 0 0) (noticeBytes n) else s) s

/-- The entry with the highest ceiling. -/
def highest : List Notice → Option Notice
  | [] => none
  | n :: t =>
    match highest t with
    | none => some n
    | some m => if ceilingRead m.ceiling.toNat ≤ ceilingRead n.ceiling.toNat then some n else some m

/-- A received notice takes effect (R335). -/
def Skerry.apply (k : Skerry) (n : Notice) : Skerry :=
  let same := fun e : Notice => e.tag == n.tag && e.origin == n.origin
  if k.ceilings.any fun e => same e && decide (n.seq.toNat < e.seq.toNat) then k
  else
    let rest := k.ceilings.filter fun e => !same e
    if n.release then { k with ceilings := rest }
    else if rest.length < 64 then { k with ceilings := rest ++ [n] }
    else
      match highest rest with
      | some m =>
        if ceilingRead n.ceiling.toNat < ceilingRead m.ceiling.toNat then { k with ceilings := rest.erase m ++ [n] } else k
      | none => k

/-- PACE_NOTICE_RECEIVE (R335, R353): applied while the governor runs; else held in the port's 16 entries, or dropped. -/
def execPaceNoticeReceive (p : PortIx) (n : Notice) (s : State) : Host.Outcome State Fault Refusal :=
  if s.skerry.running then .next { s with skerry := s.skerry.apply n }
  else
    let x := s.port p
    .next (if x.paceBuf.length < 16 then s.setPort p { x with paceBuf := x.paceBuf ++ [n] } else s)

/-! ### The governor -/

/-- The measures of Table 24-2 after `n` steps: first the lanes, then VCAP, then the row cap, then the clocks; each step
takes one unit (log entry 21). -/
def State.measures (s : State) (q : QuadIx) (n : Nat) : State :=
  let s := s.setQuad q { s.quad q with
    measure := n, rowCap := 128 - 16 * Nat.min 7 (n - 8), govClk := 16 - Nat.min 15 (n - 15) }
  ((List.finRange 192).filter fun k => CoreIx.quad k == q).foldl (fun s k =>
    s.setCore k { s.core k with lratio := if 1 ≤ n then 2 else 1, vcap := BitVec.ofNat 4 (8 - Nat.min 7 (n - 1)) }) s

/-- Throttle: Tq > 105 °C; sustained gradient: Gq > 15 K (Table 24-3). -/
def Quad.hot (q : Quad) : Bool := decide (105 * 16 < q.tq) || decide (15 * 16 < q.gq)
/-- Periods for which a limit has stayed cleared, after one more with the reading `t`: it is exceeded above `hi`, and cleared once
the reading has stayed at or below `lo` for 10 ms, which is 100 periods (Table 24-3). -/
def coolFor (n lo hi t : Nat) : Nat :=
  if hi < t then 0 else if t ≤ lo ∨ 100 ≤ n then Nat.min 100 (n + 1) else 0
/-- The throttle limit is cleared. -/
def Quad.clear (q : Quad) : Bool := decide (100 ≤ q.coolT)
/-- No limit is left that the measures of Table 24-2 were taken for. -/
def Quad.calm (q : Quad) : Bool := q.clear && decide (100 ≤ q.coolG)

/-- A quad as it is sampled (R346, Table 24-3). -/
def Quad.sample (q : Quad) (r : QuadReading) : Quad :=
  { q with
    tq := r.tq
    gq := r.gq
    coolT := coolFor q.coolT (100 * 16) (105 * 16) r.tq
    coolG := coolFor q.coolG (15 * 16) (15 * 16) r.gq }

/-- One quad's part of a period: sample, then a further step, or one undone once the causes have cleared for 10 ms (R345). -/
def State.governQuad (s : State) (q : QuadIx) (r : QuadReading) : State :=
  let x := (s.quad q).sample r
  let s := s.setQuad q x
  if x.hot then s.measures q (Nat.min 30 (x.measure + 1))
  else if x.calm then s.measures q (x.measure - 1)
  else s

/-- Job tags resident on the quads a test selects. -/
def State.tagsOn (s : State) (p : QuadIx → Bool) : List (BitVec 16) :=
  (((List.finRange 1536).filter fun c => (s.ctx c).task.isSome && p (CtxIx.quad c)).map fun c => s.tagOf (s.ctx c).task).dedup

/-- The ports of a tag's PACE_LIST entry. -/
def State.paceMask (s : State) (tag : BitVec 16) : Nat :=
  ((s.host.pace.toList.find? fun e => e.2.2 && e.1 == tag).map fun e => e.2.1.toNat).getD 0

/-- One tag's part of the thermal emergency (R351): 12 first, then lower by 2 down to 1, each with a notice. -/
def State.emergency (s : State) (tag : BitVec 16) : State :=
  let old := s.skerry.own.find? fun p => p.1 == tag
  let c := match old with
    | some p => Nat.max 1 (p.2 - 2)
    | none => 12
  let s := { s with skerry := { s.skerry with own := (tag, c) :: s.skerry.own.filter fun p => p.1 != tag } }
  s.sendNotice (s.paceMask tag) tag c false

/-- A tag whose every quad has cleared the limit is released (R351). -/
def State.relieve (s : State) (tag : BitVec 16) : State :=
  let carry := (List.finRange 48).filter fun q => (s.tagsOn fun k => k == q).contains tag
  if carry.all fun q => (s.quad q).clear then
    ({ s with skerry := { s.skerry with own := s.skerry.own.filter fun p => p.1 != tag } } : State).sendNotice
      (s.paceMask tag) tag 0 true
  else s

/-- GOVERNOR_PERIOD (R345 to R347, R351, R353): held notices are applied, every quad is sampled, and the emergency is
served. The readings are those of quads 0 to 47 in order; a quad with none keeps its last. -/
def execGovernorPeriod (r : List QuadReading) (s : State) : Host.Outcome State Fault Refusal :=
  if !s.skerry.powered then .next s
  else
    let s := (List.finRange 8).foldl (fun s p =>
      let k := (s.port p).paceBuf.foldl Skerry.apply s.skerry
      ({ s with skerry := k } : State).setPort p { s.port p with paceBuf := [] }) { s with skerry := { s.skerry with running := true } }
    let s := ((List.finRange 48).zip r).foldl (fun s p => s.governQuad p.1 p.2) s
    let hot := s.tagsOn fun q => decide (105 * 16 < (s.quad q).tq)
    let s := hot.foldl State.emergency s
    .next (((s.skerry.own.map (·.1)).filter fun t => !hot.contains t).foldl State.relieve s)

/-- WATCHDOG_RESET (R353): the compute dies are untouched; the governor is not running until its next period, and what it
set stays. -/
def execWatchdogReset (s : State) : Host.Outcome State Fault Refusal :=
  .next { s with skerry := { s.skerry with running := false } }

/-! ### Hardware limits -/

/-- The largest r below 2^b with r^k ≤ x. -/
def rootBelow (k x : Nat) : Nat → Nat
  | 0 => 0
  | b + 1 =>
    let r := rootBelow k (x / 2 ^ k) b * 2
    if (r + 1) ^ k ≤ x then r + 1 else r

/-- 2^((T − 95 °C) / 5 K) in units of 2^−16, rounded down; T in sixteenths of a degree, so the exponent is a multiple of
1/80. -/
def damageStep (t : Nat) : Nat := rootBelow 80 (2 ^ (t - 95 * 16 + 16 * 80)) ((t - 95 * 16) / 80 + 17)

/-- DAMAGE_UPDATE (R348): once in a millisecond, with the highest Tq sampled in it. -/
def execDamageUpdate (q : QuadIx) (t : Nat) (s : State) : Host.Outcome State Fault Refusal :=
  let x := s.quad q
  let d := if 95 * 16 < t then x.dq + damageStep t else x.dq
  let d := d * 1023 / 1024
  let f := if 2048 * 2 ^ 16 ≤ d then true else if d < 1024 * 2 ^ 16 then false else x.dmgForce
  .next (s.setQuad q { x with dq := d, dmgForce := f })

/-- HARD_GRADIENT (R347): Gq ≥ 20 K puts the quad's clocks at the floor. -/
def execHardGradient (q : QuadIx) (g : Nat) (s : State) : Host.Outcome State Fault Refusal :=
  let x := s.quad q
  .next (if 20 * 16 ≤ g then s.setQuad q { x with gq := g, hgForce := true } else s)
/-- HARD_GRADIENT_CLEAR (Table 24-3): Gq < 15 K. -/
def execHardGradientClear (q : QuadIx) (g : Nat) (s : State) : Host.Outcome State Fault Refusal :=
  let x := s.quad q
  .next (if g < 15 * 16 then s.setQuad q { x with gq := g, hgForce := false } else s)

/-- CURRENT_LIMIT (R350): above 1,200 A the clocks of the die fall by one sixteenth in each 100 ns, down to the floor. -/
def execCurrentLimit (d : DieIx) (amps : Nat) (s : State) : Host.Outcome State Fault Refusal :=
  let x := s.die d
  .next (if 1200 < amps then s.setDie d { x with droop := Nat.min 15 (x.droop + 1), droopLow := 0 } else s)
/-- DROOP_RELEASE (R350): one 100 ns below 1,150 A; after 10 µs of them the clocks rise by one sixteenth in each. -/
def execDroopRelease (d : DieIx) (amps : Nat) (s : State) : Host.Outcome State Fault Refusal :=
  let x := s.die d
  .next (if amps < 1150 then
      s.setDie d { x with droopLow := x.droopLow + 1, droop := if 100 ≤ x.droopLow + 1 then x.droop - 1 else x.droop }
    else s.setDie d { x with droopLow := 0 })

end Sys2Proof.Machine
end

