-- ==== Sys2Proof/Machine/HostPort.lean ====
section
/-!
DEFINITION. The host port: BAR0 and BAR2 (R336, R337), queue aliases (R338), the command set (R339 to R341, R343), MSI-X
(R342), and the writes of registers as events (R6, R336). The host path translates through HCSATP with supervisor access, as the
dies do through DSATP (R292; log entry 20).
-/
namespace Sys2Proof.Machine

/-- The agent of the host's command path (Table 23-4). -/
def State.hostAgent (s : State) : Agent := ⟨s.host.hcsatp, true, none, 0, .l2, none⟩

/-! ### BAR2 -/

/-- Whether a host access reaches memory: not the device registers, a peer aperture or an unpopulated address (R337). -/
def State.hostReach (s : State) (pa n : Nat) : Bool :=
  match s.skerry.region pa with
  | some (.device, _, _) | some (.peer _, _, _) | none => false
  | some (.fabric, _, _) => s.inExtent pa n
  | some _ => true

/-- HOST_WINDOW_ACCESS (R337): an access of up to 8 bytes at BAR2 offset `off`; Unsupported Request where it reaches no
memory or lies outside BAR2, and where a read meets an uncorrectable error (log entry 20). -/
def execHostWindowAccess (write : Bool) (off n : Nat) (data : Word64) (s : State) : Host.Outcome State Fault Refusal :=
  let pa := s.host.winbase.toNat + off
  let n := Nat.min n 8
  if !s.hostReach pa n || decide (2 ^ s.host.bar2 < off + n) || (!write && s.lostRange pa n) then
    .next { s with host := { s.host with hostUr := true, hostData := if write then s.host.hostData else 0 } }
  else if write then
    let s := s.storePhys none pa (leBytes n data.toNat)
    .next { s with host := { s.host with hostUr := false } }
  else .next { s with host := { s.host with hostUr := false, hostData := BitVec.ofNat 64 (s.mem.le pa n) } }

/-! ### Queue aliases -/

/-- Replaces an alias. -/
def State.setAlias (s : State) (a : Fin 8) (q : HostQueue) : State :=
  { s with host := { s.host with queues := s.host.queues.set a.val q } }

/-- The step of R338: k elements or none, which the host itself has written or read; a step that is refused sets AERR. A
block that fails its test is marked broken as for every queue operation (R284). -/
def State.aliasStep (s : State) (a : Fin 8) (k : Nat) : State :=
  let h := s.host.queues[a.val]
  let refuse := fun (s : State) => s.setAlias a { s.host.queues[a.val] with err := true }
  match s.blockLoc s.hostAgent h.qcb with
  | .error _ => refuse s
  | .ok l =>
    let (s, c) := s.qTest l ⟨s.hostAgent, none⟩
    match c with
    | some _ => refuse s
    | none =>
      let q := s.qcbAt l
      let avail := if h.pop then q.count else q.free
      if q.closed || decide (avail < k) || !(s.parkedOn l.key (!h.pop)).isEmpty then refuse s
      else if h.pop then s.putQcb l { q with head := (q.head + k) % 2 ^ 32, free := q.free + k }
      else s.putQcb l { q with tail := (q.tail + k) % 2 ^ 32, free := q.free - k }

/-- ALIAS_PUSH (R338): a write of k to ACOUNT of an alias whose ADIR is 0. -/
def execHostPush (a : Fin 8) (k : BitVec 16) (s : State) : Host.Outcome State Fault Refusal :=
  .next (if s.host.queues[a.val].pop then s else s.aliasStep a k.toNat)
/-- ALIAS_POP (R338): the same with ADIR 1. -/
def execHostPop (a : Fin 8) (k : BitVec 16) (s : State) : Host.Outcome State Fault Refusal :=
  .next (if s.host.queues[a.val].pop then s.aliasStep a k.toNat else s)
/-- AERR_CLEAR (Table 23-4): AERR is W1C. -/
def execAerrClear (a : Fin 8) (s : State) : Host.Outcome State Fault Refusal :=
  .next (s.setAlias a { s.host.queues[a.val] with err := false })

/-! ### Commands -/

/-- GENS (Table 23-4). -/
def gensWord : Nat := 7
/-- Feature bits offered: those Table 23-6 names (log entry 20). -/
def offeredFeatures : Nat := 7

/-- The status of a fault that a command meets (R339). -/
def cmdStatus (c : Cause) : Nat := if c = .memUncorrectable then 7 else 4

/-- Completes a command (R339): the status word, then the signal object; a word that cannot be written is left. -/
def State.cmdDone (s : State) (c : Cmd) (status : Nat) : State :=
  let s := if c.status = 0 then s
    else
      match s.objLoc s.hostAgent c.status 8 .write with
      | .ok l => s.storeLoc none l (leBytes 8 status)
      | .error _ => s
  if c.signal = 0 then s
  else
    match s.objLoc s.hostAgent c.signal 8 .write with
    | .ok l => if status = 0 then s.signalSub l 1 else s.signalFail l
    | .error _ => s

/-- The command of a 64-byte element (R339). -/
def cmdOf (x : Nat) : Cmd where
  gen := bits x 16 8
  fence := ebit x 24
  tag := BitVec.ofNat 16 (bits x 32 16)
  signal := BitVec.ofNat 64 (bits x 64 64)
  status := BitVec.ofNat 64 (bits x 128 64)
  a0 := BitVec.ofNat 64 (bits x 192 64)
  a1 := BitVec.ofNat 64 (bits x 256 64)
  a2 := BitVec.ofNat 64 (bits x 320 64)
  a3 := BitVec.ofNat 64 (bits x 384 64)
  a4 := BitVec.ofNat 64 (bits x 448 64)

/-- The command of an opcode (Table 23-6). -/
def cmdOpOf (op : Nat) : Option CmdOp :=
  match op with
  | 0x01 => some .deviceQuery
  | 0x02 => some .driverAccept
  | 0x10 => some .copy
  | 0x11 => some .fill
  | 0x20 => some .extentAdd
  | 0x21 => some .extentRelease
  | 0x30 => some .linkState
  | 0x40 => some .paceList
  | 0x41 => some .paceSend
  | _ => none

/-- Firmware takes the next command from the queue of an alias and starts it (R338, R339): one with FENCE only when every earlier
one of the queue has completed; an unknown opcode completes with status 1. None is taken while the firmware does not run (R353),
or while an HCRESET waits (R341). A queue that cannot be used gives none (DESIGN CHOICE, log entry 20). An unknown opcode completes with
status 1 also before DRIVER_ACCEPT, where R341 gives every other command status 5 (DESIGN CHOICE, log entry 44). -/
def State.takeCommand (s : State) (a : Fin 8) : State :=
  if !s.skerry.running || !s.skerry.powered || s.host.resetPend then s
  else
    match s.qOp ⟨s.hostAgent, none⟩ s.host.queues[a.val].qcb ⟨false, 1, false, .raw (List.replicate 64 0), none⟩ with
    | .fault t _ => t
    | .park _ => s
    | .grant t g els =>
      let x := leNat (els.headD [])
      let c := cmdOf x
      if g = 0 ∨ (c.fence ∧ s.host.started.any fun p => p.1 == a) then s
      else
        match cmdOpOf (bits x 0 16) with
        | some op => { t with host := { t.host with started := t.host.started ++ [(a, op, c)] } }
        | none => t.cmdDone c 1

/-- A command leaves the list of those that have started. -/
def State.unstart (s : State) (op : CmdOp) (c : Cmd) : State :=
  { s with host := { s.host with started := s.host.started.eraseP fun p => p.2 == (op, c) } }

/-- Performs and completes a command that has started: `f` gives a status, or the state it leaves (R339). While the firmware does
not run, it waits (R353). -/
def State.command (s : State) (op : CmdOp) (c : Cmd) (f : Except Nat State) : Host.Outcome State Fault Refusal :=
  if !s.skerry.running || !s.host.started.any fun p => p.2 == (op, c) then .next s
  else
    match f with
    | .ok t => .next ((t.unstart op c).cmdDone c 0)
    | .error n => .next ((s.unstart op c).cmdDone c n)

/-- A command whose generation or feature has not been accepted (R340). -/
def unserved (g : Nat) (fs : Word64) (c : Cmd) (gen : Nat) (feat : Option Nat) : Bool :=
  decide (g < Nat.max c.gen gen) || feat.any fun b => !fs.getLsbD b

/-- The negotiation check of R340 and R341. -/
def State.accepts (s : State) (c : Cmd) (gen : Nat) (feat : Option Nat) : Except Nat Unit :=
  match s.host.accepted with
  | none => .error 5
  | some (g, fs) => if unserved g fs c gen feat then .error 2 else .ok ()

/-- The check for DEVICE_QUERY, which is served before any generation has been accepted (R340, R341). -/
def State.queryAccepts (s : State) (c : Cmd) : Except Nat Unit :=
  match s.host.accepted with
  | none => .ok ()
  | some (g, fs) => if unserved g fs c 1 none then .error 2 else .ok ()

/-- The locations of a range for a command. -/
def State.cmdSpan (s : State) (k : Kind) (a : Word64) (n : Nat) : Except Nat (List (Loc × Nat)) :=
  match s.span s.hostAgent k a n with
  | .ok l => .ok l
  | .error t => .error (cmdStatus t.cause)

/-- The 48 bytes of an offer entry (R343). -/
def offerBytes (o : Offer) : List Byte :=
  leBytes 1 o.port ++ leBytes 7 0 ++ leBytes 8 o.dpa ++ leBytes 8 o.len ++ leBytes 16 o.tag.toNat ++ leBytes 8 0

/-- The reply of DEVICE_QUERY (Table 23-6, R343); `rev` is the firmware revision, which the manual gives no value. -/
def State.queryReply (s : State) (rev : Word64) : List Byte :=
  let of := fun p => s.skerry.offers.filter fun o => o.port == p
  let b := leBytes 8 gensWord ++ leBytes 8 offeredFeatures ++ (List.range 4).flatMap (fun n => leBytes 8 (s.feature n).toNat) ++
    leBytes 4 s.host.nself.toNat ++ leBytes 4 s.skerry.lshare ++ leBytes 8 rev.toNat ++ List.replicate 64 0 ++
    leBytes 4 (of 0).length ++ leBytes 4 (of 1).length ++ List.replicate 120 0 ++ (of 0 ++ of 1).flatMap offerBytes
  b ++ List.replicate (8192 - b.length) 0

/-- DEVICE_QUERY (R340, R343). -/
def execDeviceQuery (c : Cmd) (s : State) : Host.Outcome State Fault Refusal :=
  s.command .deviceQuery c (do
    s.queryAccepts c
    if c.a0.toNat % 64 != 0 then .error 3
    let l ← s.cmdSpan .write c.a0 8192
    let (rev, s) := s.free 64
    pure (s.storeSpan none l (s.queryReply rev)))

/-- DRIVER_ACCEPT (R341). -/
def execDriverAccept (c : Cmd) (s : State) : Host.Outcome State Fault Refusal :=
  s.command .driverAccept c (
    if s.host.accepted.isSome then .error 5
    else if c.a0 = 0 ∨ 3 < c.a0.toNat ∨ 2 ^ 3 ≤ c.a1.toNat then .error 3
    else .ok { s with host := { s.host with accepted := some (c.a0.toNat, c.a1) } })

/-- HCRESET (R341): negotiation returns to its reset state once the commands in flight have completed. -/
def State.hcreset (s : State) : State :=
  if s.host.started.isEmpty then { s with host := { s.host with accepted := none, resetPend := false } }
  else { s with host := { s.host with resetPend := true } }
/-- HCRESET (R341). -/
def execHcreset (s : State) : Host.Outcome State Fault Refusal := .next s.hcreset

/-- COPY (Table 23-6): every byte is read before any is written. -/
def execCopy (c : Cmd) (s : State) : Host.Outcome State Fault Refusal :=
  s.command .copy c (do
    s.accepts c 1 none
    if 2 ^ 40 < c.a2.toNat then .error 3
    let src ← s.cmdSpan .read c.a1 c.a2.toNat
    let dst ← s.cmdSpan .write c.a0 c.a2.toNat
    pure (s.storeSpan none dst (s.loadSpan src)))

/-- FILL (Table 23-6). -/
def execFill (c : Cmd) (s : State) : Host.Outcome State Fault Refusal :=
  s.command .fill c (do
    s.accepts c 1 none
    let dst ← s.cmdSpan .write c.a0 c.a1.toNat
    let pat := leBytes 8 c.a2.toNat
    pure (s.storeSpan none dst ((List.range c.a1.toNat).map fun i => pat.getD (i % 8) 0)))

/-- 256 MiB. -/
def extentUnit : Nat := 2 ^ 28

/-- EXTENT_ADD (R252, R343). An extent added where another was released before holds the bytes that stood there (DESIGN CHOICE, log entry
44: R252 and R343 do not say what an added extent holds). -/
def execExtentAdd (c : Cmd) (s : State) : Host.Outcome State Fault Refusal :=
  s.command .extentAdd c (do
    s.accepts c 2 (some 0)
    let port := c.a0.toNat
    let dpa := c.a1.toNat
    let len := c.a2.toNat
    let pa := c.a3.toNat
    let es := s.skerry.extents
    if 1 < port ∨ pa % extentUnit ≠ 0 ∨ len % extentUnit ≠ 0 ∨ pa < 0x40000000000 ∨ 0x80000000000 < pa + len ∨
        es.any (fun e => decide (e.pa < pa + len) && decide (pa < e.pa + e.len)) then .error 3
    let hit := fun o : Offer => o.port == port && o.dpa == dpa && o.len == len
    if !s.skerry.offers.any hit ∨ 64 ≤ (es.filter fun e => e.port == port).length then .error 6
    pure { s with skerry := { s.skerry with
      extents := es ++ [⟨port, dpa, pa, len⟩], offers := s.skerry.offers.eraseP hit } })

/-- Cached translations whose page lies in a range go (step 2 of R253). -/
def State.dropRange (s : State) (pa len : Nat) : State :=
  let keep := fun t : TlbEntry => !(decide (ePa t.leaf.toNat < pa + len) && decide (pa < ePa t.leaf.toNat + t.size))
  { s with
    cores := s.cores.map fun k => { k with tlbS := k.tlbS.filter keep, tlbV := k.tlbV.filter keep }
    dies := s.dies.map fun d => { d with tlb2 := d.tlb2.filter keep } }

/-- Whether an access to a range has been translated and not performed (step 3 of R253), cached or through a UC page: a store that a
block holds back, an entry past its fault point, the bytes a feed will owe a barrier object, a contribution, an addition, or a transfer
with its completion. -/
def State.inFlight (s : State) (pa len : Nat) : Bool :=
  let hit := fun (k n : Nat) => decide (keyBytes k < pa + len) && decide (pa < keyBytes k + n)
  let at_ := fun (o : Option Nat) => o.any fun k => hit k 32
  (s.ctxs.toList.any fun x =>
    x.viq.any (·.passed.isSome) || (x.block.any fun b => b.stores.any fun w => hit w.1 w.2.length) ||
      x.regs.feeds.any fun f => at_ (f.bo.map BitVec.toNat)) ||
    (s.contribs.any fun c => hit c.hdr 16 || (c.dests.any fun d => hit d.1 8) || at_ (c.ntf.map (·.1)) || at_ c.inBo) ||
    (s.counts.any fun c => hit c.obj 32) ||
    (s.jobs.any fun j => (j.src ++ j.res).any fun p => hit p.1 p.2) ||
    s.nsends.any fun x => at_ (x.ntf.map (·.1)) || match x.compl with
      | .none => false
      | .signal k | .barrier k => hit k 32

/-- EXTENT_RELEASE (R253, R343): it waits for the accesses that have been translated (step 3), and in one step drops the cached
translations, cleans the lines and returns the extent. -/
def execExtentRelease (c : Cmd) (s : State) : Host.Outcome State Fault Refusal :=
  let pa := c.a0.toNat
  let len := c.a1.toNat
  let hit := fun e : Extent => e.pa == pa && e.len == len
  if s.skerry.extents.any hit && s.inFlight pa len then .next s
  else
    s.command .extentRelease c (do
      s.accepts c 2 (some 0)
      if !s.skerry.extents.any hit then .error 3
      let s := s.dropRange pa len
      pure { s with
        dirty := s.dirty.filter fun e => !(decide (pa ≤ e.1) && decide (e.1 < pa + len))
        l1 := cleanL1 s.l1 none pa len
        skerry := { s.skerry with extents := s.skerry.extents.eraseP hit } })

/-- LINK_STATE (Table 23-6, R334): down, up, or a lane cap; a cap below the lanes in use has the link retrain. -/
def execLinkState (c : Cmd) (s : State) : Host.Outcome State Fault Refusal :=
  s.command .linkState c (do
    s.accepts c 2 (some 1)
    if h : c.a0.toNat < 8 then
      let p : PortIx := ⟨c.a0.toNat, h⟩
      let x := s.port p
      if c.a1 = 0 then pure (s.portOffline p)
      else if c.a1 = 1 then pure (s.setPort p { x with down := false, pausing := true })
      else if c.a1 = 2 ∧ (c.a2 = 4 ∨ c.a2 = 8 ∨ c.a2 = 16) then
        let n := c.a2.toNat
        let low := decide ((lanesCode n).toNat < x.lanes.toNat)
        pure (s.setPort p { x with laneCap := n, lanes := if low then lanesCode n else x.lanes, pausing := x.pausing || low })
      else .error 3
    else .error 3)

/-- PACE_LIST (Table 23-6): the tag's entry, or the lowest that is not enabled. -/
def execPaceList (c : Cmd) (s : State) : Host.Outcome State Fault Refusal :=
  s.command .paceList c (do
    s.accepts c 3 (some 2)
    if 2 ^ 16 ≤ c.a0.toNat ∨ 2 ^ 8 ≤ c.a1.toNat then .error 3
    let tag : BitVec 16 := c.a0.setWidth 16
    let e := (tag, (c.a1.setWidth 8 : BitVec 8), c.a2.getLsbD 0)
    let l := s.host.pace.toList
    let i := match l.findIdx? fun x => x.2.2 && x.1 == tag with
      | some i => some i
      | none => l.findIdx? fun x => !x.2.2
    match i with
    | none => if c.a2.getLsbD 0 then .error 6 else pure s
    | some i => pure { s with host := { s.host with pace := s.host.pace.mapFinIdx fun j x _ => if j = i then e else x } })

/-- PACE_SEND (Table 23-6, R335): a port of the mask that is offline is status 6. -/
def execPaceSend (c : Cmd) (s : State) : Host.Outcome State Fault Refusal :=
  s.command .paceSend c (do
    s.accepts c 3 (some 2)
    if 2 ^ 8 ≤ c.a0.toNat ∨ 2 ^ 16 ≤ c.a1.toNat ∨ 16 < c.a2.toNat then .error 3
    if (List.finRange 8).any fun p => ebit c.a0.toNat p.val && ((s.port p).down || (s.port p).lanes == 0) then .error 6
    pure (s.sendNotice c.a0.toNat (c.a1.setWidth 16) c.a2.toNat (c.a2 == 0)))

/-- Performs a command that has started (Table 23-6). -/
def State.runCommand (s : State) (op : CmdOp) (c : Cmd) : Host.Outcome State Fault Refusal :=
  match op with
  | .deviceQuery => execDeviceQuery c s
  | .driverAccept => execDriverAccept c s
  | .copy => execCopy c s
  | .fill => execFill c s
  | .extentAdd => execExtentAdd c s
  | .extentRelease => execExtentRelease c s
  | .linkState => execLinkState c s
  | .paceList => execPaceList c s
  | .paceSend => execPaceSend c s

/-- EXTENT_OFFER (R343): up to 64 offers are kept per port. -/
def execExtentOffer (o : Offer) (s : State) : Host.Outcome State Fault Refusal :=
  if decide (1 < o.port) || decide (64 ≤ (s.skerry.offers.filter fun x => x.port == o.port).length) then .next s
  else .next { s with skerry := { s.skerry with offers := s.skerry.offers ++ [o] } }

/-! ### MSI-X -/

/-- PHASE of the barrier object at an address of the host path; 0 where it cannot be read. -/
def State.hostPhase (s : State) (a : Word64) : BitVec 32 :=
  match s.objLoc s.hostAgent a 32 .read with
  | .ok l => BitVec.ofNat 32 (s.barAt l).phase
  | .error _ => 0

/-- Writes a binding; bits outside the fields are ignored (R342). -/
def State.bindMsix (s : State) (b : Fin 256) (obj ctl : Word64) : State :=
  let m : MsixBind := ⟨obj, (ctl.toNat % 256), ctl.toNat / 2 ^ 8 % 64, ctl.getLsbD 16, s.hostPhase obj, false⟩
  { s with host := { s.host with msix := s.host.msix.set b.val m } }

/-- MSIX_ARM (R342): the host writes the object and the control word of a binding. -/
def execMsixArm (b : Fin 256) (obj ctl : Word64) (s : State) : Host.Outcome State Fault Refusal := .next (s.bindMsix b obj ctl)

/-- Whether the condition of an armed binding holds (R342). -/
def State.msixHolds (s : State) (m : MsixBind) : Bool :=
  match m.kind with
  | 1 =>
    match s.objLoc s.hostAgent m.obj 8 .read with
    | .ok l => signalDone (s.loadLe l 8)
    | .error _ => false
  | 2 =>
    match s.blockLoc s.hostAgent m.obj with
    | .ok l => decide (1 ≤ (s.qcbAt l).count)
    | .error _ => false
  | 3 => s.hostPhase m.obj != m.phase
  | _ => false

/-- Armed bindings whose condition holds now have their message due, though it may cease to hold (R342). -/
def State.msixEvents (s : State) : State :=
  if s.host.msix.all fun m => !m.armed then s
  else
    { s with host := { s.host with msix := s.host.msix.map fun m =>
        if m.armed && !m.due && s.msixHolds m then { m with due := true } else m } }

/-- MSIX_MESSAGE (R337, R342): an armed binding whose condition holds, or has held since it was armed, sends its vector once and
disarms. -/
def execMsixMessage (b : Fin 256) (s : State) : Host.Outcome State Fault Refusal :=
  let m := s.host.msix[b.val]
  if m.armed && (m.due || s.msixHolds m) then
    .next { s with host := { s.host with
      sent := m.vec :: s.host.sent, msix := s.host.msix.set b.val { m with armed := false, due := false } } }
  else .next s

/-! ### Register writes -/

/-- A naturally aligned write of `n` bytes into a 64-bit register that holds `old`. -/
def merge (old v : Word64) (off n : Nat) : Word64 :=
  let sh := 8 * (off % 8)
  let mask : Word64 := BitVec.ofNat 64 ((2 ^ (8 * n) - 1) * 2 ^ sh)
  (old &&& ~~~mask) ||| (BitVec.ofNat 64 (v.toNat % 2 ^ (8 * n) * 2 ^ sh))

/-- A write of the control word of a queue alias (Table 23-4): ADIR, AERR (W1C), and the step of ACOUNT. A write whose ACOUNT bits
are 0 performs no step and sets no AERR (DESIGN CHOICE, log entry 39: R338 does not speak of k = 0). -/
def State.aliasControl (s : State) (a : Fin 8) (w : Word64) : State :=
  let h := s.host.queues[a.val]
  let s := s.setAlias a { h with pop := w.getLsbD 16, err := h.err && !w.getLsbD 17 }
  if w.toNat % 2 ^ 16 = 0 then s else s.aliasStep a (w.toNat % 2 ^ 16)

/-- A PACE_LIST entry as a register (Table 23-4). -/
def paceWord (e : BitVec 16 × BitVec 8 × Bool) : Word64 := BitVec.ofNat 64 (e.1.toNat + e.2.1.toNat * 2 ^ 16 + e.2.2.toNat * 2 ^ 24)
/-- The control word of an MSI-X binding (R342). -/
def MsixBind.word (m : MsixBind) : Word64 := BitVec.ofNat 64 (m.kind + m.vec * 2 ^ 8 + m.armed.toNat * 2 ^ 16)
/-- DEVID (Table 23-4). -/
def devId : Nat := 0x4481

/-- The 64-bit register at an offset of the host page (Table 23-4): ACOUNT and HCRESET read 0; none at an unassigned offset. -/
def HostPage.reg (h : HostPage) (r : Nat) : Option Word64 :=
  if r = 0x000 then some (BitVec.ofNat 64 (devId + gensWord * 2 ^ 16))
  else if r = 0x008 then some h.winbase
  else if r = 0x010 then some h.hcsatp
  else if r = 0x018 then some (h.nself.setWidth 64)
  else if hq : 0x020 ≤ r ∧ r < 0x0A0 then
    let q := h.queues[(r - 0x020) / 16]'(by omega)
    some (if (r - 0x020) % 16 = 0 then q.qcb else BitVec.ofNat 64 (q.pop.toNat * 2 ^ 16 + q.err.toNat * 2 ^ 17))
  else if r = 0x0A0 then some 0
  else if r = 0x0B0 then some h.bootst
  else if hp : 0x100 ≤ r ∧ r < 0x180 then some (paceWord (h.pace[(r - 0x100) / 8]'(by omega)))
  else none

/-- The 64-bit register at an 8-byte-aligned offset of BAR0 (Table 23-3); an unassigned offset reads a free value, as in the device
registers (log entry 9). -/
def State.bar0Reg (s : State) (r : Nat) : Word64 × State :=
  if r < 0x1000 then ((s.host.reg r).map fun v => (v, s)).getD (s.free 64)
  else if h : 0x1000 ≤ r ∧ r < 0x2000 then
    let m := s.host.msix[(r - 0x1000) / 16]'(by omega)
    (if r % 16 < 8 then m.obj else m.word, s)
  else if 0x100000 ≤ r ∧ r < 0x180000 then s.devRead (devReg (0xF100000000 + (r - 0x100000)))
  else s.free 64

/-- A naturally aligned read of `n` bytes of BAR0 by the host (R6, R336); what it returns is the last value read. -/
def State.hostRead (s : State) (off n : Nat) : State :=
  if !(n == 1 || n == 2 || n == 4 || n == 8) || off % n != 0 || decide (0x1000000 ≤ off) then s
  else
    let (v, t) := s.bar0Reg (off / 8 * 8)
    { t with host := { t.host with hostUr := false, hostData := BitVec.ofNat 64 (v.toNat / 2 ^ (8 * (off % 8)) % 2 ^ (8 * n)) } }

/-- The host sets BAR2's size: a power of two from 1 GiB to 1 TiB (R336). -/
def State.barSize (s : State) (n : Nat) : State :=
  if 30 ≤ n ∧ n ≤ 40 then { s with host := { s.host with bar2 := n } } else s

/-- A write into the host page (Table 23-4); unassigned offsets ignore it. Bits of a register to which the table gives neither a field nor
a reserved row, NSELF [63:12] and [63:25] of an entry of PACE_LIST among them, read 0 and ignore a write (DESIGN CHOICE, log entry 41). -/
def State.hostPageWrite (s : State) (off n : Nat) (v : Word64) : State :=
  let r := off / 8 * 8
  let h := s.host
  if r = 0x008 then { s with host := { h with winbase := merge h.winbase v off n &&& ~~~0x3FFFFFFF#64 } }
  else if r = 0x010 then { s with host := { h with hcsatp := merge h.hcsatp v off n } }
  else if r = 0x018 then { s with host := { h with nself := (merge (h.nself.setWidth 64) v off n).setWidth 12 } }
  else if hq : 0x020 ≤ r ∧ r < 0x0A0 then
    let a : Fin 8 := ⟨(r - 0x020) / 16, by omega⟩
    let q := h.queues[a.val]
    if (r - 0x020) % 16 = 0 then s.setAlias a { q with qcb := merge q.qcb v off n }
    else s.aliasControl a (merge (if q.pop then 0x10000 else 0) v off n)
  else if r = 0x0A0 then if (merge 0 v off n).getLsbD 0 then s.hcreset else s
  else if hp : 0x100 ≤ r ∧ r < 0x180 then
    let j := (r - 0x100) / 8
    let e := h.pace.toList.getD j (0, 0, false)
    let w := merge (paceWord e) v off n
    let e' := ((w.setWidth 16 : BitVec 16), ((w >>> 16).setWidth 8 : BitVec 8), w.getLsbD 24)
    { s with host := { h with pace := h.pace.mapFinIdx fun i x _ => if i = j then e' else x } }
  else s

/-- A write into BAR0 (Table 23-3): the host page, the MSI-X bindings, the port pages. -/
def State.bar0Write (s : State) (off n : Nat) (v : Word64) : State :=
  if off < 0x1000 then s.hostPageWrite off n v
  else if h : 0x1000 ≤ off ∧ off < 0x2000 then
    let b : Fin 256 := ⟨(off - 0x1000) / 16, by omega⟩
    let m := s.host.msix[b.val]
    if off % 16 < 8 then s.bindMsix b (merge m.obj v off n) m.word else s.bindMsix b m.obj (merge m.word v off n)
  else if 0x100000 ≤ off ∧ off < 0x180000 then s.devStore (0xF100000000 + (off - 0x100000)) n v.toNat
  else s

/-- REGISTER_WRITE (R6, R336): a naturally aligned write of 1, 2, 4 or 8 bytes at a device-register address, or, below
16 MiB, at an offset of BAR0. -/
def execRegisterWrite (pa n : Nat) (v : Word64) (s : State) : Host.Outcome State Fault Refusal :=
  if !(n == 1 || n == 2 || n == 4 || n == 8) || pa % n != 0 then .next s
  else if pa < 0x1000000 then .next (s.bar0Write pa n v)
  else .next (s.devStore pa n v.toNat)

/-- PSPB_WRITE (R82). -/
def execPspbWrite (c : CoreIx) (v : Word64) (s : State) : Host.Outcome State Fault Refusal := .next (s.writePspb c v)
/-- ULIPEND_CLEAR (R6, R143): ULIPEND is W1C. -/
def execUlipendClear (c : CtxIx) (v : Word64) (s : State) : Host.Outcome State Fault Refusal :=
  let sc := s.sc c
  .next (s.setSc c { sc with ulipend := sc.ulipend &&& ~~~(v.setWidth 16) })
/-- DFQLOST_CLEAR (R6, R319): DFQLOST is W1C. -/
def execDfqlostClear (d : DieIx) (v : Word64) (s : State) : Host.Outcome State Fault Refusal :=
  .next (s.devWrite (.dfqlost d) v v)

end Sys2Proof.Machine
end

