-- ==== Sys2Proof/Machine/Reliability.lean ====
section
/-!
DEFINITION. Failures of memory: channels and stacks (R259, R260), the LPDDR tier (R250), and errors on write-back (R322).
-/
namespace Sys2Proof.Machine

/-- Detail of a kind-8, 9 or 10 record: the stack, and the channel above it (log entry 13). -/
def stackDetail (stack ch : Nat) : Nat := stack + ch * 2 ^ 32

/-- A record about a stack, on the die that carries it (R367). -/
def State.stackRecord (s : State) (kind stack ch : Nat) : State :=
  s.faultRecord ⟨stack / 4 % 4, by omega⟩ { kind := kind, detail := stackDetail stack ch }

/-- A region switches to retired mode for a channel, or the channel waits for the rebuild that runs (R259, R260). -/
def State.retireIn (s : State) (ix c : Nat) : State :=
  let old := (s.retire.find? fun t => t.region == ix).getD ⟨ix, [], [], 0, false⟩
  let rest := s.retire.filter fun t => t.region != ix
  let w := regionChannel ix c
  if old.running then { s with retire := rest ++ [{ old with pending := old.pending ++ [c] }] }
  else
    ({ s with retire := rest ++ [{ old with channels := old.channels ++ [c], boundary := 0, running := true }] } : State).stackRecord
      8 w.1 w.2

/-- Whether a stack has retired a channel, or has one that failed and waits for its rebuild. -/
def State.stackRetired (s : State) (stack : Nat) : Bool :=
  s.retire.any fun t => (t.channels ++ t.pending).any fun c => (regionChannel t.region c).1 == stack

/-- CHANNEL_FAILURE (R259, R260): with parity, the first failure of a stack retires the channel in the region of its die
and in the package region, and a second one takes the stack offline; without parity the channel alone goes offline. -/
def execChannelFailure (stack : Fin 16) (ch : Fin 32) (s : State) : Host.Outcome State Fault Refusal :=
  let d : DieIx := ⟨stack.val / 4, by omega⟩
  let j := stack.val % 4
  if (s.die d).offline.contains j then .next s
  else if !s.skerry.parity then
    .next (s.setDie d { s.die d with offChans := (j, ch.val) :: (s.die d).offChans })
  else if s.stackRetired stack.val then
    .next ((s.setDie d { s.die d with offline := (s.die d).offline ++ [j] }).stackRecord 10 stack.val 0)
  else .next ((s.retireIn d.val (j * 32 + ch.val)).retireIn 4 (stack.val * 32 + ch.val))

/-- Lines of a region (R259). -/
def Skerry.regionLines (k : Skerry) (ix : Nat) : Nat := (if ix < 4 then k.lshare * 2 ^ 30 else k.pkgBytes) / 128

/-- REBUILD_MOVE (R259): one line moves to its retired-mode place; at the line count the rebuild is complete, and the next
one that waits starts. -/
def execRebuildMove (region : Fin 5) (s : State) : Host.Outcome State Fault Refusal :=
  match s.retire.find? fun t => t.region == region.val with
  | none => .next s
  | some t =>
    if !t.running then .next s
    else
      let rest := s.retire.filter fun u => u.region != region.val
      if t.boundary + 1 < s.skerry.regionLines region.val then
        .next { s with retire := rest ++ [{ t with boundary := t.boundary + 1 }] }
      else
        let w := regionChannel region.val (t.channels.getLastD 0)
        let s := ({ s with retire := rest ++ [{ t with boundary := s.skerry.regionLines region.val, running := false,
                                                       pending := t.pending.tail }] } : State).stackRecord 9 w.1 w.2
        match t.pending with
        | [] => .next s
        | c :: _ => .next (s.retireIn region.val c)

/-- LPDDR_CHANNEL_FAILURE (R250): the channel's lines are lost. -/
def execLpddrChannelFailure (ch : Nat) (s : State) : Host.Outcome State Fault Refusal :=
  .next { s with lpFailed := s.lpFailed ++ [ch] }

/-- Bytes of a line that were to be written back and are not: the home keeps what it held before (R322). What has been
persisted in a Holm window stands at its home. -/
def State.revert (s : State) (pa n : Nat) : State :=
  let hit := fun e : Nat × Byte => decide (pa ≤ e.1) && decide (e.1 < pa + n) &&
    !(inHolm e.1 && s.mram.byte e.1 == s.mem.byte e.1)
  { s with
    mem := (s.dirty.filter hit).foldl (fun m e => m.put e.1 e.2) s.mem
    dirty := s.dirty.filter fun e => !hit e
    l1 := cleanL1 s.l1 none pa n }

/-- A dirty line is written back: its home holds what was stored (R322), in an L1 too (R246). -/
def State.writeBack (s : State) (line : Nat) : State :=
  { s with
    dirty := s.dirty.filter fun e => e.1 / 128 != line / 128
    l1 := cleanL1 s.l1 none line 1 }

/-- WRITEBACK_ERROR (R322, R367): an error met as `bytes` bytes from `pa` are written back or merged. No trap; the home keeps what
it held, and a kind-3 record goes to the die of the L2 slice that homes the line. -/
def execWritebackError (pa bytes : Nat) (s : State) : Host.Outcome State Fault Refusal :=
  .next ((s.revert pa bytes).faultRecord (s.sliceDie pa) { kind := 3, pa := pa, detail := bytes })

end Sys2Proof.Machine
end

