-- ==== Sys2Proof/Machine/ScalarFp.lean ====
section
/-!
DEFINITION. Scalar floating point (R138).
-/
namespace Sys2Proof.Machine

/-- The element type of a scalar FP type field. -/
def fptType : FpT → EType
  | .f64 => .f64
  | .f32 => .f32
  | .f16 => .f16
  | .bf16 => .bf16
/-- The format of a scalar FP type field. -/
def fptFmt : FpT → Fmt
  | .f64 => fmtF64
  | .f32 => fmtF32
  | .f16 => fmtF16
  | .bf16 => fmtBf16
/-- The value of an x register read as FP: the bits above w are ignored (R138). -/
def fpVal (t : FpT) (x : Word64) : FV := (fptFmt t).decode (x.toNat % 2 ^ (fptFmt t).bits)
/-- The low w bits of an x register. -/
def fpBits (t : FpT) (x : Word64) : Nat := x.toNat % 2 ^ (fptFmt t).bits

/-- xd := the rounded result, zero above w; flags are ORed in program order (R134). -/
def Scalar.fpWrite (sc : Scalar) (d : XReg) (r : Nat × Flags) : Scalar :=
  (sc.wx d (BitVec.ofNat 64 r.1)).setFlags r.2

/-- An exact operation with its flags, rounded once (R105). -/
def fpFinish (t : FpT) (md : Mode) (v : FV × Flags) : Nat × Flags :=
  let (x, f) := (fptFmt t).round v.1 md
  (x, f ||| v.2)

/-- A two-operand operation. -/
def State.fp3 (s : State) (o : Fp3) (op : Mode → FV → FV → FV × Flags) : Host.Outcome State Fault Refusal :=
  s.scalar fun sc =>
    let md := rndMode o.r sc.frm
    sc.fpWrite o.d (fpFinish o.t md (op md (fpVal o.t (sc.rx o.a)) (fpVal o.t (sc.rx o.b))))

/-- FADD (R138). -/
def execFadd (o : Fp3) (s : State) : Host.Outcome State Fault Refusal := s.fp3 o FV.add
/-- FSUB (R138). -/
def execFsub (o : Fp3) (s : State) : Host.Outcome State Fault Refusal := s.fp3 o FV.sub
/-- FMUL (R138). -/
def execFmul (o : Fp3) (s : State) : Host.Outcome State Fault Refusal := s.fp3 o fun _ a b => FV.mul a b
/-- FDIV (R138). -/
def execFdiv (o : Fp3) (s : State) : Host.Outcome State Fault Refusal := s.fp3 o fun _ a b => FV.div a b
/-- FFMA (R138): a × b + the old xd, rounded once. -/
def execFfma (o : Fp3) (s : State) : Host.Outcome State Fault Refusal :=
  s.scalar fun sc =>
    let md := rndMode o.r sc.frm
    sc.fpWrite o.d (fpFinish o.t md (FV.fma md (fpVal o.t (sc.rx o.a)) (fpVal o.t (sc.rx o.b)) (fpVal o.t (sc.rx o.d))))
/-- FSQRT (R138). -/
def execFsqrt (o : X2) (t : FpT) (r : Rnd) (s : State) : Host.Outcome State Fault Refusal :=
  s.scalar fun sc => sc.fpWrite o.d (fpFinish t (rndMode r sc.frm) (FV.sqrt (fpVal t (sc.rx o.a))))
/-- FMIN (R138, R102). -/
def execFmin (o : Fp3n) (s : State) : Host.Outcome State Fault Refusal :=
  s.scalar fun sc => sc.fpWrite o.d ((fptFmt o.t).minMax false (fpBits o.t (sc.rx o.a)) (fpBits o.t (sc.rx o.b)))
/-- FMAX (R138, R102). -/
def execFmax (o : Fp3n) (s : State) : Host.Outcome State Fault Refusal :=
  s.scalar fun sc => sc.fpWrite o.d ((fptFmt o.t).minMax true (fpBits o.t (sc.rx o.a)) (fpBits o.t (sc.rx o.b)))
/-- FCMP (R138, R103). -/
def execFcmp (o : X3) (t : FpT) (c : Cond) (s : State) : Host.Outcome State Fault Refusal :=
  s.scalar fun sc =>
    let r := fpCompare c (fpVal t (sc.rx o.a)) (fpVal t (sc.rx o.b))
    sc.fpWrite o.d (if r.1 then 1 else 0, r.2)
/-- FCLASS (R138): sets no flag. -/
def execFclass (o : X2) (t : FpT) (s : State) : Host.Outcome State Fault Refusal :=
  s.scalar fun sc => sc.wx o.d (BitVec.ofNat 64 ((fptFmt t).classOf (fpBits t (sc.rx o.a))))

/-- An integer result is sign- or zero-extended under its type, an FP result zero-extended (R138). -/
def fcvtExtend (t : EType) (x : Nat) : Nat :=
  if t.isInt then intEnc 64 (intVal t x) else x
/-- A conversion of xa from type ts to type td (R104). -/
def State.fcvt (s : State) (d a : XReg) (td ts : EType) (r : Rnd) : Host.Outcome State Fault Refusal :=
  s.scalar fun sc =>
    let x := (sc.rx a).toNat % 2 ^ ts.width
    let (y, f) := convertVal td ts x (rndMode r sc.frm)
    sc.fpWrite d (fcvtExtend td y, f)
/-- FCVT to the FP type (R123, R138). -/
def execFcvtToFp (o : FpCvt) (s : State) : Host.Outcome State Fault Refusal := s.fcvt o.d o.a (fptType o.t) o.o o.r
/-- FCVT from the FP type (R123, R138). -/
def execFcvtFromFp (o : FpCvt) (s : State) : Host.Outcome State Fault Refusal := s.fcvt o.d o.a o.o (fptType o.t) o.r

end Sys2Proof.Machine
end

