-- ==== Sys2Proof/Machine/ScalarInt.lean ====
section
/-!
DEFINITION. Scalar integer instructions: register operations (R136, Table 8-1, R95) and immediates (R137).
-/
namespace Sys2Proof.Machine

/-- xd := f xa xb. Sources are read before the destination is written (R134). -/
def State.alu3 (s : State) (o : X3) (f : Word64 → Word64 → Word64) : Host.Outcome State Fault Refusal :=
  s.scalar fun sc => sc.wx o.d (f (sc.rx o.a) (sc.rx o.b))
/-- xd := f xa. -/
def State.alu2 (s : State) (d a : XReg) (f : Word64 → Word64) : Host.Outcome State Fault Refusal :=
  s.scalar fun sc => sc.wx d (f (sc.rx a))
/-- Division: DZ on a zero divisor (R95, R136). -/
def State.aluDiv (s : State) (o : X3) (f : Word64 → Word64 → Word64) : Host.Outcome State Fault Refusal :=
  s.scalar fun sc =>
    let r := sc.wx o.d (f (sc.rx o.a) (sc.rx o.b))
    if sc.rx o.b = 0 then r.setFlags 2#8 else r

/-- 1 or 0. -/
def bit64 (b : Bool) : Word64 := if b then 1 else 0
/-- b[5:0] (Table 8-1). -/
def shamt (b : Word64) : Nat := b.toNat % 64
/-- Signed quotient toward zero; −1 on a zero divisor; the minimum by −1 is the minimum (R95). -/
def divS (a b : Word64) : Word64 := if b = 0 then -1 else a.sdiv b
/-- Unsigned quotient; all ones on a zero divisor (R95). -/
def divU (a b : Word64) : Word64 := if b = 0 then -1 else a.udiv b
/-- Signed remainder with the sign of the dividend; the dividend on a zero divisor (R95). -/
def remS (a b : Word64) : Word64 := if b = 0 then a else a.srem b
/-- Unsigned remainder; the dividend on a zero divisor (R95). -/
def remU (a b : Word64) : Word64 := if b = 0 then a else a.umod b
/-- floor(sa × sb / 2^64). -/
def mulHiS (a b : Word64) : Word64 := BitVec.ofInt 64 ((a.toInt * b.toInt) / 2 ^ 64)
/-- floor(a × b / 2^64). -/
def mulHiU (a b : Word64) : Word64 := BitVec.ofNat 64 (a.toNat * b.toNat / 2 ^ 64)
/-- Zero bits above the highest set bit among the low `n` bits. -/
def clzFrom (a : Word64) : Nat → Nat
  | 0 => 0
  | n + 1 => if a.getLsbD n then 0 else 1 + clzFrom a n
/-- Leading zero bits; 64 when a = 0. -/
def clz64 (a : Word64) : Word64 := BitVec.ofNat 64 (clzFrom a 64)
/-- Zero bits from bit `i` upward, at most `n`. -/
def ctzFrom (a : Word64) (i : Nat) : Nat → Nat
  | 0 => 0
  | n + 1 => if a.getLsbD i then 0 else 1 + ctzFrom a (i + 1) n
/-- Trailing zero bits; 64 when a = 0. -/
def ctz64 (a : Word64) : Word64 := BitVec.ofNat 64 (ctzFrom a 0 64)
/-- Number of 1 bits among the low `n`. -/
def popcTo (a : Word64) : Nat → Nat
  | 0 => 0
  | n + 1 => popcTo a n + (if a.getLsbD n then 1 else 0)
/-- Number of 1 bits. -/
def popc64 (a : Word64) : Word64 := BitVec.ofNat 64 (popcTo a 64)
/-- Width of SEXT and ZEXT. -/
def extBits : ExtSize → Nat
  | .b => 8
  | .h => 16
  | .w => 32
/-- sext(a[w−1:0], w). -/
def sextTo (w : Nat) (a : Word64) : Word64 := (a.setWidth w).signExtend 64
/-- zext(a[w−1:0], w). -/
def zextTo (w : Nat) (a : Word64) : Word64 := (a.setWidth w).setWidth 64

/-- ADD (R136). -/
def execAdd (o : X3) (s : State) : Host.Outcome State Fault Refusal := s.alu3 o fun a b => a + b
/-- SUB (R136). -/
def execSub (o : X3) (s : State) : Host.Outcome State Fault Refusal := s.alu3 o fun a b => a - b
/-- AND (R136). -/
def execAnd (o : X3) (s : State) : Host.Outcome State Fault Refusal := s.alu3 o fun a b => a &&& b
/-- OR (R136). -/
def execOr (o : X3) (s : State) : Host.Outcome State Fault Refusal := s.alu3 o fun a b => a ||| b
/-- XOR (R136). -/
def execXor (o : X3) (s : State) : Host.Outcome State Fault Refusal := s.alu3 o fun a b => a ^^^ b
/-- ANDN (R136). -/
def execAndn (o : X3) (s : State) : Host.Outcome State Fault Refusal := s.alu3 o fun a b => a &&& ~~~b
/-- ORN (R136). -/
def execOrn (o : X3) (s : State) : Host.Outcome State Fault Refusal := s.alu3 o fun a b => a ||| ~~~b
/-- SLL (R136). -/
def execSll (o : X3) (s : State) : Host.Outcome State Fault Refusal := s.alu3 o fun a b => a <<< shamt b
/-- SRL (R136). -/
def execSrl (o : X3) (s : State) : Host.Outcome State Fault Refusal := s.alu3 o fun a b => a >>> shamt b
/-- SRA (R136). -/
def execSra (o : X3) (s : State) : Host.Outcome State Fault Refusal := s.alu3 o fun a b => a.sshiftRight (shamt b)
/-- SLT (R136). -/
def execSlt (o : X3) (s : State) : Host.Outcome State Fault Refusal := s.alu3 o fun a b => bit64 (a.slt b)
/-- SLTN (R136). -/
def execSltn (o : X3) (s : State) : Host.Outcome State Fault Refusal := s.alu3 o fun a b => bit64 (a.ult b)
/-- MIN (R136). -/
def execMin (o : X3) (s : State) : Host.Outcome State Fault Refusal := s.alu3 o fun a b => if a.slt b then a else b
/-- MAX (R136). -/
def execMax (o : X3) (s : State) : Host.Outcome State Fault Refusal := s.alu3 o fun a b => if a.slt b then b else a
/-- MINN (R136). -/
def execMinn (o : X3) (s : State) : Host.Outcome State Fault Refusal := s.alu3 o fun a b => if a.ult b then a else b
/-- MAXN (R136). -/
def execMaxn (o : X3) (s : State) : Host.Outcome State Fault Refusal := s.alu3 o fun a b => if a.ult b then b else a
/-- MUL (R136). -/
def execMul (o : X3) (s : State) : Host.Outcome State Fault Refusal := s.alu3 o fun a b => a * b
/-- MULH (R136). -/
def execMulh (o : X3) (s : State) : Host.Outcome State Fault Refusal := s.alu3 o fun a b => mulHiS a b
/-- MULHN (R136). -/
def execMulhn (o : X3) (s : State) : Host.Outcome State Fault Refusal := s.alu3 o fun a b => mulHiU a b
/-- DIV (R136, R95). -/
def execDiv (o : X3) (s : State) : Host.Outcome State Fault Refusal := s.aluDiv o divS
/-- DIVN (R136, R95). -/
def execDivn (o : X3) (s : State) : Host.Outcome State Fault Refusal := s.aluDiv o divU
/-- REM (R136, R95). -/
def execRem (o : X3) (s : State) : Host.Outcome State Fault Refusal := s.aluDiv o remS
/-- REMN (R136, R95). -/
def execRemn (o : X3) (s : State) : Host.Outcome State Fault Refusal := s.aluDiv o remU
/-- CLZ (R136). -/
def execClz (o : X2) (s : State) : Host.Outcome State Fault Refusal := s.alu2 o.d o.a clz64
/-- CTZ (R136). -/
def execCtz (o : X2) (s : State) : Host.Outcome State Fault Refusal := s.alu2 o.d o.a ctz64
/-- POPC (R136). -/
def execPopc (o : X2) (s : State) : Host.Outcome State Fault Refusal := s.alu2 o.d o.a popc64
/-- SEXT (R136). -/
def execSext (o : XExt) (s : State) : Host.Outcome State Fault Refusal := s.alu2 o.d o.a (sextTo (extBits o.s))
/-- ZEXT (R136). -/
def execZext (o : XExt) (s : State) : Host.Outcome State Fault Refusal := s.alu2 o.d o.a (zextTo (extBits o.s))
/-- SLLI (R136). -/
def execSlli (o : XSh) (s : State) : Host.Outcome State Fault Refusal := s.alu2 o.d o.a fun a => a <<< o.n.val
/-- SRLI (R136). -/
def execSrli (o : XSh) (s : State) : Host.Outcome State Fault Refusal := s.alu2 o.d o.a fun a => a >>> o.n.val
/-- SRAI (R136). -/
def execSrai (o : XSh) (s : State) : Host.Outcome State Fault Refusal := s.alu2 o.d o.a fun a => a.sshiftRight o.n.val
/-- ADDI (R137). -/
def execAddi (o : XImm) (s : State) : Host.Outcome State Fault Refusal := s.alu2 o.d o.a fun a => a + o.i.signExtend 64
/-- ANDI (R137). -/
def execAndi (o : XImm) (s : State) : Host.Outcome State Fault Refusal := s.alu2 o.d o.a fun a => a &&& o.i.setWidth 64
/-- ORI (R137). -/
def execOri (o : XImm) (s : State) : Host.Outcome State Fault Refusal := s.alu2 o.d o.a fun a => a ||| o.i.setWidth 64
/-- XORI (R137). -/
def execXori (o : XImm) (s : State) : Host.Outcome State Fault Refusal := s.alu2 o.d o.a fun a => a ^^^ o.i.setWidth 64
/-- SLTI (R137). -/
def execSlti (o : XImm) (s : State) : Host.Outcome State Fault Refusal := s.alu2 o.d o.a fun a => bit64 (a.slt (o.i.signExtend 64))
/-- SHORI (R137). -/
def execShori (o : XImm) (s : State) : Host.Outcome State Fault Refusal := s.alu2 o.d o.a fun a => (a <<< 16) + o.i.setWidth 64
/-- LIH: SHORI with xa = x0 (R137). -/
def execLih (d : XReg) (i : BitVec 16) (s : State) : Host.Outcome State Fault Refusal :=
  s.scalar fun sc => sc.wx d (i.setWidth 64)

end Sys2Proof.Machine
end

