-- ==== Sys2Proof/Machine/Dispatch.lean ====
section
/-!
DEFINITION. The dispatch: one arm per constructor of Instr, each a direct call of the meaning of that instruction.
-/
namespace Sys2Proof.Machine

/-- The effect of one instruction or device event (R134 and the rule of each meaning). -/
def exec (i : Instr) (s : State) : Host.Outcome State Fault Refusal :=
  match i with
  | .add o => Sys2Proof.Machine.execAdd o s
  | .sub o => Sys2Proof.Machine.execSub o s
  | .and o => Sys2Proof.Machine.execAnd o s
  | .or o => Sys2Proof.Machine.execOr o s
  | .xor o => Sys2Proof.Machine.execXor o s
  | .andn o => Sys2Proof.Machine.execAndn o s
  | .orn o => Sys2Proof.Machine.execOrn o s
  | .sll o => Sys2Proof.Machine.execSll o s
  | .srl o => Sys2Proof.Machine.execSrl o s
  | .sra o => Sys2Proof.Machine.execSra o s
  | .slt o => Sys2Proof.Machine.execSlt o s
  | .sltn o => Sys2Proof.Machine.execSltn o s
  | .min o => Sys2Proof.Machine.execMin o s
  | .max o => Sys2Proof.Machine.execMax o s
  | .minn o => Sys2Proof.Machine.execMinn o s
  | .maxn o => Sys2Proof.Machine.execMaxn o s
  | .mul o => Sys2Proof.Machine.execMul o s
  | .mulh o => Sys2Proof.Machine.execMulh o s
  | .mulhn o => Sys2Proof.Machine.execMulhn o s
  | .div o => Sys2Proof.Machine.execDiv o s
  | .divn o => Sys2Proof.Machine.execDivn o s
  | .rem o => Sys2Proof.Machine.execRem o s
  | .remn o => Sys2Proof.Machine.execRemn o s
  | .clz o => Sys2Proof.Machine.execClz o s
  | .ctz o => Sys2Proof.Machine.execCtz o s
  | .popc o => Sys2Proof.Machine.execPopc o s
  | .sext o => Sys2Proof.Machine.execSext o s
  | .zext o => Sys2Proof.Machine.execZext o s
  | .slli o => Sys2Proof.Machine.execSlli o s
  | .srli o => Sys2Proof.Machine.execSrli o s
  | .srai o => Sys2Proof.Machine.execSrai o s
  | .addi o => Sys2Proof.Machine.execAddi o s
  | .andi o => Sys2Proof.Machine.execAndi o s
  | .ori o => Sys2Proof.Machine.execOri o s
  | .xori o => Sys2Proof.Machine.execXori o s
  | .slti o => Sys2Proof.Machine.execSlti o s
  | .shori o => Sys2Proof.Machine.execShori o s
  | .lih d im => Sys2Proof.Machine.execLih d im s
  | .ld d a off z => Sys2Proof.Machine.execLd d a off z s
  | .st d a off z => Sys2Proof.Machine.execSt d a off z s
  | .ldx o z => Sys2Proof.Machine.execLdx o z s
  | .stx o z => Sys2Proof.Machine.execStx o z s
  | .ldAcq o c z => Sys2Proof.Machine.execLdAcq o c z s
  | .stRel o c z => Sys2Proof.Machine.execStRel o c z s
  | .amo o => Sys2Proof.Machine.execAmo o s
  | .cas o => Sys2Proof.Machine.execCas o s
  | .beq o => Sys2Proof.Machine.execBeq o s
  | .bne o => Sys2Proof.Machine.execBne o s
  | .blt o => Sys2Proof.Machine.execBlt o s
  | .bge o => Sys2Proof.Machine.execBge o s
  | .bltn o => Sys2Proof.Machine.execBltn o s
  | .bgen o => Sys2Proof.Machine.execBgen o s
  | .jal d im => Sys2Proof.Machine.execJal d im s
  | .jalr o => Sys2Proof.Machine.execJalr o s
  | .fadd o => Sys2Proof.Machine.execFadd o s
  | .fsub o => Sys2Proof.Machine.execFsub o s
  | .fmul o => Sys2Proof.Machine.execFmul o s
  | .ffma o => Sys2Proof.Machine.execFfma o s
  | .fdiv o => Sys2Proof.Machine.execFdiv o s
  | .fsqrt o t r => Sys2Proof.Machine.execFsqrt o t r s
  | .fmin o => Sys2Proof.Machine.execFmin o s
  | .fmax o => Sys2Proof.Machine.execFmax o s
  | .fcmp o t c => Sys2Proof.Machine.execFcmp o t c s
  | .fclass o t => Sys2Proof.Machine.execFclass o t s
  | .fcvtToFp o => Sys2Proof.Machine.execFcvtToFp o s
  | .fcvtFromFp o => Sys2Proof.Machine.execFcvtFromFp o s
  | .csrr d c => Sys2Proof.Machine.execCsrr d c s
  | .csrw a c => Sys2Proof.Machine.execCsrw a c s
  | .csrs o c => Sys2Proof.Machine.execCsrs o c s
  | .csrc o c => Sys2Proof.Machine.execCsrc o c s
  | .fenceLd c => Sys2Proof.Machine.execFenceLd c s
  | .fenceSt c => Sys2Proof.Machine.execFenceSt c s
  | .fenceAll c => Sys2Proof.Machine.execFenceAll c s
  | .bar c => Sys2Proof.Machine.execBar c s
  | .xpop d => Sys2Proof.Machine.execXpop d s
  | .feat d n => Sys2Proof.Machine.execFeat d n s
  | .tlbinv a b => Sys2Proof.Machine.execTlbinv a b s
  | .srinv a => Sys2Proof.Machine.execSrinv a s
  | .launch a => Sys2Proof.Machine.execLaunch a s
  | .tstop o => Sys2Proof.Machine.execTstop o s
  | .vfetch o => Sys2Proof.Machine.execVfetch o s
  | .vfetchx a => Sys2Proof.Machine.execVfetchx a s
  | .vsetl o t => Sys2Proof.Machine.execVsetl o t s
  | .vsetlx o => Sys2Proof.Machine.execVsetlx o s
  | .vldxAcq v a im m c => Sys2Proof.Machine.execVldxAcq v a im m c s
  | .vstsNtf o b => Sys2Proof.Machine.execVstsNtf o b s
  | .strip c p n o => Sys2Proof.Machine.execStrip c p n o s
  | .setfib o mo t => Sys2Proof.Machine.execSetfib o mo t s
  | .vsplat o => Sys2Proof.Machine.execVsplat o s
  | .vprf a b e => Sys2Proof.Machine.execVprf a b e s
  | .vld o => Sys2Proof.Machine.execVld o s
  | .vlds o b => Sys2Proof.Machine.execVlds o b s
  | .vldg o n => Sys2Proof.Machine.execVldg o n s
  | .vld2 o => Sys2Proof.Machine.execVld2 o s
  | .vst o => Sys2Proof.Machine.execVst o s
  | .vsts o b => Sys2Proof.Machine.execVsts o b s
  | .vstg o n ntf => Sys2Proof.Machine.execVstg o n ntf s
  | .vst2 o ntf => Sys2Proof.Machine.execVst2 o ntf s
  | .vldx o im => Sys2Proof.Machine.execVldx o im s
  | .vstx o im ntf => Sys2Proof.Machine.execVstx o im ntf s
  | .vldw v a im mo e => Sys2Proof.Machine.execVldw v a im mo e s
  | .vldb v a b mo e => Sys2Proof.Machine.execVldb v a b mo e s
  | .vstb o b => Sys2Proof.Machine.execVstb o b s
  | .vstbNtf o b => Sys2Proof.Machine.execVstbNtf o b s
  | .vamo o => Sys2Proof.Machine.execVamo o s
  | .vsred o op => Sys2Proof.Machine.execVsred o op s
  | .vrred o t ntf ord => Sys2Proof.Machine.execVrred o t ntf ord s
  | .fcfg f a b stride out e => Sys2Proof.Machine.execFcfg f a b stride out e s
  | .fld v f => Sys2Proof.Machine.execFld v f s
  | .fst v f m ch e => Sys2Proof.Machine.execFst v f m ch e s
  | .fend f a m e => Sys2Proof.Machine.execFend f a m e s
  | .apush a b tag => Sys2Proof.Machine.execApush a b tag s
  | .apop o tag => Sys2Proof.Machine.execApop o tag s
  | .nsend o => Sys2Proof.Machine.execNsend o s
  | .matt o => Sys2Proof.Machine.execMatt o s
  | .mattB o => Sys2Proof.Machine.execMattB o s
  | .mzero acc => Sys2Proof.Machine.execMzero acc s
  | .mopa acc v k mr mc => Sys2Proof.Machine.execMopa acc v k mr mc s
  | .mopav acc v b mr mc t => Sys2Proof.Machine.execMopav acc v b mr mc t s
  | .mrds acc v im col => Sys2Proof.Machine.execMrds acc v im col s
  | .mwrs acc v im col => Sys2Proof.Machine.execMwrs acc v im col s
  | .mstt o => Sys2Proof.Machine.execMstt o s
  | .mgacc o => Sys2Proof.Machine.execMgacc o s
  | .mgst a => Sys2Proof.Machine.execMgst a s
  | .mwld a layout => Sys2Proof.Machine.execMwld a layout s
  | .qinit a b c => Sys2Proof.Machine.execQinit a b c s
  | .qcnt o c => Sys2Proof.Machine.execQcnt o c s
  | .qclose a c => Sys2Proof.Machine.execQclose a c s
  | .qenqX o => Sys2Proof.Machine.execQenqX o s
  | .qdeqX o => Sys2Proof.Machine.execQdeqX o s
  | .qenqM o => Sys2Proof.Machine.execQenqM o s
  | .qdeqM o => Sys2Proof.Machine.execQdeqM o s
  | .qenqV o => Sys2Proof.Machine.execQenqV o s
  | .qdeqV o => Sys2Proof.Machine.execQdeqV o s
  | .binit o => Sys2Proof.Machine.execBinit o s
  | .barr a b => Sys2Proof.Machine.execBarr a b s
  | .barrRel a b => Sys2Proof.Machine.execBarrRel a b s
  | .bwait o => Sys2Proof.Machine.execBwait o s
  | .bphase o => Sys2Proof.Machine.execBphase o s
  | .sigdec a b => Sys2Proof.Machine.execSigdec a b s
  | .sigwait a => Sys2Proof.Machine.execSigwait a s
  | .uliarm o => Sys2Proof.Machine.execUliarm o s
  | .vfadd o => Sys2Proof.Machine.execVfadd o s
  | .vfsub o => Sys2Proof.Machine.execVfsub o s
  | .vfmul o => Sys2Proof.Machine.execVfmul o s
  | .vfma o => Sys2Proof.Machine.execVfma o s
  | .vfms o => Sys2Proof.Machine.execVfms o s
  | .vfnma o => Sys2Proof.Machine.execVfnma o s
  | .vfdiv o => Sys2Proof.Machine.execVfdiv o s
  | .vfsqrt o => Sys2Proof.Machine.execVfsqrt o s
  | .vfmin o => Sys2Proof.Machine.execVfmin o s
  | .vfmax o => Sys2Proof.Machine.execVfmax o s
  | .vfabs o => Sys2Proof.Machine.execVfabs o s
  | .vfneg o => Sys2Proof.Machine.execVfneg o s
  | .vfsgn o => Sys2Proof.Machine.execVfsgn o s
  | .vadd o => Sys2Proof.Machine.execVadd o s
  | .vsub o => Sys2Proof.Machine.execVsub o s
  | .vmul o => Sys2Proof.Machine.execVmul o s
  | .vmulh o => Sys2Proof.Machine.execVmulh o s
  | .vmulhn o => Sys2Proof.Machine.execVmulhn o s
  | .vand o => Sys2Proof.Machine.execVand o s
  | .vor o => Sys2Proof.Machine.execVor o s
  | .vxor o => Sys2Proof.Machine.execVxor o s
  | .vsll o => Sys2Proof.Machine.execVsll o s
  | .vsrl o => Sys2Proof.Machine.execVsrl o s
  | .vsra o => Sys2Proof.Machine.execVsra o s
  | .vmin o => Sys2Proof.Machine.execVmin o s
  | .vmax o => Sys2Proof.Machine.execVmax o s
  | .vminn o => Sys2Proof.Machine.execVminn o s
  | .vmaxn o => Sys2Proof.Machine.execVmaxn o s
  | .vsadd o => Sys2Proof.Machine.execVsadd o s
  | .vssub o => Sys2Proof.Machine.execVssub o s
  | .vsaddn o => Sys2Proof.Machine.execVsaddn o s
  | .vssubn o => Sys2Proof.Machine.execVssubn o s
  | .vdot o => Sys2Proof.Machine.execVdot o s
  | .vfcmp o => Sys2Proof.Machine.execVfcmp o s
  | .vcmp o => Sys2Proof.Machine.execVcmp o s
  | .mand o => Sys2Proof.Machine.execMand o s
  | .mor o => Sys2Proof.Machine.execMor o s
  | .mxor o => Sys2Proof.Machine.execMxor o s
  | .mandn o => Sys2Proof.Machine.execMandn o s
  | .mset d m val => Sys2Proof.Machine.execMset d m val s
  | .mpopc a m => Sys2Proof.Machine.execMpopc a m s
  | .mfirst a m => Sys2Proof.Machine.execMfirst a m s
  | .vcvt o => Sys2Proof.Machine.execVcvt o s
  | .vqmx o => Sys2Proof.Machine.execVqmx o s
  | .vmov o => Sys2Proof.Machine.execVmov o s
  | .vbcast o => Sys2Proof.Machine.execVbcast o s
  | .vext a t im => Sys2Proof.Machine.execVext a t im s
  | .viota d m t => Sys2Proof.Machine.execViota d m t s
  | .vslup o => Sys2Proof.Machine.execVslup o s
  | .vsldn o => Sys2Proof.Machine.execVsldn o s
  | .vperm o => Sys2Proof.Machine.execVperm o s
  | .vcomp o => Sys2Proof.Machine.execVcomp o s
  | .vexpd o => Sys2Proof.Machine.execVexpd o s
  | .vmatch o => Sys2Proof.Machine.execVmatch o s
  | .vfredsum o => Sys2Proof.Machine.execVfredsum o s
  | .vfredmax o => Sys2Proof.Machine.execVfredmax o s
  | .vfredmin o => Sys2Proof.Machine.execVfredmin o s
  | .vredsum o => Sys2Proof.Machine.execVredsum o s
  | .vredmax o => Sys2Proof.Machine.execVredmax o s
  | .vredmin o => Sys2Proof.Machine.execVredmin o s
  | .vfscan o => Sys2Proof.Machine.execVfscan o s
  | .vscan o => Sys2Proof.Machine.execVscan o s
  | .wramp a c m w => Sys2Proof.Machine.execWramp a c m w s
  | .wcmp a m w => Sys2Proof.Machine.execWcmp a m w s
  | .wcomp m d z => Sys2Proof.Machine.execWcomp m d z s
  | .wmul m d s1 s2 => Sys2Proof.Machine.execWmul m d s1 s2 s
  | .wmov dir m t r w => Sys2Proof.Machine.execWmov dir m t r w s
  | .wbegin arms pf => Sys2Proof.Machine.execWbegin arms pf s
  | .wjoin o => Sys2Proof.Machine.execWjoin o s
  | .wgjoin o => Sys2Proof.Machine.execWgjoin o s
  | .wgramp o => Sys2Proof.Machine.execWgramp o s
  | .wcont w dist => Sys2Proof.Machine.execWcont w dist s
  | .lde o => Sys2Proof.Machine.execLde o s
  | .ste o => Sys2Proof.Machine.execSte o s
  | .wsta o => Sys2Proof.Machine.execWsta o s
  | .launchDequeue d => Sys2Proof.Machine.execLaunchDequeue d s
  | .dependenceReady d l => Sys2Proof.Machine.execDependenceReady d l s
  | .taskStart d l cs => Sys2Proof.Machine.execTaskStart d l cs s
  | .taskResume l cs => Sys2Proof.Machine.execTaskResume l cs s
  | .launchComplete l => Sys2Proof.Machine.execLaunchComplete l s
  | .queueWake c => Sys2Proof.Machine.execQueueWake c s
  | .bwaitWake c => Sys2Proof.Machine.execBwaitWake c s
  | .sigwaitWake c => Sys2Proof.Machine.execSigwaitWake c s
  | .barComplete c => Sys2Proof.Machine.execBarComplete c s
  | .xpopWake c => Sys2Proof.Machine.execXpopWake c s
  | .fldWake c => Sys2Proof.Machine.execFldWake c s
  | .waiteWake c => Sys2Proof.Machine.execWaiteWake c s
  | .mattBGrant q => Sys2Proof.Machine.execMattBGrant q s
  | .weightBufferSwitch q => Sys2Proof.Machine.execWeightBufferSwitch q s
  | .feedOutputDone c f => Sys2Proof.Machine.execFeedOutputDone c f s
  | .byteCountAdd n => Sys2Proof.Machine.execByteCountAdd n s
  | .vrredApply n => Sys2Proof.Machine.execVrredApply n s
  | .uliDelivery c => Sys2Proof.Machine.execUliDelivery c s
  | .timeSliceExpiry c => Sys2Proof.Machine.execTimeSliceExpiry c s
  | .msixMessage b => Sys2Proof.Machine.execMsixMessage b s
  | .preempt c => Sys2Proof.Machine.execPreempt c s
  | .viqEntryStart c => Sys2Proof.Machine.execViqEntryStart c s
  | .feedInputEnded c f => Sys2Proof.Machine.execFeedInputEnded c f s
  | .nsendComplete id => Sys2Proof.Machine.execNsendComplete id s
  | .failureCompletion p id => Sys2Proof.Machine.execFailureCompletion p id s
  | .transferReceive p t => Sys2Proof.Machine.execTransferReceive p t s
  | .flitReceive p f => Sys2Proof.Machine.execFlitReceive p f s
  | .replayTimeout p => Sys2Proof.Machine.execReplayTimeout p s
  | .laneShed p working => Sys2Proof.Machine.execLaneShed p working s
  | .linkRetrainDone p ok peer => Sys2Proof.Machine.execLinkRetrainDone p ok peer s
  | .paceNoticeReceive p n => Sys2Proof.Machine.execPaceNoticeReceive p n s
  | .hostWindowAccess write off n data => Sys2Proof.Machine.execHostWindowAccess write off n data s
  | .hostPush a k => Sys2Proof.Machine.execHostPush a k s
  | .hostPop a k => Sys2Proof.Machine.execHostPop a k s
  | .hcreset => Sys2Proof.Machine.execHcreset s
  | .deviceQuery c => Sys2Proof.Machine.execDeviceQuery c s
  | .driverAccept c => Sys2Proof.Machine.execDriverAccept c s
  | .copy c => Sys2Proof.Machine.execCopy c s
  | .fill c => Sys2Proof.Machine.execFill c s
  | .extentAdd c => Sys2Proof.Machine.execExtentAdd c s
  | .extentRelease c => Sys2Proof.Machine.execExtentRelease c s
  | .linkState c => Sys2Proof.Machine.execLinkState c s
  | .paceList c => Sys2Proof.Machine.execPaceList c s
  | .paceSend c => Sys2Proof.Machine.execPaceSend c s
  | .msixArm b obj ctl => Sys2Proof.Machine.execMsixArm b obj ctl s
  | .extentOffer o => Sys2Proof.Machine.execExtentOffer o s
  | .governorPeriod r => Sys2Proof.Machine.execGovernorPeriod r s
  | .damageUpdate q t => Sys2Proof.Machine.execDamageUpdate q t s
  | .hardGradient q g => Sys2Proof.Machine.execHardGradient q g s
  | .thermalTrip t => Sys2Proof.Machine.execThermalTrip t s
  | .currentLimit d amps => Sys2Proof.Machine.execCurrentLimit d amps s
  | .watchdogReset => Sys2Proof.Machine.execWatchdogReset s
  | .cardPowerOn f t => Sys2Proof.Machine.execCardPowerOn f t s
  | .unplannedPowerLoss cs cut => Sys2Proof.Machine.execUnplannedPowerLoss cs cut s
  | .powerRestore c => Sys2Proof.Machine.execPowerRestore c s
  | .plannedStop c => Sys2Proof.Machine.execPlannedStop c s
  | .channelFailure stack ch => Sys2Proof.Machine.execChannelFailure stack ch s
  | .rebuildMove region => Sys2Proof.Machine.execRebuildMove region s
  | .lpddrChannelFailure ch => Sys2Proof.Machine.execLpddrChannelFailure ch s
  | .writebackError pa bytes => Sys2Proof.Machine.execWritebackError pa bytes s
  | .lqbWrite d v => Sys2Proof.Machine.execLqbWrite d v s
  | .pspbWrite c v => Sys2Proof.Machine.execPspbWrite c v s
  | .ulipendClear c v => Sys2Proof.Machine.execUlipendClear c v s
  | .dfqlostClear d v => Sys2Proof.Machine.execDfqlostClear d v s
  | .aerrClear a => Sys2Proof.Machine.execAerrClear a s
  | .registerWrite pa n v => Sys2Proof.Machine.execRegisterWrite pa n v s
  | .holmPersist pa => Sys2Proof.Machine.execHolmPersist pa s
  | .hardGradientClear q g => Sys2Proof.Machine.execHardGradientClear q g s
  | .droopRelease d amps => Sys2Proof.Machine.execDroopRelease d amps s
  | .ifence => Sys2Proof.Machine.execIfence s
  | .syscall => Sys2Proof.Machine.execSyscall s
  | .brk => Sys2Proof.Machine.execBrk s
  | .sret => Sys2Proof.Machine.execSret s
  | .uliret => Sys2Proof.Machine.execUliret s
  | .waite => Sys2Proof.Machine.execWaite s
  | .texit => Sys2Proof.Machine.execTexit s
  | .mdet => Sys2Proof.Machine.execMdet s
  | .mten => Sys2Proof.Machine.execMten s
  | .mtdis => Sys2Proof.Machine.execMtdis s
  | .pfenceCore => Sys2Proof.Machine.execPfenceCore s
  | .pfenceDie => Sys2Proof.Machine.execPfenceDie s
  | .stop => Sys2Proof.Machine.execStop s
  | .wnext => Sys2Proof.Machine.execWnext s
  | .wend => Sys2Proof.Machine.execWend s

end Sys2Proof.Machine
end

