-- ==== Sys2Proof/Machine/Issue.lean ====
section
/-!
DEFINITION. What a step does: the scalar pipe takes the next instruction of a context (R42, R118), a core spends a scalar cycle
(R43), the lanes take an entry or the next word of a block (R45, R130, R187), a device event acts; and the model's own choice of
what acts next when the agenda is empty (log entry 5).
-/
namespace Sys2Proof.Machine

/-! ### The scalar pipe -/

/-- Whether a context may issue, whatever its next instruction is (R42): it holds a task, its core has power, and it is not parked.
A delivery that is due goes before its next instruction (R154, R305), and a context that has been asked to stop issues no more
(R324). -/
def State.awake (s : State) (c : CtxIx) : Bool :=
  let x := s.ctx c
  x.task.isSome && !x.down && (s.core (CtxIx.core c)).powered && x.parked.isNone && !x.regs.sc.uliDue && !s.stopping c

/-- Whether an instruction needs a VIQ entry in the state of R50, in which it faults whatever its sources and its accesses wait for. -/
def State.deadlocked (s : State) (i : Instr) : Bool := entersViq i && s.viqDeadlock

/-- Whether the acting context can issue an instruction (R42): its source registers are available and, if it goes to the VIQ, an
entry is free; in the state of R50 it faults instead. -/
def State.canIssue (s : State) (i : Instr) : Bool :=
  s.deadlocked i || (s.me.sourcesReady i && (!entersViq i || decide (s.me.viqUsed < 32)))

/-- What is kept for the replay of a faulted instruction goes when a context at user level issues another (R161, R241): what a
handler at S level kept, and what stands at another address, unless a valid VTF names it (R316). What the other side of a ULI
delivery keeps stays. -/
def Context.forget (x : Context) : Context :=
  let sc := x.regs.sc
  if sc.sup then x
  else { x with holds := x.holds.filter fun h =>
    !h.sup && (h.inh != sc.ulinh || h.pc == sc.pc || (h.vtf && (List.finRange 4).any fun n => sc.vtfNames n h.pc)) }

/-- The state in which context `c` fetches. -/
def State.fetching (s : State) (c : CtxIx) : State :=
  let s := { s with cur := c }
  s.setMe s.me.forget

/-- A scalar register that a completed instruction has written holds no error any more (R321). -/
def State.clearX (s : State) (i : Instr) : State :=
  match xdest i with
  | none => s
  | some d =>
    if s.me.badRegs.isEmpty then s else s.setMe { s.me with badRegs := s.me.badRegs.filter fun p => p != .x d }

/-- Whether a word faults in step 3 or 4 of R118, whatever its source registers hold: PRIV at user level, an access to a CSR that the
number alone refuses, ULIRET outside a handler, or a VT that Table 5-6 forbids in an immediate (R163, R165). -/
def State.faultsBare (s : State) (i : Instr) : Bool :=
  let csr := fun (c : BitVec 12) wr => match csrOf c with
    | none => true
    | some r => (r.supOnly && !s.mySc.sup) || (wr && r.ro)
  match i with
  | .tstop _ | .tlbinv _ _ | .sigdec _ _ | .sret => !s.mySc.sup
  | .csrr _ c => csr c false
  | .csrw _ c => csr c true
  | .csrs o c | .csrc o c => csr c (o.a != 0)
  | .uliret => !s.mySc.ulinh
  | .vsetl _ t | .setfib _ _ t => !vtOk (t.setWidth 64)
  | _ => false

/-- The translations that a word of the scalar pipe makes, beside those of its loads and stores: its object, the block and slots of its
queue, and its buffer (R258). -/
def State.scalarAddrs (s : State) (i : Instr) : List (Agent × List Word64) :=
  let g := s.scalarAgent
  let d := CtxIx.die s.cur
  let x := s.mySc.rx
  let q := fun (a : XReg) enq b => [(g, s.queueAddrs g (x a) enq 1 b)]
  match i with
  | .qenqX o => q o.a true none
  | .qdeqX o => q o.a false none
  | .qenqM o => q o.a true (some (x o.b))
  | .qdeqM o => q o.a false (some (x o.b))
  | .launch a => [(g, [x a]), (s.dieAgent d, s.queueAddrs (s.dieAgent d) (s.die d).lqb true 1 none)]
  | .qinit a b _ => [(g, [x a, x b, x b + 56])]
  | .qcnt o _ => [(g, [x o.a])]
  | .qclose a _ | .barr a _ | .barrRel a _ | .sigdec a _ | .sigwait a => [(g, [x a])]
  | .binit o | .bwait o => [(g, [x o.a])]
  | .bphase o => [(g, [x o.a])]
  | .uliarm o => if 0 < bits (x o.b).toNat 4 4 ∧ bits (x o.b).toNat 4 4 < 5 then [(g, [x o.a])] else []
  | _ => []

/-- The state after an instruction that has completed or parked keeps these translations, when the run keeps translations. -/
def State.keepXlates (s t : State) (i : Instr) : State :=
  if s.choices.fill && (t.me.parked.isSome || (t.sc s.cur).instret != s.mySc.instret) then
    (s.scalarAddrs i).foldl (fun t p => t.fillAddrs p.1 p.2) t
  else t

/-- An instruction of the acting context: a source register that holds an uncorrectable error is its trap (R321); else it is
executed. A fault that does not depend on the registers comes first (R118), and before it that of R50. -/
def State.runInstr (s : State) (i : Instr) : Host.Outcome State Fault Refusal :=
  if s.deadlocked i then s.deadlockTrap
  else if !s.me.badRegs.isEmpty && !s.faultsBare i && s.me.badSource i then .next (s.scalarTrap ⟨.memUncorrectable, 0, 0⟩)
  else
    match exec i s with
    | .next t =>
      let t := s.keepXlates t i
      .next (if s.me.badRegs.isEmpty || (t.sc s.cur).instret == s.mySc.instret then t else t.clearX i)
    | o => o

/-- The scalar pipe takes the word at the pc of the acting context: a fetch fault or a decoding defect is its trap (R118,
R278), with SADDR the word's address; an instruction that cannot issue yet waits. -/
def State.runWord (s : State) : Host.Outcome State Fault Refusal :=
  match s.fetchWord with
  | .error t => .next (s.scalarTrap t)
  | .ok (w, s') =>
    match decodeS w with
    | .error d => .next (s'.pointTrap ⟨defectCause d, 0, s'.mySc.pc⟩)
    | .ok i => if s'.canIssue i then s'.runInstr i else .next s

/-- A context issues; a gang that has ended ends its task once it is back at user level (R324, R368). -/
def State.issue (s : State) (c : CtxIx) : Host.Outcome State Fault Refusal :=
  if s.awake c then
    match (s.fetching c).runWord with
    | .next t => .next (t.endAsked c)
    | o => o
  else .next s

/-- A context is ready (R42). -/
def State.ready (s : State) (c : CtxIx) : Bool :=
  s.awake c &&
    let s := s.fetching c
    match s.fetchWord with
    | .error _ => true
    | .ok (w, s') =>
      match decodeS w with
      | .error _ => true
      | .ok i => s'.canIssue i

/-! ### Scalar cycles -/

/-- The thread selector of a core among the contexts that `p` selects (R43): a ready context that has not issued for 12 cycles, the
longest first; else the highest class, and round-robin within it after the context that issued last at that class. -/
def State.select (s : State) (k : CoreIx) (p : CtxIx → Bool) : Option CtxIx :=
  let rs := (coreCtxs k).filter fun c => p c && s.ready c
  let late := rs.filter fun c => decide (12 ≤ (s.ctx c).waited)
  match late.find? fun c => late.all fun d => decide ((s.ctx d).waited ≤ (s.ctx c).waited) with
  | some c => some c
  | none =>
    let m := rs.foldl (fun m c => Nat.max m (s.prioOf c)) 0
    let top := rs.filter fun c => s.prioOf c == m
    let last := (s.core k).lastIssue.toList.getD m 0
    (top.find? fun c => decide (last < c.val % 8)) <|> top.head?

/-- The contexts that the two issue slots of a cycle go to, chosen as the cycle begins (R43); the next instruction of a context in
`late` is not fetched yet, or a source register of it not available, so that it is not ready (R42). -/
def State.slots2 (s : State) (k : CoreIx) (late : List CtxIx) : List CtxIx :=
  match s.select k fun d => !late.contains d with
  | none => []
  | some c => c :: (s.select k fun d => d != c && !late.contains d).toList

/-- What a core keeps about a scalar cycle in which the contexts `cs` issued, each with its class: CYCLE (R85), the cycles for which
each context has not issued, and the context that issued last at each class (R43). -/
def State.tick (s : State) (k : CoreIx) (cs : List (CtxIx × Nat)) : State :=
  if !(s.core k).powered then s
  else
    let x := s.core k
    let last := cs.foldl (fun l c => l.mapFinIdx fun i m _ => if i = c.2 then c.1.val % 8 else m) x.lastIssue
    let s := (coreCtxs k).foldl (fun s d =>
      if (s.ctx d).task.isNone then s
      else s.setCtx d { s.ctx d with waited := if cs.any fun c => c.1 == d then 0 else (s.ctx d).waited + 1 }) s
    ({ s with turn := k } : State).setCore k { x with cycle := x.cycle + 1, lastIssue := last }

/-- Contexts issue one after the other. -/
def State.issueAll (s : State) : List CtxIx → Host.Outcome State Fault Refusal
  | [] => .next s
  | c :: cs =>
    match s.issue c with
    | .next t => t.issueAll cs
    | o => o

/-- A scalar cycle of a core in which the contexts `cs` issue. -/
def State.cycleOf (s : State) (k : CoreIx) (cs : List CtxIx) : Host.Outcome State Fault Refusal :=
  if !(s.core k).powered then .next s
  else
    match s.issueAll cs with
    | .next t => .next (t.tick k (cs.map fun c => (c, s.prioOf c)))
    | o => o

/-! ### The lanes -/

/-- The next word of a block in flight. Where it ends the block, by its STOP or by a trap, the older entries that have passed their
fault points complete first (R47). -/
def State.blockWord (s : State) (b : Block) (w : BitVec 64) : Host.Outcome State Fault Refusal :=
  let r : Host.Outcome State Fault Refusal := match decodeE w.toNat with
    | .error .blockFormat => .next (s.blockTrap b b.format)
    | .error d => .next (s.blockTrap b (b.bad (defectCause d)))
    | .ok i => s.wordStruck b (exec i) (s.wordBad b i)
  match r with
  | .next t => .next (if t.me.block.isNone && s.me.viq.any (·.passed.isSome) then s.perform 0 else t)
  | o => o

/-- The lanes work for a context: the next word of its block in flight, or its oldest entry. -/
def State.lanes (s : State) (c : CtxIx) : Host.Outcome State Fault Refusal :=
  let s := { s with cur := c }
  match s.me.block with
  | none => .next s.startEntry
  | some b =>
    match b.words[b.pos]? with
    | none => .next s
    | some w => s.blockWord b w

/-! ### Acts -/

/-- The device events of the opcode table: the steps that no instruction word names. -/
def isEvent : Instr → Bool
  | .launchDequeue _ | .dependenceReady _ _ | .taskStart _ _ _ | .timeSliceExpiry _ | .preempt _ | .taskResume _ _
  | .launchComplete _ | .viqEntryStart _ | .queueWake _ | .bwaitWake _ | .sigwaitWake _ | .barComplete _
  | .xpopWake _ | .fldWake _ | .waiteWake _ | .mattBGrant _ | .weightBufferSwitch _ | .feedInputEnded _ _
  | .feedOutputDone _ _ | .byteCountAdd _ | .nsendComplete _ | .failureCompletion _ _ | .vrredApply _
  | .transferReceive _ _ | .flitReceive _ _ | .replayTimeout _ | .laneShed _ _ | .linkRetrainDone _ _ _
  | .paceNoticeReceive _ _ | .uliDelivery _ | .hostWindowAccess _ _ _ _ | .hostPush _ _ | .hostPop _ _ | .hcreset
  | .deviceQuery _ | .driverAccept _ | .copy _ | .fill _ | .extentAdd _ | .extentRelease _ | .linkState _
  | .paceList _ | .paceSend _ | .msixArm _ _ _ | .msixMessage _ | .extentOffer _ | .governorPeriod _
  | .damageUpdate _ _ | .hardGradient _ _ | .thermalTrip _ | .currentLimit _ _ | .watchdogReset | .cardPowerOn _ _
  | .unplannedPowerLoss _ _ | .powerRestore _ | .plannedStop _ | .channelFailure _ _ | .rebuildMove _
  | .lpddrChannelFailure _ | .writebackError _ _ | .lqbWrite _ _ | .pspbWrite _ _ | .ulipendClear _ _
  | .dfqlostClear _ _ | .aerrClear _ | .registerWrite _ _ _ | .holmPersist _ | .hardGradientClear _ _
  | .droopRelease _ _ => true
  | _ => false

/-- A device event acts; a term that is none does nothing. -/
def State.event (s : State) (i : Instr) : Host.Outcome State Fault Refusal := if isEvent i then exec i s else .next s

/-- A dirty line is written back; one whose home is lost is reported (R250, R260, R322). -/
def State.evict (s : State) (line : Nat) : Host.Outcome State Fault Refusal :=
  if !s.dirty.any fun e => e.1 / 128 == line then .next s
  else if s.lost (line * 128) then execWritebackError (line * 128) 128 s
  else .next (s.writeBack (line * 128))

/-- An uncorrectable error strikes a register of a context, or a scratchpad byte of a core (R321). -/
def State.strikeReg (s : State) (c : CtxIx) (r : RegPart) : State :=
  s.setCtx c { s.ctx c with badRegs := r :: (s.ctx c).badRegs.filter (· != r) }
/-- The same for a scratchpad byte. -/
def State.strikeScratch (s : State) (k : CoreIx) (off : Nat) : State :=
  if off < (s.core k).scratchBytes then
    s.setCore k { s.core k with badScratch := off :: (s.core k).badScratch.filter (· != off) }
  else s

/-- What follows every act: what a rollback has undone leaves the wait lists; armed bindings whose event holds pend (R303); MSI-X
conditions that hold are latched (R342). -/
def State.settle (s : State) : State := s.sweep.uliEvents.msixEvents

/-- Performs an act. -/
def State.perform1 (s : State) (a : Act) : Host.Outcome State Fault Refusal :=
  match a with
  | .issue c => if s.awake c then s.cycleOf (CtxIx.core c) (if s.ready c then [c] else []) else .next s
  | .cycle k late => s.cycleOf k (s.slots2 k late)
  | .lanes c => ({ s with laneTurn := c } : State).lanes c
  | .entry c n => .next (({ s with cur := c, laneTurn := c } : State).startAt n)
  | .point c => .next ({ s with cur := c } : State).passPoint
  | .chain c gs => .next (({ s with cur := c, laneTurn := c } : State).startChained gs)
  | .groups c n g => .next (({ s with cur := c, laneTurn := c } : State).startGroups n g)
  | .event i => s.event i
  | .writeback l => s.evict l
  | .strikeReg c r => .next (s.strikeReg c r)
  | .strikeScratch k off => .next (s.strikeScratch k off)
  | .credit p vc ok => .next (s.grantCredit p vc ok)
  | .command a => .next (s.takeCommand a)
  | .perform op c => s.runCommand op c
  | .hostRead off n => .next (s.hostRead off n)
  | .barSize n => .next (s.barSize n)

/-- Whether an act can take place: while the card is without power, nothing on the module runs, and CARD_POWER_ON is all that happens
(R354). -/
def State.alive (s : State) (a : Act) : Bool :=
  s.skerry.powered || match a with
    | .event (.cardPowerOn _ _) => true
    | _ => false

/-- An act, and what follows it. -/
def State.act (s : State) (a : Act) : Host.Outcome State Fault Refusal :=
  if s.alive a then
    match s.perform1 a with
    | .next t => .next t.settle
    | o => o
  else .next s

/-! ### The model's own choice -/

/-- The state after an outcome; `s` where there is none. -/
def outState (s : State) : Host.Outcome State Fault Refusal → State
  | .next t => t
  | .fault _ | .refused _ => s

/-- The event that wakes a parked instruction (R42, R52). -/
def wakeOf (c : CtxIx) : Instr → Option Instr
  | .bwait _ => some (.bwaitWake c)
  | .sigwait _ => some (.sigwaitWake c)
  | .bar _ => some (.barComplete c)
  | .xpop _ => some (.xpopWake c)
  | .waite => some (.waiteWake c)
  | .fld _ _ => some (.fldWake c)
  | .qenqX _ | .qdeqX _ | .qenqM _ | .qdeqM _ | .qenqV _ | .qdeqV _ | .launch _ => some (.queueWake c)
  | _ => none

/-- The wake of a parked context, when it ends the parking. -/
def State.wakeDue (s : State) (c : CtxIx) : Option Instr := do
  let p ← (s.ctx c).parked
  let w ← wakeOf c p
  if ((outState s (s.event w)).ctx c).parked.isNone then some w else none

/-- Whether the lanes have work for a context that is not waiting for an event: the next word of a block, or an oldest entry that
would not stay as it is (R45, R50, R230, R334). -/
def State.lanesDue (s : State) (c : CtxIx) : Bool :=
  let x := s.ctx c
  if x.block.isSome then !x.vsqStuck || x.viq.any (·.passed.isSome)
  else if x.viq.isEmpty || s.choices.lanesHeld || (x.entryParked && x.passedLen = 0) then false
  else
    let t := outState s (s.lanes c)
    let q := CtxIx.quad c
    (t.ctx c).viq.length != x.viq.length || (t.ctx c).parked != x.parked || (t.quad q).waiting != (s.quad q).waiting

/-- What the lanes do for a context by the model's own choice, where they have work for it: its oldest entry or the next word of its block;
where that entry waits, the fault point of a younger one, or the first younger one that can be performed (R45, R46, R52). -/
def State.lanesAct (s : State) (c : CtxIx) : Option Act :=
  let x := s.ctx c
  let u : State := { s with cur := c }
  if s.lanesDue c then some (.lanes c)
  else if x.viq.isEmpty || s.choices.lanesHeld || x.block.isSome then none
  else
    let t := u.passPoint.ctx c
    if t.passedLen != x.passedLen || t.viq.length != x.viq.length then some (.point c)
    else ((List.range x.viq.length).find? fun n =>
      decide (0 < n) && decide (((u.startAt n).ctx c).viq.length < x.viq.length)).map fun n => .entry c n

/-- What the lanes do next, the contexts in turn (R45). -/
def State.nextLanes (s : State) : Option Act :=
  ((List.finRange 1536).map fun i => (⟨(s.laneTurn.val + 1 + i.val) % 1536, by omega⟩ : CtxIx)).findSome? s.lanesAct

/-- Whether the oldest waiting MATT.B of a quad can be granted now (R230). -/
def State.grantDue (s : State) (q : QuadIx) : Bool :=
  !(s.quad q).waiting.isEmpty && (outState s (s.event (.mattBGrant q))).quads[q.val].waiting != (s.quad q).waiting

/-- Whether a die's launch queue has a record to dequeue, or cannot be used (R34). -/
def State.dequeueDue (s : State) (d : DieIx) : Bool :=
  let x := s.die d
  x.lqWritten && s.skerry.powered && !x.lqStopped && decide (s.depn d < 64) &&
    !(List.finRange 1536).any (fun c => CtxIx.die c == d && (s.ctx c).down) &&
    match s.blockLoc (s.dieAgent d) x.lqb with
    | .error _ => true
    | .ok l => (s.qTest l ⟨s.dieAgent d, some d⟩).2.isSome || decide (0 < (s.qcbAt l).count)

/-- A pre-emption that a dispatch unit makes now (R40): of a context that was asked to stop and has returned to user level (R324), or
of the one chosen for a launch. -/
def State.preemptNext (s : State) : Option CtxIx :=
  ((List.finRange 1536).find? fun c => (s.ctx c).stopReq == .preempt && s.preemptDue c) <|>
    ((s.wants.find? fun w => s.slotsFor (s.gangOf w.2.2)).map fun w => w.2.2)

/-- A resume that a dispatch unit makes now (R35, R37, R40). -/
def State.resumeNow (s : State) (i : Nat) (l : Launch) : Option Instr :=
  match s.backPlaces i l with
  | none => none
  | some cs => if s.heldBack l true cs then none else some (.taskResume i cs)

/-- A start that a dispatch unit makes now (R29, R35, R37). -/
def State.startNow (s : State) (i : Nat) (l : Launch) : Option Instr :=
  if l.placing && (s.die l.die).lqWritten && s.headOfClass i l then
    match s.places i l with
    | none => none
    | some cs => if s.heldBack l false cs then none else some (.taskStart l.die i cs)
  else none

/-- A step of a dispatch unit that is due: completions, dependences, pre-emptions, time slices, resumes, starts, dequeues. -/
def State.dueDispatch (s : State) : Option Instr :=
  let launches := s.launches.zipIdx
  (launches.find? fun p => p.1.st == .running && decide (p.1.count ≤ p.1.next) && decide (p.1.count ≤ p.1.ended.length) &&
      !s.draining p.2).map (fun p => Instr.launchComplete p.2)
  <|> (launches.find? fun p => p.1.st == .waiting &&
      (outState s (s.event (.dependenceReady p.1.die p.2))).launches[p.2]? != some p.1).map
    (fun p => Instr.dependenceReady p.1.die p.2)
  <|> s.preemptNext.map Instr.preempt
  <|> ((List.finRange 1536).find? fun c => !(s.ctx c).sliceOut && s.sliceOver c).map Instr.timeSliceExpiry
  <|> (launches.findSome? fun p => s.resumeNow p.2 p.1)
  <|> (launches.findSome? fun p => s.startNow p.2 p.1)
  <|> ((List.finRange 4).find? fun d => s.dequeueDue d).map Instr.launchDequeue

/-- A device event that is due, if any: what engines, matrix units, the host port and dispatch units do on their own. -/
def State.dueEvent (s : State) : Option Instr :=
  let feeds := (List.finRange 1536).findSome? fun c => (List.finRange 4).findSome? fun f =>
    let x := (s.ctx c).regs.feeds[f.val]
    if x.st == .ended && x.out then some (Instr.feedOutputDone c f) else none
  if !s.counts.isEmpty then some (.byteCountAdd 0)
  else
    feeds
    <|> ((List.range s.contribs.length).find? fun n => s.contribReady n).map Instr.vrredApply
    <|> ((List.finRange 48).find? fun q => (s.quad q).wnext.isSome).map Instr.weightBufferSwitch
    <|> ((List.finRange 48).find? fun q => s.grantDue q).map Instr.mattBGrant
    <|> ((List.finRange 256).find? fun b => s.host.msix[b.val].armed && s.host.msix[b.val].due).map Instr.msixMessage
    <|> (if s.host.resetPend && s.host.started.isEmpty then some Instr.hcreset else none)
    <|> s.dueDispatch

/-- A command that has started and completes now. -/
def State.commandDue (s : State) : Option Act :=
  (s.host.started.find? fun p => (outState s (s.runCommand p.2.1 p.2.2)).host.started.length != s.host.started.length).map
    fun p => .perform p.2.1 p.2.2

/-- A delivery that is due; a pre-emption that is due at the same point goes first (R305). -/
def State.deliveryDue (s : State) : Option Instr :=
  ((List.finRange 1536).find? fun c => (s.sc c).uliDue && (s.ctx c).task.isSome && !(s.ctx c).down && !s.stopping c).map
    fun c => if s.preemptDue c then .preempt c else .uliDelivery c

/-- The core that spends the next scalar cycle: the first after the last turn that has a ready context; where none has, the first on
which a task is resident, so that its time slice passes (R40, R43). -/
def State.nextCycle (s : State) : Option CoreIx :=
  let ks := (List.finRange 192).map fun i => (⟨(s.turn.val + 1 + i.val) % 192, by omega⟩ : CoreIx)
  (ks.find? fun k => (coreCtxs k).any s.ready) <|>
    ks.find? fun k => (s.core k).powered && (coreCtxs k).any fun c => (s.ctx c).task.isSome

/-- Whether an act is a step of a dispatch unit. -/
def dispatchAct : Act → Bool
  | .event (.launchComplete _) | .event (.dependenceReady _ _) | .event (.preempt _) | .event (.timeSliceExpiry _)
  | .event (.taskResume _ _) | .event (.taskStart _ _ _) | .event (.launchDequeue _) => true
  | _ => false

/-- The scalar cycle that goes before the due events: where a dispatch unit acted since the last one and a context is ready, so that
pre-empting and resuming never keep the ready contexts from issuing (R52). -/
def State.owedCycle (s : State) : Option CoreIx :=
  if s.dispatched then s.nextCycle.filter fun k => (coreCtxs k).any s.ready else none

/-- What the state keeps about the model's own choice: whether a dispatch unit has acted since the last scalar cycle. -/
def State.chose (s : State) (a : Act) : State :=
  match a with
  | .cycle _ _ => { s with dispatched := false }
  | _ => { s with dispatched := s.dispatched || dispatchAct a }

/-- The next act: the head of the agenda; with an empty agenda, a due delivery, the lanes, a wake, a scalar cycle that is owed, a due
event, a command that completes, and last a scalar cycle; without power nothing (R354). -/
def State.nextAct (s : State) : Option (Act × State) :=
  match s.agenda with
  | a :: t => some (a, { s with agenda := t })
  | [] =>
    if !s.skerry.powered then none else
    ((s.deliveryDue.map Act.event)
      <|> s.nextLanes
      <|> (((List.finRange 1536).findSome? s.wakeDue).map Act.event)
      <|> (s.owedCycle.map fun k => Act.cycle k [])
      <|> (s.dueEvent.map Act.event)
      <|> s.commandDue
      <|> (s.nextCycle.map fun k => Act.cycle k [])).map fun a => (a, s.chose a)

/-! ### Placing a word where it is fetched -/

/-- Where `State.placePage` puts a page for a program that no table maps: the page, and above it the four tables. -/
def probePage : Nat := 0x10000000000
/-- First of its tables. -/
def probeTables : Nat := 0x10000100000

/-- Maps one 64 KiB page of die 0's local HBM4E, readable, writable, executable and for user access, at the virtual
address that equals its physical address, and points the context there. -/
def State.placePage (s : State) (c : CtxIx) : State :=
  let m := s.mem
  let m := m.putLe probeTables 8 (probeTables + 0x1000 + 1)
  let m := m.putLe (probeTables + 0x1000 + 16) 8 (probeTables + 0x2000 + 1)
  let m := m.putLe (probeTables + 0x2000) 8 (probeTables + 0x20000 + 1)
  let m := m.putLe (probeTables + 0x20000) 8 (probePage + 31)
  let sc := s.sc c
  ({ s with mem := m } : State).setSc c
    { sc with pc := BitVec.ofNat 64 probePage, satp := BitVec.ofNat 64 (probeTables / 2 ^ 12) }

/-- A context that holds a task and has nothing pending, on a module with power. -/
def State.placeTask (s : State) (c : CtxIx) : State :=
  let s := { s with skerry := { s.skerry with powered := true } }
  let x := { s.ctx c with
    viq := [], block := none, parked := none, down := false, stopReq := .none, icache := [], bcache := [] }
  let x := if x.regs.sc.uliDue then x.setSc { x.regs.sc with ulipend := 0 } else x
  let s := s.setCore (CtxIx.core c) { s.core (CtxIx.core c) with powered := true }
  match x.task with
  | some _ => s.setCtx c x
  | none =>
    ({ s with launches := s.launches ++ [supLaunch x.regs.sc.pc x.regs.sc.stvec x.regs.sc.satp] } : State).setCtx c
      { x with task := some ⟨s.launches.length, 0⟩ }

/-- A scalar word where the acting context fetches next; when its pc does not translate, a page is placed for it. -/
def State.placeWord (s : State) (w : Nat) : State :=
  let c := s.cur
  let s := s.placeTask c
  let s := match s.fetchWord with
    | .ok _ => s
    | .error _ => s.placePage c
  let s := match s.fetchLoc s.scalarAgent s.mySc.pc 4 with
    | .ok pa => { s with mem := s.mem.putLe pa 4 w }
    | .error _ => s
  { s with agenda := [.issue c] }

/-- A block word as the next word of a block in flight of the acting context, with STOP after it; the block may write what
the word names. -/
def State.placeBlock (s : State) (w : Nat) : State :=
  let c := s.cur
  let s := s.placeTask c
  let word := BitVec.ofNat 64 w
  let ws := if word = stopWord then [word] else [word, stopWord]
  let h := (rawDests w).foldl (fun h d => match d with
    | .v n => h ||| 2 ^ n
    | .w n => h ||| 2 ^ (48 + n)
    | .m n => h ||| 2 ^ (48 + n)) 0
  let e : Entry := ⟨.vfetch 0, s.mySc, none, s.me.task, none, 0, 0, none, [], none⟩
  let s := s.setMe { s.me with block := some (s.openBlock e s.mySc.pc (h % 2 ^ 60) ws) }
  { s with agenda := [.lanes c] }

end Sys2Proof.Machine
end

