-- ==== Sys2Proof/Machine/Step.lean ====
section
/-!
DEFINITION. One step of the module: one act of one agent.
-/
namespace Sys2Proof.Machine

/-- One step: the next act, performed; with nothing to do, the state stays. -/
def step (s : State) : Host.Outcome State Fault Refusal :=
  match s.nextAct with
  | none => .next s
  | some (a, s') => s'.act a

/-- The state with a word stored where `step` fetches its next instruction: a 32-bit word at the pc of the acting context,
a 64-bit word as the next word of an element block in flight (log entry 22). -/
def State.withFetchWord (s : State) (nbits w : Nat) : State := if nbits ≤ 32 then s.placeWord w else s.placeBlock w

end Sys2Proof.Machine
end

