-- ==== Sys2Proof/Certificates/Slice0/Obligations.lean ====
section
/-!
DEFINITION. The statements for the provers, and the few words they are written in.
-/

namespace Sys2Proof.Spec
open Sys2Proof.Machine

/-! ### The words the statements use -/

/-- `exec i s` answers a next state, and `p` holds of it. -/
def Completes (i : Instr) (s : State) (p : State → Prop) : Prop := ∃ t, exec i s = .next t ∧ p t

/-- `t` is `s` but for the context that acts. -/
def OnlyMe (s t : State) : Prop := t = { s with ctxs := t.ctxs } ∧ ∀ c, c ≠ s.cur → t.ctx c = s.ctx c

/-- Every byte of memory reads as before. -/
def SameMemory (s t : State) : Prop := ∀ a, t.mem.byte a = s.mem.byte a

/-- `t` is `s` but for the scalar side of the context that acts. -/
def OnlyScalar (s t : State) : Prop := OnlyMe s t ∧ t.me = s.me.setSc t.mySc ∧ SameMemory s t

/-- The word has retired: the pc is past it and INSTRET counts it. -/
def Retired (s t : State) : Prop := t.mySc.pc = s.mySc.pc + 4 ∧ t.mySc.instret = s.mySc.instret + 1

/-- The scalar side is as before but for register `d`, FFLAGS, the pc and INSTRET. -/
def ScalarBut (d : Option XReg) (s t : State) : Prop :=
  t.mySc = { s.mySc with x := t.mySc.x, fflags := t.mySc.fflags, pc := t.mySc.pc, instret := t.mySc.instret } ∧
    ∀ r, d ≠ some r → t.mySc.rx r = s.mySc.rx r

/-- A scalar register instruction: past the word, xd holds a value that stands in `p` to xa and xb, FFLAGS gains `g`, and
nothing else changes. A destination x0 discards the value. -/
def Result (i : Instr) (s : State) (d : XReg) (p : Word64 → Prop) (g : BitVec 8) : Prop :=
  Completes i s fun t => ∃ v, p v ∧ t = s.setMySc ((s.mySc.wx d v).setFlags g).retire ∧ t.mySc.rx d = if d = 0 then 0 else v

/-- A three-register instruction without flags. -/
def Row3 (mk : X3 → Instr) (p : Word64 → Word64 → Word64 → Prop) : Prop :=
  ∀ o s, Result (mk o) s o.d (p (s.mySc.rx o.a) (s.mySc.rx o.b)) 0
/-- A two-register instruction. -/
def Row2 (mk : X2 → Instr) (p : Word64 → Word64 → Prop) : Prop := ∀ o s, Result (mk o) s o.d (p (s.mySc.rx o.a)) 0
/-- A division: DZ on a zero divisor. -/
def RowDiv (mk : X3 → Instr) (p : Word64 → Word64 → Word64 → Prop) : Prop :=
  ∀ o s, Result (mk o) s o.d (p (s.mySc.rx o.a) (s.mySc.rx o.b)) (if s.mySc.rx o.b = 0 then 0x02 else 0)
/-- An immediate instruction. -/
def RowI (mk : XImm → Instr) (p : Word64 → BitVec 16 → Word64 → Prop) : Prop :=
  ∀ o s, Result (mk o) s o.d (p (s.mySc.rx o.a) o.i) 0
/-- A shift by an immediate. -/
def RowSh (mk : XSh → Instr) (p : Word64 → Nat → Word64 → Prop) : Prop :=
  ∀ o s, Result (mk o) s o.d (p (s.mySc.rx o.a) o.n.val) 0

/-- A trap of the scalar instruction at the pc (R313): the saved registers, the privilege and the pc; what the lanes held
is gone and the general registers stand. -/
def TrapsWith (i : Instr) (s : State) (cause : BitVec 8) (addr : Word64) : Prop :=
  Completes i s fun t => OnlyMe s t ∧ t.mem = s.mem ∧ t.mySc.scause = cause ∧ t.mySc.saddr = addr ∧ t.mySc.selem = 0 ∧
    t.mySc.sepc = s.mySc.pc ∧ t.mySc.sup = true ∧ t.mySc.pc = s.mySc.stvec &&& ~~~3#64 ∧
    t.mySc.sstatus = (if s.mySc.sup then 1 else 0) ∧ t.mySc.vstart = 0 ∧ t.mySc.x = s.mySc.x ∧
    t.mySc.instret = s.mySc.instret ∧ t.me.viq = [] ∧ t.me.block = none ∧ t.me.parked = none

end Sys2Proof.Spec

section
open Sys2Proof Sys2Proof.Machine Sys2Proof.Spec

/-! ### Decoding -/

/-- Words written out from the encoding tables of R119 to R130 decode to the instructions they stand for. -/
def Obligations.WordsDecode : Prop :=
  -- 000001 00011 00001 00010 000000 00000: ADD x3, x1, x2
  decodeTableWord 32 0b00000100011000010001000000000000 = some (.add ⟨3, 1, 2⟩) ∧
  -- 000010 00101 00110 1111111111111111: ADDI x5, x6, −1
  decodeTableWord 32 0b00001000101001101111111111111111 = some (.addi ⟨5, 6, 0xFFFF⟩) ∧
  -- 010000 00001 00011 0000000000001000: JALR x1, x3, 8
  decodeTableWord 32 (0x10 * 2 ^ 26 + 1 * 2 ^ 21 + 3 * 2 ^ 16 + 8) = some (.jalr ⟨1, 3, 8⟩) ∧
  -- 010010, d = 4, op 0 (CSRR), CSR 0x021
  decodeTableWord 32 (0x12 * 2 ^ 26 + 4 * 2 ^ 21 + 0x021) = some (.csrr 4 0x021) ∧
  -- 010100: SYSCALL is function 0
  decodeTableWord 32 (0x14 * 2 ^ 26) = some .syscall ∧
  -- E format: opcode 0x40, vd 2, va 3, vb 4, mask 15, type 0x09 (.s32), rounding 7: VADD.S32 v2, v3, v4
  decodeTableWord 64 (0x40 * 2 ^ 56 + 2 * 2 ^ 50 + 3 * 2 ^ 44 + 4 * 2 ^ 38 + 15 * 2 ^ 25 + 9 * 2 ^ 20 + 7 * 2 ^ 13) =
    some (.vadd ⟨2, ⟨3, false⟩, ⟨4, false⟩, none, .s32⟩) ∧
  decodeTableWord 64 0x0100000000000000 = some .stop

/-- Decoding the encoding of a well-formed instruction gives it back, with every operand at every value it admits. -/
def Obligations.EncodeDecodeRoundTrip : Prop :=
  ∀ (i : Instr) (n w : Nat), i.wf = true → encode i = some (n, w) → decodeTableWord n w = some i

/-- What the decoder answers is well formed, has an encoding and is no device event. -/
def Sys2Proof.Spec.DecodedIsWellFormed : Prop :=
  (∀ w i, decodeS w = .ok i → i.wf = true ∧ isEvent i = false ∧ ∃ v, encode i = some (32, v)) ∧
  (∀ w i, decodeE w = .ok i → i.wf = true ∧ isEvent i = false ∧ ∃ v, encode i = some (64, v))

/-- The major opcodes that no table assigns are ILLEGAL whatever the other bits are. -/
def Sys2Proof.Spec.UnassignedOpcodesIllegal : Prop :=
  ∀ w, w < 2 ^ 32 → w / 2 ^ 26 ∈ [0x00, 0x17, 0x2E, 0x2F, 0x36, 0x37, 0x38, 0x39, 0x3A, 0x3B, 0x3C, 0x3D, 0x3E, 0x3F] →
    decodeS w = .error .illegal

/-- R118, Table 7-5: the decoder answers only well-formed instructions that the encoder can write, and refuses
the major opcodes of no table. -/
def Obligations.DecoderAnswersTheTable : Prop := DecodedIsWellFormed ∧ UnassignedOpcodesIllegal

/-! ### Scalar integer instructions -/

/-- R136: register operations, each as the table gives it on numbers. -/
def Sys2Proof.Spec.RegisterArithmetic : Prop :=
  Row3 .add (fun a b v => v.toNat = (a.toNat + b.toNat) % 2 ^ 64) ∧
  Row3 .sub (fun a b v => v.toNat = (a.toNat + 2 ^ 64 - b.toNat) % 2 ^ 64) ∧
  Row3 .mul (fun a b v => v.toNat = a.toNat * b.toNat % 2 ^ 64) ∧
  Row3 .mulh (fun a b v => v.toInt = a.toInt * b.toInt / 2 ^ 64) ∧
  Row3 .mulhn (fun a b v => v.toNat = a.toNat * b.toNat / 2 ^ 64) ∧
  Row3 .slt (fun a b v => v = if a.toInt < b.toInt then 1 else 0) ∧
  Row3 .sltn (fun a b v => v = if a.toNat < b.toNat then 1 else 0) ∧
  Row3 .min (fun a b v => v.toInt = min a.toInt b.toInt) ∧
  Row3 .max (fun a b v => v.toInt = max a.toInt b.toInt) ∧
  Row3 .minn (fun a b v => v.toNat = min a.toNat b.toNat) ∧
  Row3 .maxn (fun a b v => v.toNat = max a.toNat b.toNat)

/-- R136: the bitwise operations bit by bit, and the shifts by the low six bits of xb or the immediate. -/
def Sys2Proof.Spec.RegisterBitOperations : Prop :=
  Row3 .and (fun a b v => ∀ k, v.getLsbD k = (a.getLsbD k && b.getLsbD k)) ∧
  Row3 .or (fun a b v => ∀ k, v.getLsbD k = (a.getLsbD k || b.getLsbD k)) ∧
  Row3 .xor (fun a b v => ∀ k, v.getLsbD k = (a.getLsbD k ^^ b.getLsbD k)) ∧
  Row3 .andn (fun a b v => ∀ k, k < 64 → v.getLsbD k = (a.getLsbD k && !b.getLsbD k)) ∧
  Row3 .orn (fun a b v => ∀ k, k < 64 → v.getLsbD k = (a.getLsbD k || !b.getLsbD k)) ∧
  Row3 .sll (fun a b v => v.toNat = a.toNat * 2 ^ (b.toNat % 64) % 2 ^ 64) ∧
  Row3 .srl (fun a b v => v.toNat = a.toNat / 2 ^ (b.toNat % 64)) ∧
  Row3 .sra (fun a b v => v.toInt = a.toInt / 2 ^ (b.toNat % 64)) ∧
  RowSh .slli (fun a n v => v.toNat = a.toNat * 2 ^ n % 2 ^ 64) ∧
  RowSh .srli (fun a n v => v.toNat = a.toNat / 2 ^ n) ∧
  RowSh .srai (fun a n v => v.toInt = a.toInt / 2 ^ n)

/-- R136: counts and extensions. -/
def Sys2Proof.Spec.RegisterCountsAndExtensions : Prop :=
  Row2 .clz (fun a v => if a = 0 then v = 64 else v.toNat < 64 ∧ a.toNat < 2 ^ (64 - v.toNat) ∧ 2 ^ (63 - v.toNat) ≤ a.toNat) ∧
  Row2 .ctz (fun a v => if a = 0 then v = 64 else v.toNat < 64 ∧ (∀ k, k < v.toNat → a.getLsbD k = false) ∧
    a.getLsbD v.toNat = true) ∧
  Row2 .popc (fun a v => v.toNat = ((List.range 64).filter fun k => a.getLsbD k).length) ∧
  (∀ o s, Result (.sext o) s o.d (fun v => v.toInt = ((s.mySc.rx o.a).setWidth (extBits o.s)).toInt) 0) ∧
  (∀ o s, Result (.zext o) s o.d (fun v => v.toNat = (s.mySc.rx o.a).toNat % 2 ^ extBits o.s) 0)

/-- R95, R136: division and remainder, with the two corners and DZ. -/
def Sys2Proof.Spec.DivisionAndRemainder : Prop :=
  RowDiv .div (fun a b v => if b = 0 then v = -1 else if a.toInt = -2 ^ 63 ∧ b = -1 then v = a
    else v.toInt = a.toInt.tdiv b.toInt) ∧
  RowDiv .divn (fun a b v => if b = 0 then v = -1 else v.toNat = a.toNat / b.toNat) ∧
  RowDiv .rem (fun a b v => if b = 0 then v = a else v.toInt = a.toInt.tmod b.toInt) ∧
  RowDiv .remn (fun a b v => if b = 0 then v = a else v.toNat = a.toNat % b.toNat)

/-- R119, R136, Table 7-5: opcode 0x01, with the operation in fn[4:0]; the shift amount in fn[10:5]; xb zero in the unary ones. -/
def Sys2Proof.Spec.RegisterOperationWords : Prop :=
  let word := fun (fn : Nat) (d a : XReg) (b : Nat) => some (32, 1 * 2 ^ 26 + d.val * 2 ^ 21 + a.val * 2 ^ 16 + b * 2 ^ 11 + fn)
  (∀ o : X3, let w := fun fn b => word fn o.d o.a b
    encode (.add o) = w 0 o.b.val ∧ encode (.sub o) = w 1 o.b.val ∧ encode (.and o) = w 2 o.b.val ∧
    encode (.or o) = w 3 o.b.val ∧ encode (.xor o) = w 4 o.b.val ∧ encode (.andn o) = w 5 o.b.val ∧
    encode (.orn o) = w 6 o.b.val ∧ encode (.sll o) = w 7 o.b.val ∧ encode (.srl o) = w 8 o.b.val ∧
    encode (.sra o) = w 9 o.b.val ∧ encode (.slt o) = w 10 o.b.val ∧ encode (.sltn o) = w 11 o.b.val ∧
    encode (.min o) = w 12 o.b.val ∧ encode (.max o) = w 13 o.b.val ∧ encode (.minn o) = w 14 o.b.val ∧
    encode (.maxn o) = w 15 o.b.val ∧ encode (.mul o) = w 16 o.b.val ∧ encode (.mulh o) = w 17 o.b.val ∧
    encode (.mulhn o) = w 18 o.b.val ∧ encode (.div o) = w 19 o.b.val ∧ encode (.divn o) = w 20 o.b.val ∧
    encode (.rem o) = w 21 o.b.val ∧ encode (.remn o) = w 22 o.b.val) ∧
  (∀ o : X2, encode (.clz o) = word 23 o.d o.a 0 ∧ encode (.ctz o) = word 24 o.d o.a 0 ∧ encode (.popc o) = word 25 o.d o.a 0) ∧
  (∀ o : XExt, let size := match o.s with
      | .b => 0
      | .h => 1
      | .w => 2
    encode (.sext o) = word (26 + size * 2 ^ 5) o.d o.a 0 ∧ encode (.zext o) = word (27 + size * 2 ^ 5) o.d o.a 0) ∧
  (∀ o : XSh, encode (.slli o) = word (28 + o.n.val * 2 ^ 5) o.d o.a 0 ∧ encode (.srli o) = word (29 + o.n.val * 2 ^ 5) o.d o.a 0 ∧
    encode (.srai o) = word (30 + o.n.val * 2 ^ 5) o.d o.a 0)

/-- R136: every operation of Table 8-1, and its word. R95: the corners of division. Each of ADD to MAXN, MUL to REMN, the
shifts, CLZ, CTZ, POPC, SEXT and ZEXT answers a next state, that of its own result, for every state and all operands. -/
def Obligations.ScalarRegisterOperations : Prop :=
  RegisterArithmetic ∧ RegisterBitOperations ∧ RegisterCountsAndExtensions ∧ DivisionAndRemainder ∧ RegisterOperationWords

/-- R137: immediates. LIH is SHORI from x0. Each answers a next state, that of its own result, for every state and all
operands. -/
def Obligations.ImmediateOperations : Prop :=
  RowI .addi (fun a i v => v = BitVec.ofInt 64 (a.toInt + i.toInt)) ∧
  RowI .andi (fun a i v => v.toNat = a.toNat &&& i.toNat) ∧
  RowI .ori (fun a i v => v.toNat = a.toNat ||| i.toNat) ∧
  RowI .xori (fun a i v => v.toNat = a.toNat ^^^ i.toNat) ∧
  RowI .slti (fun a i v => v = if a.toInt < i.toInt then 1 else 0) ∧
  RowI .shori (fun a i v => v.toNat = (a.toNat * 2 ^ 16 + i.toNat) % 2 ^ 64) ∧
  (∀ d i s, Result (.lih d i) s d (fun v => v.toNat = i.toNat) 0)

/-! ### Control flow -/

namespace Sys2Proof.Spec

/-- The pc goes to `p`, xd (if any) gets `link`, INSTRET counts, nothing else changes. -/
def JumpsTo (i : Instr) (s : State) (link : Option (XReg × Word64)) (p : Word64) : Prop :=
  Completes i s fun t => t = s.setMySc (((match link with
    | some (d, v) => s.mySc.wx d v
    | none => s.mySc) : Scalar).retireTo p)
/-- A conditional branch. -/
def BranchRow (mk : Br → Instr) (p : Word64 → Word64 → Prop) : Prop :=
  ∀ (o : Br) s,
    (p (s.mySc.rx o.a) (s.mySc.rx o.b) → JumpsTo (mk o) s none (s.mySc.pc + BitVec.ofInt 64 (4 * o.o.toInt))) ∧
    (¬ p (s.mySc.rx o.a) (s.mySc.rx o.b) → JumpsTo (mk o) s none (s.mySc.pc + 4))

end Sys2Proof.Spec

/-- R142: branches go to PC + 4 × the sign-extended offset or past the word. -/
def Sys2Proof.Spec.BranchesTakenAndNot : Prop :=
  BranchRow .beq (fun a b => a = b) ∧ BranchRow .bne (fun a b => a ≠ b) ∧
  BranchRow .blt (fun a b => a.toInt < b.toInt) ∧ BranchRow .bge (fun a b => b.toInt ≤ a.toInt) ∧
  BranchRow .bltn (fun a b => a.toNat < b.toNat) ∧ BranchRow .bgen (fun a b => b.toNat ≤ a.toNat)

/-- R142: jumps link PC + 4; JALR to a target whose two low bits are not zero faults MISALIGN with that target; a word of zeros
is ILLEGAL. That the trap waits until the lanes have drained is the model's choice (log entry 10). -/
def Sys2Proof.Spec.JumpsLinkAndMisalign : Prop :=
  (∀ d i s, JumpsTo (.jal d i) s (some (d, s.mySc.pc + 4)) (s.mySc.pc + BitVec.ofInt 64 (4 * i.toInt))) ∧
  (∀ (o : XImm) s, let t := s.mySc.rx o.a + BitVec.ofInt 64 o.i.toInt
    (t.toNat % 4 = 0 → JumpsTo (.jalr o) s (some (o.d, s.mySc.pc + 4)) t) ∧
    (t.toNat % 4 ≠ 0 → s.me.drained = true → TrapsWith (.jalr o) s 0x05 t) ∧
    (t.toNat % 4 ≠ 0 → s.me.drained = false → Completes (.jalr o) s fun t => t = s)) ∧
  decodeS 0 = .error .illegal

/-- R122, R142: the branches are opcodes 0x0A to 0x0F in order; opcode 0x10 holds the jumps, told apart by xa. -/
def Sys2Proof.Spec.BranchWords : Prop :=
  (∀ o : Br, let w := fun op => some (32, op * 2 ^ 26 + o.a.val * 2 ^ 21 + o.b.val * 2 ^ 16 + o.o.toNat)
    encode (.beq o) = w 0x0A ∧ encode (.bne o) = w 0x0B ∧ encode (.blt o) = w 0x0C ∧ encode (.bge o) = w 0x0D ∧
    encode (.bltn o) = w 0x0E ∧ encode (.bgen o) = w 0x0F) ∧
  (∀ d (i : BitVec 16), encode (.jal d i) = some (32, 0x10 * 2 ^ 26 + d.val * 2 ^ 21 + i.toNat)) ∧
  (∀ o : XImm, encode (.jalr o) = some (32, 0x10 * 2 ^ 26 + o.d.val * 2 ^ 21 + o.a.val * 2 ^ 16 + o.i.toNat))

/-- R142: the six branches and the two jumps, their words, and the fetch of zeroed memory. The branches and JAL answer a next
state for every state and all operands, JALR for every aligned target. When a trap is taken while older
entries are pending is the model's choice (log entry 10). -/
def Obligations.BranchesAndJumps : Prop := BranchesTakenAndNot ∧ JumpsLinkAndMisalign ∧ BranchWords

/-! ### Scalar memory -/

namespace Sys2Proof.Spec

/-- What a scalar memory instruction or a fence may change beside its result: the number of the strip interval. -/
def SideBut (d : Option XReg) (s t : State) : Prop :=
  t.mySc = { s.mySc with x := t.mySc.x, pc := s.mySc.pc + 4, instret := s.mySc.instret + 1, ivl := t.mySc.ivl } ∧
    (∀ r, d ≠ some r → t.mySc.rx r = s.mySc.rx r) ∧ t.me = s.me.setSc t.mySc ∧ (∀ c, c ≠ s.cur → t.ctx c = s.ctx c)

/-- The `n`-byte value `x` in 64 bits, sign- or zero-extended (R139). -/
def Extended (n : Nat) (sg : Bool) (x : Nat) : Word64 :=
  if sg then BitVec.ofInt 64 (BitVec.ofNat (8 * n) x).toInt else BitVec.ofNat 64 x

/-- A load of `n` bytes from `a` into xd: the value at the location, and no byte of memory or scratchpad changes. It waits for the
accesses of older strip intervals alone (R265). -/
def LoadRow (i : Instr) (s : State) (d : XReg) (a : Word64) (z : LdSize) : Prop :=
  ∀ l, s.intervalReady = true → s.scalarLoc s.scalarAgent a (ldBytes z).1 .read = .ok l → s.isDevice l = false →
    Completes i s fun t => SideBut (some d) s t ∧ SameMemory s t ∧ (∀ c o k, (t.core c).scratchAt o k = (s.core c).scratchAt o k) ∧
      t.mySc.rx d = if d = 0 then 0 else Extended (ldBytes z).1 (ldBytes z).2 (leNat (s.loadLoc l (ldBytes z).1))

/-- Bytes written at a location, and none elsewhere: outside the `bs.length` bytes from a physical address every byte of
memory reads as before; outside those from a scratchpad offset every scratchpad byte does. -/
def Wrote (s t : State) (l : Loc) (bs : List Byte) : Prop :=
  t.loadLoc l bs.length = bs ∧
  match l with
  | .mem pa | .uc pa => (∀ a, a < pa ∨ pa + bs.length ≤ a → t.mem.byte a = s.mem.byte a) ∧
      (∀ c o k, (t.core c).scratchAt o k = (s.core c).scratchAt o k)
  | .win c off => SameMemory s t ∧ (∀ k o n, k ≠ c ∨ o + n ≤ off ∨ off + bs.length ≤ o →
      (t.core k).scratchAt o n = (s.core k).scratchAt o n)

/-- Memory and every scratchpad are in canonical form. -/
def Canonical (s : State) : Prop :=
  s.mem.wf = true ∧ s.mram.wf = true ∧ (∀ c, (s.core c).scratch.wf = true) ∧
    (∀ q, fwfFrom (0 : BitVec 32) 0 (s.quad q).grad = true)

/-- What R46 holds a scalar access for: every older entry past its fault point, and the accesses of older strip intervals
performed; of a release every earlier access (R140, R141, R265). -/
def AccessReady (s : State) (rel : Bool) : Prop :=
  s.me.settled = true ∧ (if rel then s.accessesDone else s.intervalReady) = true

/-- A store of the low `n` bytes of xd to `a`. -/
def StoreRow (i : Instr) (s : State) (d : XReg) (a : Word64) (n : Nat) (rel : Bool) : Prop :=
  ∀ l, Canonical s → AccessReady s rel → s.scalarLoc s.scalarAgent a n .write = .ok l → s.isDevice l = false →
    Completes i s fun t => SideBut none s t ∧ Wrote s t l (leBytes n (s.mySc.rx d).toNat)

/-- An atomic: xd gets the old value, sign-extended; the location gets `f old`, or keeps its bytes. -/
def AtomicRow (i : Instr) (s : State) (d : XReg) (a : Word64) (n : Nat) (rel : Bool) (f : Nat → Nat) : Prop :=
  ∀ l, Canonical s → AccessReady s rel → s.scalarLoc s.scalarAgent a n .rw = .ok l → s.isDevice l = false →
    Completes i s fun t => SideBut (some d) s t ∧ Wrote s t l (leBytes n (f (leNat (s.loadLoc l n)))) ∧
      t.mySc.rx d = if d = 0 then 0 else Extended n true (leNat (s.loadLoc l n))

end Sys2Proof.Spec

/-- R139, R140: loads of every size and form. An ordered form takes the address of its class, xa + xb (R121; log entry 7). -/
def Sys2Proof.Spec.LoadsReadTheLocation : Prop :=
  (∀ d a off z s, LoadRow (.ld d a off z) s d (s.mySc.rx a + BitVec.ofInt 64 off.toInt) z) ∧
  (∀ (o : X3) z s, LoadRow (.ldx o z) s o.d (s.mySc.rx o.a + s.mySc.rx o.b) z) ∧
  (∀ (o : X3) c z s, LoadRow (.ldAcq o c z) s o.d (s.mySc.rx o.a + s.mySc.rx o.b) z)

/-- R139, R140: stores of every size and form, and their frame: every byte outside the stored bytes reads as before. -/
def Sys2Proof.Spec.StoresWriteTheLocation : Prop :=
  (∀ d a off z s, StoreRow (.st d a off z) s d (s.mySc.rx a + BitVec.ofInt 64 off.toInt) (stBytes z) false) ∧
  (∀ (o : X3) z s, StoreRow (.stx o z) s o.d (s.mySc.rx o.a + s.mySc.rx o.b) (stBytes z) false) ∧
  (∀ (o : X3) c z s, StoreRow (.stRel o c z) s o.d (s.mySc.rx o.a + s.mySc.rx o.b) (stBytes z) true)

/-- R141: the nine operations of AMO, and CAS, which writes xb where the location equals xd. -/
def Sys2Proof.Spec.AtomicsReadAndModify : Prop :=
  (∀ (o : AmoArgs) s, let n := amoBytes o.dword
    let b := (s.mySc.rx o.b).toNat % 2 ^ (8 * n)
    let sg := fun x : Nat => (BitVec.ofNat (8 * n) x).toInt
    AtomicRow (.amo o) s o.d (s.mySc.rx o.a) n (o.ord == .rel || o.ord == .ar) fun old =>
      match o.op with
      | .add => (old + b) % 2 ^ (8 * n)
      | .and => old &&& b
      | .or => old ||| b
      | .xor => old ^^^ b
      | .swap => b
      | .min => if sg b < sg old then b else old
      | .max => if sg old < sg b then b else old
      | .minn => min old b
      | .maxn => max old b) ∧
  (∀ (o : CasArgs) s, let n := amoBytes o.dword
    AtomicRow (.cas o) s o.d (s.mySc.rx o.a) n (o.ord == .rel || o.ord == .ar) fun old =>
      if old = (s.mySc.rx o.d).toNat % 2 ^ (8 * n) then (s.mySc.rx o.b).toNat % 2 ^ (8 * n) else old)

/-- R139 to R141: scalar loads, stores and atomics of every form, with their frame. -/
def Obligations.ScalarMemory : Prop := LoadsReadTheLocation ∧ StoresWriteTheLocation ∧ AtomicsReadAndModify

/-- R139: the order of the checks. An address whose bits 63 to 57 do not copy bit 56 faults XLATE_PERM before a
misaligned one faults MISALIGN, each with the address, whatever the translation holds. -/
def Sys2Proof.Spec.ScalarAccessFaultOrder : Prop :=
  ∀ (g : Agent) (s : State) (a : Word64) (n : Nat) (k : Kind),
    (canonical a = false → s.scalarLoc g a n k = .error ⟨.xlatePerm, 0, a⟩) ∧
    (canonical a = true → a.toNat % n ≠ 0 → s.scalarLoc g a n k = .error ⟨.misalign, 0, a⟩)

/-- R139, R140, R313: a scalar access that faults, of every form, takes its trap, and stores nothing. An ordered form takes the
address of its class, xa + xb (R121; log entry 7). -/
def Sys2Proof.Spec.FaultingAccessTraps : Prop :=
  ∀ (s : State) (tr : Trap), s.me.drained = true → tr.elem = 0 →
    (∀ (o : X3) z, s.scalarLoc s.scalarAgent (s.mySc.rx o.a + s.mySc.rx o.b) (ldBytes z).1 .read = .error tr →
      TrapsWith (.ldx o z) s tr.cause.code tr.addr ∧ ∀ c, TrapsWith (.ldAcq o c z) s tr.cause.code tr.addr) ∧
    (∀ (o : X3) z, s.scalarLoc s.scalarAgent (s.mySc.rx o.a + s.mySc.rx o.b) (stBytes z) .write = .error tr →
      TrapsWith (.stx o z) s tr.cause.code tr.addr ∧ ∀ c, TrapsWith (.stRel o c z) s tr.cause.code tr.addr) ∧
    (∀ d a off z, s.scalarLoc s.scalarAgent (s.mySc.rx a + BitVec.ofInt 64 off.toInt) (ldBytes z).1 .read = .error tr →
      TrapsWith (.ld d a off z) s tr.cause.code tr.addr) ∧
    (∀ d a off z, s.scalarLoc s.scalarAgent (s.mySc.rx a + BitVec.ofInt 64 off.toInt) (stBytes z) .write = .error tr →
      TrapsWith (.st d a off z) s tr.cause.code tr.addr) ∧
    (∀ (o : AmoArgs), s.scalarLoc s.scalarAgent (s.mySc.rx o.a) (amoBytes o.dword) .rw = .error tr →
      TrapsWith (.amo o) s tr.cause.code tr.addr) ∧
    (∀ (o : CasArgs), s.scalarLoc s.scalarAgent (s.mySc.rx o.a) (amoBytes o.dword) .rw = .error tr →
      TrapsWith (.cas o) s tr.cause.code tr.addr)

/-- R139 to R141, R313: which fault a scalar access meets first, and that every form of load, store and atomic traps with no
effect. -/
def Obligations.ScalarMemoryFaults : Prop := ScalarAccessFaultOrder ∧ FaultingAccessTraps

/-! ### Scalar floating point -/

namespace Sys2Proof.Spec

/-- xd gets `r.1`, FFLAGS gains `r.2`, the word retires. -/
def FpResult (i : Instr) (s : State) (d : XReg) (r : Nat × Flags) : Prop :=
  Result i s d (fun v => v = BitVec.ofNat 64 r.1) r.2
/-- Two operands, combined exactly and rounded once under the captured mode. -/
def FpRow (mk : Fp3 → Instr) (op : Mode → FV → FV → FV × Flags) : Prop :=
  ∀ (o : Fp3) s, let md := rndMode o.r s.mySc.frm
    let e := op md (fpVal o.t (s.mySc.rx o.a)) (fpVal o.t (s.mySc.rx o.b))
    let q := (fptFmt o.t).round e.1 md
    FpResult (mk o) s o.d (q.1, q.2 ||| e.2)

end Sys2Proof.Spec

/-- R138: scalar floating point. Each result is one rounding of the exact value; FMIN, FMAX and FCMP are exact; FCLASS
and the conversions give integers sign- or zero-extended. -/
def Sys2Proof.Spec.ScalarFloatingPoint : Prop :=
  FpRow .fadd FV.add ∧ FpRow .fsub FV.sub ∧ FpRow .fmul (fun _ => FV.mul) ∧ FpRow .fdiv (fun _ => FV.div) ∧
  (∀ (o : Fp3) s, let md := rndMode o.r s.mySc.frm
    let e := FV.fma md (fpVal o.t (s.mySc.rx o.a)) (fpVal o.t (s.mySc.rx o.b)) (fpVal o.t (s.mySc.rx o.d))
    FpResult (.ffma o) s o.d (((fptFmt o.t).round e.1 md).1, ((fptFmt o.t).round e.1 md).2 ||| e.2)) ∧
  (∀ (o : X2) t r s, let md := rndMode r s.mySc.frm
    let e := (fpVal t (s.mySc.rx o.a)).sqrt
    FpResult (.fsqrt o t r) s o.d (((fptFmt t).round e.1 md).1, ((fptFmt t).round e.1 md).2 ||| e.2)) ∧
  (∀ (o : Fp3n) s, FpResult (.fmin o) s o.d ((fptFmt o.t).minMax false (fpBits o.t (s.mySc.rx o.a)) (fpBits o.t (s.mySc.rx o.b))) ∧
    FpResult (.fmax o) s o.d ((fptFmt o.t).minMax true (fpBits o.t (s.mySc.rx o.a)) (fpBits o.t (s.mySc.rx o.b)))) ∧
  (∀ (o : X3) t c s, let r := fpCompare c (fpVal t (s.mySc.rx o.a)) (fpVal t (s.mySc.rx o.b))
    FpResult (.fcmp o t c) s o.d (r.1.toNat, r.2)) ∧
  (∀ (o : X2) t s, FpResult (.fclass o t) s o.d ((fptFmt t).classOf (fpBits t (s.mySc.rx o.a)), 0)) ∧
  (∀ (o : FpCvt) s, let md := rndMode o.r s.mySc.frm
    let p := convertVal (fptType o.t) o.o ((s.mySc.rx o.a).toNat % 2 ^ o.o.width) md
    let q := convertVal o.o (fptType o.t) ((s.mySc.rx o.a).toNat % 2 ^ (fptType o.t).width) md
    FpResult (.fcvtToFp o) s o.d p ∧
    FpResult (.fcvtFromFp o) s o.d (if o.o.signed then ((BitVec.ofNat o.o.width q.1).signExtend 64).toNat else q.1, q.2))

/-- Sums, products, quotients and roots of small numbers in the formats of Table 6-2, with their flags. -/
def Sys2Proof.Spec.FloatingPointExamples : Prop :=
  -- 1 + 2 = 3 in F32 and F64; 1 / 3 in F32 to nearest is inexact; 2^−149 / 2 underflows to 0; 0 / 0 is invalid
  fmtF32.round (FV.add .rne (fmtF32.decode 0x3F800000) (fmtF32.decode 0x40000000)).1 .rne = (0x40400000, 0) ∧
  fmtF64.round (FV.add .rne (fmtF64.decode 0x3FF0000000000000) (fmtF64.decode 0x4000000000000000)).1 .rne = (0x4008000000000000, 0) ∧
  fmtF32.round (FV.div (fmtF32.decode 0x3F800000) (fmtF32.decode 0x40400000)).1 .rne = (0x3EAAAAAB, 0x10) ∧
  fmtF32.round (FV.div (fmtF32.decode 1) (fmtF32.decode 0x40000000)).1 .rne = (0, 0x18) ∧
  fmtF32.round (FV.div (fmtF32.decode 0) (fmtF32.decode 0)).1 .rne = (0x7FC00000, 0) ∧
  (FV.div (fmtF32.decode 0) (fmtF32.decode 0)).2 = 0x01 ∧
  (FV.div (fmtF32.decode 0x3F800000) (fmtF32.decode 0)).2 = 0x02 ∧
  fmtF16.round (FV.sqrt (fmtF16.decode 0x4400)).1 .rne = (0x4000, 0)

/-- Every finite value of the 8-bit formats and of E2M1 rounds to its own encoding without a flag, in every mode. -/
def Sys2Proof.Spec.SmallFormatsRoundTrip : Prop :=
  ∀ md : Mode, ∀ t ∈ [EType.e5m2, EType.e4m3, EType.e2m1], ∀ x, x < 2 ^ t.width →
    (decodeFp t x).isNan = false → (decodeFp t x).isInf = false → roundFp t (decodeFp t x) md = (x, 0)

/-- R96 to R105, R138: scalar floating point on every operand, with worked values of its formats. -/
def Obligations.ScalarFloats : Prop := ScalarFloatingPoint ∧ FloatingPointExamples ∧ SmallFormatsRoundTrip

/-! ### CSRs -/

namespace Sys2Proof.Spec

/-- The CSR may be read or written now: its level allows it (R83); FFLAGS, VSTART, MGRANT and MSTATE are read, and FFLAGS
written, with every older entry completed (R48, R84); the writes that R46 lists are made with every older entry past its fault
point. -/
def CsrOpen (s : State) (r : Csr) (reads writes : Bool) : Prop :=
  (r.supOnly = true → s.mySc.sup = true) ∧
    (reads = true → r ∈ [Csr.fflags, .vstart, .mgrant, .mstate] → s.me.drained = true) ∧
    (writes = true → r = .fflags → s.me.drained = true) ∧
    (writes = true → r ∈ [Csr.satp, .sstatus, .stvec, .lqb, .pspb, .ulien] → s.me.settled = true)

/-- What a writable CSR of N1 reads after `v` was written over `old`, on a core whose scratchpad has `scratch` bytes; none where
the write is ILLEGAL (Tables 5-5 to 5-9, R82). -/
def CsrAfter (scratch : Nat) (r : Csr) (old v : Word64) : Option Word64 :=
  match r with
  | .pspb => some (BitVec.ofNat 64 (min (v.toNat / 4096 * 4096) (min 524288 scratch)))
  | .vt => if v.toNat < 2048 ∧ v.toNat % 8 < 6 ∧ (v.toNat / 32 < 48 ∨ v.toNat / 32 = 63) then some v else none
  | .vstart | .selem => some (BitVec.ofNat 64 (v.toNat % 2 ^ 12))
  | .theta => some (BitVec.ofNat 64 (min v.toNat 0x8000))
  | .wlim => some (BitVec.ofNat 64 (max 1 (min v.toNat 4096)))
  | .fflags | .scause => some (BitVec.ofNat 64 (v.toNat % 2 ^ 8))
  | .frm => if v.toNat ≤ 4 then some v else none
  | .fiboff => some (BitVec.ofNat 64 (v.toNat % 2 ^ 32))
  | .pwaddr => some (BitVec.ofNat 64 (v.toNat / 8 * 8))
  | .ulivec | .rvec | .stvec => some (BitVec.ofNat 64 (v.toNat / 4 * 4))
  | .ulien => some (BitVec.ofNat 64 (v.toNat % 2 + old.toNat / 2 * 2))
  | .ulipend => some (old &&& ~~~(BitVec.ofNat 64 (v.toNat % 2 ^ 16)))
  | .asb | .asl | .asp => some (BitVec.ofNat 64 (v.toNat / 16 * 16))
  | .sstatus => some (BitVec.ofNat 64 (v.toNat % 8))
  | .sstr | .sepc | .saddr | .satp | .lqb => some v
  | .vtf _ => some (v &&& 0x0000FFFFFFFF1FFF)
  | _ => none

/-- What a write of the CSR `r` leaves: every other CSR but INSTRET reads as before; of the machine only the acting context's
scalar side may differ, PSPB of its core where that is the CSR, and LQB of its die, with what says that LQB was written, where
that is (R34, R359). -/
def CsrFrame (s t : State) (r : Csr) : Prop :=
  (∀ q, q ≠ r → q ≠ .instret → t.csrRead q = s.csrRead q) ∧
  t = { s with ctxs := t.ctxs, cores := t.cores, dies := t.dies } ∧ (∀ c, c ≠ s.cur → t.ctx c = s.ctx c) ∧
  (∀ k, t.core k = if r = .pspb ∧ k = CtxIx.core s.cur then { s.core k with pspb := (t.core k).pspb } else s.core k) ∧
  (∀ d, t.die d = if r = .lqb ∧ d = CtxIx.die s.cur
    then { s.die d with lqb := (t.die d).lqb, lqStopped := false, lqWritten := true } else s.die d) ∧
  t.me = s.me.setSc t.mySc ∧
  t.mySc = { s.mySc with
    x := t.mySc.x, pc := t.mySc.pc, instret := t.mySc.instret, vt := t.mySc.vt, vstart := t.mySc.vstart, theta := t.mySc.theta
    wlim := t.mySc.wlim, fflags := t.mySc.fflags, frm := t.mySc.frm, fiboff := t.mySc.fiboff, sstr := t.mySc.sstr
    pwaddr := t.mySc.pwaddr, ulivec := t.mySc.ulivec, ulien := t.mySc.ulien, ulipend := t.mySc.ulipend, asb := t.mySc.asb
    asl := t.mySc.asl, asp := t.mySc.asp, rvec := t.mySc.rvec, stvec := t.mySc.stvec, sepc := t.mySc.sepc
    scause := t.mySc.scause, saddr := t.mySc.saddr, selem := t.mySc.selem, sstatus := t.mySc.sstatus, satp := t.mySc.satp
    vtf := t.mySc.vtf }

/-- A CSR instruction that writes `v`: the register reads as Table 5-5 says, and nothing else changes; a forbidden value is
ILLEGAL. `rd` is the destination of the value read before. -/
def CsrWrites (i : Instr) (s : State) (r : Csr) (rd : Option XReg) (v : Word64) : Prop :=
  CsrOpen s r rd.isSome true →
    match CsrAfter ((s.myCore.pool1 - s.myCore.pool0) * 4096) r (s.csrRead r) v with
    | some w => Completes i s fun t => t.csrRead r = w ∧ Retired s t ∧ CsrFrame s t r ∧
        (∀ k, rd ≠ some k → t.mySc.rx k = s.mySc.rx k) ∧ (∀ k, rd = some k → t.mySc.rx k = if k = 0 then 0 else s.csrRead r)
    | none => s.me.drained = true → TrapsWith i s 0x01 s.mySc.pc

end Sys2Proof.Spec

/-- R143: CSRR gives the value of the register, whatever its access; reading changes nothing. -/
def Sys2Proof.Spec.CsrReadsGiveTheRegister : Prop :=
  ∀ d n r s, csrOf n = some r → CsrOpen s r true false → Result (.csrr d n) s d (fun v => v = s.csrRead r) 0

/-- R82 to R84, R143: what each CSR that is not RO holds after CSRW, CSRS and CSRC, and that nothing else changes. CSRS and CSRC
from x0 only read. A write of a forbidden value is stated where the lanes have drained: until then its trap waits, which is the
model's choice (log entry 10). -/
def Obligations.CsrWritesKeepTheFields : Prop :=
  ∀ n r s, csrOf n = some r → r.ro = false →
    (∀ a, CsrWrites (.csrw a n) s r none (s.mySc.rx a)) ∧
    (∀ o : X2, o.a ≠ 0 → CsrWrites (.csrs o n) s r (some o.d) (s.csrRead r ||| s.mySc.rx o.a)) ∧
    (∀ o : X2, o.a ≠ 0 → CsrWrites (.csrc o n) s r (some o.d) (s.csrRead r &&& ~~~(s.mySc.rx o.a))) ∧
    (∀ o : X2, o.a = 0 → CsrOpen s r true false → Result (.csrs o n) s o.d (fun v => v = s.csrRead r) 0 ∧
      Result (.csrc o n) s o.d (fun v => v = s.csrRead r) 0)

/-- R83, R143: a number outside Table 5-5 and a write to an RO register are ILLEGAL; a supervisor CSR at user level is
PRIV. -/
def Sys2Proof.Spec.CsrFaults : Prop :=
  ∀ n s, s.me.drained = true →
    (csrOf n = none → (∀ d, TrapsWith (.csrr d n) s 0x01 s.mySc.pc) ∧ ∀ a, TrapsWith (.csrw a n) s 0x01 s.mySc.pc) ∧
    (∀ r, csrOf n = some r → r.supOnly = true → s.mySc.sup = false →
      (∀ d, TrapsWith (.csrr d n) s 0x04 s.mySc.pc) ∧ ∀ a, TrapsWith (.csrw a n) s 0x04 s.mySc.pc) ∧
    (∀ r, csrOf n = some r → r.supOnly = false → r.ro = true → ∀ a, TrapsWith (.csrw a n) s 0x01 s.mySc.pc)

/-- R83, R143: reading a CSR, and the accesses that fault. -/
def Obligations.CsrReadsAndFaults : Prop := CsrReadsGiveTheRegister ∧ CsrFaults

/-! ### Fences, system and task instructions -/

/-- Some entry of the VIQ, or the block in flight, makes accesses that `k` picks out of its loads and its stores. -/
def Sys2Proof.Spec.AccessPending (k : Bool × Bool → Bool) (s : State) : Prop :=
  (∃ e ∈ s.me.viq, k (s.entryAccess e) = true) ∨
    ∃ b, s.me.block = some b ∧ k (b.words.any fun w => (wordAccess w).1, b.words.any fun w => (wordAccess w).2) = true

/-- R144, R145, R276: fences change nothing that a program reads but the pc and INSTRET; each waits for the entries with accesses of
the kind it orders, and for no other; IFENCE, which waits for every entry, drops the fetch caches of its context, PFENCE.DIE makes the
Holm stores of its context and of its task persistent. -/
def Sys2Proof.Spec.FencesComplete : Prop :=
  (∀ s c, let goes := fun (i : Instr) k => (¬ AccessPending k s → Completes i s fun t => SideBut none s t ∧ OnlyScalar s t) ∧
        (AccessPending k s → Completes i s fun t => t = s)
      goes (.fenceLd c) (·.1) ∧ goes (.fenceSt c) (·.2) ∧ goes (.fenceAll c) fun k => k.1 || k.2) ∧
  (∀ s, s.me.drained = false → Completes .ifence s fun t => t = s) ∧
  ∀ s, s.me.drained = true →
    Completes .ifence s (fun t => Retired s t ∧ OnlyMe s t ∧ SameMemory s t ∧ t.me.icache = [] ∧ t.me.bcache = [] ∧
      t.mySc.x = s.mySc.x) ∧
    Completes .pfenceDie s (fun t => SideBut none s t ∧ SameMemory s t ∧ (∀ e ∈ t.holmOwn, e.by s.cur s.me.task = false) ∧
      ∀ e ∈ s.holmOwn, e.by s.cur s.me.task = false → e ∈ t.holmOwn)

/-- A trap taken once every older entry has passed its fault point, with those entries left to complete; until then the
instruction waits (R118, R147). -/
def Sys2Proof.Spec.TrapsAtFaultPoints (i : Instr) (s : State) (cause : BitVec 8) (addr : Word64) : Prop :=
  (s.me.drained = true → TrapsWith i s cause addr) ∧
  (s.me.settled = true → Completes i s fun t => OnlyMe s t ∧ t.mem = s.mem ∧ t.mySc.scause = cause ∧ t.mySc.saddr = addr ∧
    t.mySc.selem = 0 ∧ t.mySc.sepc = s.mySc.pc ∧ t.mySc.sup = true ∧ t.mySc.pc = s.mySc.stvec &&& ~~~3#64 ∧
    t.mySc.sstatus = (if s.mySc.sup then 1 else 0) ∧ t.mySc.x = s.mySc.x ∧ t.me.viq = s.me.viq ∧ t.me.holds = s.me.holds) ∧
  (s.me.settled = false → Completes i s fun t => t = s)

/-- R147, R313: SYSCALL and BREAK take their traps at either level, with SEPC and SADDR their own address, after every older entry has
passed its fault point. -/
def Sys2Proof.Spec.SystemCallsTrap : Prop :=
  ∀ s, TrapsAtFaultPoints .syscall s 0x1B s.mySc.pc ∧ TrapsAtFaultPoints .brk s 0x1A s.mySc.pc

/-- R118: a supervisor instruction at user level faults PRIV with its own address, and has no effect. -/
def Sys2Proof.Spec.PrivilegedInstructionsTrapAtUserLevel : Prop :=
  ∀ s, s.mySc.sup = false →
    TrapsAtFaultPoints .sret s 0x04 s.mySc.pc ∧ (∀ a b, TrapsAtFaultPoints (.tlbinv a b) s 0x04 s.mySc.pc) ∧
    (∀ a b, TrapsAtFaultPoints (.sigdec a b) s 0x04 s.mySc.pc) ∧ (∀ o, TrapsAtFaultPoints (.tstop o) s 0x04 s.mySc.pc)

/-- R148: SRET returns to SEPC at the level SPP names, with SIE set and SBLK clear. -/
def Sys2Proof.Spec.SretReturns : Prop :=
  ∀ s, s.me.drained = true → s.mySc.sup = true → Completes .sret s fun t =>
    t = s.setMySc { s.mySc with
      sup := s.mySc.sstatus.getLsbD 0, pc := s.mySc.sepc, instret := s.mySc.instret + 1
      sstatus := if s.mySc.sstatus.getLsbD 0 then 3 else 2 }

/-- R313, R318, R148: a trap taken and returned from without a change leaves the pc of the instruction and its level, and
every general register. -/
def Sys2Proof.Spec.TrapThenReturn : Prop :=
  ∀ (s : State) (tr : Trap), s.me.drained = true →
    let u := s.scalarTrap tr
    Completes .sret u fun t => t.mySc.pc = s.mySc.pc ∧ t.mySc.sup = s.mySc.sup ∧ t.mySc.x = s.mySc.x ∧
      t.mySc.scause = tr.cause.code ∧ t.mySc.saddr = tr.addr

/-- R118, R147, R148, R313: the traps of SYSCALL, BREAK and the privileged instructions and the return from a trap. -/
def Obligations.TrapsAndReturns : Prop := SystemCallsTrap ∧ PrivilegedInstructionsTrapAtUserLevel ∧ SretReturns ∧ TrapThenReturn

/-- R151, R305: ULIRET in a handler goes to x31 and exchanges x24 to x31 with the shadow copies; elsewhere it is ILLEGAL. -/
def Sys2Proof.Spec.UliretReturns : Prop :=
  ∀ s, (s.mySc.ulinh = true → Completes .uliret s fun t =>
      OnlyScalar s t ∧ t.mySc.pc = s.mySc.rx 31 ∧ t.mySc.ulinh = false ∧ t.mySc.ulien = s.mySc.ulien ∧
      (∀ k : Fin 24, t.mySc.x[k.val] = s.mySc.x[k.val]) ∧
      (∀ k : Fin 8, t.mySc.x[24 + k.val] = s.mySc.shadow[k.val] ∧ t.mySc.shadow[k.val] = s.mySc.x[24 + k.val])) ∧
    (s.mySc.ulinh = false → s.me.drained = true → TrapsWith .uliret s 0x01 s.mySc.pc)

/-- R154, R305: a delivery to a running context at user level saves the return pc in x31, exchanges the registers, inhibits
further deliveries and goes to ULIVEC; one to a context parked in WAITE ends the parking and returns past it. A pre-emption that
is due goes first. -/
def Sys2Proof.Spec.UliDeliveryEnters : Prop :=
  ∀ c s, (s.sc c).uliDue = true → (s.ctx c).task.isSome = true → s.preemptDue c = false →
    let enters := fun (t : State) (ret : Word64) =>
      (t.sc c).pc = (s.sc c).ulivec ∧ (t.sc c).ulinh = true ∧ (t.sc c).rx 31 = ret ∧
      (∀ k : Fin 7, (t.sc c).x[24 + k.val] = (s.sc c).shadow[k.val]) ∧
      (∀ k : Fin 8, (t.sc c).shadow[k.val] = (s.sc c).x[24 + k.val]) ∧ (t.sc c).uliDue = false
    ((s.ctx c).parked = none → Completes (.uliDelivery c) s fun t =>
      enters t (s.sc c).pc ∧ (∀ k, k ≠ c → t.ctx k = s.ctx k) ∧ SameMemory s t) ∧
    ((s.ctx c).parked = some .waite → Completes (.uliDelivery c) s fun t =>
      enters t ((s.sc c).pc + 4) ∧ (t.ctx c).parked = none)

/-- R50, R149: XPOP takes the oldest entry of the VSQ, or parks; its wake takes the entry that has come. -/
def Sys2Proof.Spec.XpopTakesTheOldest : Prop :=
  (∀ d s x rest, s.mySc.vsq = x :: rest → Completes (.xpop d) s fun t =>
    t = s.setMySc (({ s.mySc with vsq := rest, vsqPops := s.mySc.vsqPops + 1 } : Scalar).wx d x).retire) ∧
  (∀ d s, s.mySc.vsq = [] → Completes (.xpop d) s fun t => t = s.setMe { s.me with parked := some (.xpop d) }) ∧
  (∀ c d s x rest, (s.ctx c).parked = some (.xpop d) → (s.sc c).vsq = x :: rest → Completes (.xpopWake c) s fun t =>
    (t.ctx c).parked = none ∧ (t.sc c).vsq = rest ∧ (t.sc c).pc = (s.sc c).pc + 4 ∧
    ((t.sc c).rx d = if d = 0 then 0 else x) ∧ ∀ k, k ≠ c → t.ctx k = s.ctx k)

/-- R154: WAITE goes on when an interrupt is pending, else parks; its wake goes on, unless the interrupt is to be delivered
first. -/
def Sys2Proof.Spec.WaiteWaits : Prop :=
  (∀ s, s.mySc.ulipend ≠ 0 → Completes .waite s fun t => t = s.setMySc s.mySc.retire) ∧
  (∀ s, s.mySc.ulipend = 0 → Completes .waite s fun t => t = s.setMe { s.me with parked := some .waite }) ∧
  (∀ c s, (s.ctx c).parked = some .waite → (s.sc c).ulipend ≠ 0 → (s.sc c).uliDue = false → Completes (.waiteWake c) s fun t =>
    (t.ctx c).parked = none ∧ t.sc c = (s.sc c).retire ∧ ∀ k, k ≠ c → t.ctx k = s.ctx k)

/-- R86, R150, R152, R153: FEAT gives the words of Table 5-10; SRINV, which waits for the accesses of older strip intervals (R265),
empties the record cache of its core, or drops one address; TLBINV drops exactly the translations that the page and the ASID name, in every TLB of every core and die. -/
def Sys2Proof.Spec.FeatAndInvalidations : Prop :=
  (∀ d n s, Result (.feat d n) s d (fun v => v = s.feature n.val) 0) ∧
  (∀ a s, s.intervalReady = false → Completes (.srinv a) s fun t => t = s) ∧
  (∀ a s, s.intervalReady = true → Completes (.srinv a) s fun t => SideBut none s t ∧ SameMemory s t ∧
    ((t.core (CtxIx.core s.cur)).rcache = if a = 0 then []
      else (s.core (CtxIx.core s.cur)).rcache.filter fun r => r.va != (s.mySc.rx a).toNat) ∧
    ∀ k, k ≠ CtxIx.core s.cur → t.core k = s.core k) ∧
  (∀ a b s, s.mySc.sup = true → s.me.drained = true → Completes (.tlbinv a b) s fun t => SideBut none s t ∧ SameMemory s t ∧
    let named := fun e : TlbEntry => (a = 0 ∨ (e.va ≤ va57 (s.mySc.rx a) ∧ va57 (s.mySc.rx a) < e.va + e.size)) ∧
      (b = 0 ∨ (e.glob = false ∧ e.asid = (s.mySc.rx b).setWidth 16))
    (∀ c e, (e ∈ (t.core c).tlbS ↔ e ∈ (s.core c).tlbS ∧ ¬ named e) ∧ (e ∈ (t.core c).tlbV ↔ e ∈ (s.core c).tlbV ∧ ¬ named e)) ∧
    ∀ d e, e ∈ (t.die d).tlb2 ↔ e ∈ (s.die d).tlb2 ∧ ¬ named e)

/-- R144, R145, R150, R152, R153, R276: fences, FEAT, SRINV and TLBINV. That a fence has completed its order once the older entries
of its kind have been performed, whatever its scope, is the model's form (log entries 10 and 23). -/
def Obligations.FencesAndInvalidations : Prop := FencesComplete ∧ FeatAndInvalidations

/-- R33, R146: in a gang launch BAR counts an arrival; it completes when every task of its group has arrived, else it
parks; the wake of a complete episode retires it; outside a gang launch it faults SCOPE. -/
def Sys2Proof.Spec.BarArrivesAndCompletes : Prop :=
  (∀ c s, s.gangTask s.cur = none → s.me.drained = true → TrapsWith (.bar c) s 0x16 s.mySc.pc) ∧
  (∀ c s t0, s.gangTask s.cur = some t0 → s.me.drained = true →
    let u := s.setMe (s.me.arrive c (· + 1))
    let k := u.me.bars.toList.getD (barIx c) 0
    (u.barDone t0 c k = true → Completes (.bar c) s fun t => t = u.setMySc s.mySc.endInterval.retire) ∧
    (u.barDone t0 c k = false → Completes (.bar c) s fun t => t = u.setMe { u.me with parked := some (.bar c) })) ∧
  (∀ c l t0 s, (s.ctx c).parked = some (.bar l) → (s.ctx c).task = some t0 →
    s.barDone t0 l ((s.ctx c).bars.toList.getD (barIx l) 0) = true → Completes (.barComplete c) s fun t =>
      (t.ctx c).parked = none ∧ (t.sc c).pc = (s.sc c).pc + 4 ∧ (t.sc c).x = (s.sc c).x ∧
      ∀ k, k ≠ c → t.ctx k = s.ctx k)

/-- R33, R50, R146, R149, R154: the scalar instructions that wait, when they go on and how they park and wake. -/
def Obligations.WaitsOfTheScalarStream : Prop := XpopTakesTheOldest ∧ WaiteWaits ∧ BarArrivesAndCompletes

/-! ### Element blocks -/

namespace Sys2Proof.Spec

/-- A vector destination is declared by the block. -/
def Declares (b : Block) (d : VReg) : Prop := ∃ x, (d, x) ∈ b.shV
/-- A mask destination is declared. -/
def DeclaresM (b : Block) (d : MReg) : Prop := ∃ x, (d, x) ∈ b.shM
/-- A weight destination is declared. -/
def DeclaresW (b : Block) (d : WReg) : Prop := ∃ x, (d, x) ∈ b.shW

/-- A word goes on to the next word with the block `b'`; nothing outside the block in flight changes (R188). -/
def Goes (i : Instr) (s : State) (b : Block) (p : Block → Prop) : Prop :=
  ∃ b', exec i s = .next (s.setMe { s.me with block := some b' }) ∧ b'.entry = b.entry ∧ b'.words = b.words ∧ b'.hdr = b.hdr ∧
    p b'

/-- A word aborts the block with a cause at its own address (R190). -/
def Aborts (i : Instr) (s : State) (b : Block) (t : Trap) : Prop := Completes i s fun u =>
  OnlyMe s u ∧ u.mem = s.mem ∧ u.me.block = none ∧ u.me.viq = [] ∧ u.mySc.scause = t.cause.code ∧ u.mySc.saddr = t.addr ∧
    u.mySc.selem = BitVec.ofNat 12 t.elem ∧
    u.mySc.sepc = b.sc.pc ∧ u.mySc.sstatus.getLsbD 2 = true ∧ u.mySc.vsq = b.sc.vsq ∧ u.me.regs.v = s.me.regs.v ∧
    u.me.regs.m = s.me.regs.m ∧ u.me.regs.w = s.me.regs.w

/-- Element `i` of a destination of width `w` after the write rule of R192: `f i` where the element is active, the mask
policy where its mask bit is clear, unchanged outside the run, the tail policy from VL upward. -/
def Lanes (s : State) (b b' : Block) (d : VReg) (w : Nat) (m : MSel) (f : Nat → Nat) : Prop :=
  (∀ i, i < b.sc.vlm → b.active s m i = true → elem (b'.v s d) i w = f i % 2 ^ w) ∧
  (∀ i, i < b.sc.vlm → i < b.sc.vl → b.active s m i = false →
    elem (b'.v s d) i w = if b.inrun i && vtMp b.sc.vt then 0 else elem (b.v s d) i w) ∧
  (∀ i, i < b.sc.vlm → b.sc.vl ≤ i → elem (b'.v s d) i w = if vtTp b.sc.vt then 0 else elem (b.v s d) i w) ∧
  (∀ r, r ≠ d → b'.v s r = b.v s r)

/-- A lanewise word: each active element of `d` gets `f i` with flags `g i`; the next word follows; masks, weights, arms,
pushes and buffered stores stand. -/
def Lanewise (i : Instr) (s : State) (b : Block) (d : VReg) (w : Nat) (m : MSel) (f : Nat → Nat) (g : Nat → Flags) : Prop :=
  Goes i s b fun b' => Lanes s b b' d w m f ∧
    b' = { b with shV := b'.shV, flags := b.flags ||| b.flagsOf s m g, pos := b.pos + 1 }

/-- A word on two integer elements. -/
def IntRow (mk : VE2 → Instr) (f : Nat → Nat → Nat → Int → Int → Int) (g : Nat → Nat → Nat → Int → Int → Bool) : Prop :=
  ∀ (o : VE2) s b, s.me.block = some b → o.t.isInt = true → o.t.width ≤ b.sc.ew → Declares b o.d →
    let w := o.t.width
    let x := fun i => elem (b.v s o.a.r) i w
    let y := fun i => elem (b.v s o.b.r) i w
    Lanewise (mk o) s b o.d w o.m (fun i => (f w (x i) (y i) (sext w (x i)) (sext w (y i)) % 2 ^ w).toNat)
      (fun i => if g w (x i) (y i) (sext w (x i)) (sext w (y i)) then 0x20 else 0)

/-- The value clamped to a range. -/
def clampTo (lo hi v : Int) : Int := max lo (min hi v)
/-- Outside a range. -/
def outside (lo hi v : Int) : Bool := decide (v < lo) || decide (hi < v)

/-- A word on FP elements: `f` gives the result and flags of element i in the format of the type. -/
def FpLanes (i : Instr) (s : State) (b : Block) (d : VReg) (t : EType) (m : MSel) (f : Fmt → Nat → Nat × Flags) : Prop :=
  s.me.block = some b → t.isFp = true → t.width ≤ b.sc.ew → Declares b d →
    ∀ k, fmtOf t = some k → Lanewise i s b d t.width m (fun j => (f k j).1) (fun j => (f k j).2)

/-- One rounding of an exact result with its flags. -/
def Once (k : Fmt) (md : Mode) (v : FV × Flags) : Nat × Flags := ((k.round v.1 md).1, v.2 ||| (k.round v.1 md).2)

/-- A mask destination after the write rule of R192, to element 4,095. -/
def MaskLanes (s : State) (b b' : Block) (d : MReg) (m : MSel) (f : Nat → Bool) : Prop :=
  ∀ i, i < 4096 → (b'.m s d).getLsbD i =
    if b.sc.vl ≤ i then !vtTp b.sc.vt && (b.m s d).getLsbD i
    else if !b.inrun i then (b.m s d).getLsbD i
    else if !b.selects s m i then !vtMp b.sc.vt && (b.m s d).getLsbD i
    else f i
/-- A word that writes mask m8 + d. -/
def Maskwise (i : Instr) (s : State) (b : Block) (d : Fin 4) (m : MSel) (f : Nat → Bool) (g : Nat → Flags) : Prop :=
  s.me.block = some b → DeclaresM b (mdst d) →
    Goes i s b fun b' => MaskLanes s b b' (mdst d) m f ∧
      b' = { b with shM := b'.shM, flags := b.flags ||| b.flagsOf s m g, pos := b.pos + 1 }

/-- A weight destination after the write rule of R214, to element 511. -/
def WeightLanes (s : State) (b b' : Block) (d : WReg) (m : MSel) (f : Nat → Nat) : Prop :=
  ∀ i, i < 512 → b'.wt s d i = b.cell s m (b.wt s d i) (fun i => some (min 0x8000 (f i))) i
/-- A word that writes weight d. -/
def Weightwise (i : Instr) (s : State) (b : Block) (d : WReg) (m : MSel) (f : Nat → Nat) (g : Nat → Flags) : Prop :=
  s.me.block = some b → 16 ≤ b.sc.ew → DeclaresW b d →
    Goes i s b fun b' => WeightLanes s b b' d m f ∧
      b' = { b with shW := b'.shW, flags := b.flags ||| b.flagsOf s m g, pos := b.pos + 1 }

/-- A word that pushes one value on the VSQ at STOP. -/
def Pushes (i : Instr) (s : State) (b : Block) (x : Nat) (g : Flags) : Prop :=
  Goes i s b fun b' => b' = { b with pushes := b.pushes ++ [BitVec.ofNat 64 x], flags := b.flags ||| g, pos := b.pos + 1 }

end Sys2Proof.Spec

/-- R197: integer words. The result is kept modulo 2^w; the four saturating words clamp and set SAT. -/
def Obligations.BlockIntegerWords : Prop :=
  IntRow .vadd (fun _ x y _ _ => x + y) (fun _ _ _ _ _ => false) ∧
  IntRow .vsub (fun _ x y _ _ => x - y) (fun _ _ _ _ _ => false) ∧
  IntRow .vmul (fun _ x y _ _ => x * y) (fun _ _ _ _ _ => false) ∧
  IntRow .vmulh (fun w _ _ x y => x * y / 2 ^ w) (fun _ _ _ _ _ => false) ∧
  IntRow .vmulhn (fun w x y _ _ => x * y / 2 ^ w) (fun _ _ _ _ _ => false) ∧
  IntRow .vand (fun _ x y _ _ => (x &&& y : Nat)) (fun _ _ _ _ _ => false) ∧
  IntRow .vor (fun _ x y _ _ => (x ||| y : Nat)) (fun _ _ _ _ _ => false) ∧
  IntRow .vxor (fun _ x y _ _ => (x ^^^ y : Nat)) (fun _ _ _ _ _ => false) ∧
  IntRow .vsll (fun w x y _ _ => x * 2 ^ (y % w)) (fun _ _ _ _ _ => false) ∧
  IntRow .vsrl (fun w x y _ _ => (x / 2 ^ (y % w) : Nat)) (fun _ _ _ _ _ => false) ∧
  IntRow .vsra (fun w _ y x _ => x / 2 ^ (y % w)) (fun _ _ _ _ _ => false) ∧
  IntRow .vmin (fun _ _ _ x y => min x y) (fun _ _ _ _ _ => false) ∧
  IntRow .vmax (fun _ _ _ x y => max x y) (fun _ _ _ _ _ => false) ∧
  IntRow .vminn (fun _ x y _ _ => min x y) (fun _ _ _ _ _ => false) ∧
  IntRow .vmaxn (fun _ x y _ _ => max x y) (fun _ _ _ _ _ => false) ∧
  IntRow .vsadd (fun w _ _ x y => clampTo (-2 ^ (w - 1)) (2 ^ (w - 1) - 1) (x + y))
    (fun w _ _ x y => outside (-2 ^ (w - 1)) (2 ^ (w - 1) - 1) (x + y)) ∧
  IntRow .vssub (fun w _ _ x y => clampTo (-2 ^ (w - 1)) (2 ^ (w - 1) - 1) (x - y))
    (fun w _ _ x y => outside (-2 ^ (w - 1)) (2 ^ (w - 1) - 1) (x - y)) ∧
  IntRow .vsaddn (fun w x y _ _ => clampTo 0 (2 ^ w - 1) (x + y)) (fun w x y _ _ => outside 0 (2 ^ w - 1) (x + y)) ∧
  IntRow .vssubn (fun w x y _ _ => clampTo 0 (2 ^ w - 1) (x - y)) (fun w x y _ _ => outside 0 (2 ^ w - 1) (x - y))

/-- R102, R105, R196: floating-point words. Each active element is one rounding of the exact value. -/
def Obligations.BlockFloatWords : Prop :=
  ∀ s b,
    (∀ o : VE2r, let md := b.mode o.r
      FpLanes (.vfadd o) s b o.d o.t o.m (fun k i => Once k md (FV.add md (b.fv s k o.a i) (b.fv s k o.b i))) ∧
      FpLanes (.vfsub o) s b o.d o.t o.m (fun k i => Once k md (FV.sub md (b.fv s k o.a i) (b.fv s k o.b i))) ∧
      FpLanes (.vfmul o) s b o.d o.t o.m (fun k i => Once k md (FV.mul (b.fv s k o.a i) (b.fv s k o.b i))) ∧
      FpLanes (.vfdiv o) s b o.d o.t o.m (fun k i => Once k md (FV.div (b.fv s k o.a i) (b.fv s k o.b i)))) ∧
    (∀ o : VE3r, let md := b.mode o.r
      FpLanes (.vfma o) s b o.d o.t o.m (fun k i => Once k md (FV.fma md (b.fv s k o.a i) (b.fv s k o.b i) (b.fv s k o.c i))) ∧
      FpLanes (.vfms o) s b o.d o.t o.m
        (fun k i => Once k md (FV.fma md (b.fv s k o.a i) (b.fv s k o.b i) (b.fv s k o.c i).neg)) ∧
      FpLanes (.vfnma o) s b o.d o.t o.m
        (fun k i => Once k md (FV.fma md (b.fv s k o.a i).neg (b.fv s k o.b i) (b.fv s k o.c i)))) ∧
    (∀ o : VE1r, FpLanes (.vfsqrt o) s b o.d o.t o.m (fun k i => Once k (b.mode o.r) (b.fv s k o.a i).sqrt)) ∧
    (∀ o : VE2,
      FpLanes (.vfmin o) s b o.d o.t o.m (fun k i => k.minMax false (elem (b.v s o.a.r) i k.bits) (elem (b.v s o.b.r) i k.bits)) ∧
      FpLanes (.vfmax o) s b o.d o.t o.m (fun k i => k.minMax true (elem (b.v s o.a.r) i k.bits) (elem (b.v s o.b.r) i k.bits)) ∧
      FpLanes (.vfsgn o) s b o.d o.t o.m (fun k i => let x := elem (b.v s o.a.r) i k.bits
        (if (k.decode x).isNan then k.nan.getD 0 else x % 2 ^ (k.bits - 1) + k.sign (ebit (elem (b.v s o.b.r) i k.bits) (k.bits - 1)), 0))) ∧
    (∀ o : VE1,
      FpLanes (.vfabs o) s b o.d o.t o.m (fun k i => let x := elem (b.v s o.a.r) i k.bits
        (if (k.decode x).isNan then k.nan.getD 0 else x % 2 ^ (k.bits - 1), 0)) ∧
      FpLanes (.vfneg o) s b o.d o.t o.m (fun k i => let x := elem (b.v s o.a.r) i k.bits
        (if (k.decode x).isNan then k.nan.getD 0 else x % 2 ^ (k.bits - 1) + k.sign (!ebit x (k.bits - 1)), 0)))

/-- R199 to R201: compares, mask logic and the two words that push a count or an index. -/
def Obligations.BlockCompareAndMaskWords : Prop :=
  ∀ s b,
    (∀ o : VCmpArgs, o.t.isFp = true → o.t.width ≤ b.sc.ew → ∀ k, fmtOf o.t = some k →
      Maskwise (.vfcmp o) s b o.d o.m (fun i => (fpCompare o.c (b.fv s k o.a i) (b.fv s k o.b i)).1)
        (fun i => (fpCompare o.c (b.fv s k o.a i) (b.fv s k o.b i)).2)) ∧
    (∀ o : VCmpArgs, o.t.isInt = true → o.t.width ≤ b.sc.ew →
      Maskwise (.vcmp o) s b o.d o.m (fun i =>
        let x := intVal o.t (elem (b.v s o.a.r) i o.t.width)
        let y := intVal o.t (elem (b.v s o.b.r) i o.t.width)
        match o.c with
        | .eq => decide (x = y) | .ne => decide (x ≠ y) | .lt => decide (x < y)
        | .le => decide (x ≤ y) | .gt => decide (y < x) | .ge => decide (y ≤ x)) (fun _ => 0)) ∧
    (∀ o : MOp, let x := fun i => (b.m s o.a).getLsbD i
      let y := fun i => (b.m s o.b).getLsbD i
      Maskwise (.mand o) s b o.d o.m (fun i => x i && y i) (fun _ => 0) ∧
      Maskwise (.mor o) s b o.d o.m (fun i => x i || y i) (fun _ => 0) ∧
      Maskwise (.mxor o) s b o.d o.m (fun i => x i ^^ y i) (fun _ => 0) ∧
      Maskwise (.mandn o) s b o.d o.m (fun i => x i && !y i) (fun _ => 0)) ∧
    (∀ d m v, Maskwise (.mset d m v) s b d m (fun _ => v) (fun _ => 0)) ∧
    (s.me.block = some b → b.pushes.length < 16 → ∀ a m, let hit := fun i => b.active s m i && (b.m s a).getLsbD i
      Pushes (.mpopc a m) s b ((List.range b.sc.vl).filter hit).length 0 ∧
      (∀ i, i < b.sc.vl → hit i = true → (∀ j, j < i → hit j = false) → Pushes (.mfirst a m) s b i 0) ∧
      ((∀ i, i < b.sc.vl → hit i = false) → Pushes (.mfirst a m) s b (2 ^ 64 - 1) 0))

/-- R198, R202 to R207: dot products, conversions, quantisation, moves, slides, permutes and matching. -/
def Sys2Proof.Spec.BlockMoveWords : Prop :=
  ∀ s b, s.me.block = some b →
    (∀ o : VDotArgs, vdotOk o.t o.st = true → o.t.width = b.sc.ew → Declares b o.d → let n := o.t.width / o.st.width
      Lanewise (.vdot o) s b o.d o.t.width o.m (fun i => (((elem (b.v s o.d) i o.t.width : Int) + ((List.range n).map fun k =>
        intVal o.st (elem (b.v s o.a.r) (i * n + k) o.st.width) * intVal o.st (elem (b.v s o.b.r) (i * n + k) o.st.width)).sum) %
          2 ^ o.t.width).toNat) (fun _ => 0)) ∧
    (∀ o : VCvtArgs, o.t ≠ .e8m0 → o.st ≠ .e8m0 → o.t.width ≤ b.sc.ew → o.st.width ≤ b.sc.ew → Declares b o.d →
      let r := fun i => convertMx o.t o.st (elem (b.v s o.a.r) i o.st.width) (b.mode o.r) (b.scale s i)
      Lanewise (.vcvt o) s b o.d o.t.width o.m (fun i => (r i).1) (fun i => (r i).2)) ∧
    (∀ o : VE1, o.t.width ≤ b.sc.ew → Declares b o.d →
      Lanewise (.vmov o) s b o.d o.t.width o.m (fun i => elem (b.v s o.a.r) i o.t.width) (fun _ => 0) ∧
      (o.t ≠ .e8m0 →
        Lanewise (.vexpd o) s b o.d o.t.width o.m (fun i => elem (b.v s o.a.r) (b.rank s o.m i) o.t.width) (fun _ => 0) ∧
        let n := fun i => ((List.range i).filter fun j => b.active s o.m j &&
          elem (b.v s o.a.r) j o.t.width == elem (b.v s o.a.r) i o.t.width).length
        Lanewise (.vmatch o) s b o.d o.t.width o.m (fun i => min (n i) (2 ^ o.t.width - 1))
          (fun i => if 2 ^ o.t.width - 1 < n i then 0x20 else 0))) ∧
    (∀ o : VE1i, o.t.width ≤ b.sc.ew → Declares b o.d →
      (o.i.val < b.sc.vlm →
        Lanewise (.vbcast o) s b o.d o.t.width o.m (fun _ => elem (b.v s o.a.r) o.i.val o.t.width) (fun _ => 0)) ∧
      (o.t ≠ .e8m0 → Lanewise (.vsldn o) s b o.d o.t.width o.m
        (fun i => if i + o.i.val < b.sc.vl then elem (b.v s o.a.r) (i + o.i.val) o.t.width else 0) (fun _ => 0))) ∧
    (∀ o : VE2, o.t ≠ .e8m0 → o.t.width ≤ b.sc.ew → Declares b o.d →
      Lanewise (.vperm o) s b o.d o.t.width o.m (fun i => let j := elem (b.v s o.b.r) i o.t.width
        if j < b.sc.vl then elem (b.v s o.a.r) j o.t.width else 0) (fun _ => 0)) ∧
    (∀ d m (t : EType), t.isInt = true → t.width ≤ b.sc.ew → Declares b d →
      Lanewise (.viota d m t) s b d t.width m (fun i => ((List.range i).filter fun j => b.active s m j).length) (fun _ => 0)) ∧
    (∀ (a : VSrc) t (i : Fin 4096), t ≠ .e8m0 → t.width ≤ b.sc.ew → i.val < b.sc.vlm → b.pushes.length < 16 →
      Pushes (.vext a t i) s b (pushVal t (elem (b.v s a.r) i.val t.width)) 0)

/-- R203, R205, R206: the words whose destination is not plain lanes: VQMX writes codes and one scale byte per block of
32, VSLUP leaves the elements below its distance, VCOMP packs the active elements from element 0 and leaves the rest. -/
def Sys2Proof.Spec.BlockQuantiseSlideAndCompress : Prop :=
  ∀ s b, s.me.block = some b →
    (∀ o : VE1i, o.t ≠ .e8m0 → o.t.width ≤ b.sc.ew → Declares b o.d → Goes (.vslup o) s b fun b' =>
      b' = { b with shV := b'.shV, pos := b.pos + 1 } ∧ Lanes s b b' o.d o.t.width o.m
        (fun i => if o.i.val ≤ i then elem (b.v s o.a.r) (i - o.i.val) o.t.width else elem (b.v s o.d) i o.t.width)) ∧
    (∀ o : VE1, o.t ≠ .e8m0 → o.t.width ≤ b.sc.ew → Declares b o.d → Goes (.vcomp o) s b fun b' =>
      b' = { b with shV := b'.shV, pos := b.pos + 1 } ∧ (∀ r, r ≠ o.d → b'.v s r = b.v s r) ∧
      ∀ i, i < b.sc.vlm → let old := elem (b.v s o.d) i o.t.width
        elem (b'.v s o.d) i o.t.width =
          if b.sc.vl ≤ i then (if vtTp b.sc.vt then 0 else old)
          else ((b.actives s o.m)[i]?.map fun j => elem (b.v s o.a.r) j o.t.width).getD old) ∧
    (∀ o : VQmxArgs, o.t.mxElem = true → o.st.isFp = true → o.sd ≠ o.d → o.t.width ≤ b.sc.ew → o.st.width ≤ b.sc.ew →
      Declares b o.d → Declares b o.sd → 
      let val := fun i => decodeFp o.st (elem (b.v s o.a.r) i o.st.width)
      let ex := fun k => b.blockExp s o.m o.t val k
      let code := fun i => mxCode o.t (ex (i / 32)) (val i) (b.mode o.r)
      Goes (.vqmx o) s b fun b' =>
        b' = { b with shV := b'.shV, flags := b.flags ||| b.flagsOf s o.m (fun i => (code i).2), pos := b.pos + 1 } ∧
        (∀ i, i < b.sc.vlm → let old := elem (b.v s o.d) i o.t.width
          elem (b'.v s o.d) i o.t.width =
            if b.sc.vl ≤ i then (if vtTp b.sc.vt then 0 else old)
            else if b.active s o.m i then (code i).1 % 2 ^ o.t.width
            else if b.inrun i && vtMp b.sc.vt then 0 else old) ∧
        (∀ k, k < 1024 → elem (b'.v s o.sd) k 8 =
          if 32 * k < b.sc.vl then mxScale (ex k) % 256 else if vtTp b.sc.vt then 0 else elem (b.v s o.sd) k 8) ∧
        (∀ r, r ≠ o.d → r ≠ o.sd → b'.v s r = b.v s r))

/-- R198, R202 to R207: dot products, conversions, moves, slides, permutes, matching, packing and quantisation. -/
def Obligations.BlockMovesAndConversions : Prop := BlockMoveWords ∧ BlockQuantiseSlideAndCompress

namespace Sys2Proof.Spec

/-- A reduction to a register: each segment's value stands at its head, the other elements below VL keep their value, the
elements from VL upward follow the tail policy, and the flags of every segment are set (R208). -/
def ReducesTo (i : Instr) (s : State) (b : Block) (d : VReg) (w : Nat) (seg : MSel) (f : Nat → Nat × Flags) : Prop :=
  Goes i s b fun b' => b' = { b with shV := b'.shV, flags := b'.flags, pos := b.pos + 1 } ∧ (∀ r, r ≠ d → b'.v s r = b.v s r) ∧
    (∀ k, k < b.sc.vlm → k < b.sc.vl →
      elem (b'.v s d) k w = if b.headOf s seg k = k then (f k).1 % 2 ^ w else elem (b.v s d) k w) ∧
    (∀ k, k < b.sc.vlm → b.sc.vl ≤ k → elem (b'.v s d) k w = if vtTp b.sc.vt then 0 else elem (b.v s d) k w) ∧
    ∀ j, b'.flags.getLsbD j = (b.flags.getLsbD j ||
      (List.range b.sc.vl).any fun k => decide (b.headOf s seg k = k) && (f k).2.getLsbD j)

end Sys2Proof.Spec

/-- R208: integer reductions to the VSQ: the sum modulo 2^w, the greatest and the least active element, and the value of
an empty reduction. -/
def Sys2Proof.Spec.BlockIntegerReductions : Prop :=
  ∀ s b (o : VRedIArgs), s.me.block = some b → o.d = none → o.seg = none → o.t.isInt = true → o.t.width ≤ b.sc.ew →
    b.pushes.length < 16 →
    let xs := (b.actives s o.m).map fun k => elem (b.v s o.a.r) k o.t.width
    Pushes (.vredsum o) s b (pushVal o.t (xs.sum % 2 ^ o.t.width)) 0 ∧
    (∀ x ∈ xs, (∀ y ∈ xs, intVal o.t y ≤ intVal o.t x) → Pushes (.vredmax o) s b (pushVal o.t x) 0) ∧
    (∀ x ∈ xs, (∀ y ∈ xs, intVal o.t x ≤ intVal o.t y) → Pushes (.vredmin o) s b (pushVal o.t x) 0) ∧
    (xs = [] → Pushes (.vredmax o) s b (pushVal o.t (intEnc o.t.width (intMin o.t))) 0 ∧
      Pushes (.vredmin o) s b (pushVal o.t (intEnc o.t.width (intMax o.t))) 0)

/-- R89, R106, R208: reductions by segments and floating-point reductions; a segment with no active element gives the value of
the empty reduction, one with a single active element gives that element without a flag, a NaN as the canonical one. -/
def Sys2Proof.Spec.BlockSegmentReductions : Prop :=
  ∀ s b, s.me.block = some b →
    (∀ (o : VRedArgs) d, o.d = some d → o.t.isFp = true → o.t.width ≤ b.sc.ew → Declares b d →
      let r := fun op k => b.segRed s op o.t (b.mode o.r) o.a o.m o.seg k
      ReducesTo (.vfredsum o) s b d o.t.width o.seg (r .sum) ∧ ReducesTo (.vfredmax o) s b d o.t.width o.seg (r .max) ∧
        ReducesTo (.vfredmin o) s b d o.t.width o.seg (r .min)) ∧
    (∀ (o : VRedIArgs) d, o.d = some d → o.t.isInt = true → o.t.width ≤ b.sc.ew → Declares b d →
      let r := fun op k => b.segRed s op o.t .rne o.a o.m o.seg k
      ReducesTo (.vredsum o) s b d o.t.width o.seg (r .sum) ∧ ReducesTo (.vredmax o) s b d o.t.width o.seg (r .max) ∧
        ReducesTo (.vredmin o) s b d o.t.width o.seg (r .min)) ∧
    (∀ (o : VRedArgs), o.d = none → o.seg = none → o.t.isFp = true → o.t.width ≤ b.sc.ew → b.pushes.length < 16 →
      let r := fun op => b.segRed s op o.t (b.mode o.r) o.a o.m none 0
      Pushes (.vfredsum o) s b (r .sum).1 (r .sum).2 ∧ Pushes (.vfredmax o) s b (r .max).1 (r .max).2 ∧
        Pushes (.vfredmin o) s b (r .min).1 (r .min).2) ∧
    (∀ op t md a m seg h,
      ((∀ k, k < b.sc.vl → b.headOf s seg k = h → b.active s m k = false) →
        b.segRed s op t md a m seg h = (emptyRed op t, 0)) ∧
      (∀ j, j < b.sc.vl → b.headOf s seg j = h → b.active s m j = true →
        (∀ k, k < b.sc.vl → b.headOf s seg k = h → k ≠ j → b.active s m k = false) →
        b.segRed s op t md a m seg h = (canonNan t (elem (b.v s a.r) j t.width), 0)))

/-- R107, R209: a scan gives each active element the sum of the active elements of its segment up to itself. -/
def Sys2Proof.Spec.BlockScans : Prop :=
  ∀ s b, s.me.block = some b →
    (∀ o : VScanIArgs, o.t.isInt = true → o.t.width ≤ b.sc.ew → Declares b o.d →
      Lanewise (.vscan o) s b o.d o.t.width o.m (fun i => (((List.range (i + 1)).filter fun j =>
        b.active s o.m j && decide (b.headOf s o.seg j = b.headOf s o.seg i)).map fun j => elem (b.v s o.a.r) j o.t.width).sum)
        (fun _ => 0)) ∧
    (∀ o : VScanArgs, o.t.isFp = true → o.t.width ≤ b.sc.ew → Declares b o.d →
      let y := (List.range b.sc.vl).map fun i => if b.active s o.m i then some (elem (b.v s o.a.r) i o.t.width) else none
      let r := scanRounds (combine .sum o.t (b.mode o.r)) (b.headOf s o.seg) (fun i => b.active s o.m i) 12 1 y
      Goes (.vfscan o) s b fun b' => Lanes s b b' o.d o.t.width o.m (fun i => canonNan o.t ((r.1.getD i none).getD 0)) ∧
        b' = { b with shV := b'.shV, flags := b.flags ||| r.2, pos := b.pos + 1 })

/-- R106, R107, R208, R209: reductions to the VSQ and by segments, and scans. -/
def Obligations.BlockReductionsAndScans : Prop := BlockIntegerReductions ∧ BlockSegmentReductions ∧ BlockScans

/-- R215 to R217: words that make, combine and move weights. -/
def Obligations.BlockWeightWords : Prop :=
  ∀ s b,
    (∀ a c m w, 32 ≤ b.sc.ew →
      let r := fun i => toWeight (FV.fma .rne (b.fv s fmtF32 c i) (b.fv s fmtF32 a i) (.fin false 1 (-1) false)).1
      Weightwise (.wramp a c m w) s b w m (fun i => (r i).1) (fun i => (r i).2)) ∧
    (∀ a m w, Weightwise (.wcmp a m w) s b w m (fun i => if (b.m s a).getLsbD i then 0x8000 else 0) (fun _ => 0)) ∧
    (∀ m d r, Weightwise (.wcomp m d r) s b d m (fun i => 0x8000 - b.wt s r i) (fun _ => 0)) ∧
    (∀ m d p q, let r := fun i => toWeight (FV.mul (ofWeight (b.wt s p i)) (ofWeight (b.wt s q i))).1
      Weightwise (.wmul m d p q) s b d m (fun i => (r i).1) (fun i => (r i).2)) ∧
    (∀ a m (t : EType) rd w, t.wmovOk = true → t.width ≤ b.sc.ew →
      let x := fun i => elem (b.v s a.r) i t.width
      let r := fun i => if t.isInt then (min (x i) 0x8000, 0) else toWeight (decodeFp t (x i))
      Weightwise (.wmov (.toWeight a) m t rd w) s b w m (fun i => (r i).1) (fun i => (r i).2)) ∧
    (∀ d m (t : EType) rd w, s.me.block = some b → 16 ≤ b.sc.ew → t.wmovOk = true → t.width ≤ b.sc.ew → Declares b d →
      let r := fun i => if t.isInt then (b.wt s w i, 0) else roundFp t (ofWeight (b.wt s w i)) (b.mode rd)
      Lanewise (.wmov (.toVector d) m t rd w) s b d t.width m (fun i => (r i).1) (fun i => (r i).2))

/-- R219 to R221: WBEGIN opens a region whose first arm runs for the elements in whose weight is above THETA, WNEXT goes on
to the next arm, WEND closes the region after its last; out of place they are block-format faults. -/
def Sys2Proof.Spec.BlockRegions : Prop :=
  ∀ s b, s.me.block = some b → 16 ≤ b.sc.ew →
    (∀ arms pf, b.arms.length < 8 → Goes (.wbegin arms pf) s b fun b' => ∃ runs : List MBits,
      b' = { b with arms := .region arms.list runs (arms.list.map fun _ => 0) pf 0 b.pos :: b.arms, pos := b.pos + 1 } ∧
      runs.length = arms.list.length ∧
      (∀ (k : Nat) r, arms.list[k]? = some r → ∃ x : MBits, runs[k]? = some x ∧ ∀ i, i < 512 →
        x.getLsbD i = (decide (i < b.sc.vl) && b.inrun i && b.runs s r i)) ∧
      ∀ i, i < 512 → b'.inrun i = (decide (i < b.sc.vl) && b.inrun i && b.runs s arms.w0 i)) ∧
    (∀ arms pf, 8 ≤ b.arms.length → Aborts (.wbegin arms pf) s b b.format) ∧
    (∀ ws runs prns pf cur site r, b.arms = .region ws runs prns pf cur site :: r →
      (cur + 1 ≠ ws.length →
        Goes .wnext s b (fun b' => b' = { b with arms := .region ws runs prns pf (cur + 1) site :: r, pos := b.pos + 1 }) ∧
        Aborts .wend s b b.format) ∧
      (cur + 1 = ws.length →
        Goes .wend s b (fun b' => b' = { b with arms := r, pos := b.pos + 1 }) ∧ Aborts .wnext s b b.format)) ∧
    ((∀ ws runs prns pf cur site r, b.arms ≠ .region ws runs prns pf cur site :: r) →
      Aborts .wnext s b b.format ∧ Aborts .wend s b b.format)

/-- R226: WCONT goes back while an element is live and the trip count is below WLIM, and sets WL when it stops on WLIM with a live
element that is active, which one pruned from an enclosing arm is not. -/
def Sys2Proof.Spec.BlockLoops : Prop :=
  ∀ s b w (dist : Fin 256), s.me.block = some b → 16 ≤ b.sc.ew → 0 < dist.val → dist.val ≤ b.pos →
    let next := fun (b' : Block) (live : MBits) (trips : Nat) (rest : List ArmEntry) =>
      b' = if live ≠ 0 ∧ trips < b.sc.wlim.toNat then { b with arms := .loop b.pos live trips :: rest, pos := b.pos - dist.val }
        else { b with arms := rest, flags := b.flags |||
          (if (List.range b.sc.vl).any fun i => live.getLsbD i && rest.all fun a => a.lets i then 0x80 else 0), pos := b.pos + 1 }
    (∀ live0 trips r, b.arms = .loop b.pos live0 trips :: r → Goes (.wcont w dist) s b fun b' => ∃ live : MBits,
      (∀ i, live.getLsbD i = (decide (i < 512) && (live0.getLsbD i && b.runs s w i))) ∧ next b' live (trips + 1) r) ∧
    (b.arms.length < 8 →
      (∀ e r, b.arms = e :: r → (∃ ws runs prns pf cur site, e = .region ws runs prns pf cur site ∧ site < b.pos - dist.val) ∨
        ∃ site live trips, e = .loop site live trips ∧ site ≠ b.pos) →
      Goes (.wcont w dist) s b fun b' => ∃ live : MBits,
        (∀ i, live.getLsbD i = (decide (i < 512) && (decide (i < b.sc.vl) && b.inrun i && b.runs s w i))) ∧
          next b' live 1 b.arms)

/-- R223 to R225: joins and their gradients. A join element is the weighted mean of its running arms, rounded once; where no
arm runs it stands and WV is set. -/
def Sys2Proof.Spec.BlockJoins : Prop :=
  ∀ s b, s.me.block = some b → 16 ≤ b.sc.ew →
    (∀ (o : WJoinArgs) k, fmtOf o.t = some k → o.t.isFp = true → o.t.width ≤ b.sc.ew → Declares b o.d →
      let ts := fun i => b.terms s k o.a.r o.arms.list i
      let r := fun i => if (ts i).isEmpty then (elem (b.v s o.d) i o.t.width, 0x40) else joinVal k (b.mode o.r) (ts i)
      Lanewise (.wjoin o) s b o.d o.t.width o.m (fun i => (r i).1) (fun i => (r i).2)) ∧
    (∀ o : WGJoinArgs, 32 ≤ b.sc.ew → Declares b o.d → let md := b.mode o.r
      let r := fun i => if b.runs s o.wa i && b.runs s o.wb i then
          let e := FV.sub md (b.fv s fmtF32 o.ya i) (b.fv s fmtF32 o.yb i)
          let p := FV.mul (b.fv s fmtF32 o.dy i) e.1
          let q := FV.div p.1 (.fin false (b.wt s o.wa i + b.wt s o.wb i) (-15) false)
          Once fmtF32 md (q.1, e.2 ||| p.2 ||| q.2)
        else (0, 0)
      Lanewise (.wgjoin o) s b o.d 32 o.m (fun i => (r i).1) (fun i => (r i).2)) ∧
    (∀ o : WGRampArgs, 32 ≤ b.sc.ew → Declares b o.d →
      let r := fun i => if 0 < b.wt s o.w i ∧ b.wt s o.w i < 0x8000 then
          Once fmtF32 (b.mode o.r) (FV.mul (b.fv s fmtF32 o.g i) (b.fv s fmtF32 o.k i))
        else (0, 0)
      Lanewise (.wgramp o) s b o.d 32 o.m (fun i => (r i).1) (fun i => (r i).2))

/-- R219 to R226: regions, loops, joins and their gradients. -/
def Obligations.BlockControl : Prop := BlockRegions ∧ BlockLoops ∧ BlockJoins

/-- The same for a word that accesses memory: the translations of the elements it locates are kept where the run keeps
translations (R258). -/
def Sys2Proof.Spec.GoesFilling (i : Instr) (s : State) (b : Block) (va : List Word64) (p : Block → Prop) : Prop :=
  ∃ b', exec i s = .next (let u := s.setMe { s.me with block := some b' }
      if s.choices.fill then u.fillAddrs (agentOf s.cur b.sc) va else u) ∧
    b'.entry = b.entry ∧ b'.words = b.words ∧ b'.hdr = b.hdr ∧ p b'

/-- R210, R227, R228, R258, R321: the memory words of a block where every active element translates and meets no error in what it
reads, which its own buffered stores replace. LDE reads what the block's own
stores left; STE and WSTA buffer their stores in element order and touch no memory; WSTA reads what the elements before it
left. -/
def Obligations.BlockMemoryWords : Prop :=
  ∀ s b (loc : Nat → Loc), s.me.block = some b →
    let here := fun (a : VReg) (off : BitVec 13) (w : Nat) (m : MSel) (k : Kind) => b.addrBad a = false ∧
      ∀ i ∈ b.actives s m, b.elemLoc b s a off w k i = .ok (loc i)
    let counted := fun (b' : Block) (m : MSel) => ∀ i, fget 0 b'.count i = fget 0 b.count i + if i ∈ b.actives s m then 1 else 0
    let at_ := fun (a : VReg) (off : BitVec 13) (m : MSel) => (b.actives s m).map (b.elemAddr s a off)
    (∀ o : LdeArgs, 8 ≤ o.t.width → o.t.width ≤ b.sc.ew → Declares b o.d → here o.a.r o.off o.t.width o.m .read →
      GoesFilling (.lde o) s b (at_ o.a.r o.off o.m) fun b' =>
        Lanes s b b' o.d o.t.width o.m (fun i => b.read s (loc i) (o.t.width / 8)) ∧ b' = { b with shV := b'.shV, pos := b.pos + 1 }) ∧
    (∀ o : SteArgs, 8 ≤ o.t.width → o.t.width ≤ b.sc.ew → here o.a.r o.off o.t.width o.m .write →
      (∀ i ∈ b.actives s o.m, fget 0 b.count i < 8) → GoesFilling (.ste o) s b (at_ o.a.r o.off o.m) fun b' => counted b' o.m ∧
        b' = { b with
          stores := b.stores ++ (b.actives s o.m).map fun i =>
            ((loc i).key, leBytes (o.t.width / 8) (elem (b.v s o.b.r) i o.t.width))
          count := b'.count, pos := b.pos + 1 }) ∧
    (∀ (o : WstaArgs) k, fmtOf o.t = some k → o.t.isFp = true → 16 ≤ b.sc.ew → o.t.width ≤ b.sc.ew →
      here o.a.r 0 o.t.width o.m .rw → (∀ i ∈ b.actives s o.m, fget 0 b.count i < 8) →
      GoesFilling (.wsta o) s b (at_ o.a.r 0 o.m) fun b' => ∃ new : List (Nat × List Byte), counted b' o.m ∧
        b' = { b with stores := b.stores ++ new, flags := b'.flags, count := b'.count, pos := b.pos + 1 } ∧
        new.length = (b.actives s o.m).length ∧
        ∀ (n i : Nat), (b.actives s o.m)[n]? = some i →
          let r := weightedAdd k (b.mode o.r) (({ b with stores := b.stores ++ new.take n } : Block).read s (loc i) (o.t.width / 8))
            (b.wt s o.w i) (elem (b.v s o.b.r) i o.t.width)
          new[n]? = some ((loc i).key, leBytes (o.t.width / 8) r.1) ∧ b'.flags ||| r.2 = b'.flags)

/-- R189, R221: STOP commits the shadows, the pushes and the flags and performs the buffered stores in order, or leaves them to the
lanes at the head of the queue while the lanes are held; VSTART becomes 0; it waits for room on the VSQ; an open region or loop is a
block-format fault. -/
def Sys2Proof.Spec.StopCommits : Prop :=
  ∀ s b, s.me.block = some b →
    (b.arms = [] → s.mySc.vsq.length + b.pushes.length ≤ 16 → Completes .stop s fun t =>
      t.me.block = none ∧ t.mySc = { s.mySc with vsq := s.mySc.vsq ++ b.pushes, fflags := s.mySc.fflags ||| b.flags, vstart := 0 } ∧
      let later := s.choices.lanesHeld = true ∧ b.stores ≠ []
      (∀ r, t.vreg r = ((b.shV.reverse.find? fun p => p.1 == r).map (·.2)).getD (s.vreg r)) ∧
      (∀ r, t.mreg r = ((b.shM.reverse.find? fun p => p.1 == r).map (·.2)).getD (s.mreg r)) ∧
      (∀ r, t.wreg r = ((b.shW.reverse.find? fun p => p.1 == r).map (·.2)).getD (s.wreg r)) ∧
      (¬ later → t.me.viq.length = s.me.viq.length ∧ ∀ l n, t.loadLoc l n =
        (b.stores.foldl (fun u p => u.storeLoc (some (CtxIx.core s.cur)) (keyLoc p.1) p.2) s).loadLoc l n) ∧
      (later → t.me.viq.length = s.me.viq.length + 1 ∧ (∀ l n, t.loadLoc l n = s.loadLoc l n) ∧
        ∃ e, t.me.viq.head? = some e ∧ e.passed.isSome = true ∧ e = { b.entry with passed := e.passed, stores := b.stores }) ∧
      ∀ c, c ≠ s.cur → t.ctx c = s.ctx c) ∧
    (b.arms = [] → 16 < s.mySc.vsq.length + b.pushes.length → Completes .stop s fun t => t = s) ∧
    (b.arms ≠ [] → Aborts .stop s b b.format)

/-- R77, R118, R190, R194, R195, R213: what aborts a block: a width above EW, a word of a type that it does not take, address
registers past v47, which come before a weighted word with EW below 16, a seventeenth push, and a memory fault that no region prunes. The abort leaves no trace but the trap. -/
def Obligations.BlockAborts : Prop :=
  ∀ s b, s.me.block = some b →
    (∀ o : VE2, o.t.isInt = false ∨ b.sc.ew < o.t.width → Aborts (.vadd o) s b (b.bad .illegal) ∧
      Aborts (.vsll o) s b (b.bad .illegal) ∧ Aborts (.vsadd o) s b (b.bad .illegal)) ∧
    (∀ o : VE2r, o.t.isFp = false ∨ b.sc.ew < o.t.width → Aborts (.vfadd o) s b (b.bad .illegal) ∧
      Aborts (.vfdiv o) s b (b.bad .illegal)) ∧
    (b.sc.ew < 16 → (∀ a m w, Aborts (.wcmp a m w) s b (b.bad .weightEw)) ∧ (∀ m d r, Aborts (.wcomp m d r) s b (b.bad .weightEw)) ∧
      (∀ o : WJoinArgs, o.t.isFp = true → Aborts (.wjoin o) s b (b.bad .weightEw)) ∧
      (∀ a p, Aborts (.wbegin a p) s b (b.bad .weightEw)) ∧
      ∀ o : WstaArgs, o.t.isFp = true → b.addrBad o.a.r = false → Aborts (.wsta o) s b (b.bad .weightEw)) ∧
    (∀ o : WJoinArgs, o.t.isFp = false → Aborts (.wjoin o) s b (b.bad .illegal)) ∧
    (∀ o : WstaArgs, (o.t.isFp = false → Aborts (.wsta o) s b (b.bad .illegal)) ∧
      (o.t.isFp = true → b.addrBad o.a.r = true → Aborts (.wsta o) s b (b.bad .reservedReg))) ∧
    (16 ≤ b.pushes.length → ∀ a m, Aborts (.mpopc a m) s b (b.bad .blockLimit) ∧ Aborts (.mfirst a m) s b (b.bad .blockLimit)) ∧
    (∀ (o : LdeArgs) i t, 8 ≤ o.t.width → o.t.width ≤ b.sc.ew → b.addrBad o.a.r = false → i ∈ b.actives s o.m →
      let at_ := fun k => b.elemLoc b s o.a.r o.off o.t.width .read k
      at_ i = .error t → (∀ k ∈ b.actives s o.m, k < i → ∃ l, at_ k = .ok l) →
      (∀ ws runs prns pf cur site, ArmEntry.region ws runs prns pf cur site ∈ b.arms → pf = false) → Aborts (.lde o) s b t)

namespace Sys2Proof.Spec

/-- A fault of the block fetch: its trap is taken at the VFETCH word with SBLK set (R186, R190). -/
def FetchFaults (i : Instr) (s : State) (t : Trap) (blk : Bool) : Prop := Completes i s fun u =>
  (∀ c, c ≠ s.cur → u.ctx c = s.ctx c) ∧ SameMemory s u ∧ u.me.block = none ∧ u.mySc.scause = t.cause.code ∧ u.mySc.saddr = t.addr ∧
    u.mySc.sepc = s.mySc.pc ∧ u.mySc.sstatus.getLsbD 2 = blk ∧ u.mySc.x = s.mySc.x ∧ u.mySc.sup = true

/-- The state in which an instruction has issued, without its entry: past the word, with what was kept for its replay used up. -/
def issuedAs (s : State) (post : Scalar → Scalar) : State :=
  s.setMe { s.me.setSc (s.issuedSc post) with holds := s.me.holds.filter fun h => !h.of s.mySc }
/-- The same for an entry with no scalar effect of its own. -/
def issued (s : State) : State := issuedAs s id
/-- The same for an entry that ends a strip interval. -/
def issuedEnd (s : State) : State := issuedAs s Scalar.endInterval

/-- A fetch of the block at `a`. A block that pushes waits in the VIQ while the VSQ is full (R50). -/
def StartsAt (i : Instr) (s : State) (a : Word64) : Prop :=
  let u := issued s
  let g := agentOf s.cur s.mySc
  let e := s.entryFor i Captured.none
  s.performsNow i = true →
    (a.toNat % 8 ≠ 0 → FetchFaults i s ⟨.misalign, 0, a⟩ false) ∧
    (a.toNat % 8 = 0 → 16 ≤ s.mySc.vsq.length → u.entryPushes e = true →
      Completes i s fun t => t = u.setMe { u.me with viq := [e] }) ∧
    (a.toNat % 8 = 0 → s.mySc.vsq.length < 16 ∨ u.entryPushes e = false →
      (∀ t, u.fetchBlock g a 2 = .error t → FetchFaults i s t true) ∧
      ∀ hw u1, u.fetchBlock g a 2 = .ok (hw, u1) →
      let h := (hw.getD 0 0).toNat
      let c := (hw.getD 1 0).toNat
      (headerBad h c = true → FetchFaults i s ⟨.blockFormat, 0, a⟩ true) ∧
      (headerBad h c = false → ∀ t, u1.fetchBlock g (a + 16) (c % 2 ^ 16) = .error t → FetchFaults i s t true) ∧
      (headerBad h c = false → ∀ ws u2, u1.fetchBlock g (a + 16) (c % 2 ^ 16) = .ok (ws, u2) →
        (wordsBad h ws = true → FetchFaults i s ⟨.blockFormat, 0, a⟩ true) ∧
        (wordsBad h ws = false → Completes i s fun t => t.mySc = s.issuedSc id ∧ SameMemory s t ∧ (∀ k, k ≠ s.cur → t.ctx k = s.ctx k) ∧
          ∃ b, t.me.block = some b ∧ b.hdr = a ∧ b.words = ws ∧ b.pos = 0 ∧ b.arms = [] ∧ b.pushes = [] ∧ b.stores = [] ∧
            b.entry.chk = s.mySc.replay ∧ (∀ r, b.v s r = s.vreg r) ∧ (∀ r, b.m s r = s.mreg r) ∧ ∀ r, b.w s r = s.wreg r)))

end Sys2Proof.Spec

/-- R50, R131, R132, R186, R187: VFETCH and VFETCHX check the target, the header and every word, and start the block with shadow
copies of the declared registers; nothing of the block has an effect before. That a misaligned target traps with SBLK = 0 is a
reading of the model (log entry 26). -/
def Sys2Proof.Spec.BlocksStart : Prop :=
  (∀ off s, StartsAt (.vfetch off) s (s.mySc.pc + BitVec.ofInt 64 (4 * off.toInt))) ∧
  (∀ a s, StartsAt (.vfetchx a) s (s.mySc.rx a))

/-- R131, R132, R186, R187, R189: how a block starts and what its STOP commits. The SBLK of a misaligned target is a reading of the
model (log entry 26). -/
def Obligations.BlocksStartAndCommit : Prop := StopCommits ∧ BlocksStart

/-! ### Strip control and vector memory -/

namespace Sys2Proof.Spec

/-- A VIQ entry that changes the scalar side as it issues and nothing else that a program reads: `q` of the new scalar
side. -/
def SetsScalar (i : Instr) (s : State) (q : Scalar → Prop) : Prop := Completes i s fun t =>
  q t.mySc ∧ t.mySc.pc = s.mySc.pc + 4 ∧ t.mySc.vstart = 0 ∧ t.mySc.instret = s.mySc.instret + 1 ∧ SameMemory s t ∧
    t.me.regs = { s.me.regs with sc := t.mySc } ∧ ∀ c, c ≠ s.cur → t.ctx c = s.ctx c

/-- `t` is `s` but for the acting context, for translations and records kept in caches, and for lines that an access at their
homes cleans in the L1s. -/
def OnlyMeAndCaches (s t : State) : Prop :=
  t = { s with ctxs := t.ctxs, cores := t.cores, dies := t.dies, l1 := t.l1 } ∧ (∀ e ∈ t.l1, e ∈ s.l1) ∧
    (∀ c, c ≠ s.cur → t.ctx c = s.ctx c) ∧
    (∀ c, t.core c = { s.core c with tlbS := (t.core c).tlbS, tlbV := (t.core c).tlbV, rcache := (t.core c).rcache }) ∧
    ∀ d, t.die d = { s.die d with tlb2 := (t.die d).tlb2 }

/-- The same, and what stores change. -/
def OnlyMeAndStores (s t : State) : Prop :=
  t = { s with
    ctxs := t.ctxs, cores := t.cores, dies := t.dies, mem := t.mem, marks := t.marks, holmOwn := t.holmOwn
    dirty := t.dirty, l1 := t.l1 } ∧
    (∀ e ∈ t.l1, e ∈ s.l1) ∧ (∀ c, c ≠ s.cur → t.ctx c = s.ctx c) ∧
    (∀ c, t.core c = { s.core c with
      tlbS := (t.core c).tlbS, tlbV := (t.core c).tlbV, rcache := (t.core c).rcache, scratch := (t.core c).scratch
      badScratch := (t.core c).badScratch }) ∧
    ∀ d, t.die d = { s.die d with tlb2 := (t.die d).tlb2 }

/-- The acting context has issued the instruction; of its registers only vector and mask registers may differ. -/
def IssuedVM (s t : State) (post : Scalar → Scalar) : Prop :=
  t.me = { s.me with
    regs := { s.me.regs with sc := s.issuedSc post, v := t.me.regs.v, m := t.me.regs.m }
    holds := s.me.holds.filter fun h => !h.of s.mySc }

/-- The tail policy for element values. -/
def tailOf (sc : Scalar) (old : Nat) : Nat := if vtTp sc.vt then 0 else old
/-- The mask policy for element values. -/
def maskedOf (sc : Scalar) (old : Nat) : Nat := if vtMp sc.vt then 0 else old

/-- A load of elements of width `w` into `regs`, one register a field, from the locations of `addrs` (R160); `u` is `s` once a
shape record has been read. -/
def VLoadRow (i : Instr) (s u : State) (w : Nat) (m : MSel) (regs : List VReg) (addrs : Nat → List Word64) : Prop :=
  let sc := s.mySc.replay
  ∀ loc : Nat → List Loc, s.performsNow i = true →
    (∀ k ∈ s.actives sc m,
      (addrs k).mapM (fun a => u.vecLoc (agentOf s.cur sc) a (elemBytes w) (elemBytes w) .read k) = .ok (loc k)) →
    Completes i s fun t => OnlyMeAndCaches s t ∧ IssuedVM s t id ∧ t.me.regs.m = s.me.regs.m ∧
      (∀ r, r ∉ regs → t.vreg r = s.vreg r) ∧
      ∀ (f : Nat) r, regs[f]? = some r → ∀ k, k < sc.vlm → let old := elem (s.vreg r) k w
        elem (t.vreg r) k w =
          if sc.vl ≤ k then tailOf sc old
          else if k < sc.vstart.toNat then old
          else if s.selects m k then (((loc k)[f]?).map fun l => s.readElem l k w).getD 0
          else maskedOf sc old

/-- A store of elements of width `w` from `regs`, with the progress word of a notifying form, whose write is a release (R160,
R168); `u0` is `s` once a shape record has been read. -/
def VStoreRow (i : Instr) (s u0 : State) (w : Nat) (m : MSel) (regs : List VReg) (addrs : Nat → List Word64) (ntf rel : Bool) :
    Prop :=
  let sc := s.mySc.replay
  let g := agentOf s.cur sc
  let c := CtxIx.core s.cur
  ∀ (loc : Nat → List Loc) (pw : Loc), Canonical s → s.performsNow i = true →
    (∀ k ∈ s.actives sc m, (addrs k).mapM (fun a => u0.vecLoc g a (elemBytes w) (elemBytes w) .write k) = .ok (loc k)) →
    (ntf = true → sc.pwaddr ≠ 0 ∧ u0.vecLoc g sc.pwaddr 8 8 .write sc.vstart.toNat = .ok pw) →
    let u := (s.actives sc m).foldl (fun u k =>
      ((loc k).zip regs).foldl (fun u q => u.writeElem c q.1 k w (elem (s.vreg q.2) k w)) u) s
    let u := if ntf then u.storeLe (some c) pw 8 (s.countActive sc m sc.vl) else u
    Completes i s fun t => OnlyMeAndStores s t ∧ IssuedVM s t (if rel || ntf then Scalar.endInterval else id) ∧
      t.me.regs.v = s.me.regs.v ∧ t.me.regs.m = s.me.regs.m ∧ (∀ l n, t.loadLoc l n = u.loadLoc l n) ∧
      ∀ a, (∀ k ∈ s.actives sc m, ∀ pa, Loc.mem pa ∈ loc k ∨ Loc.uc pa ∈ loc k → a < pa ∨ pa + elemBytes w ≤ a) →
        (ntf = true → ∀ pa, pw = .mem pa ∨ pw = .uc pa → a < pa ∨ pa + 8 ≤ a) → t.mem.byte a = s.mem.byte a

/-- The trap of element `j` of the vector instruction at the pc (R313): it names the element and the instruction, VSTART is the
element, and the scalar side is otherwise as before. -/
def FaultedAt (s t : State) (j : Nat) (tr : Trap) : Prop :=
  t.mySc.scause = tr.cause.code ∧ t.mySc.saddr = tr.addr ∧ t.mySc.selem = BitVec.ofNat 12 j ∧ t.mySc.vstart = BitVec.ofNat 12 j ∧
    t.mySc.sepc = s.mySc.pc ∧ t.mySc.sup = true ∧ t.mySc.pc = s.mySc.stvec &&& ~~~3#64 ∧ t.mySc.vl = s.mySc.vl ∧
    t.mySc.x = s.mySc.x ∧ t.mySc.instret = s.mySc.instret ∧ t.me.regs.m = s.me.regs.m ∧ t.me.regs.w = s.me.regs.w ∧
    t.me.viq = [] ∧ ∀ c, c ≠ s.cur → t.ctx c = s.ctx c

/-- A load of `VLoadRow` whose element `j` faults and no active element below it: those below are loaded, and from `j` upward the
registers stand (R160). -/
def VLoadFaults (i : Instr) (s u : State) (w : Nat) (m : MSel) (regs : List VReg) (addrs : Nat → List Word64) : Prop :=
  let sc := s.mySc.replay
  let at_ := fun k => (addrs k).mapM fun a => u.vecLoc (agentOf s.cur sc) a (elemBytes w) (elemBytes w) .read k
  ∀ j tr (loc : Nat → List Loc), s.performsNow i = true → j ∈ s.actives sc m → at_ j = .error tr →
    (∀ k ∈ s.actives sc m, k < j → at_ k = .ok (loc k)) →
    Completes i s fun t => FaultedAt s t j tr ∧ SameMemory s t ∧ (∀ r, r ∉ regs → t.vreg r = s.vreg r) ∧
      ∀ (f : Nat) r, regs[f]? = some r → ∀ k, k < sc.vlm →
        (j ≤ k ∨ k < sc.vstart.toNat → elem (t.vreg r) k w = elem (s.vreg r) k w) ∧
        (k ∈ s.actives sc m → k < j → elem (t.vreg r) k w = (((loc k)[f]?).map fun l => s.readElem l k w).getD 0)

/-- A store of `VStoreRow` whose element `j` faults and no active element below it: those below are written, with their number in the
progress word of a notifying form, and nothing else is (R160, R168). -/
def VStoreFaults (i : Instr) (s u0 : State) (w : Nat) (m : MSel) (regs : List VReg) (addrs : Nat → List Word64) (ntf : Bool) :
    Prop :=
  let sc := s.mySc.replay
  let g := agentOf s.cur sc
  let c := CtxIx.core s.cur
  let at_ := fun k => (addrs k).mapM fun a => u0.vecLoc g a (elemBytes w) (elemBytes w) .write k
  ∀ j tr (loc : Nat → List Loc) (pw : Loc), Canonical s → s.performsNow i = true → j ∈ s.actives sc m → at_ j = .error tr →
    (∀ k ∈ s.actives sc m, k < j → at_ k = .ok (loc k)) →
    (ntf = true → sc.pwaddr ≠ 0 ∧ u0.vecLoc g sc.pwaddr 8 8 .write sc.vstart.toNat = .ok pw) →
    let below := (s.actives sc m).filter fun k => decide (k < j)
    let u := below.foldl (fun u k => ((loc k).zip regs).foldl (fun u q => u.writeElem c q.1 k w (elem (s.vreg q.2) k w)) u) s
    let u := if ntf then u.storeLe (some c) pw 8 (s.countActive sc m j) else u
    Completes i s fun t => FaultedAt s t j tr ∧ t.me.regs.v = s.me.regs.v ∧ (∀ l n, t.loadLoc l n = u.loadLoc l n) ∧
      ∀ a, (∀ k ∈ below, ∀ pa, Loc.mem pa ∈ loc k ∨ Loc.uc pa ∈ loc k → a < pa ∨ pa + elemBytes w ≤ a) →
        (ntf = true → ∀ pa, pw = .mem pa ∨ pw = .uc pa → a < pa ∨ pa + 8 ≤ a) → t.mem.byte a = s.mem.byte a

/-- A notifying store whose progress word faults (R168): nothing is performed, and the element named is VSTART. -/
def ProgressFaults (i : Instr) (s u0 : State) : Prop :=
  let sc := s.mySc.replay
  ∀ tr, s.performsNow i = true → sc.pwaddr ≠ 0 →
    u0.vecLoc (agentOf s.cur sc) sc.pwaddr 8 8 .write sc.vstart.toNat = .error tr →
    Completes i s fun t => FaultedAt s t sc.vstart.toNat tr ∧ tr.addr = sc.pwaddr ∧ t.me.regs.v = s.me.regs.v ∧
      ∀ l n, t.loadLoc l n = s.loadLoc l n

/-- The width of an ew field now. -/
def widthNow (e : EwSel) (s : State) : Nat := ewBits e s.mySc
/-- xa + off(k), the index in register `x` at width EW (R159). -/
def indexed (s : State) (a : XReg) (x : VReg) (k : Nat) : Word64 :=
  s.mySc.rx a + BitVec.ofInt 64 (sext s.mySc.ew (elem (s.vreg x) k s.mySc.ew))
/-- The addresses of the `n` fields of element k. -/
def fieldAddrs (s : State) (a : XReg) (n w k : Nat) : List Word64 :=
  (List.range n).map fun f => s.mySc.rx a + BitVec.ofNat 64 ((k * n + f) * w / 8)
/-- The addresses of element k of a unit-stride access of width `w`. -/
def unitAddr (s : State) (a : XReg) (w k : Nat) : List Word64 := [s.mySc.rx a + BitVec.ofNat 64 (k * w / 8)]
/-- The same with a stride in xb. -/
def strideAddr (s : State) (a b : XReg) (k : Nat) : List Word64 := [s.mySc.rx a + BitVec.ofNat 64 k * s.mySc.rx b]
/-- The same under a shape record (R161). -/
def shapeAddr (r : BitVec 512) (k : Nat) : List Word64 :=
  [BitVec.ofNat 64 (recNat r 0 8) + BitVec.ofInt 64
    ((k % recNat r 8 4 : Nat) * recInt r 0x10 + (k / recNat r 8 4 : Nat) * recInt r 0x20)]
/-- The record at xa is read as the instruction issues, and the checks of R161 on it hold; `u` is the state after the read. -/
def RecordRead (s u : State) (a : XReg) (w : Nat) (r : BitVec 512) : Prop :=
  ∃ k, s.issueRecord a = (k, u) ∧ k.rcd = some r ∧ shapeBad r s.mySc w = false
/-- A width that an addressing other than unit stride takes. -/
def WideOk (e : EwSel) (s : State) : Prop := 8 ≤ widthNow e s ∧ widthNow e s ≤ s.mySc.ew

end Sys2Proof.Spec

/-- R8, R163 to R166: setting the length. VSETL and VSETLX write VT and grant VL; a forbidden VT is ILLEGAL, in SETFIB too; STRIP
takes VL off the count, moves the pointers and branches while elements remain; SETFIB writes what its row loop gives; VSPLAT writes
the active elements; VPRF has no effect. That SETFIB builds its mask from zero is a reading of the model (log entry 28). -/
def Obligations.VectorLengthAndSplat : Prop :=
  ∀ s,
    (∀ d a (vt : BitVec 11), s.me.viqUsed < 32 → vtOk (vt.setWidth 64) = true →
      let n := min (s.mySc.rx a).toInt.toNat (8192 / 2 ^ (vt.toNat % 8 + 1) * s.myCore.vcap.toNat / 8)
      let q := fun (z : Scalar) => z.vt = vt ∧ z.vl = n ∧ (∀ r, r ≠ d → z.rx r = s.mySc.rx r) ∧
        z.rx d = if d = 0 then 0 else BitVec.ofNat 64 n
      SetsScalar (.vsetl ⟨d, a⟩ vt) s q ∧ ∀ b, s.mySc.rx b = vt.setWidth 64 → SetsScalar (.vsetlx ⟨d, a, b⟩) s q) ∧
    (s.me.drained = true →
      (∀ d a (vt : BitVec 11), vtOk (vt.setWidth 64) = false → TrapsWith (.vsetl ⟨d, a⟩ vt) s 0x01 s.mySc.pc) ∧
      (∀ d a b, vtOk (s.mySc.rx b) = false → TrapsWith (.vsetlx ⟨d, a, b⟩) s 0x01 s.mySc.pc) ∧
      ∀ o mo (vt : BitVec 11), vtOk (vt.setWidth 64) = false → TrapsWith (.setfib o mo vt) s 0x01 s.mySc.pc) ∧
    (∀ c p n off, s.me.viqUsed < 32 →
      let z := (s.mySc.wx c (s.mySc.rx c - BitVec.ofNat 64 s.mySc.vl)).advance p s.mySc.vl 0 (n.val + 1)
      let left := (z.rx c).toInt.toNat
      Completes (.strip c p n off) s fun t => t.mySc.x = z.x ∧ SameMemory s t ∧ t.mySc.vt = s.mySc.vt ∧
        (0 < left → t.mySc.vl = min left (s.mySc.vlm * s.myCore.vcap.toNat / 8) ∧
          t.mySc.pc = s.mySc.pc + BitVec.ofInt 64 (4 * off.toInt)) ∧
        (left = 0 → t.mySc.vl = 0 ∧ t.mySc.pc = s.mySc.pc + 4)) ∧
    (∀ (o : X2) mo vt f u, s.performsNow (.setfib o mo vt) = true → vtOk (vt.setWidth 64) = true →
      State.fibLoop (s.mySc.rx o.a) (s.mySc.rx o.d).toInt.toNat (s.myCore.cap vt) ((s.mySc.rx o.d).toInt.toNat + 1) s
        ⟨0, 0, s.mySc.fiboff.toNat, 0⟩ = .ok (f, u) →
      Completes (.setfib o mo vt) s fun t => t.mySc.vl = f.n ∧ t.mySc.vt = vt ∧ t.mySc.fiboff = BitVec.ofNat 32 f.off ∧
        (t.mySc.rx o.d = if o.d = 0 then 0 else BitVec.ofNat 64 f.j) ∧ t.mreg mo = f.mo ∧ (∀ r, r ≠ mo → t.mreg r = s.mreg r) ∧
        t.me.regs.v = s.me.regs.v ∧ SameMemory s t ∧ t.mySc.pc = s.mySc.pc + 4) ∧
    (∀ o : VMem, s.performsNow (.vsplat o) = true → widthNow o.e s ≤ s.mySc.ew →
      let w := widthNow o.e s
      let sc := s.mySc.replay
      Completes (.vsplat o) s fun t => OnlyMe s t ∧ IssuedVM s t id ∧ t.me.regs.m = s.me.regs.m ∧
        (∀ r, r ≠ o.v → t.vreg r = s.vreg r) ∧ ∀ k, k < sc.vlm → let old := elem (s.vreg o.v) k w
          elem (t.vreg o.v) k w =
            if sc.vl ≤ k then tailOf sc old else if k < sc.vstart.toNat then old
            else if s.selects o.m k then (s.mySc.rx o.a).toNat % 2 ^ w else maskedOf sc old) ∧
    (∀ a b e, s.me.viqUsed < 32 → SetsScalar (.vprf a b e) s fun z => z = s.issuedSc id)

/-- R159 to R161: vector loads in every addressing mode of Table 9-1. -/
def Obligations.VectorLoads : Prop :=
  ∀ s,
    (∀ o : VMem, widthNow o.e s ≤ s.mySc.ew →
      VLoadRow (.vld o) s s (widthNow o.e s) o.m [o.v] (unitAddr s o.a (widthNow o.e s))) ∧
    (∀ (o : VMem) b, WideOk o.e s → VLoadRow (.vlds o b) s s (widthNow o.e s) o.m [o.v] (strideAddr s o.a b)) ∧
    (∀ (o : VMem) x, WideOk o.e s → VLoadRow (.vldx o x) s s (widthNow o.e s) o.m [o.v] fun k => [indexed s o.a x k]) ∧
    (∀ (o : VMem) n, WideOk o.e s →
      VLoadRow (.vldg o n) s s (widthNow o.e s) o.m (fieldRegs o.v n.val) (fieldAddrs s o.a n.val (widthNow o.e s))) ∧
    (∀ (o : VMem) u r, WideOk o.e s → RecordRead s u o.a (widthNow o.e s) r →
      VLoadRow (.vld2 o) s u (widthNow o.e s) o.m [o.v] (shapeAddr r))

/-- R160, R161, R313: a faulting element of a vector load in every addressing mode. The elements below it are loaded, it and those
above stand, and the trap names it; VSTART is its number. -/
def Sys2Proof.Spec.LoadFaultsArePrecise : Prop :=
  ∀ s,
    (∀ o : VMem, widthNow o.e s ≤ s.mySc.ew →
      VLoadFaults (.vld o) s s (widthNow o.e s) o.m [o.v] (unitAddr s o.a (widthNow o.e s))) ∧
    (∀ (o : VMem) b, WideOk o.e s → VLoadFaults (.vlds o b) s s (widthNow o.e s) o.m [o.v] (strideAddr s o.a b)) ∧
    (∀ (o : VMem) x, WideOk o.e s → VLoadFaults (.vldx o x) s s (widthNow o.e s) o.m [o.v] fun k => [indexed s o.a x k]) ∧
    (∀ (o : VMem) n, WideOk o.e s →
      VLoadFaults (.vldg o n) s s (widthNow o.e s) o.m (fieldRegs o.v n.val) (fieldAddrs s o.a n.val (widthNow o.e s))) ∧
    (∀ (o : VMem) u r, WideOk o.e s → RecordRead s u o.a (widthNow o.e s) r →
      VLoadFaults (.vld2 o) s u (widthNow o.e s) o.m [o.v] (shapeAddr r))

/-- R160, R161, R168, R313: a faulting element of a vector store in every addressing mode. The elements below it are written and
nothing else; the progress word of a notifying form counts them. A progress word that faults does so before any element. -/
def Sys2Proof.Spec.StoreFaultsArePrecise : Prop :=
  ∀ s,
    (∀ o : VstArgs, widthNow o.e s ≤ s.mySc.ew →
      VStoreFaults (.vst o) s s (widthNow o.e s) o.m [o.v] (unitAddr s o.a (widthNow o.e s)) o.ntf ∧
      (o.ntf = true → ProgressFaults (.vst o) s s)) ∧
    (∀ (o : VStore) b, WideOk o.e s →
      VStoreFaults (.vsts o b) s s (widthNow o.e s) o.m [o.v] (strideAddr s o.a b) false ∧
      VStoreFaults (.vstsNtf o b) s s (widthNow o.e s) o.m [o.v] (strideAddr s o.a b) true ∧ ProgressFaults (.vstsNtf o b) s s) ∧
    (∀ (o : VStore) x ntf, WideOk o.e s →
      VStoreFaults (.vstx o x ntf) s s (widthNow o.e s) o.m [o.v] (fun k => [indexed s o.a x k]) ntf ∧
      (ntf = true → ProgressFaults (.vstx o x ntf) s s)) ∧
    (∀ (o : VStore) n ntf, WideOk o.e s → VStoreFaults (.vstg o n ntf) s s (widthNow o.e s) o.m (fieldRegs o.v n.val)
        (fieldAddrs s o.a n.val (widthNow o.e s)) ntf ∧
      (ntf = true → ProgressFaults (.vstg o n ntf) s s)) ∧
    (∀ (o : VStore) ntf u r, WideOk o.e s → RecordRead s u o.a (widthNow o.e s) r →
      VStoreFaults (.vst2 o ntf) s u (widthNow o.e s) o.m [o.v] (shapeAddr r) ntf ∧
      (ntf = true → ProgressFaults (.vst2 o ntf) s u))

/-- R313, R316, R317: a step whose next act is a chained start takes the oldest entry, and `gs` says of each younger entry how far it
was: 0 had not started, g + 1 had started and completed g element groups. Where the oldest entry completes, this changes nothing of it;
where it traps, the younger entries that may chain on its destinations with those groups, at most four, keep what they stored and
are recorded in VTF0 upward, each with V, with the word distance from SEPC, and with the first element of an element group; every
other VTF is not valid. Which younger entries had started is a choice of the implementation (log entry 8). -/
def Sys2Proof.Spec.ChainedStartsAreRecorded : Prop :=
  (∀ (s : State) c gs rest, s.agenda = .chain c gs :: rest → s.skerry.powered = true →
    step s = .next (({ s with agenda := rest, cur := c, laneTurn := c } : State).startChained gs).settle) ∧
  ∀ (s : State) gs e rest p, s.me.block = none → s.me.entryParked = false → s.me.viq = e :: rest → e.passed = none →
    e.task = s.me.task → perfOf e.instr = some p →
    (∀ t, (s.setMe { s.me with viq := rest }).performSound e p = .done t → s.startChained gs = t.completed e) ∧
    (∀ v tr f, (s.setMe { s.me with viq := rest }).performSound e p = .trap v tr f false →
      let q := v.chained e (loadDests e.instr) tr.elem 4 [] rest gs
      let t := s.startChained gs
      q.2.length ≤ 4 ∧ (∀ y ∈ q.2, y.1 ∈ rest ∧ y.2 % groupSize e.chk = 0) ∧ ((∀ n ∈ gs, n = 0) → q = (v, [])) ∧
      t.mySc.scause = tr.cause.code ∧ t.mySc.sepc = e.chk.pc ∧ t.me.viq = [] ∧ t.me.block = none ∧ t.mem = q.1.mem ∧
      (∀ l n, t.loadLoc l n = q.1.loadLoc l n) ∧
      (∀ (i : Fin 4) y, q.2[i.val]? = some y → t.mySc.vtf[i.val] = vtfWord e.chk.pc y.1.chk.pc y.2) ∧
      (∀ i : Fin 4, q.2[i.val]? = none → t.mySc.vtf[i.val].getLsbD 0 = false))

/-- R160, R161, R168, R313, R316, R317: faults of vector loads and stores, and what had started chained on them. Which younger entries
had started is the agenda's to say (log entries 5 and 8). -/
def Obligations.VectorFaultsArePrecise : Prop := LoadFaultsArePrecise ∧ StoreFaultsArePrecise ∧ ChainedStartsAreRecorded

/-- R159 to R161, R167, R168: vector stores in every addressing mode, released and notifying forms. -/
def Obligations.VectorStores : Prop :=
  ∀ s,
    (∀ o : VstArgs, widthNow o.e s ≤ s.mySc.ew →
      VStoreRow (.vst o) s s (widthNow o.e s) o.m [o.v] (unitAddr s o.a (widthNow o.e s)) o.ntf o.rel) ∧
    (∀ (o : VStore) b, WideOk o.e s →
      VStoreRow (.vsts o b) s s (widthNow o.e s) o.m [o.v] (strideAddr s o.a b) false false ∧
      VStoreRow (.vstsNtf o b) s s (widthNow o.e s) o.m [o.v] (strideAddr s o.a b) true false) ∧
    (∀ (o : VStore) x ntf, WideOk o.e s →
      VStoreRow (.vstx o x ntf) s s (widthNow o.e s) o.m [o.v] (fun k => [indexed s o.a x k]) ntf false) ∧
    (∀ (o : VStore) n ntf, WideOk o.e s → VStoreRow (.vstg o n ntf) s s (widthNow o.e s) o.m (fieldRegs o.v n.val)
      (fieldAddrs s o.a n.val (widthNow o.e s)) ntf false) ∧
    (∀ (o : VStore) ntf u r, WideOk o.e s → RecordRead s u o.a (widthNow o.e s) r →
      VStoreRow (.vst2 o ntf) s u (widthNow o.e s) o.m [o.v] (shapeAddr r) ntf false)

/-- R167, R169, R171, R172: the acquiring gather marks in m11 what it skips; the windowed gather marks what lies outside its
window; bitmap blocks give presence and values, and VSTB writes the whole block. That the bits from VL upward of a written mask
register are 0 is a reading of the model (log entry 28). -/
def Obligations.GathersAndBitmaps : Prop :=
  ∀ s, let sc := s.mySc.replay
    let g := agentOf s.cur sc
    (∀ v a x m c (loc : Nat → Loc), s.performsNow (.vldxAcq v a x m c) = true → 8 ≤ s.mySc.ew →
      let near := fun k => s.homeWithin c (CtxIx.die s.cur) (loc k)
      (∀ k ∈ s.actives sc m, s.vecPlace g (indexed s a x k) (sc.ew / 8) (sc.ew / 8) .read k = .ok (loc k) ∧
        (near k = true → s.vecLoc g (indexed s a x k) (sc.ew / 8) (sc.ew / 8) .read k = .ok (loc k))) →
      Completes (.vldxAcq v a x m c) s fun t => OnlyMeAndCaches s t ∧ IssuedVM s t Scalar.endInterval ∧
        (∀ r, r ≠ v → t.vreg r = s.vreg r) ∧ (∀ r, r ≠ 11 → t.mreg r = s.mreg r) ∧
        (∀ k ∈ s.actives sc m, k < sc.vlm →
          elem (t.vreg v) k sc.ew = if near k then s.readElem (loc k) k sc.ew else elem (s.vreg v) k sc.ew) ∧
        ∀ k, k < 4096 → (t.mreg 11).getLsbD k =
          if sc.vl ≤ k then false else if k < sc.vstart.toNat then (s.mreg 11).getLsbD k
          else s.active sc m k && !near k) ∧
    (∀ v a x mo e vw, s.performsNow (.vldw v a x mo e) = true → vregAdd v 1 = some vw → WideOk e s →
      let w := widthNow e s
      (s.mySc.rx a).toNat % (w / 8) = 0 →
      let win := fun k => s.windowElem g (s.mySc.rx a) w k
      Completes (.vldw v a x mo e) s fun t => OnlyMeAndCaches s t ∧ IssuedVM s t id ∧ (∀ r, r ≠ v → r ≠ vw → t.vreg r = s.vreg r) ∧
        (∀ r, r ≠ mo → t.mreg r = s.mreg r) ∧ (∀ k, k < sc.vlm → elem (t.vreg vw) k w = (win k).getD 0) ∧
        let idx := if x = vw then t.vreg vw else s.vreg x
        let hit := fun k => let off := sext sc.ew (elem idx k sc.ew)
          if 0 ≤ off ∧ off < ((sc.vlm * (w / 8) : Nat) : Int) ∧ off % (w / 8 : Nat) = 0 then win (off.toNat / (w / 8)) else none
        (∀ k, k < sc.vlm → let old := elem (s.vreg v) k w
          elem (t.vreg v) k w = if sc.vl ≤ k then tailOf sc old else if k < sc.vstart.toNat then old else (hit k).getD old) ∧
        ∀ k, k < 4096 → (t.mreg mo).getLsbD k = (decide (k < sc.vl) &&
          if k < sc.vstart.toNat then (s.mreg mo).getLsbD k else (hit k).isNone)) ∧
    (∀ v a b mo e h (val : Nat → Option Nat), s.performsNow (.vldb v a b mo e) = true → widthNow e s ≤ s.mySc.ew →
      let w := widthNow e s
      s.bitmapHeader g (s.mySc.rx a) = .ok h → bitmapBad h w (s.mySc.rx b).toNat sc.vl = false →
      (∀ k, sc.vstart.toNat ≤ k → k < sc.vl →
        s.bitmapElem g (s.mySc.rx a) (h % 2 ^ 8) w k ((s.mySc.rx b).toNat + k) = .ok (val k)) →
      Completes (.vldb v a b mo e) s fun t => OnlyMeAndCaches s t ∧ IssuedVM s t id ∧ (∀ r, r ≠ v → t.vreg r = s.vreg r) ∧
        (∀ r, r ≠ mo → t.mreg r = s.mreg r) ∧
        (∀ k, k < sc.vlm → let old := elem (s.vreg v) k w
          elem (t.vreg v) k w =
            if sc.vl ≤ k then tailOf sc old else if k < sc.vstart.toNat then old else (val k).getD 0 % 2 ^ w) ∧
        ∀ k, k < 4096 → (t.mreg mo).getLsbD k =
          if sc.vl ≤ k then false else if k < sc.vstart.toNat then (s.mreg mo).getLsbD k else (val k).isSome) ∧
    (∀ (o : VStore) b ntf ty sp pw, let i := if ntf then Instr.vstbNtf o b else .vstb o b
      let w := widthNow o.e s
      s.performsNow i = true → w ≤ s.mySc.ew → etypeOf (s.mySc.rx b).toNat = some ty → ty.width = w → (s.mySc.rx o.a).toNat % 16 = 0 →
      let block := bitmapBlock (s.mySc.rx b).toNat w sc.vl (fun k => s.active sc o.m k && elem (s.vreg o.v) k w != 0)
        (fun k => elem (s.vreg o.v) k w)
      s.span g .write (s.mySc.rx o.a) block.length = .ok sp →
      (ntf = true → sc.pwaddr ≠ 0 ∧ s.vecLoc g sc.pwaddr 8 8 .write 0 = .ok pw) →
      let c := some (CtxIx.core s.cur)
      let u := s.storeSpan c sp block
      let u := if ntf then u.storeLe c pw 8 (s.countActive sc o.m sc.vl) else u
      Completes i s fun t => OnlyMeAndStores s t ∧ IssuedVM s t (if ntf then Scalar.endInterval else id) ∧
        t.me.regs.v = s.me.regs.v ∧ t.me.regs.m = s.me.regs.m ∧ ∀ l n, t.loadLoc l n = u.loadLoc l n)

namespace Sys2Proof.Spec

/-- The atomics of a VAMO in order: element and location; each element's old value comes back (R173). -/
def amoRun (c : CoreIx) (op : AmoOp) (n : Nat) (data : Nat → Nat) : List (Nat × Loc) → State → State × List (Nat × Nat)
  | [], s => (s, [])
  | (k, l) :: r, s =>
    let old := s.loadLe l n
    let p := amoRun c op n data r (s.storeLe (some c) l n (amoNew op n old (data k)))
    (p.1, (k, old) :: p.2)

end Sys2Proof.Spec

/-- R173 to R176: atomics and reductions in memory. VAMO performs one atomic an element and returns the old values; of two
active elements at one address the later faults ATOMIC_DUP, with the elements below it performed; VSRED updates each distinct location
once with the values combined in element order; VRRED hands its contribution to the home of the area. That VSRED takes two addresses of
one location as one is the model's choice (log entry 39). -/
def Obligations.VectorAtomicsAndReductions : Prop :=
  ∀ s, let sc := s.mySc.replay
    let g := agentOf s.cur sc
    let c := CtxIx.core s.cur
    (∀ (o : VamoArgs) vi (loc : Nat → Loc), let n := amoBytes o.dword
      let post := if o.ord = .none then id else Scalar.endInterval
      s.performsNow (.vamo o) = true → vregAdd o.v 1 = some vi → 8 * n ≤ s.mySc.ew →
      (s.actives sc o.m).Pairwise (fun i j => indexed s o.a vi i ≠ indexed s o.a vi j) →
      (∀ k ∈ s.actives sc o.m, s.vecLoc g (indexed s o.a vi k) n n .rw k = .ok (loc k)) →
      let r := amoRun c o.op n (fun k => elem (s.vreg o.v) k (8 * n)) ((s.actives sc o.m).map fun k => (k, loc k)) s
      Completes (.vamo o) s fun t => OnlyMeAndStores s t ∧ IssuedVM s t post ∧ t.me.regs.m = s.me.regs.m ∧
        (∀ l k, t.loadLoc l k = r.1.loadLoc l k) ∧ (∀ q, q ≠ o.v → t.vreg q = s.vreg q) ∧
        ∀ k, k < 8192 / (8 * n) → ((∀ x, (k, x) ∈ r.2 → elem (t.vreg o.v) k (8 * n) = x) ∧
          (k ∉ s.actives sc o.m → elem (t.vreg o.v) k (8 * n) = elem (s.vreg o.v) k (8 * n)))) ∧
    (∀ (o : VamoArgs) vi (loc : Nat → Loc) i j, let n := amoBytes o.dword
      let below := (s.actives sc o.m).filter (· < j)
      s.performsNow (.vamo o) = true → vregAdd o.v 1 = some vi → 8 * n ≤ s.mySc.ew → i ∈ below → j ∈ s.actives sc o.m →
      indexed s o.a vi i = indexed s o.a vi j → below.Pairwise (fun p q => indexed s o.a vi p ≠ indexed s o.a vi q) →
      (∀ k ∈ below, s.vecLoc g (indexed s o.a vi k) n n .rw k = .ok (loc k)) →
      let r := amoRun c o.op n (fun k => elem (s.vreg o.v) k (8 * n)) (below.map fun k => (k, loc k)) s
      Completes (.vamo o) s fun t => t.mySc.scause = 0x08 ∧ t.mySc.saddr = indexed s o.a vi j ∧ t.mySc.selem = BitVec.ofNat 12 j ∧
        t.mySc.sepc = s.mySc.pc ∧ t.mySc.sup = true ∧ t.mySc.x = s.mySc.x ∧ (∀ l k, t.loadLoc l k = r.1.loadLoc l k) ∧
        (∀ q, q ≠ o.v → t.vreg q = s.vreg q) ∧
        ∀ k, k < 8192 / (8 * n) → (∀ x, (k, x) ∈ r.2 → elem (t.vreg o.v) k (8 * n) = x) ∧
          (k ∉ below → elem (t.vreg o.v) k (8 * n) = elem (s.vreg o.v) k (8 * n))) ∧
    (∀ (o : VStore) op vi (loc : Nat → Loc), let w := widthNow o.e s
      s.performsNow (.vsred o op) = true → vregAdd o.v 1 = some vi → 32 ≤ w → w ≤ s.mySc.ew →
      (∀ k ∈ s.actives sc o.m, s.vecLoc g (indexed s o.a vi k) (w / 8) (w / 8) .rw k = .ok (loc k)) →
      let act := s.actives sc o.m
      let firsts := act.filter fun k => !(act.any fun j => decide (j < k) && decide (loc j = loc k))
      let vals := fun k => (act.filter fun j => decide (loc j = loc k)).map fun j => elem (s.vreg o.v) j w
      let u := firsts.foldl (fun (u : State × Flags) k =>
        let p := sredFold op w ((vals k).headD 0) (vals k).tail
        let q := sredOp op w (u.1.loadLe (loc k) (w / 8)) p.1
        (u.1.storeLe (some c) (loc k) (w / 8) q.1, u.2 ||| p.2 ||| q.2)) (s, (0 : Flags))
      Completes (.vsred o op) s fun t => OnlyMeAndStores s t ∧ t.me.regs.v = s.me.regs.v ∧ t.me.regs.m = s.me.regs.m ∧
        (∀ l k, t.loadLoc l k = u.1.loadLoc l k) ∧ t.mySc = (s.issuedSc id).setFlags u.2) ∧
    (∀ (o : VStore) ty ntf ord st mx hl (pw : Loc) (loc : Nat → Loc), let w := widthNow o.e s
      let nb := rredBytes ty
      s.performsNow (.vrred o ty ntf ord) = true → rredSource ty w = some (st, mx) → w ≤ s.mySc.ew →
      (mx = true → vtSc sc.vt ≠ none) → (ntf = true → sc.pwaddr ≠ 0 ∧ s.vecLoc g sc.pwaddr 8 8 .write sc.vstart.toNat = .ok pw) →
      s.peerLoc g (s.mySc.rx o.a - 16) 16 16 .write sc.vstart.toNat = .ok hl → s.isPeer hl = false →
      (∀ k ∈ s.actives sc o.m,
        s.peerLoc g (s.mySc.rx o.a + BitVec.ofNat 64 (k * nb)) nb nb .write k = .ok (loc k) ∧ s.isPeer (loc k) = false) →
      let scale := fun k => if mx then (vtSc sc.vt).map fun r => elem (s.vreg r) (k / 32) 8 else none
      Completes (.vrred o ty ntf ord) s fun t => t = { (issuedAs s (if ntf then Scalar.endInterval else id)).fillAddrs g
          ((if ntf then [sc.pwaddr] else []) ++
            (s.mySc.rx o.a - 16) :: (s.actives sc o.m).map fun k => s.mySc.rx o.a + BitVec.ofNat 64 (k * nb)) with
        contribs := s.contribs ++ [⟨hl.key, (s.actives sc o.m).map fun k => ((loc k).key, st, elem (s.vreg o.v) k w, scale k), ty, ord,
          sc.tid.toNat, sc.satp, sc.sup, CtxIx.die s.cur, s.tagOf s.me.task, s.me.task, some s.cur,
          if ntf then some (pw.key, s.countActive sc o.m sc.vl) else none, none, none⟩] })

/-! ### Feeds and the activation stack -/

namespace Sys2Proof.Spec

/-- `f` of every copy of the scalar side: the current one and the checkpoints. -/
def everySc (s : State) (f : Scalar → Scalar) : State := s.setMe (s.me.every f)

end Sys2Proof.Spec

/-- R177 to R179: FCFG opens a slot; FLD sets VL to the elements it is granted and moves them, none of a drained feed, or parks, or
raises the fault that the ferry stopped on; FST appends; FEND ends the feed; the ferry's events. That the ferry moves elements at
once unless the run holds it is the model's choice (log entry 32). -/
def Sys2Proof.Spec.FeedInstructions : Prop :=
  ∀ s (f : FeedIx), let sc := s.mySc.replay
    let g := agentOf s.cur sc
    let x := s.feed f
    (∀ a b k out e, s.performsNow (.fcfg f a b k out e) = true → x.st = .idle ∨ x.st = .drained →
      let w := widthNow e s
      let base := s.mySc.rx a
      let len := (s.mySc.rx b).toNat
      len < 2 ^ 40 → (w < 8 → k.val = 0) → (8 ≤ w → base.toNat % (w / 8) = 0) →
      4096 ≤ s.stripFree (CtxIx.core s.cur) →
      let y : FeedSlot := ⟨.open, out, base, len, w, k.val + 1, 0, 0, [], none, none⟩
      Completes (.fcfg f a b k out e) s fun t => t =
        if out then (issued s).setFeed f { y with st := if len = 0 then .ended else .open }
        else if len = 0 then (issued s).setFeed f { y with st := .drained }
        else if s.choices.ferryHeld then (issued s).setFeed f y else (issued s).ferryRun g f y) ∧
    (∀ v, s.performsNow (.fld v f) = true → x.st ≠ .idle → x.out = false → x.w ≤ s.mySc.ew →
      let u := if s.choices.ferryHeld ∨ x.st ≠ .open then s else s.ferryRun (agentOf s.cur s.mySc) f x
      let y := u.feed f
      let n := min s.mySc.vl y.buf.length
      (y.buf ≠ [] ∨ (y.len ≤ y.ferry ∧ y.fault = none) → (y.st = .drained → y.buf = []) → Completes (.fld v f) s fun t =>
        t.mySc.vl = n ∧ SameMemory s t ∧
        t.mySc.pc = s.mySc.pc + 4 ∧ (t.feed f).pos = x.pos + n ∧ (∀ r, r ≠ v → t.vreg r = s.vreg r) ∧ (∀ h, h ≠ f → t.feed h = s.feed h) ∧
        ∀ k, k < sc.vlm → elem (t.vreg v) k x.w =
          if y.st = .drained then elem (s.vreg v) k x.w
          else if k < n then (y.buf.getD k 0).toNat % 2 ^ x.w else tailOf sc (elem (s.vreg v) k x.w)) ∧
      (y.buf = [] → y.ferry < y.len → y.fault = none → Completes (.fld v f) s fun t =>
        t = u.setMe { u.me with parked := some (.fld v f) }) ∧
      (y.buf = [] → y.ferry < y.len → ∀ c a, y.fault = some (c, a) → Completes (.fld v f) s fun t =>
        t.mySc.scause = c.code ∧ t.mySc.saddr = a ∧ t.mySc.sepc = s.mySc.pc ∧ (t.feed f).fault = none ∧
        t.me.regs.v = s.me.regs.v ∧ SameMemory s t)) ∧
    (∀ c v, (s.ctx c).parked = some (.fld v f) →
      let u : State := { s with cur := c }
      let w := u.ferryRun (agentOf c (s.sc c)) f ((s.ctx c).regs.feeds[f.val])
      Completes (.fldWake c) s fun t => exec (.fld v f) (w.setMe { w.me with parked := none }) = .next t) ∧
    (∀ v m ch e, s.performsNow (.fst v f m ch e) = true → x.st = .open → x.out = true → x.w ≤ s.mySc.ew →
      x.pos + s.mySc.vl ≤ x.len → x.fault = none → s.choices.ferryHeld = true → x.buf.length + s.mySc.vl ≤ x.room →
      Completes (.fst v f m ch e) s fun t => t = (issued s).setFeed f { x with
        buf := x.buf ++ (List.range s.mySc.vl).map fun k => BitVec.ofNat 64 (elem (s.vreg v) k x.w), pos := x.pos + s.mySc.vl }) ∧
    (∀ v m ch e v1 x1 v2 x2, s.performsNow (.fst v f m ch e) = true → x.st = .open → x.out = true → x.w ≤ s.mySc.ew →
      x.pos + s.mySc.vl ≤ x.len → x.fault = none → s.choices.ferryHeld = false →
      (issued s).ferryOut g (CtxIx.core s.cur) x = (v1, x1) → x1.fault = none →
      let y := { x1 with
        buf := x1.buf ++ (List.range s.mySc.vl).map fun k => BitVec.ofNat 64 (elem (s.vreg v) k x.w), pos := x.pos + s.mySc.vl }
      ((v1.setFeed f x1).setFeed f y).ferryOut g (CtxIx.core s.cur) y = (v2, x2) →
      Completes (.fst v f m ch e) s fun t => t = v2.setFeed f x2) ∧
    (∀ a m e v1 x1 l, s.performsNow (.fend f a m e) = true → x.out = true → x.st = .open → x.fault = none →
      s.choices.ferryHeld = false → (issued s).ferryOut g (CtxIx.core s.cur) x = (v1, x1) → x1.fault = none →
      (a ≠ 0 → (v1.setFeed f x1).countLoc g (s.mySc.rx a) = .ok l) →
      Completes (.fend f a m e) s fun t => t = ((v1.setFeed f x1).setFeed f
        { x1 with st := .ended, bo := if a = 0 then x1.bo else some (BitVec.ofNat 64 l.key) }).fillAddrs g
          (if a = 0 then [] else [s.mySc.rx a])) ∧
    (∀ m e, s.performsNow (.fend f 0 m e) = true →
      (x.out = false → x.st = .open ∨ x.st = .ended →
        Completes (.fend f 0 m e) s fun t => t = (issued s).setFeed f FeedSlot.idle) ∧
      (x.out = true → x.st = .open → x.fault = none → s.choices.ferryHeld = true →
        Completes (.fend f 0 m e) s fun t => t = (issued s).setFeed f { x with st := .ended })) ∧
    (∀ c, let z := (s.ctx c).regs.feeds[f.val]
      let u : State := { s with cur := c }
      (z.st = .open → z.out = false → Completes (.feedInputEnded c f) s fun t =>
        t = u.ferryRun (agentOf c (s.sc c)) f z) ∧
      (z.st = .ended → z.out = true → ∀ y v, u.ferryOut (agentOf c (s.sc c)) (CtxIx.core c) { z with fault := none } = (v, y) →
        y.fault = none → Completes (.feedOutputDone c f) s fun t => t = match z.bo with
          | some k => (v.setFeed f { FeedSlot.idle with out := true }).owe k.toNat ((z.len * z.w + 7) / 8)
          | none => v.setFeed f { FeedSlot.idle with out := true }))

/-- R180, R181: APUSH writes a frame above ASP and moves ASP past it; APOP takes the frame below ASP; a stack without room,
without a frame, or with another tag faults. -/
def Sys2Proof.Spec.ActivationStack : Prop :=
  ∀ s, let sc := s.mySc.replay
    let g := agentOf s.cur sc
    let c := some (CtxIx.core s.cur)
    let pad := fun n => (n + 15) / 16 * 16
    (∀ a b tag, s.performsNow (.apush a b tag) = true → let n := (s.mySc.rx b).toNat
      let top := s.mySc.asp.toNat + pad n + 16
      (s.mySc.asl.toNat < top → Completes (.apush a b tag) s fun t =>
        t.mySc.scause = 0x0D ∧ t.mySc.saddr = s.mySc.asp ∧ t.mySc.sepc = s.mySc.pc ∧ SameMemory s t) ∧
      (top ≤ s.mySc.asl.toNat → ∀ src dst, s.span g .read (s.mySc.rx a) n = .ok src →
        s.span g .write s.mySc.asp (pad n + 16) = .ok dst → Completes (.apush a b tag) s fun t =>
          t = (((issuedAs s fun z => ({ z with asp := BitVec.ofNat 64 top } : Scalar).endInterval).storeSpan c dst
            (s.loadSpan src ++ List.replicate (pad n - n) 0 ++ frameHeader n tag)).fillSpan g (s.mySc.rx a) n).fillSpan g
              s.mySc.asp (pad n + 16))) ∧
    (∀ (o : X3) tag, s.performsNow (.apop o tag) = true → let hdr := s.mySc.asp - 16
      (s.mySc.asp.toNat < s.mySc.asb.toNat + 16 → Completes (.apop o tag) s fun t =>
        t.mySc.scause = 0x0E ∧ t.mySc.saddr = s.mySc.asp ∧ t.mySc.sepc = s.mySc.pc ∧ SameMemory s t) ∧
      (s.mySc.asb.toNat + 16 ≤ s.mySc.asp.toNat → ∀ hl, s.span g .read hdr 16 = .ok hl →
        let h := s.loadSpan hl
        let len := leNat (h.take 4)
        let n := min len (s.mySc.rx o.b).toNat
        let base := hdr - BitVec.ofNat 64 (pad len)
        (frameOk h tag = false → Completes (.apop o tag) s fun t => t.mySc.scause = 0x0F ∧ t.mySc.saddr = hdr ∧ SameMemory s t) ∧
        (frameOk h tag = true → ∀ src dst, s.span g .read base n = .ok src → s.span g .write (s.mySc.rx o.a) n = .ok dst →
          Completes (.apop o tag) s fun t => t = everySc (((((issuedEnd s).storeSpan c dst (s.loadSpan src)).fillSpan g hdr 16).fillSpan g
              base n).fillSpan g (s.mySc.rx o.a) n)
            fun z => { z.wx o.d (BitVec.ofNat 64 len) with asp := base }))) ∧
    (∀ n tag, n < 2 ^ 32 → frameOk (frameHeader n tag) tag = true ∧ leNat ((frameHeader n tag).take 4) = n)

/-- R177 to R181: feeds with their ferry, and the activation stack. When the ferry moves elements is the model's choice (log
entry 32). -/
def Obligations.FeedsAndActivationStack : Prop := FeedInstructions ∧ ActivationStack

/-! ### The matrix unit -/

/-- R230: MATT grants the rows the quad has left in multiples of 16; MATT.B waits for them in arrival order. -/
def Sys2Proof.Spec.BandsAreGranted : Prop :=
  ∀ s, s.me.drained = true → s.me.badRegs = [] → s.choices.lanesHeld = false → let q := CtxIx.quad s.cur
    ∀ o : X2, let req := rowReq (s.mySc.rx o.a)
      let free := min (128 - s.attached q) ((s.quad q).rowCap - s.attached q) / 16 * 16
      let got := if (s.quad q).waiting = [] then min req free else 0
      (s.mySc.band = true → Completes (.matt o) s (fun t => t.mySc.scause = 0x09 ∧ t.mySc.sepc = s.mySc.pc ∧ SameMemory s t) ∧
        Completes (.mattB o) s (fun t => t.mySc.scause = 0x09 ∧ t.mySc.sepc = s.mySc.pc ∧ SameMemory s t)) ∧
      (s.mySc.band = false → Completes (.matt o) s (fun t => SameMemory s t ∧ t.mySc.mgrant = BitVec.ofNat 8 got ∧
          t.mySc.mstate = (if 0 < got then 2 else 0) ∧ (t.mySc.rx o.d = if o.d = 0 then 0 else BitVec.ofNat 64 got) ∧
          (∀ r, r ≠ o.d → t.mySc.rx r = s.mySc.rx r) ∧ t.mySc.pc = s.mySc.pc + 4) ∧
        (req = 0 → Completes (.mattB o) s (fun t => t.mySc.mgrant = 0 ∧ t.mySc.mstate = 0 ∧ (t.quad q).waiting = (s.quad q).waiting)) ∧
        (req ≠ 0 → (s.quad q).waiting = [] → free ≠ 0 → Completes (.mattB o) s (fun t =>
          t.mySc.mgrant = BitVec.ofNat 8 (min req free) ∧ t.mySc.mstate = 2 ∧ (t.quad q).waiting = [])) ∧
        (req ≠ 0 → s.cur ∉ (s.quad q).waiting → (s.quad q).waiting ≠ [] ∨ free = 0 → Completes (.mattB o) s (fun t =>
          (t.quad q).waiting = (s.quad q).waiting ++ [s.cur] ∧ t.me.viq.length = 1 ∧ t.mySc.mgrant = s.mySc.mgrant)))

/-- R231, R233: MDET gives the band back, MTEN and MTDIS switch the tile state; without a band MTEN faults MATRIX_STATE, while MTDIS
without the tile state has no effect. -/
def Sys2Proof.Spec.BandsAndTileStateChange : Prop :=
  ∀ s, s.me.drained = true → s.me.badRegs = [] → s.choices.lanesHeld = false →
      Completes .mdet s (fun t => t = (issued s).setMySc { s.issuedSc id with mgrant := 0, mstate := 0 }) ∧
      (s.mySc.band = true →
        Completes .mten s (fun t => t = (issued s).setMySc { s.issuedSc id with mstate := s.mySc.mstate ||| 1 })) ∧
      (s.mySc.band = false → Completes .mten s (fun t => t.mySc.scause = 0x09 ∧ t.mySc.sepc = s.mySc.pc)) ∧
      (s.mySc.tile = false → Completes .mtdis s (fun t => t = issued s)) ∧
      (s.mySc.tile = true → Completes .mtdis s (fun t => t.mySc = { s.issuedSc id with mstate := s.mySc.mstate &&& 2 } ∧
        t.me.regs.v = s.me.regs.v ∧ SameMemory s t))

/-- R230, R238: the oldest waiting MATT.B of a quad is looked at again; a loaded weight image becomes current, and the MWLD that
loaded it completes. -/
def Sys2Proof.Spec.QuadEvents : Prop :=
  ∀ s : State,
    (∀ p c ws e rest o, (s.quad p).waiting = c :: ws → (s.ctx c).viq = e :: rest → e.instr = .mattB o →
      Completes (.mattBGrant p) s fun t => t = ({ s with cur := c } : State).runHead (perfMattB o)) ∧
    (∀ p im c, (s.quad p).wnext = some (im, c) → Completes (.weightBufferSwitch p) s fun t =>
      (t.quad p).wbuf = im ∧ (t.quad p).wnext = none ∧ SameMemory s t ∧ (∀ k, k ≠ c → t.ctx k = s.ctx k) ∧
        let sc := (s.ctx c).regs.sc
        ∀ e rest a l, (s.ctx c).viq = e :: rest → e.instr = .mwld a l → (t.ctx c).viq = rest ∧
          (t.ctx c).regs = { (s.ctx c).regs with sc := { sc with vstart := if e.task = (s.ctx c).task then 0 else sc.vstart } })

/-- R230 to R233, R238: bands, the tile state, and the two events of a quad's matrix unit. -/
def Obligations.MatrixBands : Prop := BandsAreGranted ∧ BandsAndTileStateChange ∧ QuadEvents

namespace Sys2Proof.Spec

/-- Element (r, j) after a step, and its flags (R108, R239): one addition of the products that are present. -/
def stepCell (s : State) (a : AccIx) (ty : EType) (v : VReg) (B : Nat → Nat → Option (Nat × Option Nat)) (r j : Nat) : Nat × Flags :=
  let old := s.accElem a r j
  let T := (List.range (stepDepth ty)).filterMap fun u => (B u j).map fun b => (s.stepA s.mySc.replay ty v r u, b)
  if T = [] then (old, 0)
  else if ty.isInt then (intStep old (T.map fun p => (intVal ty p.1.1, intVal ty p.2.1)), 0)
  else fpStep old (T.map fun p => (stepVal ty p.1.1 p.1.2, stepVal ty p.2.1 p.2.2))

/-- A step on accumulator `a` (R239): every other register stands; an element where both predicates select, inside the band,
gains its products in one addition, and FFLAGS gains the flags of those elements. -/
def Stepped (s t : State) (a : AccIx) (ty : EType) (v : VReg) (B : Nat → Nat → Option (Nat × Option Nat)) (mr mc : MSel) : Prop :=
  let rows := s.mySc.mgrant.toNat
  OnlyMe s t ∧ t.me.regs.v = s.me.regs.v ∧ t.me.regs.m = s.me.regs.m ∧ (∀ k, k ≠ a → t.acc k = s.acc k) ∧
    (∀ r j, r < 128 → j < 128 → t.accElem a r j =
      if r < rows ∧ s.selects mr r = true ∧ s.selects mc j = true then (stepCell s a ty v B r j).1 else s.accElem a r j) ∧
    t.mySc = { s.issuedSc id with fflags := t.mySc.fflags } ∧
    ∀ k, t.mySc.fflags.getLsbD k = (s.mySc.fflags.getLsbD k || (List.range rows).any fun r => s.selects mr r &&
      (List.range 128).any fun j => s.selects mc j && (stepCell s a ty v B r j).2.getLsbD k)

end Sys2Proof.Spec

/-- R234, R235, R239, R240: MZERO clears an accumulator; a step adds the products of a row of A and a column of B with one
rounding, where both predicates select and B is present, and sets the flags of those additions; MRDS and MWRS move rows and columns;
without the tile state all five fault MATRIX_STATE, and a weight row that is no multiple of the step depth makes MOPA ILLEGAL. -/
def Obligations.MatrixAccumulators : Prop :=
  ∀ s a, let sc := s.mySc.replay
    let rows := s.mySc.mgrant.toNat
    let q := s.quad (CtxIx.quad s.cur)
    let tile := s.mySc.band = true ∧ s.mySc.tile = true
    let traps := fun i (cause : BitVec 8) => Completes i s fun t =>
      t.mySc.scause = cause ∧ t.mySc.sepc = s.mySc.pc ∧ t.me.regs.acc = s.me.regs.acc ∧ t.me.regs.v = s.me.regs.v
    (s.performsNow (.mzero a) = true →
      (tile → Completes (.mzero a) s fun t => (∀ i j, t.accElem a i j = 0) ∧ (∀ k, k ≠ a → t.acc k = s.acc k) ∧ OnlyMe s t ∧
        t.mySc = s.issuedSc id) ∧
      (¬ tile → traps (.mzero a) 0x09)) ∧
    (¬ tile → (∀ v i col, s.performsNow (.mrds a v i col) = true → traps (.mrds a v i col) 0x09) ∧
      (∀ v i col, s.performsNow (.mwrs a v i col) = true → traps (.mwrs a v i col) 0x09) ∧
      (∀ v k mr mc, s.performsNow (.mopa a v k mr mc) = true → traps (.mopa a v k mr mc) 0x09) ∧
      ∀ v b mr mc ty, s.performsNow (.mopav a v b mr mc ty) = true → traps (.mopav a v b mr mc ty) 0x09) ∧
    (∀ v k mr mc, s.performsNow (.mopa a v k mr mc) = true → tile → k.val % stepDepth q.wbuf.ty ≠ 0 →
      traps (.mopa a v k mr mc) 0x01) ∧
    (∀ v i col, s.performsNow (.mrds a v i col) = true → tile → rows ≤ 128 → (col = false → i.val < rows) →
      Completes (.mrds a v i col) s fun t => OnlyMe s t ∧ t.mySc = s.issuedSc id ∧ (∀ r, r ≠ v → t.vreg r = s.vreg r) ∧
        t.me.regs.acc = s.me.regs.acc ∧ ∀ k, k < 256 → elem (t.vreg v) k 32 =
          if col then (if k < rows then s.accElem a k i.val else elem (s.vreg v) k 32)
          else (if k < 128 then s.accElem a i.val k else elem (s.vreg v) k 32)) ∧
    (∀ v i col, s.performsNow (.mwrs a v i col) = true → tile → rows ≤ 128 → (col = false → i.val < rows) →
      Completes (.mwrs a v i col) s fun t => OnlyMe s t ∧ t.mySc = s.issuedSc id ∧ t.me.regs.v = s.me.regs.v ∧
        (∀ k, k ≠ a → t.acc k = s.acc k) ∧ ∀ r j, r < 128 → j < 128 → t.accElem a r j =
          if col then (if j = i.val ∧ r < rows then elem (s.vreg v.r) r 32 else s.accElem a r j)
          else (if r = i.val then elem (s.vreg v.r) j 32 else s.accElem a r j)) ∧
    (∀ v k mr mc, s.performsNow (.mopa a v k mr mc) = true → tile → k.val % stepDepth q.wbuf.ty = 0 →
      Completes (.mopa a v k mr mc) s fun t => Stepped s t a q.wbuf.ty v.r (fun u j => q.wbuf.at? (k.val + u) j) mr mc) ∧
    (∀ v b mr mc ty, s.performsNow (.mopav a v b mr mc ty) = true → tile →
      Completes (.mopav a v b mr mc ty) s fun t => Stepped s t a (matEType ty) v.r (s.stepB sc (matEType ty) b) mr mc)

/-- R111, R237, R241, R243, R244: MSTT and MGST store rows through a shape record, MGACC adds an accumulator to the gradient
buffer and clears the high halves of a BF16 region that it opens, MWLD loads a weight image. That MGACC takes no notice of flags[0] of
its record is the model's choice (log entry 41). -/
def Obligations.MatrixMemory : Prop :=
  ∀ s r, let sc := s.mySc.replay
    let g := { agentOf s.cur sc with tlb := .l2 }
    let qi := CtxIx.quad s.cur
    let tile := s.mySc.band = true ∧ s.mySc.tile = true
    let d0 := recNat r 8 4
    let d1 := recNat r 12 4
    (∀ (o : MsArgs) ty k u0 u f n, s.issueRecord o.a = (k, u0) → k.rcd = some r → s.performsNow (.mstt o) = true → tile → s.mySc.vstart = 0 → s.mySc.vtfHit = none →
      recType r = some ty → ty ∈ [EType.f32, .bf16, .f16, .s32] → 0 < d0 → d0 ≤ 128 → 0 < d1 → d1 ≤ s.mySc.mgrant.toNat →
      recNat r 0x33 1 = 0 → recAccOk r = true →
      (issued u0).storeRows g r (ty.width / 8) ((List.range d0).filter fun j => s.selects o.mc j)
        (fun u i j => if ty == .s32 then (u.accElem o.acc i j, 0) else convertVal ty .f32 (u.accElem o.acc i j) .rne)
        ((List.range d1).filter fun i => s.selects o.mr i) = (u, f, n, none) →
      Completes (.mstt o) s fun t => (∀ l k, t.loadLoc l k = u.loadLoc l k) ∧ t.mySc = (s.issuedSc id).setFlags f ∧
        t.me.regs.v = s.me.regs.v ∧ t.me.regs.acc = s.me.regs.acc ∧ t.counts = s.counts) ∧
    (∀ (o : MsArgs) x k u0, s.issueRecord o.a = (k, u0) → k.rcd = some r → s.performsNow (.mgacc o) = true → tile →
      gradBad r s.mySc.mgrant.toNat = false → (s.quad qi).regionFor r = some x → fwfFrom (0 : BitVec 32) 0 (s.quad qi).grad = true →
      let fresh := x.state = 0 ∧ ∀ y ∈ (s.quad qi).regions, y.base ≠ x.base
      let old := fun i j => let v := (s.quad qi).slot (x.base + i * x.dim0 + j)
        if fresh then v % 2 ^ 16 else v
      let hit := fun i j => s.selects o.mr i && s.selects o.mc j
      let sum := fun i j => gradAdd x.state (s.accElem o.acc i j) (old i j)
      let lost := ((List.range x.dim1).map fun i => ((List.range x.dim0).filter fun j => hit i j && (sum i j).2.2).length).sum
      let cnt := if x.accf = 2 ∧ x.state = 0 then min (2 ^ 32 - 1) (x.count + lost) else x.count
      let up := x.accf = 2 ∧ x.state = 0 ∧ x.thresh ≠ 0 ∧ x.thresh ≤ cnt
      Completes (.mgacc o) s fun t => SameMemory s t ∧ t.me.regs.v = s.me.regs.v ∧ t.me.regs.acc = s.me.regs.acc ∧
        (∀ i j, i < x.dim1 → j < x.dim0 → let v := if hit i j then (sum i j).1 else old i j
          (t.quad qi).slot (x.base + i * x.dim0 + j) = if up then v % 2 ^ 16 * 2 ^ 16 else v) ∧
        (∀ k, k < x.base ∨ x.base + x.dim0 * x.dim1 ≤ k → (t.quad qi).slot k = (s.quad qi).slot k) ∧
        ({ x with count := cnt, state := if up then 1 else x.state } : GradRegion) ∈ (t.quad qi).regions) ∧
    (∀ a ty x k u0 u f n l, s.issueRecord a = (k, u0) → k.rcd = some r → s.performsNow (.mgst a) = true → s.mySc.band = true → s.mySc.vstart = 0 → s.mySc.vtfHit = none →
      gradBad r 128 = false → recType r = some ty → ty = .f32 ∨ ty = .bf16 → recNat r 0x33 1 = 0 →
      (s.quad qi).regions.find? (fun y => y.base == recNat r 0x18 4) = some x → s.gradHeld x.base = false →
      u0.vecLoc g (s.mySc.rx a) 64 1 .write 0 = .ok (.mem l) →
      let st := if x.state = 0 then EType.bf16 else .f32
      (issued u0).storeRows g r (ty.width / 8) (List.range d0)
        (fun _ i j => let v := (s.quad qi).slot (x.base + i * d0 + j) % 2 ^ st.width
          if ty == st then (v, 0) else convertVal ty st v .rne) (List.range d1) = (u, f, n, none) →
      Completes (.mgst a) s fun t => t.mem = (u.mem.putLe (l + 0x32) 1 (x.accf + x.state * 16)).putLe (l + 0x38) 4 x.count ∧
        (t.quad qi).regions = (s.quad qi).regions.filter (fun y => y.base != x.base) ∧ t.mySc = (s.issuedSc id).setFlags f) ∧
    (∀ a layout h root rl im n, s.performsNow (.mwld a layout) = true → s.mySc.band = true → (s.quad qi).wnext = none →
      s.bitmapHeader g (s.mySc.rx a) = .ok h →
      s.span g .read (s.mySc.rx a + 16) 8 = .ok rl → leNat (s.loadSpan rl) = root → imageBad h root = false →
      (∀ n, layout = some n → n.val = h / 2 ^ 16 % 2 ^ 4) → s.loadImage g (s.mySc.rx a) h root (vtSc s.mySc.vt).isSome = .ok (im, n) →
      Completes (.mwld a layout) s fun t => t = ((issued s).fillSpan g (s.mySc.rx a) n).setQuad qi { s.quad qi with wbuf := im })

/-! ### Queues -/

namespace Sys2Proof.Spec

/-- The block at `a` passes its tests for the agent (steps 2 to 5 of R286). -/
def QueueOpen (s : State) (ag : QAgent) (a : Word64) (l : Loc) (q : Qcb) : Prop :=
  s.blockLoc ag.g a = .ok l ∧ s.qcbAt l = q ∧ s.disturbed l = false ∧ q.bad = false ∧ q.broken = false ∧
    (q.multi = true ∨ ∃ d, ag.die = some d ∧ s.homeDie l = some d.val)

/-- The `n` bytes at `p` and the `m` bytes at `q` have none in common. -/
def Apart (p : Loc) (n : Nat) (q : Loc) (m : Nat) : Prop :=
  match p, q with
  | .win c x, .win d y => c = d → x + n ≤ y ∨ y + m ≤ x
  | .win _ _, .mem _ | .win _ _, .uc _ | .mem _, .win _ _ | .uc _, .win _ _ => True
  | .mem x, .mem y | .mem x, .uc y | .uc x, .mem y | .uc x, .uc y => x + n ≤ y ∨ y + m ≤ x

/-- The bytes that an enqueue puts into its element `j`, as its form says (R285); `bl` is the buffer of a `.M` form. -/
def Enqueued (s : State) (es : Nat) (bl : List Loc) (j : Nat) : QForm → List Byte
  | .x v => leBytes es v.toNat
  | .m _ _ => s.loadChunks (min es 8) bl
  | .v ew v => leBytes es (elem v j ew)
  | .raw bs => bs

/-- Slot `j` of the slots `sl` stands `j` slots from `first` upward in the ring, round its end: `sl` gives where its chunks of `ck` bytes are
translated to (R286). -/
def SlotsFrom (s : State) (g : Agent) (kd : Kind) (q : Qcb) (first : Nat) (sl : List (List Loc)) : Prop :=
  let es := 2 ^ q.size
  let ck := min es 64
  ∀ j ls, sl[j]? = some ls → ls.length = es / ck ∧ ∀ (c : Nat) p, ls[c]? = some p →
    s.vecLoc g (BitVec.ofNat 64 (q.base + (first + j) % q.cap * es + c * ck)) ck 1 kd 0 = .ok p

/-- What the step leaves at locations, with the block at `l`, the slots `sl` that it moves elements through and the buffer `bl`: an enqueue
has written its elements into the slots, a dequeue of the `.M` form its element into the buffer, where those bytes lie apart from each
other and from the block; every byte apart from the block and from what is written reads as before (R286). -/
def QueueBytes (s u : State) (r : QReq) (l : Loc) (es : Nat) (sl : List (List Loc)) (bl : List Loc) : Prop :=
  let ck := min es 64
  let cb := min es 8
  (r.enq = true → sl.flatten.Pairwise (fun p q => Apart p ck q ck) → (∀ p ∈ sl.flatten, Apart p ck l 64) →
    (∀ p ∈ sl.flatten, ∀ b ∈ bl, Apart p ck b cb) →
    ∀ j ls, sl[j]? = some ls → u.loadChunks ck ls = Enqueued s es bl j r.form) ∧
  (r.enq = false → sl ≠ [] → bl ≠ [] → bl.Pairwise (fun p q => Apart p cb q cb) → (∀ b ∈ bl, Apart b cb l 64) →
    u.loadChunks cb bl = s.loadChunks ck (sl.headD [])) ∧
  ∀ p, Apart p 1 l 64 → (r.enq = true → ∀ x ∈ sl.flatten, Apart p 1 x ck) →
    (r.enq = false → sl ≠ [] → ∀ b ∈ bl, Apart p 1 b cb) → u.loadLoc p 1 = s.loadLoc p 1

/-- The checks of steps 6 to 8 of R286 pass, with the test of the ring's place (R248): the element size suits the form, the buffer is
aligned, every slot and the buffer translate. -/
def RequestOk (s : State) (ag : QAgent) (q : Qcb) (r : QReq) (sl : List (List Loc)) (bl : List Loc) : Prop :=
  let es := 2 ^ q.size
  r.form.fits es = true ∧
    s.ringSlots ag.g (if r.enq then .write else .read) q (if r.enq then q.tail else q.head) (min r.n q.cap) = .ok sl ∧
    match r.form with
    | .m b g => b.toNat % min es 8 = 0 ∧ s.chunks g (if r.enq then .read else .write) (min es 8) (es / min es 8) b = .ok bl
    | _ => bl = []

/-- What a scalar queue instruction does with the outcome of the step at the home. -/
def QueueRow (i : Instr) (s : State) (ag : QAgent) (a : Word64) (r : QReq) (done : Nat → List (List Byte) → Scalar → Scalar) :
    Prop :=
  (∀ u g els, s.qOp ag a r = .grant u g els → Completes i s fun t =>
    t = (u.setMe { u.me with parked := none }).setMySc ((done g els u.mySc).endInterval).retire) ∧
  (∀ u, s.qOp ag a r = .park u → Completes i s fun t => t = u.setMe { u.me with parked := some i }) ∧
  (∀ u tr, s.qOp ag a r = .fault u tr → Completes i s fun t =>
    t.mySc.scause = tr.cause.code ∧ t.mySc.saddr = tr.addr ∧ t.mySc.sepc = s.mySc.pc ∧ t.mySc.x = s.mySc.x ∧ t.me.parked = none)

end Sys2Proof.Spec

/-- R284, R286, R288: the step at the home. Every test in order, then: more than the queue can ever give is QCB_RANGE; a
blocking request that must wait parks behind those before it; a grant writes the elements of an enqueue into the slots from the tail
upward, or gives those from the head and copies the one of a `.M` form into its buffer, moves the tail or the head, rewrites FREE, WAIT
and CHECK, and leaves every other byte. -/
def Obligations.QueueStepAtTheHome : Prop :=
  ∀ s (ag : QAgent) (a : Word64) (r : QReq),
    (a.toNat % 64 ≠ 0 → s.qOp ag a r = .fault s ⟨.misalign, 0, a⟩) ∧
    (∀ l, s.blockLoc ag.g a = .ok l → s.disturbed l = true ∨ (s.qcbAt l).bad = true →
      ∃ u, s.qOp ag a r = .fault u ⟨.qcbCorrupt, 0, a⟩ ∧ u.disturbed l = false) ∧
    (∀ l, s.blockLoc ag.g a = .ok l → s.disturbed l = false → (s.qcbAt l).bad = false →
      ((s.qcbAt l).broken = true → s.qOp ag a r = .fault s ⟨.qcbBroken, 0, a⟩) ∧
      ((s.qcbAt l).broken = false → (s.qcbAt l).multi = false → (∀ d, ag.die = some d → s.homeDie l ≠ some d.val) →
        s.qOp ag a r = .fault s ⟨.scope, 0, a⟩)) ∧
    (∀ l q sl bl, Canonical s → QueueOpen s ag a l q → RequestOk s ag q r sl bl →
      let avail := if r.enq then q.free else q.count
      let limit := if r.enq then (if q.closed then 0 else q.cap) else if q.closed then q.count else q.cap
      let ahead := s.parkedAhead l.key r.enq r.ctx
      SlotsFrom s ag.g (if r.enq then .write else .read) q (if r.enq then q.tail else q.head) sl ∧
      (r.blk = true → limit < r.n → s.qOp ag a r = .fault s ⟨.qcbRange, 0, a⟩) ∧
      (r.n = 0 → s.qOp ag a r = .grant s 0 []) ∧
      (0 < r.n → r.blk = true → r.n ≤ limit → avail < r.n ∨ ahead = true → ∃ u, s.qOp ag a r = .park u ∧
        (∀ c, r.ctx = some c → (∀ w ∈ s.qwaits, w.ctx ≠ c) → u.qwaits = s.qwaits ++ [⟨l.key, r.enq, c, r.n⟩])) ∧
      (0 < r.n → (r.blk = true → r.n ≤ limit ∧ r.n ≤ avail ∧ ahead = false) →
        let g := if r.blk then r.n else if ahead || (r.enq && q.closed) then 0 else min r.n avail
        ∃ u, s.qOp ag a r = .grant u g (if r.enq then [] else (sl.take g).map fun x => s.loadChunks (min (2 ^ q.size) 64) x) ∧
          (∀ c, r.ctx = some c → ∀ w ∈ u.qwaits, w.ctx ≠ c) ∧ QueueBytes s u r l (2 ^ q.size) (sl.take g) bl ∧
          u.qcbAt l = (({ q with
            tail := if r.enq then (q.tail + g) % 2 ^ 32 else q.tail
            head := if r.enq then q.head else (q.head + g) % 2 ^ 32
            free := if r.enq then q.free - g else q.free + g
            wait := u.waitWord l.key } : Qcb).sealed)))

/-- R156, R285, R289 to R291: the queue instructions. A granted one writes its results and ends a strip interval, one that
must wait parks, one whose step faults traps. QINIT writes a fresh block, QCNT reads a count, QCLOSE closes; these two trap where the
ring lies in the device-register range (R248). -/
def Sys2Proof.Spec.QueueInstructions : Prop :=
  ∀ s, s.me.drained = true → let ag := ctxQAgent s.cur s.scalarAgent
    let die := CtxIx.die s.cur
    (∀ o : QArgs,
      QueueRow (.qenqX o) s ag (s.mySc.rx o.a) ⟨true, 1, o.blk, .x (s.mySc.rx o.b), some s.cur⟩
        (fun g _ sc => sc.wx o.d (BitVec.ofNat 64 g)) ∧
      QueueRow (.qdeqX o) s ag (s.mySc.rx o.a) ⟨false, 1, o.blk, .x 0, some s.cur⟩ (fun g els sc =>
        let sc := if g = 0 then sc else sc.wx o.d (BitVec.ofNat 64 (leNat (els.headD [])))
        if o.blk then sc else sc.wx o.b (BitVec.ofNat 64 g)) ∧
      QueueRow (.qenqM o) s ag (s.mySc.rx o.a) ⟨true, 1, o.blk, .m (s.mySc.rx o.b) s.scalarAgent, some s.cur⟩
        (fun g _ sc => sc.wx o.d (BitVec.ofNat 64 g)) ∧
      QueueRow (.qdeqM o) s ag (s.mySc.rx o.a) ⟨false, 1, o.blk, .m (s.mySc.rx o.b) s.scalarAgent, some s.cur⟩
        (fun g _ sc => sc.wx o.d (BitVec.ofNat 64 g))) ∧
    (∀ a, ((s.mySc.rx a).toNat % 64 ≠ 0 → TrapsWith (.launch a) s 0x05 (s.mySc.rx a)) ∧
      ((s.mySc.rx a).toNat % 64 = 0 → QueueRow (.launch a) s ⟨s.dieAgent die, some die⟩ (s.die die).lqb
        ⟨true, 1, true, .m (s.mySc.rx a) s.scalarAgent, some s.cur⟩ (fun _ _ sc => sc))) ∧
    (∀ enq (o : QvArgs), let i := if enq then Instr.qenqV o else .qdeqV o
      let u0 := issuedEnd s
      let vl := s.mySc.vl
      s.me.badRegs = [] → ∀ u g els, u0.qOp (ctxQAgent s.cur (agentOf s.cur s.mySc.replay)) (s.mySc.rx o.a) ⟨enq, vl, o.blk, .v s.mySc.ew (s.vreg o.v), some s.cur⟩ =
        .grant u g els → Completes i s fun t =>
          (t.mySc.rx o.d = if o.d = 0 then 0 else BitVec.ofNat 64 g) ∧ (t.mySc.vl = if o.blk then vl else g) ∧
          t.mySc.pc = s.mySc.pc + 4 ∧ t.me.parked = none ∧ t.mem = u.mem ∧ t.qwaits = u.qwaits ∧
          (enq = true → t.me.regs.v = s.me.regs.v) ∧ (∀ r, r ≠ o.v → t.vreg r = s.vreg r) ∧
          (enq = false → ∀ k, k < s.mySc.vlm → elem (t.vreg o.v) k s.mySc.ew =
            if k < g then leNat (els.getD k []) % 2 ^ s.mySc.ew else tailOf s.mySc (elem (s.vreg o.v) k s.mySc.ew))) ∧
    (∀ a b c u, s.qinit (s.mySc.rx a) (s.mySc.rx b) = .ok u →
      (Completes (.qinit a b c) s fun t => t = u.setMySc u.mySc.retire) ∧
      ∀ l, Canonical s → s.blockLoc s.scalarAgent (s.mySc.rx a) = .ok l → u.disturbed l = false ∧
        (u.qcbAt l).head = 0 ∧ (u.qcbAt l).tail = 0 ∧ (u.qcbAt l).free = (u.qcbAt l).cap ∧ (u.qcbAt l).closed = false ∧
        (u.qcbAt l).broken = false ∧ (u.qcbAt l).bad = false) ∧
    (∀ a b c tr, s.qinit (s.mySc.rx a) (s.mySc.rx b) = .error tr → tr.elem = 0 → TrapsWith (.qinit a b c) s tr.cause.code tr.addr) ∧
    (∀ (o : X2) c l q, QueueOpen s ag (s.mySc.rx o.a) l q → s.ringTrap s.scalarAgent q = none → Completes (.qcnt o c) s fun t =>
      t = s.setMySc (s.mySc.wx o.d (BitVec.ofNat 64 (q.count + if q.closed then 2 ^ 32 else 0))).retire) ∧
    (∀ a c l q, QueueOpen s ag (s.mySc.rx a) l q → s.ringTrap s.scalarAgent q = none → Completes (.qclose a c) s fun t =>
      t = (if q.closed then s else s.putQcb l { q with flags := q.flags + 1 }).setMySc s.mySc.retire) ∧
    (∀ (o : X2) c l q tr, QueueOpen s ag (s.mySc.rx o.a) l q → s.ringTrap s.scalarAgent q = some tr →
      TrapsWith (.qcnt o c) s 0x07 tr.addr ∧ TrapsWith (.qclose o.a c) s 0x07 tr.addr)

/-- R288: a wake tests the parked operation again; a vector form is the first entry of its queue that has not passed its fault point. -/
def Sys2Proof.Spec.QueueWakes : Prop :=
  ∀ s c, let u : State := { s with cur := c }
    (∀ o, (s.ctx c).parked = some (.qenqX o) → ∀ t, exec (.queueWake c) s = .next t ↔ exec (.qenqX o) u = .next t) ∧
    (∀ o, (s.ctx c).parked = some (.qdeqX o) → ∀ t, exec (.queueWake c) s = .next t ↔ exec (.qdeqX o) u = .next t) ∧
    (∀ o, (s.ctx c).parked = some (.qenqM o) → ∀ t, exec (.queueWake c) s = .next t ↔ exec (.qenqM o) u = .next t) ∧
    (∀ o, (s.ctx c).parked = some (.qdeqM o) → ∀ t, exec (.queueWake c) s = .next t ↔ exec (.qdeqM o) u = .next t) ∧
    (∀ a, (s.ctx c).parked = some (.launch a) → ∀ t, exec (.queueWake c) s = .next t ↔ exec (.launch a) u = .next t) ∧
    (∀ o e rest, (s.ctx c).viq = e :: rest →
      ((s.ctx c).parked = some (.qenqV o) → Completes (.queueWake c) s fun t => t = u.runParked (perfQenqV o) ∧
        (e.passed = none → t = u.runHead (perfQenqV o))) ∧
      ((s.ctx c).parked = some (.qdeqV o) → Completes (.queueWake c) s fun t => t = u.runParked (perfQdeqV o) ∧
        (e.passed = none → t = u.runHead (perfQdeqV o)))) ∧
    (∀ o, (s.ctx c).parked = some (.bwait o) → let v := ({ s.withdrawBwait c with cur := c } : State)
      ∀ t, exec (.bwaitWake c) s = .next t ↔ exec (.bwait o) (v.setMe { v.me with parked := none }) = .next t) ∧
    (∀ a, (s.ctx c).parked = some (.sigwait a) →
      ∀ t, exec (.sigwaitWake c) s = .next t ↔ exec (.sigwait a) (u.setMe { u.me with parked := none }) = .next t) ∧
    ((∃ t, exec (.queueWake c) s = .next t) ∧ (∃ t, exec (.bwaitWake c) s = .next t) ∧ ∃ t, exec (.sigwaitWake c) s = .next t)

/-- R156, R285 to R291: the queue instructions, and the wakes that test a parked operation again. -/
def Obligations.QueueInstructionsAndWakes : Prop := QueueInstructions ∧ QueueWakes

/-! ### Completion objects -/

namespace Sys2Proof.Spec

/-- One addition of `b` bytes to a barrier object (R296). -/
def Added (o : BarObj) (b : Nat) : BarObj :=
  let arr := (o.arrived + b) % 2 ^ 64
  if o.expected ≤ arr then
    { o with phase := (o.phase + 1) % 2 ^ 32, arrived := if o.nocarry then 0 else arr - o.expected }
  else { o with arrived := arr }
/-- `t` is `s` but for memory, scratchpads, lines cleaned in the L1s and the acting context's scalar side, which is `z`. -/
def Object (s t : State) (z : Scalar) : Prop :=
  t = { s with mem := t.mem, dirty := t.dirty, l1 := t.l1, cores := t.cores, ctxs := t.ctxs } ∧ (∀ e ∈ t.l1, e ∈ s.l1) ∧
    t.me = s.me.setSc z ∧ ∀ c, c ≠ s.cur → t.ctx c = s.ctx c

end Sys2Proof.Spec

/-- R295 to R301: barrier and signal objects. BINIT writes a fresh object, BARR adds, BPHASE reads, BWAIT answers how many
phases have passed, parks while none has, and faults WAIT_FUTURE on a phase still to come; SIGDEC subtracts, SIGWAIT goes on
at a value of zero or less. Every location that translates has a key that names it. -/
def Obligations.BarrierAndSignalObjects : Prop :=
  (∀ (s : State) g a n al k i l, s.vecLoc g a n al k i = .ok l → keyLoc l.key = l) ∧
  ∀ s, s.me.drained = true → Canonical s →
    (∀ (o : X3) l, s.objLoc s.scalarAgent (s.mySc.rx o.a) 32 .rw = .ok l → let w := (s.mySc.rx o.d).toNat
      (w % 2 ^ 32 = 0 → w / 2 ^ 36 % 2 ^ 28 = 0 → Completes (.binit o) s fun t => Object s t s.mySc.retire ∧
        t.barAt l = ⟨0, w / 2 ^ 32 % 8, w.testBit 35, 0, (s.mySc.rx o.b).toNat, 0,
          min 0xFFFF (s.bwaits.filter fun x => x.1 == l.key).length⟩) ∧
      (w % 2 ^ 32 ≠ 0 ∨ w / 2 ^ 36 % 2 ^ 28 ≠ 0 → TrapsWith (.binit o) s 0x16 (s.mySc.rx o.a))) ∧
    (∀ a b l, s.objLoc s.scalarAgent (s.mySc.rx a) 32 .rw = .ok l →
      ((s.barAt l).valid = true →
        (Completes (.barr a b) s fun t => Object s t s.mySc.endInterval.retire ∧ t.barAt l = Added (s.barAt l) (s.mySc.rx b).toNat) ∧
        (Completes (.barrRel a b) s fun t => Object s t s.mySc.endInterval.retire ∧ t.barAt l = Added (s.barAt l) (s.mySc.rx b).toNat)) ∧
      ((s.barAt l).valid = false → TrapsWith (.barr a b) s 0x16 (s.mySc.rx a) ∧ TrapsWith (.barrRel a b) s 0x16 (s.mySc.rx a))) ∧
    (∀ (o : X2) l, s.objLoc s.scalarAgent (s.mySc.rx o.a) 32 .read = .ok l → (s.barAt l).valid = true →
      Completes (.bphase o) s fun t => t = s.setMySc (s.mySc.wx o.d (BitVec.ofNat 64 (s.barAt l).phase)).retire) ∧
    (∀ (o : X3) l, s.objLoc s.scalarAgent (s.mySc.rx o.a) 32 .read = .ok l → (s.barAt l).valid = true →
      let k := ((s.barAt l).phase + 2 ^ 32 - (s.mySc.rx o.b).toNat % 2 ^ 32) % 2 ^ 32
      (k = 0 → Completes (.bwait o) s fun t => t.me.parked = some (.bwait o) ∧ t.bwaits = s.bwaits ++ [(l.key, s.cur)] ∧
        t.mySc = s.mySc ∧ (t.barAt l).waiters = min 0xFFFF ((s.bwaits.filter fun x => x.1 == l.key).length + 1)) ∧
      (0 < k → k ≤ 2 ^ 31 → Completes (.bwait o) s fun t => t = s.setMySc (s.mySc.wx o.d (BitVec.ofNat 64 k)).endInterval.retire) ∧
      (2 ^ 31 < k → TrapsWith (.bwait o) s 0x13 (s.mySc.rx o.a))) ∧
    (s.mySc.sup = true → ∀ a b l, s.objLoc s.scalarAgent (s.mySc.rx a) 8 .rw = .ok l → Completes (.sigdec a b) s fun t =>
      Object s t s.mySc.endInterval.retire ∧ t.loadLe l 8 = (s.loadLe l 8 + 2 ^ 64 - (s.mySc.rx b).toNat) % 2 ^ 64) ∧
    (∀ a l, s.objLoc s.scalarAgent (s.mySc.rx a) 8 .read = .ok l → let v := s.loadLe l 8
      (v = 0 ∨ 2 ^ 63 ≤ v → Completes (.sigwait a) s fun t => t = s.setMySc s.mySc.endInterval.retire) ∧
      (0 < v → v < 2 ^ 63 → Completes (.sigwait a) s fun t => t = s.setMe { s.me with parked := some (.sigwait a) })) ∧
    (∀ (n : Nat) x, s.counts[n]? = some x → let l := keyLoc x.obj
      (s.barAt l).valid = true → x.minScope ≤ (s.barAt l).scope → Completes (.byteCountAdd n) s fun t =>
        t.counts = s.counts.eraseIdx n ∧ t.barAt l = Added (s.barAt l) x.bytes ∧ t.ctxs = s.ctxs)

/-- R303: ULIARM replaces the binding of its slot and answers whether one was armed; kind 0 disarms; an unknown kind or a
field the kind does not use is ILLEGAL. An event of an armed binding disarms it and sets its bit of ULIPEND. -/
def Sys2Proof.Spec.UliBindings : Prop :=
  ∀ s, s.me.drained = true →
    (∀ o : X3, let w := (s.mySc.rx o.b).toNat
      let a := s.mySc.rx o.a
      let slot := w % 16
      let kind := w / 16 % 16
      let tok := w / 2 ^ 32
      let clean := w / 2 ^ 8 % 2 ^ 24 = 0 ∧ (kind ≠ 1 → tok = 0) ∧ (kind = 0 → a = 0) ∧ (kind = 5 → a.toNat ≤ 3)
      let had := s.binds.any fun p => p.1 == s.cur && p.2.slot == slot
      let rest := s.binds.filter fun p => !(p.1 == s.cur && p.2.slot == slot)
      let fin := fun bs : List (CtxIx × Binding) =>
        ({ s with binds := bs } : State).setMySc (s.mySc.wx o.d (if had then 1 else 0)).retire
      (5 < kind ∨ ¬ clean → TrapsWith (.uliarm o) s 0x01 s.mySc.pc) ∧
      (kind = 0 → clean → Completes (.uliarm o) s fun t => t = fin rest) ∧
      (0 < kind → kind ≤ 5 → clean → ∀ k, s.uliObj kind a = .ok k → Completes (.uliarm o) s fun t =>
        t = fin (rest ++ [(s.cur, ⟨slot, kind, BitVec.ofNat 32 tok, k⟩)]))) ∧
    (∀ p, s.binds = [p] → s.uliHolds p.1 p.2 = true → s.uliEvents.binds = [] ∧
      (s.uliEvents.sc p.1).ulipend = (s.sc p.1).ulipend ||| BitVec.ofNat 16 (2 ^ p.2.slot))

/-- R151, R303, R305: binding, delivering and returning from user-level interrupts. -/
def Obligations.UserLevelInterrupts : Prop := UliretReturns ∧ UliDeliveryEnters ∧ UliBindings

/-! ### Launches and tasks -/

namespace Sys2Proof.Spec

/-- Bits `l` to `l + n − 1` of a number. -/
def bitsAt (x l n : Nat) : Nat := x / 2 ^ l % 2 ^ n
/-- `t` is `s` but for the contexts `p` selects. -/
def OtherContexts (p : CtxIx → Prop) (s t : State) : Prop := ∀ k, ¬ p k → t.ctx k = s.ctx k
/-- A context has let its task go, and the launch keeps the task among its saved ones, with the context it ran on. -/
def SavedAway (s t : State) (c : CtxIx) : Prop :=
  (t.ctx c).task = none ∧ (t.ctx c).parked = none ∧ (t.ctx c).viq = [] ∧ (t.ctx c).block = none ∧
    ∀ r l, (s.ctx c).task = some r → s.launches[r.launch]? = some l → ∃ m v, t.launches[r.launch]? = some m ∧ v ∈ m.saved ∧
      v.tid = r.tid ∧ v.ctx = c

end Sys2Proof.Spec

/-- R26, R27: a launch record is accepted exactly when every condition on its 64 bytes holds. -/
def Sys2Proof.Spec.LaunchRecordConditions : Prop :=
  ∀ (s : State) (d : DieIx) (x : Nat), x < 2 ^ 512 →
    let tpc := bitsAt x 128 4
    let cpq := bitsAt x 132 3
    let qpd := bitsAt x 135 4
    let dies := bitsAt x 139 3
    let count := bitsAt x 96 32
    let b0 := bitsAt x 192 16
    let b1 := bitsAt x 208 16
    let b2 := bitsAt x 224 16
    (s.rejectReason d (LaunchRec.ofNat x) = none ↔
      bitsAt x 176 8 = 1 ∧ bitsAt x 146 14 = 0 ∧ bitsAt x 184 8 = 0 ∧ bitsAt x 240 16 = 0 ∧ bitsAt x 492 20 = 0 ∧
      (1 ≤ tpc ∧ tpc ≤ 8 ∧ 1 ≤ cpq ∧ cpq ≤ 4 ∧ 1 ≤ qpd ∧ qpd ≤ 12 ∧ 1 ≤ dies ∧ dies ≤ 4) ∧
      1 ≤ count ∧ (bitsAt x 142 1 = 1 → count = tpc * cpq * qpd * dies) ∧
      bitsAt x 0 64 % 64 = 0 ∧ bitsAt x 64 32 % 4 = 0 ∧ bitsAt x 320 64 % 8 = 0 ∧ bitsAt x 384 64 % 32 = 0 ∧
      (b0 % 20 = 0 ∧ tpc ≤ b0 / 20 ∧ b0 / 20 ≤ 8 ∧ b0 ≤ b1 ∧ b1 ≤ b2 ∧ b2 ≤ 1008) ∧
      (s.spaceEntry d (bitsAt x 480 12)).isSome = true)

/-- R34, R36, R41: a dispatch unit takes one record when it may, keeps it with the SATP and STVEC of its address space, ready
at once without a dependence; a record that breaks a condition leaves the launches as they were; a queue that faults stops
the unit. -/
def Sys2Proof.Spec.LaunchRecordsAreTaken : Prop :=
  ∀ (d : DieIx) (s : State),
    let may := (s.die d).lqWritten = true ∧ s.skerry.powered = true ∧ (s.die d).lqStopped = false ∧ s.depn d < 64 ∧
      ∀ c, CtxIx.die c = d → (s.ctx c).down = false
    let out := s.qOp ⟨s.dieAgent d, some d⟩ (s.die d).lqb ⟨false, 1, false, .raw (List.replicate 64 0), none⟩
    (¬ may → Completes (.launchDequeue d) s fun t => t = s) ∧
    (may → (∀ u tr, out = .fault u tr → Completes (.launchDequeue d) s fun t =>
        (t.die d).lqStopped = true ∧ t.launches = u.launches ∧ t.ctxs = u.ctxs) ∧
      (∀ u els, out = .grant u 0 els → Completes (.launchDequeue d) s fun t => t = u) ∧
      (∀ u e, out = .grant u 1 [e] → let r := LaunchRec.ofNat (leNat e)
        (∀ sp, u.rejectReason d r = none → u.spaceEntry d r.space = some sp → Completes (.launchDequeue d) s fun t =>
          ∃ l : Launch, t = { u with launches := u.launches ++ [l], readySeq := u.readySeq + 1 } ∧ l.die = d ∧
            l.image.toNat = r.image ∧ l.entry.toNat = r.entry ∧ l.count = r.count ∧ l.tpc = r.tpc ∧ l.cpq = r.cpq ∧
            l.qpd = r.qpd ∧ l.dies = r.dies ∧ l.gang = r.gang ∧ l.prio = r.prio ∧ l.tag.toNat = r.tag ∧ l.pool0 = r.b0 ∧
            l.pool1 = r.b1 ∧ l.pool2 = r.b2 ∧ l.arg.toNat = r.arg ∧ l.signal.toNat = r.signal ∧ l.dep.toNat = r.dep ∧
            l.token.toNat = r.token ∧ l.satp = sp.1 ∧ l.stvec = sp.2 ∧ l.st = (if r.dep = 0 then .ready else .waiting) ∧
            l.next = 0 ∧ l.ended = [] ∧ l.saved = [] ∧ l.failed = false) ∧
        (∀ n, u.rejectReason d r = some n → Completes (.launchDequeue d) s fun t =>
          t.launches = u.launches ∧ t.ctxs = u.ctxs)))

/-- R36: a record that waits becomes ready when its object's phase has passed its token, and is rejected on a phase still to
come or an object that cannot be read. -/
def Sys2Proof.Spec.DependencesResolve : Prop :=
  ∀ d (i : Nat) (s : State) (l : Launch), s.launches[i]? = some l → l.die = d → l.st = .waiting →
    let rejected := fun t : State => t.launches = s.launches.set i { l with st := .rejected } ∧ t.ctxs = s.ctxs
    (∀ loc, s.objLoc l.agent l.dep 32 .read = .ok loc → (s.barAt loc).valid = true →
      let k := ((s.barAt loc).phase + 2 ^ 32 - l.token.toNat) % 2 ^ 32
      (k = 0 → Completes (.dependenceReady d i) s fun t => t = s) ∧
      (0 < k → k ≤ 2 ^ 31 → Completes (.dependenceReady d i) s fun t => t = { s with
        launches := s.launches.set i { l with st := .ready, readyAt := s.readySeq }, readySeq := s.readySeq + 1 }) ∧
      (2 ^ 31 < k → Completes (.dependenceReady d i) s rejected)) ∧
    (∀ loc, s.objLoc l.agent l.dep 32 .read = .ok loc → (s.barAt loc).valid = false → Completes (.dependenceReady d i) s rejected) ∧
    (∀ tr, s.objLoc l.agent l.dep 32 .read = .error tr → Completes (.dependenceReady d i) s rejected)

/-- R26, R27, R34, R36, R41: which launch records are accepted, what is kept of one, and how a dependence resolves. -/
def Obligations.LaunchRecords : Prop := LaunchRecordConditions ∧ LaunchRecordsAreTaken ∧ DependencesResolve

/-- R28 to R32: the head of its class starts its next task on a context that fits, with the registers of Table 2-3 and the
launch's split; a gang starts whole or not at all. -/
def Obligations.TasksStart : Prop :=
  ∀ d (i : Nat) (s : State) (l : Launch), s.launches[i]? = some l → l.die = d → (s.die d).lqWritten = true → l.placing = true →
    s.headOfClass i l = true →
    (∀ c, l.gang = false → s.heldBack l false [c] = false → (l.remote [c] = true → s.hasRight d = true) →
      s.placeOk i l l.next c = true →
      Completes (.taskStart d i [c]) s fun t =>
        let z := t.sc c
        let k := t.core (CtxIx.core c)
        (t.ctx c).task = some ⟨i, l.next⟩ ∧ (t.ctx c).parked = none ∧ (t.ctx c).block = none ∧ (t.ctx c).viq = (s.ctx c).viq ∧
        z.pc = l.image + l.entry.setWidth 64 ∧ z.sup = false ∧ z.rx 3 = l.arg ∧ (∀ r, r ≠ 3 → z.rx r = 0) ∧
        z.vl = 0 ∧ z.vt = 0x7E5 ∧ z.vstart = 0 ∧ z.theta = 0 ∧ z.wlim = 4096 ∧ z.fflags = 0 ∧ z.frm = 0 ∧ z.vsq = [] ∧
        z.fiboff = 0 ∧ z.sstr = 0 ∧ z.pwaddr = 0 ∧ z.ulien = false ∧ z.ulipend = 0 ∧ z.rvec = 0 ∧ z.mgrant = 0 ∧ z.mstate = 0 ∧
        z.satp = l.satp ∧ z.stvec = l.stvec ∧ z.sstatus = 2 ∧ z.sepc = 0 ∧ z.scause = 0 ∧ z.saddr = 0 ∧ z.selem = 0 ∧
        (∀ n : Fin 4, z.vtf[n.val] = 0) ∧
        z.tid.toNat = l.next % 2 ^ 32 ∧ z.tcore.toNat = l.next / l.tpc % l.cpq % 2 ^ 32 ∧
        z.tquad.toNat = l.next / (l.tpc * l.cpq) % l.qpd % 2 ^ 32 ∧
        z.tdie.toNat = l.next / (l.tpc * l.cpq * l.qpd) % l.dies % 2 ^ 32 ∧
        (∀ f : FeedIx, (t.ctx c).regs.feeds[f.val] = FeedSlot.idle) ∧
        k.pool0 = l.pool0 ∧ k.pool1 = l.pool1 ∧ k.pool2 = l.pool2 ∧
        (∃ m, t.launches = s.launches.set i m ∧ m.next = l.next + 1 ∧ m.st = .running) ∧
        OtherContexts (· = c) s t ∧ t.mem = s.mem) ∧
    (∀ cs, l.gang = true → cs.length = l.count → cs ≠ [] → s.heldBack l false cs = false →
      (l.remote cs = true → s.hasRight d = true) →
      ((s.startNext i cs).2 = true → Completes (.taskStart d i cs) s fun t =>
        ∀ (j : Nat) k, cs[j]? = some k → (t.ctx k).task = some ⟨i, l.next + j⟩) ∧
      ((s.startNext i cs).2 = false → Completes (.taskStart d i cs) s fun t => t = s))

/-- R49, R155, R38: TEXIT ends the task of its context once its older entries have passed their fault points; the task lets go of its
band, its feeds and its bindings, and what is left of its entries drains, on the registers as the task leaves them. A launch whose every task has ended and has nothing left
to drain decrements its signal object. -/
def Obligations.TasksEnd : Prop :=
  (∀ (s : State) tr, s.me.settled = true → s.me.task = some tr → Completes .texit s fun t =>
    t.me.task = none ∧ t.me.viq = (s.me.viq.map fun e =>
      { e with past := e.past <|> some ⟨{ s.me.regs with feeds := t.me.regs.feeds }, s.me.badRegs⟩ }) ∧ t.me.parked = none ∧ t.mySc = { s.mySc with mgrant := 0, mstate := 0 } ∧ t.me.block = none ∧
    (∀ f : FeedIx, t.me.regs.feeds[f.val] = FeedSlot.idle) ∧ (∀ b ∈ t.binds, b.1 ≠ s.cur) ∧
    t.launches = s.launches.modify tr.launch (fun l => { l with ended := tr.tid :: l.ended }) ∧
    OtherContexts (· = s.cur) s t ∧
    ((∀ f : FeedIx, s.me.regs.feeds[f.val] = FeedSlot.idle) → t.mem = s.mem)) ∧
  (∀ (i : Nat) (s : State) (l : Launch), s.launches[i]? = some l →
    let done := { s with launches := s.launches.set i { l with st := .done } }
    let ended := l.st = .running ∧ l.count ≤ l.next ∧ l.count ≤ l.ended.length ∧
      ∀ c, ∀ e ∈ (s.ctx c).viq, ∀ u, e.task = some u → u.launch ≠ i
    (¬ ended → Completes (.launchComplete i) s fun t => t = s) ∧
    (ended → l.failed = true ∨ l.signal = 0 → Completes (.launchComplete i) s fun t => t = done) ∧
    (ended → l.failed = false → l.signal ≠ 0 → Canonical s → ∀ a, s.objLoc l.agent l.signal 8 .write = .ok a →
      s.loadErr a 8 = false → Completes (.launchComplete i) s fun t =>
        t.launches = done.launches ∧ t.ctxs = s.ctxs ∧ t.loadLe a 8 = (s.loadLe a 8 + 2 ^ 64 - 1) % 2 ^ 64))

/-- No entry of these contexts has passed its fault point and not completed. -/
def Sys2Proof.Spec.NonePassed (s : State) (cs : List CtxIx) : Prop :=
  ∀ k ∈ cs, (∀ e ∈ (s.ctx k).viq, e.passed = none) ∧ ∀ q w, (s.quad q).wnext = some w → w.2 ≠ k

/-- R40, R53, R54, R324, R325: a time slice runs out DSLICE cycles after the task started; a context that R40 chooses, or that has been
asked to stop, is pre-empted with its gang when each of them has a free slot and runs at user level, and is asked to stop while one
runs at S level; its entries that have passed their fault points complete first, and where that ends in a trap the stop is asked for.
Its task is then saved with its launch, and resumes on the core it ran on, with fewer than TPC tasks of its launch there (R29), at user
level, with PSTAT zero, unless a launch of a higher class needs the context (R35). Which contexts R40 chooses for saved tasks is the
model's choice (log entry 17); which die's DSLICE counts is the model's choice (log entry 39); that a gang is asked as a whole is read from R324 (log entry 36). -/
def Sys2Proof.Spec.TasksYieldAndResume : Prop :=
  (∀ c (s : State), (s.ctx c).task.isSome = true → let ran := (s.core (CtxIx.core c)).cycle.toNat - (s.ctx c).startedAt
    let slice := max 1 (s.die (CtxIx.die c)).dslice.toNat
    (slice ≤ ran → Completes (.timeSliceExpiry c) s fun t => t = s.setCtx c { s.ctx c with sliceOut := true }) ∧
    (ran < slice → Completes (.timeSliceExpiry c) s fun t => t = s)) ∧
  (∀ c (s : State), (s.ctx c).task.isSome = true → let cs := s.gangOf c
    let asked := (s.ctx c).stopReq = .preempt ∨ (s.preemptFor c).isSome = true
    (¬ asked ∨ s.slotsFor cs = false → Completes (.preempt c) s fun t => t = s) ∧
    (asked → s.slotsFor cs = true → s.userLevel cs = false → Completes (.preempt c) s fun t => t = s.askStop cs .preempt) ∧
    (asked → s.slotsFor cs = true → s.userLevel cs = true → let u := cs.foldl State.completePassed s
      (u.userLevel cs = false → Completes (.preempt c) s fun t => t = u.askStop cs .preempt) ∧
      (u.userLevel cs = true → Completes (.preempt c) s fun t =>
        t = { u.saveAll cs with launches := t.launches } ∧
          (NonePassed s cs → (∀ k ∈ cs, SavedAway s t k) ∧ OtherContexts (· ∈ cs) s t)))) ∧
  (∀ (i : Nat) c (s : State) (l : Launch) (v : Saved), s.launches[i]? = some l → l.gang = false →
    l.saved.find? (fun v => s.resumeOk i l v c) = some v → s.heldBack l true [c] = false → (l.remote [c] = true → s.hasRight l.die = true) →
    s.lostRange ((s.die (CtxIx.die c)).slotBase v.slot) 0x58000 = false →
    Completes (.taskResume i [c]) s fun t => (t.ctx c).task = some ⟨i, v.tid⟩ ∧ (t.sc c).sup = false ∧ (t.sc c).pstat = 0 ∧
      (t.ctx c).parked = none ∧ (t.ctx c).bars = v.bars ∧ (t.ctx c).order = v.order ∧ (t.ctx c).holds = v.holds ∧
      OtherContexts (· = c) s t ∧ t.mem = s.mem ∧
      v.slot ∉ (t.die (CoreIx.die v.core)).slots)

/-- R74, R79, R325: the scalar side, the vector, mask and weight registers and the feed slots read back from the bytes of the layout
are those saved, at user level; strips of an input feed in flight are fetched again. VSQ values past the sixteenth, and what an
output feed has yet to write, are kept beside the layout, as are BAR episodes and ULI bindings; where the VSQ and the feed slots
stand inside their fields is the model's choice (log entry 16). x0 is not stored; accumulator rows of the band stand above the
layout. -/
def Obligations.SavedLayoutIsWhole : Prop :=
  ∀ (r : Regs) (sh : BitVec 114688), r.sc.vl < 2 ^ 64 →
    let f := fun off n => leNat (((r.bytes sh).drop off).take n)
    (r.bytes sh).length = 0x14000 ∧
    (∀ k : FeedIx, let x := r.feeds[k.val]
      x.w < 256 → x.stride < 256 → x.len < 2 ^ 64 → x.pos < 2 ^ 64 → x.ferry < 2 ^ 64 →
      FeedSlot.ofBytes f (0x13500 + 64 * k.val) x = if x.out then x
        else { x with st := if x.st = .ended then .open else x.st, ferry := x.pos, buf := [], fault := none }) ∧
    Scalar.ofBytes f (r.sc.vsq.drop 16) = { r.sc with sup := false, ivl := 0, x := r.sc.x.set 0 0 } ∧
    (∀ k : Fin 48, f (1024 * k.val) 1024 = r.v[k.val].toNat) ∧ (∀ k : Fin 12, f (0xC000 + 512 * k.val) 512 = r.m[k.val].toNat) ∧
    (∀ k : Fin 8, f (0xD800 + 1024 * k.val) 1024 = r.w[k.val].toNat)

/-- R157, R324: TSTOP on a context that does not exist or on itself is ILLEGAL; on an empty context it answers 0, without free
slots 2; at user level the target is stopped as planned and its record says so, after its entries that have passed their fault points
have completed; a target at S level is asked to stop, with its gang, and the TSTOP waits; as it completes, what it has asked of other
contexts is over. That a whole gang waits while one member is at S level is read from R324 (log entry 36). -/
def Sys2Proof.Spec.TstopStopsAContext : Prop :=
  ∀ (o : X2) (s : State), s.me.drained = true → s.mySc.sup = true → let xa := (s.mySc.rx o.a).toNat
    (2048 ≤ xa ∨ 192 ≤ xa % 256 ∨ xa % 256 * 8 + xa / 256 % 8 = s.cur.val → TrapsWith (.tstop o) s 0x01 s.mySc.pc) ∧
    (∀ c : CtxIx, xa < 2048 → c.val = xa % 256 * 8 + xa / 256 % 8 → c ≠ s.cur →
      ((s.ctx c).task = none → Completes (.tstop o) s fun t => t = (s.unaskStop s.cur).setMySc (s.mySc.wx o.d 0).retire) ∧
      (∀ r, (s.ctx c).task = some r → let cs := s.gangOf c
        (s.slotsFor cs = false → Completes (.tstop o) s fun t => t = (s.unaskStop s.cur).setMySc (s.mySc.wx o.d 2).retire) ∧
        (s.slotsFor cs = true → s.userLevel cs = false → Completes (.tstop o) s fun t => t = s.askStop cs (.tstop s.cur)) ∧
        (s.slotsFor cs = true → s.userLevel cs = true → let u := { cs.foldl State.completePassed s with cur := s.cur }
          (u.userLevel cs = false → Completes (.tstop o) s fun t => t = u.askStop cs (.tstop s.cur)) ∧
          (u.userLevel cs = true → Completes (.tstop o) s fun t => let v := { (u.unaskStop s.cur).plannedStop cs with cur := s.cur }
            t = v.setMySc (v.mySc.wx o.d 1).retire)) ∧
        (s.slotsFor cs = true → s.userLevel cs = true → NonePassed s cs → Completes (.tstop o) s fun t =>
          t.mySc = (s.mySc.wx o.d 1).retire ∧ t.cur = s.cur ∧
          OtherContexts (fun k => k ∈ cs ∨ k = s.cur) (s.unaskStop s.cur) t ∧
          ∀ k ∈ cs, SavedAway s t k ∧ ∃ h ∈ [(t.ctx k).holmA, (t.ctx k).holmB], h.state = 3 ∧ h.task = (s.ctx k).task)))

/-- R40, R53, R54, R157, R324, R325: time slices, pre-emption, TSTOP and resumption. -/
def Obligations.TasksStopAndResume : Prop := TasksYieldAndResume ∧ TstopStopsAContext

/-- R276, R277, R306, R307: PFENCE.CORE persists the stores of its context and of its task, writes the scratchpad image, and records the state after
the fence in the slot that does not hold the latest valid record; nothing else of the context changes. What the CRC of an image
record covers is read from R306 (log entry 11). -/
def Obligations.PersistPointRecordsTheContext : Prop :=
  ∀ (s : State), s.me.drained = true → Completes .pfenceCore s fun t =>
    let sq := fun h : HolmSlot => if (h.state = 2 ∨ h.state = 3) ∧ h.crc = h.sum then h.seq else 0
    let a := sq s.me.holmA
    let b := sq s.me.holmB
    let h := if a ≤ b then t.me.holmA else t.me.holmB
    let k := s.myCore
    let i := t.myCore.image
    SameMemory s t ∧ (∀ c, c ≠ s.cur → t.ctx c = s.ctx c) ∧ t.mySc = { s.mySc with
      pc := s.mySc.pc + 4, instret := s.mySc.instret + 1, ivl := t.mySc.ivl } ∧
    t.me.regs = { s.me.regs with sc := t.mySc } ∧
    h.seq = max a b + 1 ∧ h.state = 2 ∧ h.pc = s.mySc.pc + 4 ∧ h.len = 81920 ∧ h.pseq = i.seq % 2 ^ 32 ∧
    h.crc = crc32c (leBytes 8 h.seq ++ leBytes 8 h.pc.toNat ++ leBytes 4 h.len ++ leBytes 4 h.pseq ++ t.me.regs.bytes h.shadow) ∧
    h.snap = some t.me.regs ∧ h.task = s.me.task ∧ h.cycle = k.cycle ∧
    (if a ≤ b then t.me.holmB = s.me.holmB else t.me.holmA = s.me.holmA) ∧
    i.seq = max k.imageA.seq k.imageB.seq + 1 ∧ i.len = k.pspb ∧ i.state = 2 ∧ i.bytes = k.scratchAt 0 k.pspb ∧
    i.crc = crc32c (leBytes 8 i.seq ++ leBytes 4 i.len ++ leBytes 12 0 ++ i.bytes) ∧
    t.myCore.pspbForce = k.pspb ∧ t.myCore.cycleSaved = k.cycle ∧ ∀ e ∈ t.holmOwn, e.by s.cur s.me.task = false

/-- R42, R45, R49, R50: the lanes take the oldest entry of a context; where that has not passed its fault point, not while the context is
parked in it or a block is in flight; a parked XPOP holds none. An entry that completes, traps or waits does so as R44, R47 and R316
state, and one that waits stays the oldest. An entry of a task that has ended leaves the scalar side as it is. An entry that marks the
end of a strip interval leaves the queue, and VSTART becomes 0 as it does with every entry that completes (R44, R84). -/
def Sys2Proof.Spec.LanesTakeTheOldestEntry : Prop :=
  ∀ c (s : State), let u : State := { s with cur := c }
    ((s.ctx c).viq = [] ∨ ((∀ e rest, (s.ctx c).viq = e :: rest → e.passed = none) ∧
        ((s.ctx c).entryParked = true ∨ (s.ctx c).block.isSome = true)) →
      Completes (.viqEntryStart c) s fun t => t = u) ∧
    ((s.ctx c).parked = none ∨ (∃ d, (s.ctx c).parked = some (.xpop d)) ∨ (s.ctx c).parked = some .waite →
      (s.ctx c).entryParked = false) ∧
    (∀ e rest, (s.ctx c).viq = e :: rest → e.passed ≠ none ∨ ((s.ctx c).entryParked = false ∧ (s.ctx c).block = none) →
      (∀ p, e.task = (s.ctx c).task → perfOf e.instr = some p → Completes (.viqEntryStart c) s fun t =>
        match (u.setMe { u.me with viq := rest }).performSound e p with
        | .done v => t = v.completed e
        | .trap v x f blk => t = (v.entryTrap e x f blk).recordStarted (u.startedOn e rest)
        | .wait v => t = v.setMe { v.me with viq := v.waiting e :: v.me.viq }) ∧
      (e.task ≠ (s.ctx c).task → Completes (.viqEntryStart c) s fun t =>
        t.sc c = s.sc c ∧ (t.ctx c).task = (s.ctx c).task ∧ ((t.ctx c).viq = e :: rest ∨ ∃ r : Past, (t.ctx c).viq =
          rest.map fun o => if o.task = e.task ∧ o.past.isSome = true then { o with past := some r } else o)) ∧
      (∀ o tv, e.task = (s.ctx c).task → e.instr = .vsetl o tv → Completes (.viqEntryStart c) s fun t =>
        let v := u.setMe { u.me with viq := rest }
        t = v.setMySc { v.mySc with vstart := 0 }))

/-! ### Narrows -/

/-- R182 to R184, R334: NSEND checks its operands and hands the transfer to its port, whose quantiser reads the source while the
egress buffer has room; a count of 0 completes at once; a count above 2^24 is ILLEGAL; an operand that faults traps and sends
nothing. -/
def Sys2Proof.Spec.NsendStartsATransfer : Prop :=
  (∀ (o : NsendArgs) (s : State), s.performsNow (.nsend o) = true →
    let u := issued s
    let e := s.entryFor (.nsend o) Captured.none
    (2 ^ 24 < (s.mySc.rx o.b).toNat → u.nsendPlan e o = .error ⟨.illegal, 0, s.mySc.pc⟩) ∧
    (∀ tr, u.nsendPlan e o = .error tr → Completes (.nsend o) s fun t => t.nsends = s.nsends ∧ t.jobs = s.jobs ∧ SameMemory s t ∧
      t.mySc.scause = tr.cause.code ∧ t.mySc.saddr = tr.addr ∧ t.mySc.sepc = s.mySc.pc ∧ t.mySc.sup = true) ∧
    (∀ p, u.nsendPlan e o = .ok p → p.win = none → let u := u.nsendFill (agentOf s.cur e.chk) o e.chk p.n 0
      (p.compl = .none → Completes (.nsend o) s fun t => t = u) ∧
      (∀ k, p.compl = .barrier k → Completes (.nsend o) s fun t =>
        t = { u with counts := s.counts ++ [⟨k, 0, 0, CtxIx.die s.cur, s.tagOf s.me.task, s.me.task, some s.cur⟩] }) ∧
      (∀ k, p.compl = .signal k → Canonical s → Completes (.nsend o) s fun t =>
        t.me = u.me ∧ t.loadLe (keyLoc k) 8 = (s.loadLe (keyLoc k) 8 + 2 ^ 64 - 1) % 2 ^ 64)) ∧
    (∀ p port w r, u.nsendPlan e o = .ok p → p.win = some (port, w, r) → (∀ j ∈ s.jobs, j.port ≠ port) →
      Completes (.nsend o) s fun t =>
      t.me = u.me ∧ (∀ c, c ≠ s.cur → t.ctx c = s.ctx c) ∧ t.nextId = s.nextId + 1 ∧ (o.ef = false → SameMemory s t) ∧
      (∀ q, q ≠ port → t.port q = s.port q) ∧
      ∃ x : Nsend, t.nsends = s.nsends ++ [x] ∧ x.id = s.nextId ∧ x.port = port ∧ x.vrred = false ∧
        x.kind = (if w.reduce then .reduceAdd else .write) ∧ x.quant = o.q ∧ x.remote = r ∧ x.count = p.n ∧
        x.compl = p.compl ∧ x.bytes = p.n * (if o.srcBf16 then 2 else 4) ∧ x.die = CtxIx.die s.cur ∧ x.task = s.me.task ∧
        x.ctx = some s.cur)) ∧
  (∀ (p : PortIx) (s : State), (s.port p).fits 1 = false →
    s.pump p = { s with jobs := (s.jobs.filter fun j => j.port != p) ++ s.jobs.filter fun j => j.port == p })

/-- R184, R332, R333: a transfer that is wholly sent and acknowledged, with none before it on its channel, completes and takes
effect on its completion object once; one that fails leaves a signal object at −2^63, adds no bytes, and uses up a number of the
fault path. -/
def Sys2Proof.Spec.TransfersCompleteOrFail : Prop :=
  ∀ (id : Nat) (s : State) (x : Nsend), s.nsends.find? (fun y => y.id == id) = some x → Canonical s →
    let rest := s.nsends.filter fun y => y.id != id
    let ready := s.sent x = true ∧ s.sendsBefore x = false
    (¬ ready → Completes (.nsendComplete id) s fun t => t = s) ∧
    (ready → x.ntf = none → x.compl = .none → Completes (.nsendComplete id) s fun t => t = { s with nsends := rest }) ∧
    (∀ k, ready → x.ntf = none → x.compl = .barrier k → Completes (.nsendComplete id) s fun t =>
      t = { s with nsends := rest, counts := s.counts ++ [⟨k, x.bytes, 0, x.die, x.tag, x.task, x.ctx⟩] }) ∧
    (∀ k, ready → x.ntf = none → x.compl = .signal k → Completes (.nsendComplete id) s fun t => t.nsends = rest ∧ t.ctxs = s.ctxs ∧
      t.loadLe (keyLoc k) 8 = (s.loadLe (keyLoc k) 8 + 2 ^ 64 - 1) % 2 ^ 64) ∧
    (∀ k n, ready → x.ntf = some (k, n) → x.compl = .none → Completes (.nsendComplete id) s fun t => t.nsends = rest ∧
      t.loadLe (keyLoc k) 8 = n % 2 ^ 64) ∧
    (s.nsends.find? (fun y => y.id == id && y.port == x.port) = some x → Completes (.failureCompletion x.port id) s fun t =>
      t.nsends = rest ∧ t.counts = s.counts ∧ t.ctxs = s.ctxs ∧ (t.die x.die).seq = (s.die x.die).seq + 1 ∧
      ((s.die x.die).dfqb = 0 → ∀ k, x.compl = .signal k → t.loadLe (keyLoc k) 8 = 2 ^ 63))

/-- R182 to R184, R332: NSEND and the end of its transfer. -/
def Obligations.NarrowsSends : Prop := NsendStartsATransfer ∧ TransfersCompleteOrFail

/-- R176, R333: a contribution that may be applied adds each element at its destination and leaves the list; an ordered one moves
next rank on; one that may not waits: an ordered one for its rank, and one that arrived from a peer for every earlier one of its
link. Integer additions wrap in the destination type. -/
def Sys2Proof.Spec.ContributionsApply : Prop :=
  (∀ (n : Nat) (s : State) (c : Contrib), s.contribs[n]? = some c → Canonical s →
    (s.contribReady n = false → Completes (.vrredApply n) s fun t => t = s) ∧
    (s.contribReady n = true → (c.ord = true → let h := s.areaHeader c.hdr
        h.2.2 = 0 ∨ h.2.1 = c.tid % h.2.2) ∧
      ∀ (m : Nat) d p q, m < n → s.contribs[m]? = some d → c.peer = some p → d.peer = some q → p.1 ≠ q.1) ∧
    (s.contribReady n = true → (s.areaHeader c.hdr).1 = 0 → c.ntf = none → c.inBo = none →
      (∀ d, c.ord = false → c.dests = [d] → Completes (.vrredApply n) s fun t =>
        t.contribs = s.contribs.eraseIdx n ∧ t.counts = s.counts ∧ t.ctxs = s.ctxs ∧
        Wrote s t (keyLoc d.1) (leBytes (rredBytes c.ty)
          (rredAdd c.ty (s.loadLe (keyLoc d.1) (rredBytes c.ty)) d.2.1 d.2.2.1 d.2.2.2))) ∧
      (c.ord = true → c.dests = [] → c.hdr % 16 = 0 → (s.areaHeader c.hdr).2.2 ≠ 0 → Completes (.vrredApply n) s fun t =>
        t.contribs = s.contribs.eraseIdx n ∧
        t.areaHeader c.hdr = (0, ((s.areaHeader c.hdr).2.1 + 1) % (s.areaHeader c.hdr).2.2, (s.areaHeader c.hdr).2.2)))) ∧
  (∀ old x, old < 2 ^ 32 → x < 2 ^ 32 → rredAdd .s32 old .s32 x none = (old + x) % 2 ^ 32) ∧
  (∀ old x, old < 2 ^ 64 → x < 2 ^ 64 → rredAdd .s64 old .s64 x none = (old + x) % 2 ^ 64)

/-- R332, R333: a received write inside an enabled inbound entry stores its bytes and owes them to the entry's barrier object;
a transfer that no entry holds, or that fails a check, is dropped; a transfer is answered on VC2, a contribution only when its unit
applies it. A reduce-add comes after the contributions that arrived before it on any link and whose turn by rank has come: none of them
is left (R333). -/
def Sys2Proof.Spec.TransfersAreReceived : Prop :=
  ∀ (p : PortIx) (x : Transfer) (s : State), Canonical s →
    (∀ e l, x.kind = .write → x.quant = .raw → (s.port p).inbound x.remote.toNat x.data.length = some e → e.bo = 0 →
      s.span (s.portAgent p) .write x.remote x.data.length = .ok [(l, x.data.length)] →
      Completes (.transferReceive p x) s fun t => Wrote s t l x.data ∧ t.counts = s.counts ∧ t.ctxs = s.ctxs) ∧
    (∀ e l b, x.kind = .write → x.quant = .raw → (s.port p).inbound x.remote.toNat x.data.length = some e → e.bo ≠ 0 →
      s.countLoc (s.portAgent p) e.bo = .ok b →
      s.span (s.portAgent p) .write x.remote x.data.length = .ok [(l, x.data.length)] →
      Completes (.transferReceive p x) s fun t => Wrote s t l x.data ∧
        t.counts = s.counts ++ [⟨b.key, x.data.length, 3, s.portDie p, 0, none, none⟩]) ∧
    let v := s.inOrder x
    ((s.port p).inbound x.remote.toNat (transferBytes x) = none → v.receive p x = none) ∧
    (x.kind ≠ .reduceAdd → v = s) ∧
    (x.kind = .reduceAdd → ∀ (n : Nat) c, v.contribs[n]? = some c → c.peer.isSome = true → v.eligible n = false) ∧
    (∀ u, v.receive p x = some u → Completes (.transferReceive p x) s fun t =>
      t = if x.kind = .vrred ∨ x.kind = .vrredOrd then u else u.answer p true x.id) ∧
    (v.receive p x = none → Completes (.transferReceive p x) s fun t => t.contribs = v.contribs ∧ t.counts = v.counts ∧
      t.ctxs = v.ctxs ∧ (t.die (v.portDie p)).seq = (v.die (v.portDie p)).seq + 1 ∧
      ((v.die (v.portDie p)).dfqb = 0 → t.mem = v.mem))

/-- R176, R332, R333: contributions to reduction areas and transfers that arrive. -/
def Obligations.NarrowsReceives : Prop := ContributionsApply ∧ TransfersAreReceived

/-- The flit as this end puts it on the link: its number and channel, whether this end asks for a replay, the last flit received in
order, and the CRC over the payload and these 64 bits (R328, Table 23-1). -/
def Sys2Proof.Spec.wireWord (x : Port) (f : Flit) : WireFlit :=
  let w := f.seq % 2 ^ 24 + f.vc % 4 * 2 ^ 24 + x.nakOut.toNat * 2 ^ 26 + (x.expect + 2 ^ 24 - 1) % 2 ^ 24 * 2 ^ 32
  ⟨BitVec.ofNat 128 (w + (crc32c (f.payload ++ leBytes 8 w)).toNat * 2 ^ 64), f.payload⟩

/-- R328, R329: a flit with a wrong CRC sets NAK; that the first flit on a link has the number 1, so that ACK is 0 before any has
arrived, is read from R328 (log entry 42); one with the expected number is received; an older one changes nothing but
what it acknowledges, and one ahead sets NAK. -/
def Sys2Proof.Spec.FlitsAreReceivedInOrder : Prop :=
  (∀ (p : PortIx) (f : RxFlit) (s : State), let x := s.port p
    let word := f.seq % 2 ^ 24 + f.vc % 4 * 2 ^ 24 + f.nak.toNat * 2 ^ 26 + f.ack % 2 ^ 24 * 2 ^ 32
    let y := x.ack (f.ack % 2 ^ 24)
    let behind := (y.expect + 2 ^ 24 - f.seq % 2 ^ 24) % 2 ^ 24
    let z := if behind = 0 then { y with
        expect := (f.seq + 1) % 2 ^ 24, nakOut := false, received := y.received ++ [⟨f.seq % 2 ^ 24, f.vc % 4, f.payload, 0⟩] }
      else if behind < 2 ^ 23 then y else { y with nakOut := true }
    (crc32c (f.payload ++ leBytes 8 word) ≠ f.crc → Completes (.flitReceive p f) s fun t =>
      t = s.setPort p { x with nakOut := true }) ∧
    (crc32c (f.payload ++ leBytes 8 word) = f.crc → Completes (.flitReceive p f) s fun t =>
      let v := t.port p
      v.expect = z.expect ∧ v.nakOut = z.nakOut ∧ v.received = z.received ∧ v.acked = f.ack % 2 ^ 24 ∧
        (x.egress = [] → (∀ j ∈ s.jobs, j.port ≠ p) → t = s.setPort p
          (if f.nak = true ∧ x.pausing = false ∧ x.down = false ∧ x.lanes ≠ 0
            then { z with wire := (z.replay.map (wireWord z)).reverse ++ z.wire } else z)))) ∧
  (∀ (x : Port) a, (x.ack a).expect = x.expect ∧ (x.ack a).received = x.received ∧ (x.ack a).acked = a ∧
    (x.ack a).replay = x.replay.filter fun f => decide (2 ^ 23 ≤ (a + 2 ^ 24 - f.seq) % 2 ^ 24))

/-- R328 to R330, R334: a waiting flit is sent with the next number, when its channel has credits and the replay buffer room, and is
kept for replay; what is not acknowledged is sent again; a link that is down, pausing or untrained sends nothing. -/
def Sys2Proof.Spec.FlitsAreSent : Prop :=
  (∀ (p : PortIx) (s : State), let x := s.port p
    (x.pausing = true ∨ x.down = true ∨ x.lanes = 0 → x.transmit = x ∧ Completes (.replayTimeout p) s fun t => t = s) ∧
    (x.pausing = false → x.down = false → x.lanes ≠ 0 → Completes (.replayTimeout p) s fun t =>
      t = s.setPort p { x with wire := (x.replay.map (wireWord x)).reverse ++ x.wire })) ∧
  (∀ (x : Port) f (h : f.vc < 4), x.pausing = false → x.down = false → x.lanes ≠ 0 → x.egress = [f] →
    let g : Flit := { f with seq := x.sendSeq }
    (x.credit[f.vc] = true → x.replay.length < 4096 → x.transmit = { x with
      egress := [], replay := x.replay ++ [g], sendSeq := (x.sendSeq + 1) % 2 ^ 24, wire := wireWord x g :: x.wire }) ∧
    (x.credit[f.vc] = false ∨ 4096 ≤ x.replay.length → x.transmit = x))

/-- R334: a port that sheds lanes pauses at 16, 8 or 4 of them, or goes offline with fewer; retraining brings it up with its
peer's id; the third failure in a row takes it offline, and then no transfer of the port and no contribution from it is left. -/
def Sys2Proof.Spec.LanesAndPorts : Prop :=
  let offline := fun (p : PortIx) (s t : State) => (t.port p).down = true ∧ (t.port p).lanes = 0 ∧
    (∀ y ∈ t.nsends, y.port ≠ p) ∧ (∀ j ∈ t.jobs, j.port ≠ p) ∧ (∀ c ∈ t.contribs, ∀ q, c.peer = some q → q.1 ≠ p) ∧
    ∀ q, q ≠ p → t.port q = s.port q
  (∀ (p : PortIx) (working : Nat) (s : State), let x := s.port p
    let n := min x.laneCap working
    (x.down = true → Completes (.laneShed p working) s fun t => t = s) ∧
    (x.down = false → n < 4 → Completes (.laneShed p working) s (offline p s)) ∧
    (x.down = false → 4 ≤ n → Completes (.laneShed p working) s fun t => t = s.setPort p { x with
      pausing := true, lanes := if 16 ≤ n then 3 else if 8 ≤ n then 2 else 1 })) ∧
  (∀ (p : PortIx) (peer : BitVec 12) (s : State), let x := s.port p
    Completes (.linkRetrainDone p true peer) s (fun t => (t.port p).down = false ∧ (t.port p).pausing = false ∧
      (t.port p).npeer = peer ∧ (t.port p).failed = 0 ∧ (x.lanes ≠ 0 → (t.port p).lanes = x.lanes) ∧
      ((∀ j ∈ s.jobs, j.port ≠ p) → t.nsends = s.nsends)) ∧
    (x.failed < 2 → Completes (.linkRetrainDone p false peer) s fun t => t = s.setPort p { x with failed := x.failed + 1 }) ∧
    (2 ≤ x.failed → Completes (.linkRetrainDone p false peer) s (offline p s)))

/-- R335: a notice replaces what its origin said of the tag, unless that was newer; a release removes it; at 64 entries a
stricter notice displaces one with the highest ceiling, and another is dropped; the ceiling of a tag is the least of its entries, read as 1 to 16. While Skerry's
governor does not run, 16 notices wait at each port. -/
def Sys2Proof.Spec.PaceNotices : Prop :=
  (∀ (p : PortIx) (n : Notice) (s : State), let k := s.skerry
    let same := fun e : Notice => e.tag == n.tag && e.origin == n.origin
    let rest := k.ceilings.filter fun e => !same e
    let newer := k.ceilings.any fun e => same e && decide (n.seq.toNat < e.seq.toNat)
    let sets := fun l : List Notice => Completes (.paceNoticeReceive p n) s fun t => t = { s with skerry := { k with ceilings := l } }
    (k.running = true → newer = true → sets k.ceilings) ∧
    (k.running = true → newer = false → n.release = true → sets rest) ∧
    (k.running = true → newer = false → n.release = false → rest.length < 64 → sets (rest ++ [n])) ∧
    (k.running = true → newer = false → n.release = false → 64 ≤ rest.length →
      (∀ e ∈ rest, ceilingRead e.ceiling.toNat ≤ ceilingRead n.ceiling.toNat) → sets k.ceilings) ∧
    (k.running = true → newer = false → n.release = false → 64 ≤ rest.length → ∀ m ∈ rest,
      (∀ e ∈ rest, ceilingRead e.ceiling.toNat ≤ ceilingRead m.ceiling.toNat) →
      ceilingRead n.ceiling.toNat < ceilingRead m.ceiling.toNat →
      ∃ h ∈ rest, ceilingRead h.ceiling.toNat = ceilingRead m.ceiling.toNat ∧ sets (rest.erase h ++ [n])) ∧
    (k.running = false → Completes (.paceNoticeReceive p n) s fun t => t = if (s.port p).paceBuf.length < 16
      then s.setPort p { s.port p with paceBuf := (s.port p).paceBuf ++ [n] } else s)) ∧
  (∀ (k : Skerry) tag, k.ceiling tag ≤ 16 ∧ (∀ n ∈ k.ceilings, n.tag = tag → k.ceiling tag ≤ max 1 (min 16 n.ceiling.toNat)) ∧
    (∀ q ∈ k.own, q.1 = tag → k.ceiling tag ≤ max 1 (min 16 q.2)) ∧
    (k.ceiling tag = 16 ∨ (∃ n ∈ k.ceilings, n.tag = tag ∧ k.ceiling tag = max 1 (min 16 n.ceiling.toNat)) ∨
      ∃ q ∈ k.own, q.1 = tag ∧ k.ceiling tag = max 1 (min 16 q.2)))

/-- R328 to R330, R334, R335: flits, lanes and pace notices. Log entry 12 fixes the packing of a notice, which no clause here rests
on. -/
def Obligations.NarrowsLinks : Prop := FlitsAreReceivedInOrder ∧ FlitsAreSent ∧ LanesAndPorts ∧ PaceNotices

/-! ### The host port -/

/-- R337: a host access through BAR2 that reaches memory reads or writes it; one that does not is an Unsupported Request. That one
outside the size of BAR2, and a read that meets an uncorrectable error, are Unsupported Requests too is the model's choice (log
entry 20). -/
def Sys2Proof.Spec.HostWindowReachesMemory : Prop :=
  ∀ (off n : Nat) (data : Word64) (s : State), Canonical s →
    let pa := s.host.winbase.toNat + off
    let m := min n 8
    let reach := s.hostReach pa m = true ∧ off + m ≤ 2 ^ s.host.bar2
    let refused := fun w => Completes (.hostWindowAccess w off n data) s fun t =>
      t.host.hostUr = true ∧ t.mem = s.mem ∧ t.ctxs = s.ctxs
    (reach → Completes (.hostWindowAccess true off n data) s fun t =>
      Wrote s t (.mem pa) (leBytes m data.toNat) ∧ t.host.hostUr = false ∧ t.ctxs = s.ctxs) ∧
    (reach → s.lostRange pa m = false → Completes (.hostWindowAccess false off n data) s fun t =>
      t = { s with host := { s.host with hostUr := false, hostData := BitVec.ofNat 64 (s.mem.le pa m) } }) ∧
    (reach → s.lostRange pa m = true → refused false) ∧ (¬ reach → ∀ w, refused w)

/-- R338: a push or a pop of k elements through a queue alias moves TAIL or HEAD by k when so many are free or queued and none
is parked on that direction; else it sets AERR, which a write of one clears. -/
def Sys2Proof.Spec.QueueAliases : Prop :=
  ∀ (a : Fin 8) (k : BitVec 16) (s : State), let h := s.host.queues[a.val]
    let refused := fun t : State => t = s.setAlias a { h with err := true }
    (Completes (.aerrClear a) s fun t => t = s.setAlias a { h with err := false }) ∧
    (h.pop = true → Completes (.hostPush a k) s fun t => t = s) ∧ (h.pop = false → Completes (.hostPop a k) s fun t => t = s) ∧
    (∀ tr, s.blockLoc s.hostAgent h.qcb = .error tr → (h.pop = false → Completes (.hostPush a k) s refused) ∧
      (h.pop = true → Completes (.hostPop a k) s refused)) ∧
    (∀ l q, Canonical s → QueueOpen s ⟨s.hostAgent, none⟩ h.qcb l q →
      (h.pop = false → q.closed = true ∨ q.free < k.toNat ∨ s.parkedOn l.key true ≠ [] → Completes (.hostPush a k) s refused) ∧
      (h.pop = false → q.closed = false → k.toNat ≤ q.free → s.parkedOn l.key true = [] → Completes (.hostPush a k) s fun t =>
        t.host = s.host ∧ t.qcbAt l = ({ q with tail := (q.tail + k.toNat) % 2 ^ 32, free := q.free - k.toNat } : Qcb).sealed) ∧
      (h.pop = true → q.closed = true ∨ q.count < k.toNat ∨ s.parkedOn l.key false ≠ [] → Completes (.hostPop a k) s refused) ∧
      (h.pop = true → q.closed = false → k.toNat ≤ q.count → s.parkedOn l.key false = [] → Completes (.hostPop a k) s fun t =>
        t.host = s.host ∧ t.qcbAt l = ({ q with head := (q.head + k.toNat) % 2 ^ 32, free := q.free + k.toNat } : Qcb).sealed))

namespace Sys2Proof.Spec

/-- A host command (R339): it waits while it has not been started, or the governor's firmware does not run; else it leaves the list of
started commands and completes with the status `f` gives, 0 with the effect. -/
def CmdRow (i : Instr) (op : CmdOp) (c : Cmd) (s : State) (f : Except Nat State) : Prop :=
  (s.skerry.running = false ∨ (∀ p ∈ s.host.started, p.2 ≠ (op, c)) → Completes i s fun t => t = s) ∧
  (s.skerry.running = true → (∃ p ∈ s.host.started, p.2 = (op, c)) → Completes i s fun t => t = match f with
    | .ok u => (u.unstart op c).cmdDone c 0
    | .error n => (s.unstart op c).cmdDone c n)
/-- The driver has accepted generation `g` or above, and bit `b` of the features, where there is one (R340, R341). -/
def Accepted (s : State) (c : Cmd) (g : Nat) (b : Option Nat) : Prop :=
  ∃ h fs, s.host.accepted = some (h, fs) ∧ g ≤ h ∧ c.gen ≤ h ∧ ∀ k, b = some k → fs.getLsbD k = true

end Sys2Proof.Spec

/-- R339: a command that completes writes its status word, then decrements its signal object, or fails it. -/
def Sys2Proof.Spec.CommandsComplete : Prop :=
  ∀ (c : Cmd) (n : Nat) (s : State), Canonical s →
    (c.status = 0 → c.signal = 0 → s.cmdDone c n = s) ∧
    (∀ l, c.status ≠ 0 → c.signal = 0 → s.objLoc s.hostAgent c.status 8 .write = .ok l →
      Wrote s (s.cmdDone c n) l (leBytes 8 n)) ∧
    (∀ l, c.status = 0 → c.signal ≠ 0 → s.objLoc s.hostAgent c.signal 8 .write = .ok l →
      Wrote s (s.cmdDone c n) l (leBytes 8 (if n = 0 then (s.loadLe l 8 + 2 ^ 64 - 1) % 2 ^ 64 else 2 ^ 63)))

/-- R338, R339, R341, R353, Table 23-6: firmware that runs takes one element from a queue and starts its command: one with FENCE only
when no earlier one of that queue is left; an unknown opcode completes with status 1. -/
def Sys2Proof.Spec.CommandsStart : Prop :=
  (∀ (a : Fin 8) (s : State),
    let may := s.skerry.running = true ∧ s.skerry.powered = true ∧ s.host.resetPend = false
    let out := s.qOp ⟨s.hostAgent, none⟩ s.host.queues[a.val].qcb ⟨false, 1, false, .raw (List.replicate 64 0), none⟩
    (¬ may → s.takeCommand a = s) ∧
    (∀ u e, may → out = .grant u 1 [e] → let x := leNat e
      let c := cmdOf x
      let waits := c.fence = true ∧ ∃ p ∈ s.host.started, p.1 = a
      (waits → s.takeCommand a = s) ∧
      (∀ op, ¬ waits → cmdOpOf (x % 2 ^ 16) = some op →
        s.takeCommand a = { u with host := { u.host with started := u.host.started ++ [(a, op, c)] } }) ∧
      (¬ waits → cmdOpOf (x % 2 ^ 16) = none → s.takeCommand a = u.cmdDone c 1))) ∧
  (∀ x : Nat, let c := cmdOf x
    c.gen = x / 2 ^ 16 % 256 ∧ c.fence = x.testBit 24 ∧ c.tag.toNat = x / 2 ^ 32 % 2 ^ 16 ∧
    [c.signal, c.status, c.a0, c.a1, c.a2, c.a3, c.a4].map BitVec.toNat =
      [1, 2, 3, 4, 5, 6, 7].map fun k => x / 2 ^ (64 * k) % 2 ^ 64) ∧
  (∀ n op, cmdOpOf n = some op ↔ (n, op) ∈ [(0x01, .deviceQuery), (0x02, .driverAccept), (0x10, .copy), (0x11, .fill),
    (0x20, .extentAdd), (0x21, .extentRelease), (0x30, .linkState), (0x40, .paceList), (0x41, .paceSend)])

/-- R340, R341: DEVICE_QUERY, which needs no negotiation, writes its 8 KiB reply; DRIVER_ACCEPT records a generation of 1 to 3
and features that were offered, bits 0 to 2 by the model's choice (log entry 20), once until HCRESET, which waits for the commands in flight; a command before it is status 5, one beyond
it status 2. -/
def Sys2Proof.Spec.NegotiationCommands : Prop :=
  ∀ (c : Cmd) (s : State),
    let served := ∀ h fs, s.host.accepted = some (h, fs) → 1 ≤ h ∧ c.gen ≤ h
    (∀ h fs, s.host.accepted = some (h, fs) → h < c.gen → CmdRow (.deviceQuery c) .deviceQuery c s (.error 2)) ∧
    (served → c.a0.toNat % 64 ≠ 0 → CmdRow (.deviceQuery c) .deviceQuery c s (.error 3)) ∧
    (∀ l, served → c.a0.toNat % 64 = 0 → s.span s.hostAgent .write c.a0 8192 = .ok l → ∃ rev,
      CmdRow (.deviceQuery c) .deviceQuery c s (.ok (({ s with freeCtr := s.freeCtr + 1 } : State).storeSpan none l (s.queryReply rev)))) ∧
    (∀ rev, s.skerry.offers.length ≤ 128 → (s.queryReply rev).length = 8192 ∧
      leNat ((s.queryReply rev).take 8) = 7 ∧ leNat (((s.queryReply rev).drop 16).take 8) = (s.feature 0).toNat) ∧
    (s.host.accepted ≠ none → CmdRow (.driverAccept c) .driverAccept c s (.error 5)) ∧
    (s.host.accepted = none → 1 ≤ c.a0.toNat → c.a0.toNat ≤ 3 → c.a1.toNat < 8 →
      CmdRow (.driverAccept c) .driverAccept c s (.ok { s with host := { s.host with accepted := some (c.a0.toNat, c.a1) } })) ∧
    (s.host.accepted = none → c.a0 = 0 ∨ 3 < c.a0.toNat ∨ 8 ≤ c.a1.toNat → CmdRow (.driverAccept c) .driverAccept c s (.error 3)) ∧
    (s.host.started = [] → Completes .hcreset s fun t =>
      t = { s with host := { s.host with accepted := none, resetPend := false } }) ∧
    (s.host.started ≠ [] → Completes .hcreset s fun t => t = { s with host := { s.host with resetPend := true } }) ∧
    (s.host.accepted = none → CmdRow (.copy c) .copy c s (.error 5) ∧ CmdRow (.fill c) .fill c s (.error 5) ∧
      CmdRow (.extentAdd c) .extentAdd c s (.error 5) ∧
      (s.inFlight c.a0.toNat c.a1.toNat = false → CmdRow (.extentRelease c) .extentRelease c s (.error 5)) ∧
      CmdRow (.linkState c) .linkState c s (.error 5) ∧ CmdRow (.paceList c) .paceList c s (.error 5) ∧ CmdRow (.paceSend c) .paceSend c s (.error 5)) ∧
    (∀ g fs, s.host.accepted = some (g, fs) → g < c.gen → CmdRow (.copy c) .copy c s (.error 2) ∧ CmdRow (.fill c) .fill c s (.error 2) ∧
      CmdRow (.extentAdd c) .extentAdd c s (.error 2) ∧ CmdRow (.linkState c) .linkState c s (.error 2) ∧ CmdRow (.paceSend c) .paceSend c s (.error 2))

/-- R252, R253, R343, Table 23-6: what the accepted commands do, and when they are refused. -/
def Sys2Proof.Spec.AcceptedCommands : Prop :=
  ∀ (c : Cmd) (s : State),
    (Accepted s c 1 none →
      (∀ src dst, c.a2.toNat ≤ 2 ^ 40 → s.span s.hostAgent .read c.a1 c.a2.toNat = .ok src →
        s.span s.hostAgent .write c.a0 c.a2.toNat = .ok dst → CmdRow (.copy c) .copy c s (.ok (s.storeSpan none dst (s.loadSpan src)))) ∧
      (2 ^ 40 < c.a2.toNat → CmdRow (.copy c) .copy c s (.error 3)) ∧
      (∀ dst, s.span s.hostAgent .write c.a0 c.a1.toNat = .ok dst → CmdRow (.fill c) .fill c s (.ok (s.storeSpan none dst
        ((List.range c.a1.toNat).map fun i => BitVec.ofNat 8 (c.a2.toNat / 2 ^ (8 * (i % 8))))))) ∧
      (∀ tr, s.span s.hostAgent .write c.a0 c.a1.toNat = .error tr →
        CmdRow (.fill c) .fill c s (.error (if tr.cause = .memUncorrectable then 7 else 4)))) ∧
    (Accepted s c 2 (some 0) → let pa := c.a3.toNat
      let hit := fun o : Offer => o.port == c.a0.toNat && o.dpa == c.a1.toNat && o.len == c.a2.toNat
      let gone := fun e : Extent => e.pa == c.a0.toNat && e.len == c.a1.toNat
      (c.a0.toNat ≤ 1 → pa % 2 ^ 28 = 0 → c.a2.toNat % 2 ^ 28 = 0 → 0x40000000000 ≤ pa → pa + c.a2.toNat ≤ 0x80000000000 →
        (∀ e ∈ s.skerry.extents, pa + c.a2.toNat ≤ e.pa ∨ e.pa + e.len ≤ pa) →
        ((s.skerry.extents.filter fun e => e.port == c.a0.toNat).length < 64 → s.skerry.offers.any hit = true →
          CmdRow (.extentAdd c) .extentAdd c s (.ok { s with skerry := { s.skerry with
            extents := s.skerry.extents ++ [⟨c.a0.toNat, c.a1.toNat, pa, c.a2.toNat⟩], offers := s.skerry.offers.eraseP hit } })) ∧
        (s.skerry.offers.any hit = false → CmdRow (.extentAdd c) .extentAdd c s (.error 6))) ∧
      (1 < c.a0.toNat ∨ pa % 2 ^ 28 ≠ 0 ∨ c.a2.toNat % 2 ^ 28 ≠ 0 → CmdRow (.extentAdd c) .extentAdd c s (.error 3)) ∧
      (s.skerry.extents.any gone = false → CmdRow (.extentRelease c) .extentRelease c s (.error 3)) ∧
      (s.skerry.extents.any gone = true → s.inFlight c.a0.toNat c.a1.toNat = true → Completes (.extentRelease c) s fun t => t = s) ∧
      (s.skerry.extents.any gone = true → s.inFlight c.a0.toNat c.a1.toNat = false → ∃ u, CmdRow (.extentRelease c) .extentRelease c s (.ok u) ∧
        u.skerry = { s.skerry with extents := s.skerry.extents.eraseP gone } ∧ u.mem = s.mem ∧ u.ctxs = s.ctxs ∧
        ∀ k e, e ∈ (u.core k).tlbS ++ (u.core k).tlbV → e ∈ (s.core k).tlbS ++ (s.core k).tlbV ∧
          (c.a0.toNat + c.a1.toNat ≤ ePa e.leaf.toNat ∨ ePa e.leaf.toNat + e.size ≤ c.a0.toNat))) ∧
    (Accepted s c 2 (some 1) → ∀ p : PortIx, c.a0.toNat = p.val → let x := s.port p
      (c.a1 = 0 → CmdRow (.linkState c) .linkState c s (.ok (s.portOffline p))) ∧
      (c.a1 = 1 → CmdRow (.linkState c) .linkState c s (.ok (s.setPort p { x with down := false, pausing := true }))) ∧
      (∀ n : Nat, c.a1 = 2 → n = 4 ∨ n = 8 ∨ n = 16 → c.a2.toNat = n →
        let code : BitVec 2 := if n = 16 then 3 else if n = 8 then 2 else 1
        let low := decide (code.toNat < x.lanes.toNat)
        CmdRow (.linkState c) .linkState c s (.ok (s.setPort p { x with
          laneCap := n, lanes := if low then code else x.lanes, pausing := x.pausing || low }))) ∧
      (2 < c.a1.toNat → CmdRow (.linkState c) .linkState c s (.error 3))) ∧
    (Accepted s c 3 (some 2) →
      (c.a0.toNat < 2 ^ 16 → c.a1.toNat < 2 ^ 8 → (∃ i : Fin 16, s.host.pace[i.val].2.2 = false) → ∃ u,
        CmdRow (.paceList c) .paceList c s (.ok u) ∧ ∃ i : Fin 16, u.host.pace[i.val] = (c.a0.setWidth 16, c.a1.setWidth 8, c.a2.getLsbD 0) ∧
          ∀ j : Fin 16, j ≠ i → u.host.pace[j.val] = s.host.pace[j.val]) ∧
      (2 ^ 16 ≤ c.a0.toNat ∨ 2 ^ 8 ≤ c.a1.toNat → CmdRow (.paceList c) .paceList c s (.error 3)) ∧
      (2 ^ 8 ≤ c.a0.toNat ∨ 2 ^ 16 ≤ c.a1.toNat ∨ 16 < c.a2.toNat → CmdRow (.paceSend c) .paceSend c s (.error 3)) ∧
      (c.a0.toNat < 2 ^ 8 → c.a1.toNat < 2 ^ 16 → c.a2.toNat ≤ 16 →
        ((∃ p : PortIx, c.a0.toNat.testBit p.val = true ∧ ((s.port p).down = true ∨ (s.port p).lanes = 0)) →
          CmdRow (.paceSend c) .paceSend c s (.error 6)) ∧
        ((∀ p : PortIx, c.a0.toNat.testBit p.val = true → (s.port p).down = false ∧ (s.port p).lanes ≠ 0) → ∃ u,
          CmdRow (.paceSend c) .paceSend c s (.ok u) ∧ u.skerry = { s.skerry with sendSeq := s.skerry.sendSeq + 1 } ∧ u.mem = s.mem ∧
          ∀ p : PortIx, c.a0.toNat.testBit p.val = false → u.port p = s.port p)))

/-- R252, R253, R339 to R343, Table 23-6: every host command, its conditions and its completion. The features offered, bits 0 to 2,
and the packing of the DEVICE_QUERY reply beyond the words named here are choices of the model (log entry 20). -/
def Obligations.HostCommands : Prop := CommandsStart ∧ CommandsComplete ∧ NegotiationCommands ∧ AcceptedCommands

/-- R342, R343: an armed binding whose condition holds, or has held after a step since it was armed, sends its vector once and disarms;
another sends nothing; arming a barrier binding keeps the PHASE of that moment. Up to 64 capacity offers are kept for each port. -/
def Sys2Proof.Spec.MessagesAndOffers : Prop :=
  (∀ (b : Fin 256) obj ctl (s : State), Completes (.msixArm b obj ctl) s fun t =>
    let m : MsixBind := ⟨obj, ctl.toNat % 256, ctl.toNat / 2 ^ 8 % 64, ctl.getLsbD 16, s.hostPhase obj, false⟩
    t = { s with host := { s.host with msix := s.host.msix.set b.val m } }) ∧
  (∀ (b : Fin 256) (s : State), let m := s.host.msix[b.val]
    (m.armed = false ∨ (m.due = false ∧ s.msixHolds m = false) → Completes (.msixMessage b) s fun t => t = s) ∧
    (m.armed = true → m.due = true ∨ s.msixHolds m = true → Completes (.msixMessage b) s fun t => t = { s with host := { s.host with
      sent := m.vec :: s.host.sent, msix := s.host.msix.set b.val { m with armed := false, due := false } } }) ∧
    s.msixEvents = { s with host := { s.host with msix := s.msixEvents.host.msix } } ∧
    s.msixEvents.host.msix[b.val] = if m.armed = true ∧ s.msixHolds m = true then { m with due := true } else m) ∧
  (∀ (m : MsixBind) (s : State), (∀ l, m.kind = 1 → s.objLoc s.hostAgent m.obj 8 .read = .ok l →
      (s.msixHolds m = true ↔ s.loadLe l 8 = 0 ∨ 2 ^ 63 ≤ s.loadLe l 8)) ∧
    (∀ l, m.kind = 2 → s.blockLoc s.hostAgent m.obj = .ok l → (s.msixHolds m = true ↔ 1 ≤ (s.qcbAt l).count)) ∧
    (m.kind = 3 → (s.msixHolds m = true ↔ s.hostPhase m.obj ≠ m.phase))) ∧
  (∀ (o : Offer) (s : State), let n := (s.skerry.offers.filter fun x => x.port == o.port).length
    (o.port ≤ 1 → n < 64 → Completes (.extentOffer o) s fun t =>
      t = { s with skerry := { s.skerry with offers := s.skerry.offers ++ [o] } }) ∧
    (1 < o.port ∨ 64 ≤ n → Completes (.extentOffer o) s fun t => t = s))

/-- R337, R338, R342, R343: the host window, the queue aliases, the message bindings and capacity offers. That the host has supervisor
access through HCSATP, and that an uncorrectable read and an access outside the size of BAR2 are Unsupported Requests, are choices of
the model (log entry 20). -/
def Obligations.HostPage : Prop := HostWindowReachesMemory ∧ QueueAliases ∧ MessagesAndOffers

namespace Sys2Proof.Spec

/-- What a device register reads after an 8-byte write of `v` over `old` (Tables 2-4, 21-3, 23-5, 24-4). -/
def DevAfter (r : DevReg) (old v : Word64) : Option Word64 :=
  match r with
  | .dslice _ => some (BitVec.ofNat 64 (v.toNat % 2 ^ 32))
  | .dfqb _ => some (BitVec.ofNat 64 (v.toNat / 64 * 64))
  | .dfqlost _ => some (old &&& ~~~v)
  | .dcsa _ => some (BitVec.ofNat 64 (v.toNat % 2 ^ 60 / 2 ^ 19 * 2 ^ 19))
  | .dcsn _ => some (BitVec.ofNat 64 (v.toNat % 2 ^ 16))
  | .dasb _ => some (BitVec.ofNat 64 (v.toNat % 2 ^ 60 / 2 ^ 12 * 2 ^ 12))
  | .dasn _ => some (if v.toNat % 8192 ≤ 4096 then BitVec.ofNat 64 (v.toNat % 8192) else old)
  | .dsatp _ | .dlqb _ | .nrsatp _ | .out1 _ _ | .ibase _ _ | .isize _ _ | .ibob _ _ => some v
  | .out0 _ _ => some (v &&& 0x9FFFFFFFFFFF0000)
  | .ien _ _ => some (BitVec.ofNat 64 (v.toNat % 2))
  | .ddepn _ | .lanes _ | .npeer _ => some old
  | .thermal _ | .none => none

end Sys2Proof.Spec

/-- R248, R336, Tables 2-4, 21-3, 23-4, 23-5: every device register reads as its table says after an 8-byte write; a plain load or
store of the scalar pipe, and a register write from outside, reach it; an ordered one faults, which is read from R248 (log entry 9).
The host reads its page as Table 23-4 says: ACOUNT and HCRESET read 0. -/
def Sys2Proof.Spec.DeviceRegisters : Prop :=
  ∀ (pa : Nat) (s : State),
    (pa % 8 = 0 → ∀ (v : Nat) w, v < 2 ^ 64 → DevAfter (devReg pa) (s.devRead (devReg pa)).1 (BitVec.ofNat 64 v) = some w →
      let t := s.devStore pa 8 v
      (t.devRead (devReg pa)).1 = w ∧ t.mem = s.mem ∧ t.ctxs = s.ctxs ∧ t.cores = s.cores) ∧
    (∀ d a off z, s.intervalReady = true → s.choices.fill = false → s.isDevice (.mem pa) = true →
      s.scalarLoc s.scalarAgent (s.mySc.rx a + BitVec.ofInt 64 off.toInt) (ldBytes z).1 .read = .ok (.mem pa) →
      Completes (.ld d a off z) s fun t => let r := s.devLoad pa (ldBytes z).1
        t = r.2.setMySc (r.2.mySc.wx d (Extended (ldBytes z).1 (ldBytes z).2 r.1)).retire) ∧
    (∀ d a off z, AccessReady s false → s.choices.fill = false → s.isDevice (.mem pa) = true →
      s.scalarLoc s.scalarAgent (s.mySc.rx a + BitVec.ofInt 64 off.toInt) (stBytes z) .write = .ok (.mem pa) →
      Completes (.st d a off z) s fun t =>
        t = (s.devStore pa (stBytes z) ((s.mySc.rx d).toNat % 2 ^ (8 * stBytes z))).setMySc s.mySc.retire) ∧
    (∀ (o : X3) c, s.me.drained = true → s.isDevice (.mem pa) = true → let a := s.mySc.rx o.a + s.mySc.rx o.b
      (∀ z, s.scalarLoc s.scalarAgent a (ldBytes z).1 .read = .ok (.mem pa) →
        TrapsWith (.ldAcq o c z) s 0x07 a) ∧
      (∀ z, s.scalarLoc s.scalarAgent a (stBytes z) .write = .ok (.mem pa) →
        TrapsWith (.stRel o c z) s 0x07 a)) ∧
    (∀ (n : Nat) v, n ∈ [1, 2, 4, 8] → pa % n = 0 → 0x1000000 ≤ pa →
      Completes (.registerWrite pa n v) s fun t => t = s.devStore pa n v.toNat) ∧
    (∀ (n : Nat) v, n ∉ [1, 2, 4, 8] ∨ pa % n ≠ 0 → Completes (.registerWrite pa n v) s fun t => t = s) ∧
    (∀ v, Completes (.registerWrite 0x008 8 v) s (fun t => t.host.winbase = v &&& ~~~0x3FFFFFFF#64) ∧
      Completes (.registerWrite 0x010 8 v) s (fun t => t.host.hcsatp = v) ∧
      Completes (.registerWrite 0x018 8 v) s (fun t => t.host.nself = v.setWidth 12) ∧
      (s.host.started = [] → Completes (.registerWrite 0x0A0 8 1) s fun t => t.host.accepted = none)) ∧
    ((s.hostRead 0x000 2).host.hostData = 0x4481 ∧ (s.hostRead 0x002 1).host.hostData = 7 ∧
      (s.hostRead 0x0B0 8).host.hostData = s.host.bootst ∧ (s.hostRead 0x0A0 8).host.hostData = 0 ∧
      ∀ a : Fin 8, (s.hostRead (0x020 + 16 * a.val) 8).host.hostData = s.host.queues[a.val].qcb ∧
        (s.hostRead (0x028 + 16 * a.val) 2).host.hostData = 0 ∧
        (s.hostRead (0x028 + 16 * a.val) 4).host.hostData.getLsbD 17 = s.host.queues[a.val].err)

/-- R82, R143, R274, R319, R359: the registers that events write. PSPB is a multiple of 4,096, at most 512 KiB and at
most the scratchpad;
ULIPEND and DFQLOST clear where ones are written; LQB_WRITE starts the die's dispatch unit; HOLM_PERSIST makes eight aligned
bytes persistent. -/
def Sys2Proof.Spec.RegisterEvents : Prop :=
  (∀ k v (s : State), Completes (.pspbWrite k v) s fun t => t = s.setCore k { s.core k with
    pspb := min (v.toNat / 4096 * 4096) (min 524288 (((s.core k).pool1 - (s.core k).pool0) * 4096)) }) ∧
  (∀ c v (s : State), Completes (.ulipendClear c v) s fun t =>
    t = s.setSc c { s.sc c with ulipend := (s.sc c).ulipend &&& ~~~(v.setWidth 16) }) ∧
  (∀ d v (s : State), Completes (.dfqlostClear d v) s fun t =>
    t = s.setDie d { s.die d with dfqlost := (s.die d).dfqlost &&& ~~~(v.setWidth 32) }) ∧
  (∀ d v (s : State), Completes (.lqbWrite d v) s fun t =>
    t = s.setDie d { s.die d with lqb := v, lqStopped := false, lqWritten := true }) ∧
  (∀ (pa : Nat) (s : State), Canonical s →
    (0x30000000000 ≤ pa → pa < 0x30020000000 → Completes (.holmPersist pa) s fun t => t = { s with mram := t.mram } ∧
      ∀ a, t.mram.byte a = if pa / 8 = a / 8 then s.mem.byte a else s.mram.byte a) ∧
    (pa < 0x30000000000 ∨ 0x30020000000 ≤ pa → Completes (.holmPersist pa) s fun t => t = s))

/-- R82, R143, R248, R274, R319, R359, Tables 2-4, 21-3, 23-5: the registers of dies, ports and the host page. What
a DASN above 4,096 does is a choice of the model (log entry 9). -/
def Obligations.RegistersOutsideTheCores : Prop := DeviceRegisters ∧ RegisterEvents

/-! ### Power and thermal control -/

/-- R345 to R347, R351, R353: a period starts the governor, applies the notices held at the ports, samples every quad, takes a
further step of Table 24-2 on a hot quad and undoes one when each limit has stayed cleared for 10 ms: a temperature at or below 100 °C
after it stood above 105 °C, a gradient at or below 15 K. A tag on a quad above 105 °C gets a
ceiling of 12, then lower by 2 in each period down to 1. Without power nothing happens. -/
def Sys2Proof.Spec.GovernorPeriods : Prop :=
  ∀ (r : List QuadReading) (s : State),
    (s.skerry.powered = false → Completes (.governorPeriod r) s fun t => t = s) ∧
    (s.skerry.powered = true → r.length = 48 → Completes (.governorPeriod r) s fun t =>
      t.skerry.running = true ∧ (∀ p, (t.port p).paceBuf = []) ∧ SameMemory s t ∧ t.ctxs = s.ctxs ∧
      (∀ (q : QuadIx) x, r[q.val]? = some x → let y := s.quad q
        let z := t.quad q
        let hot := 105 * 16 < x.tq ∨ 15 * 16 < x.gq
        let quiet := fun lo hi v n : Nat => if hi < v then 0 else if v ≤ lo ∨ 100 ≤ n then min 100 (n + 1) else 0
        let calm := 100 ≤ z.coolT ∧ 100 ≤ z.coolG
        let m := if hot then min 30 (y.measure + 1) else if calm then y.measure - 1 else y.measure
        (∀ p : Fin 4, x.pairs[p.val].compute ≤ x.tq ∧ x.pairs[p.val].compute - x.pairs[p.val].base ≤ x.gq ∧
          x.pairs[p.val].base - x.pairs[p.val].compute ≤ x.gq) ∧
        z.tq = x.tq ∧ z.gq = x.gq ∧ z.coolT = quiet 1600 1680 x.tq y.coolT ∧ z.coolG = quiet 240 240 x.gq y.coolG ∧ z.measure = m ∧
        (hot ∨ calm → z.rowCap = 128 - 16 * min 7 (m - 8) ∧ z.govClk = 16 - min 15 (m - 15) ∧
          ∀ k, CoreIx.quad k = q → (t.core k).lratio = (if 1 ≤ m then 2 else 1) ∧ (t.core k).vcap.toNat = 8 - min 7 (m - 1))) ∧
      (∀ c x, (s.ctx c).task.isSome = true → r[(CtxIx.quad c).val]? = some x → 105 * 16 < x.tq →
        let tag := s.tagOf (s.ctx c).task
        t.skerry.own.find? (fun p => p.1 == tag) = some (tag, match s.skerry.own.find? (fun p => p.1 == tag) with
          | some p => max 1 (p.2 - 2)
          | none => 12)))

/-- R347, R348, R350, R353: the damage integral gains 2^((T − 95 °C) / 5 K) in a millisecond above 95 °C, loses a 1,024th of
itself, forces the floor from 2,048 and lets go below 1,024; 20 K of gradient force the floor until it is under 15 K; the
current limit lowers the die's clocks a sixteenth at a time and raises them again after 10 µs below 1,150 A; a watchdog reset
only stops the governor. -/
def Sys2Proof.Spec.HardwareLimits : Prop :=
  (∀ q (T : Nat) (s : State), let x := s.quad q
    Completes (.damageUpdate q T) s fun t => ∃ r : Nat,
      (T ≤ 95 * 16 → r = 0) ∧ (95 * 16 < T → r ^ 80 ≤ 2 ^ (T - 240) ∧ 2 ^ (T - 240) < (r + 1) ^ 80) ∧
      let d := (x.dq + r) * 1023 / 1024
      t = s.setQuad q { x with
        dq := d, dmgForce := if 2048 * 2 ^ 16 ≤ d then true else if d < 1024 * 2 ^ 16 then false else x.dmgForce }) ∧
  (∀ q (g : Nat) (s : State), let x := s.quad q
    (320 ≤ g → Completes (.hardGradient q g) s fun t => t = s.setQuad q { x with gq := g, hgForce := true }) ∧
    (g < 320 → Completes (.hardGradient q g) s fun t => t = s) ∧
    (g < 240 → Completes (.hardGradientClear q g) s fun t => t = s.setQuad q { x with gq := g, hgForce := false }) ∧
    (240 ≤ g → Completes (.hardGradientClear q g) s fun t => t = s) ∧
    (x.hgForce = true ∨ x.dmgForce = true → s.quadClk q ≤ 1)) ∧
  (∀ d (a : Nat) (s : State), let x := s.die d
    (1200 < a → Completes (.currentLimit d a) s fun t => t = s.setDie d { x with droop := min 15 (x.droop + 1), droopLow := 0 }) ∧
    (a ≤ 1200 → Completes (.currentLimit d a) s fun t => t = s) ∧
    (a < 1150 → Completes (.droopRelease d a) s fun t => t = s.setDie d { x with
      droopLow := x.droopLow + 1, droop := if 100 ≤ x.droopLow + 1 then x.droop - 1 else x.droop }) ∧
    (1150 ≤ a → Completes (.droopRelease d a) s fun t => t = s.setDie d { x with droopLow := 0 }) ∧
    (∀ q, QuadIx.die q = d → s.quadClk q ≤ max 1 (16 - x.droop))) ∧
  (∀ (s : State), Completes .watchdogReset s fun t => t = { s with skerry := { s.skerry with running := false } })

/-- R345 to R351, R353: the governor and the hardware limits. Which measure is taken in which order, and that one is
undone in a period after 10 ms of cool readings, are choices of the model (log entry 21). -/
def Obligations.GovernorAndLimits : Prop := GovernorPeriods ∧ HardwareLimits

/-- R250, R259, R260, R322: the first failure of a stack under parity retires its channel in both its regions, and a second takes the
stack offline; without parity the channel alone goes offline; a rebuild moves one line in each step and ends at the line count; an
LPDDR channel only loses its lines; a write-back error leaves at the home what it held before, uses a number of its die's fault path and
changes no context. -/
def Obligations.MemoryFailures : Prop :=
  (∀ (k : Fin 16) (ch : Fin 32) (s : State), let d : DieIx := ⟨k.val / 4, by omega⟩
    let gone := (s.die d).offline.contains (k.val % 4)
    (gone = true → Completes (.channelFailure k ch) s fun t => t = s) ∧
    (gone = false → s.skerry.parity = false → Completes (.channelFailure k ch) s fun t =>
      t = s.setDie d { s.die d with offChans := (k.val % 4, ch.val) :: (s.die d).offChans }) ∧
    (gone = false → s.skerry.parity = true → s.stackRetired k.val = true → Completes (.channelFailure k ch) s fun t =>
      (t.die d).offline = (s.die d).offline ++ [k.val % 4] ∧ t.retire = s.retire ∧ t.ctxs = s.ctxs) ∧
    (gone = false → s.skerry.parity = true → s.stackRetired k.val = false → Completes (.channelFailure k ch) s fun t =>
      (∃ x ∈ t.retire, x.region = d.val ∧ k.val % 4 * 32 + ch.val ∈ x.channels ++ x.pending) ∧
      (∃ x ∈ t.retire, x.region = 4 ∧ k.val * 32 + ch.val ∈ x.channels ++ x.pending) ∧
      (∀ d, (t.die d).offline = (s.die d).offline) ∧ t.ctxs = s.ctxs)) ∧
  (∀ (g : Fin 5) (s : State) x, s.retire.find? (fun y => y.region == g.val) = some x → x.running = true →
    let n := s.skerry.regionLines g.val
    let rest := s.retire.filter fun y => y.region != g.val
    (x.boundary + 1 < n → Completes (.rebuildMove g) s fun t =>
      t = { s with retire := rest ++ [{ x with boundary := x.boundary + 1 }] }) ∧
    (n ≤ x.boundary + 1 → x.pending = [] → Completes (.rebuildMove g) s fun t =>
      t.retire = rest ++ [{ x with boundary := n, running := false }] ∧ t.ctxs = s.ctxs)) ∧
  (∀ (ch : Nat) (s : State), Completes (.lpddrChannelFailure ch) s fun t => t = { s with lpFailed := s.lpFailed ++ [ch] }) ∧
  (∀ (pa n : Nat) (s : State) a b, Canonical s → (a, b) ∈ s.dirty → (∀ e ∈ s.dirty, e.1 = a → e.2 = b) → inHolm a = false →
    (s.revert pa n).mem.byte a = if pa ≤ a ∧ a < pa + n then b else s.mem.byte a) ∧
  (∀ (pa n : Nat) (s : State), let d := s.sliceDie pa
    Completes (.writebackError pa n) s fun t => t.ctxs = s.ctxs ∧ (t.die d).seq = (s.die d).seq + 1 ∧
      ((s.die d).dfqb = 0 → t.mem = (s.revert pa n).mem ∧
        (t.die d).dfqlost = if (s.die d).dfqlost = 0xFFFFFFFF then 0xFFFFFFFF else (s.die d).dfqlost + 1))

/-- R275, R294, R307, R309, R347, R354: a core that loses power keeps each task, waiting to resume, and loses what was queued; its
records stay as they are, but for the open slot of a PFENCE.CORE that the loss cuts short; CYCLE returns to the value saved. A context
of another core is as before, but that nothing stays parked on a queue whose block a lost die homes, and that what a lost context has
asked of it by a TSTOP is over. What a cut PFENCE.CORE leaves is a reading of R307 and Table 19-12 (log entry 11). At 115 °C every core loses power,
and the module, and no dispatch unit runs until its LQB is written again. -/
def Sys2Proof.Spec.PowerIsLost : Prop :=
  (∀ (ks : List CoreIx) (cut : List CtxIx) (s : State), Completes (.unplannedPowerLoss ks cut) s fun t =>
    (∀ k ∈ ks, (s.core k).powered = true → (t.core k).powered = false ∧ (t.core k).rcache = [] ∧
      (t.core k).cycle = if ∃ c ∈ cut, CtxIx.core c = k ∧ s.atPfenceCore c = true then (s.core k).cycle
        else (s.core k).cycleSaved) ∧
    (∀ c, CtxIx.core c ∈ ks → (s.core (CtxIx.core c)).powered = true → (s.ctx c).task.isSome = true →
      (t.ctx c).task = (s.ctx c).task ∧ (t.ctx c).down = true ∧ (t.ctx c).viq = [] ∧ (t.ctx c).block = none ∧
      (t.ctx c).parked = none ∧
      let x := if c ∈ cut ∧ s.atPfenceCore c = true then (s.ctx c).openSlot else s.ctx c
      (t.ctx c).holmA = x.holmA ∧ (t.ctx c).holmB = x.holmB) ∧
    (∀ c, CtxIx.core c ∉ ks → (∀ w ∈ s.qwaits, w.ctx ≠ c) → (∀ k, CtxIx.core k ∈ ks → (s.ctx c).stopReq ≠ .tstop k) →
      t.ctx c = s.ctx c) ∧
    (∀ d, (∀ k, CoreIx.die k = d → k ∈ ks) → ∀ w ∈ s.qwaits, homeOf d w.qcb = true → (t.ctx w.ctx).parked = none)) ∧
  (∀ (T : Nat) (s : State), (T < 1840 → Completes (.thermalTrip T) s fun t => t = s) ∧
    (1840 ≤ T → Completes (.thermalTrip T) s fun t => (∀ k, (t.core k).powered = false) ∧ t.skerry.powered = false ∧
      t.skerry.running = false ∧ (∀ d, (t.die d).lqWritten = false) ∧ ∀ c, (s.ctx c).task.isSome = true → (t.ctx c).task = (s.ctx c).task))

/-- R308, R309, R310, R325, R354: a core regains power once the card has it and LQB has been written on its die; a task of no gang that
lost power resumes from its newest valid record at user level: at the recorded pc after a planned stop, else at RVEC, or the recorded
pc where RVEC is zero, with PSTAT 2 where the other slot is open or fails its CRC and 1 otherwise. A planned stop saves every task of
its core first; without slots it holds the core's clocks at the floor, and it asks a context at S level to stop. That the band is gone
on every resume, and that contexts at S level and whole gangs are asked to stop, are readings of the model (log entry 36). -/
def Sys2Proof.Spec.PowerReturns : Prop :=
  (∀ k (s : State), ((s.die (CoreIx.die k)).lqWritten = false ∨ s.skerry.powered = false →
      Completes (.powerRestore k) s fun t => t = s) ∧
    ((s.die (CoreIx.die k)).lqWritten = true → s.skerry.powered = true → (s.core k).powered = false → Completes (.powerRestore k) s fun t =>
      (t.core k).powered = true ∧
      ∀ c tr h o, CtxIx.core c = k → (s.ctx c).down = true → (s.ctx c).task = some tr → s.gangTask c = none →
        (s.ctx c).winner tr = some (h, o) →
        let r := (h.snap.getD Regs.reset).sc
        let z := t.sc c
        (t.ctx c).task = some tr ∧ (t.ctx c).down = false ∧ z.sup = false ∧ z.x = r.x ∧ z.mgrant = 0 ∧ z.ulipend = 0 ∧
        (t.ctx c).regs.v = (h.snap.getD Regs.reset).v ∧
        z.pstat = (if h.state = 3 then 0 else if o then 2 else 1) ∧
        z.pc = (if h.state = 3 ∨ r.rvec = 0 then h.pc else r.rvec))) ∧
  (∀ k (s : State), let cs := (((coreCtxs k).filter fun c => (s.ctx c).task.isSome).map s.gangOf).flatten.dedup
    ((s.core k).powered = false → Completes (.plannedStop k) s fun t => t = s) ∧
    ((s.core k).powered = true → s.slotsFor cs = false → Completes (.plannedStop k) s fun t =>
      t = s.setCore k { s.core k with floorHold := true }) ∧
    ((s.core k).floorHold = true → s.clkS k = 1) ∧
    ((s.core k).powered = true → s.slotsFor cs = true → s.userLevel cs = false → Completes (.plannedStop k) s fun t =>
      t = s.askStop cs .planned) ∧
    ((s.core k).powered = true → s.slotsFor cs = true → s.userLevel cs = true → NonePassed s cs →
      Completes (.plannedStop k) s fun t =>
        (t.core k).powered = false ∧ (∀ c ∈ cs, SavedAway s t c ∧
          ∃ h ∈ [(t.ctx c).holmA, (t.ctx c).holmB], h.state = 3 ∧ h.task = (s.ctx c).task) ∧
        OtherContexts (· ∈ cs) s t))

/-- R356 to R360: a start takes copy A of an image if it is admitted, else copy B; without a supervisor BOOTST says stage 15,
error 2, without sound links error 3, and without a stack error 4, and no context starts; else stage 3, LSHARE and parity as the image
says, the ports trained or offline, and context 0 runs the image at S level with x10 the address of the boot report. A module that runs
does not start again. How training ends is an input of the model (log entry 35). -/
def Sys2Proof.Spec.ModuleStarts : Prop :=
  (∀ k n a b, (admitted k n ⟨a⟩ = true → chooseCopy k n a b = some ⟨a⟩) ∧
    (admitted k n ⟨a⟩ = false → admitted k n ⟨b⟩ = true → chooseCopy k n a b = some ⟨b⟩) ∧
    (admitted k n ⟨a⟩ = false → admitted k n ⟨b⟩ = false → chooseCopy k n a b = none)) ∧
  (∀ (f : Flash) (x : Training) (s : State),
    (s.skerry.booted = true → s.skerry.powered = true → Completes (.cardPowerOn f x) s fun t => t = s) ∧
    (s.skerry.booted = false ∨ s.skerry.powered = false → let u := s.powerUp
      let patch := (chooseCopy u.skerry 1 f.patchA f.patchB).isSome
      (chooseCopy u.skerry 2 f.supA f.supB = none → Completes (.cardPowerOn f x) s fun t =>
        t.host.bootst.toNat = 15 + 2 * 16 + (if patch then 2 ^ 13 else 0) ∧ t.ctxs = u.ctxs) ∧
      (∀ i, chooseCopy u.skerry 2 f.supA f.supB = some i → let par := i.field 0x28 1 = 1
        (x.sound = false → Completes (.cardPowerOn f x) s fun t =>
          t.host.bootst.toNat % 256 = 15 + 3 * 16 ∧ t.ctxs = u.ctxs) ∧
        (x.sound = true → (∀ k, k ∈ x.badStacks) → Completes (.cardPowerOn f x) s fun t =>
          t.host.bootst.toNat % 256 = 15 + 4 * 16 ∧ t.ctxs = u.ctxs) ∧
        (x.sound = true → (∃ k, k ∉ x.badStacks) → Completes (.cardPowerOn f x) s fun t =>
          (∀ p, if p ∈ x.badPorts then (t.port p).down = true ∧ (t.port p).lanes = 0
            else (t.port p).down = false ∧ (t.port p).lanes = 3 ∧ (t.port p).npeer = x.peers[p.val]) ∧
          (t.ctx 0).task.isSome = true ∧ (t.sc 0).sup = true ∧ (t.sc 0).rx 10 = 0 ∧
          (t.sc 0).pc = BitVec.ofNat 64 (i.field 0x18 8 + i.field 0x20 4) ∧
          (t.sc 0).stvec = BitVec.ofNat 64 (i.field 0x18 8 + i.field 0x24 4) ∧
          t.host.bootst.toNat = 3 + (if patch then 0 else 16) + (if par then 2 ^ 12 else 0) + (if patch then 2 ^ 13 else 0) ∧
          t.skerry.booted = true ∧ t.skerry.lshare = i.field 0x29 1 ∧ (t.skerry.parity = true ↔ par)))))

/-- R358: what an image needs to be admitted: the header conditions of its kind, the hash of its payload, both signatures over its first
112 bytes, and a security version at or above the fused one. -/
def Sys2Proof.Spec.ImagesAreAdmitted : Prop :=
  ∀ (k : Skerry) (n : Nat) (b : List Byte), let i : Signed := ⟨b⟩
    admitted k n i = true ↔ (if n = 1 then i.patchOk else i.supOk) = true ∧
      sha384 ((b.drop 2048).take (leNat ((b.drop 16).take 8))) = (b.drop 64).take 48 ∧
      ecdsaVerify (Config.romEcdsaKey.1.toNat, Config.romEcdsaKey.2.toNat) (sha384 (b.take 112))
        (leNat ((b.drop 112).take 48)) (leNat ((b.drop 160).take 48)) = true ∧
      lmsVerify (beBytes 16 Config.romLmsId.toNat) (beBytes 32 Config.romLmsRoot.toNat) (b.take 112) ((b.drop 216).take 1452) = true ∧ k.minVer.getD (n - 1) 0 ≤ leNat ((b.drop 8).take 4)

/-- R360: the boot report at physical address 0, with the digests of the headers, and the leaf index of the attestation key, which
stays at 32,768. -/
def Sys2Proof.Spec.BootReportIsWritten : Prop :=
  ∀ (s : State) (patch : Option Signed) (sup : Signed) (x : Training) (certs : List Byte), Canonical s →
    let u := s.bootReport patch sup x certs
    u.mem.le 0 8 = s.host.bootst.toNat ∧ u.mem.le 0x28 1 = s.skerry.lshare % 256 ∧
    (∀ k : Fin 16, (u.mem.le 0x29 2).testBit k.val = true ↔ k ∈ x.badStacks) ∧
    (∀ p : PortIx, (u.mem.le 0x2B 1).testBit p.val = true ↔ p ∈ x.badPorts) ∧
    (patch = none → u.mem.le 0x70 48 = 0 ∧ u.mem.le 0xD0 4 = 0) ∧
    (∀ i, patch = some i → u.mem.bytes 0x70 48 = sha384 (i.bytes.take 2048)) ∧
    u.mem.bytes 0xA0 48 = sha384 (sup.bytes.take 2048) ∧ u.mem.le 0xD4 4 = sup.version ∧ u.mem.le 0xEC 20 = 0 ∧
    (s.skerry.lmsLeaf < 32768 → u.skerry.lmsLeaf = s.skerry.lmsLeaf + 1) ∧
    (32768 ≤ s.skerry.lmsLeaf → u.skerry.lmsLeaf = s.skerry.lmsLeaf ∧ u.mem.le 0x160 1612 = 0) ∧
    (∀ a, 8192 ≤ a → u.mem.byte a = s.mem.byte a) ∧ u.ctxs = s.ctxs

/-- R275, R308 to R310, R347, R354, R356 to R360: losing power, regaining it, and the start of the module. That a core
waits for LQB_WRITE on its die is read from R310 (log entry 18); a cut PFENCE.CORE and CYCLE rest on log entry 11, what a resume keeps
and a planned stop asks on log entry 36, the end of training on log entry 35. -/
def Obligations.PowerAndStart : Prop := PowerIsLost ∧ PowerReturns ∧ ModuleStarts ∧ ImagesAreAdmitted ∧ BootReportIsWritten

/-! ### The whole machine -/

/-- R70: x0 reads zero and a write to it is discarded; a write to another register changes that one alone. -/
def Obligations.ZeroRegister : Prop :=
  ∀ (z : Scalar) (r : XReg) v, z.rx 0 = 0 ∧ z.wx 0 v = z ∧ (r ≠ 0 → (z.wx r v).rx r = v) ∧
    (∀ k, k ≠ r → (z.wx r v).rx k = z.rx k) ∧ z.wx r v = { z with x := (z.wx r v).x }

/-- Tables 2-4, 5-5 to 5-9, 19-9, 19-10, 21-3, 23-1, 23-4, 23-5, 24-4, R342: the values that the tables of the registers state for reset:
the CSRs, the feeds and records of a context, the dispatch and port pages, the host page with its bindings, the thermal words. That the
first flit on a link has the number 1 is read from R328 (log entry 42). -/
def Obligations.ResetValues : Prop :=
  let s := State.reset
  (∀ c, let z := s.sc c
    z.vl = 0 ∧ z.vt = 0x7E5 ∧ z.vstart = 0 ∧ z.theta = 0 ∧ z.wlim = 4096 ∧ z.fflags = 0 ∧ z.frm = 0 ∧ z.fiboff = 0 ∧
    z.sstr = 0 ∧ z.pwaddr = 0 ∧ z.ulien = false ∧ z.ulinh = false ∧ z.ulipend = 0 ∧ z.mgrant = 0 ∧ z.mstate = 0 ∧
    z.ulivec = 0 ∧ z.rvec = 0 ∧ z.pstat = 0 ∧ z.instret = 0 ∧ (∀ n : Fin 4, z.vtf[n.val] = 0) ∧ (s.ctx c).task = none ∧
    (∀ h ∈ [(s.ctx c).holmA, (s.ctx c).holmB], h.seq = 0 ∧ h.state = 0) ∧ ∀ f : FeedIx, (s.ctx c).regs.feeds[f.val].st = .idle) ∧
  (∀ k, (s.core k).vcap = 8 ∧ (s.core k).lratio = 1 ∧ (s.core k).pspb = 0 ∧ (s.core k).cycle = 0) ∧
  (∀ d, (s.die d).dslice = 4194304 ∧ s.depn d = 0 ∧ (s.die d).dfqb = 0 ∧ (s.die d).dfqlost = 0 ∧ (s.die d).dcsa = 0 ∧
    (s.die d).dcsn = 0 ∧ (s.die d).dsatp = 0 ∧ (s.die d).dasb = 0 ∧ (s.die d).dasn = 0) ∧
  (∀ p, (s.port p).lanes = 0 ∧ (s.port p).npeer = 0 ∧ (s.port p).nrsatp = 0 ∧ (s.port p).nakOut = false ∧
    ((s.port p).expect + 2 ^ 24 - 1) % 2 ^ 24 = 0 ∧ (∀ e : Fin 64, (s.port p).outW[e.val] = (0, 0)) ∧
    ∀ e : Fin 16, (s.port p).inW[e.val] = ⟨0, 0, 0, false⟩) ∧
  (s.host.winbase = 0 ∧ s.host.hcsatp = 0 ∧ s.host.nself = 0 ∧ (∀ a : Fin 8, s.host.queues[a.val] = ⟨0, false, false⟩) ∧
    (∀ j : Fin 16, s.host.pace[j.val] = (0, 0, false)) ∧
    ∀ b : Fin 256, let m := s.host.msix[b.val]
      m.obj = 0 ∧ m.kind = 0 ∧ m.vec = 0 ∧ m.armed = false) ∧
  (∀ q, s.thermalWord q = 16 <<< 34 ||| 8 <<< 39) ∧ s.host.bootst = 0 ∧ s.host.accepted = none ∧ s.launches = []

/-- Reset memory, Holm memory, scratchpads and gradient slots are in canonical form. -/
def Obligations.ResetIsCanonical : Prop := Canonical State.reset

/-- Every step keeps memory, Holm memory, scratchpads and gradient slots in canonical form, so equal contents are equal
data. -/
def Obligations.StepKeepsCanonical : Prop := ∀ s t : State, Canonical s → step s = .next t → Canonical t

/-- Every instruction answers a next state but an element word without a block, which faults by name; every step answers a
next state. -/
def Obligations.EveryStepGoesOn : Prop :=
  (∀ s : State, s.goesOn) ∧
  (∀ (i : Instr) (s : State), (∃ w, decodeS w = .ok i) ∨ isEvent i = true → ∃ t, exec i s = .next t) ∧
  (∀ (i : Instr) (s : State), (∃ w, decodeE w = .ok i) → (s.me.block.isSome = true → ∃ t, exec i s = .next t) ∧
    (s.me.block = none → exec i s = .fault .noBlock))

/-- R42, R43, R50, R118, R130, R278: a step whose next act is the scalar pipe of a context that may issue runs the instruction that the word at the
pc decodes to, keeps the translations it made where the run keeps them, then ends the context's task if its gang has ended, counts a
scalar cycle and looks at the armed bindings; a word that decodes to none, or cannot be fetched, is its trap; one that needs a VIQ entry
in the state of R50 is ILLEGAL; where the next cannot issue yet, the cycle passes without it. The lanes run the next word of the block in
flight, and older entries that have passed their fault points before a word that ends it (R47); an event acts. Without power nothing
happens but CARD_POWER_ON (R354). -/
def Sys2Proof.Spec.StepRunsTheDecodedInstruction : Prop :=
  ∀ (s : State) c rest, let r : State := { s with agenda := rest }
    let u := r.fetching c
    let on := s.skerry.powered = true
    let after := fun t : State => ((t.endAsked c).tick (CtxIx.core c) [(c, r.prioOf c)]).settle
    (s.agenda = .issue c :: rest → on → r.awake c = false → step s = .next r.settle) ∧
    (s.agenda = .issue c :: rest → on → r.awake c = true → u.sc c = s.sc c ∧ u.mem = s.mem ∧ u.cur = c ∧
      (∀ w v i t, u.fetchWord = .ok (w, v) → decodeS w = .ok i → v.canIssue i = true → v.deadlocked i = false →
        v.me.badRegs = [] ∨ v.faultsBare i = true → exec i v = .next t →
        step s = .next (after (v.keepXlates t i)) ∧ (s.choices.fill = false → v.keepXlates t i = t)) ∧
      (∀ w v i, u.fetchWord = .ok (w, v) → decodeS w = .ok i → v.deadlocked i = true → ∃ t, step s = .next (after t) ∧
        t.mySc.scause = 0x01 ∧ t.mySc.saddr = v.mySc.pc ∧ t.mySc.sepc = v.mySc.pc ∧ t.mySc.sup = true ∧
        t.mySc.pc = v.mySc.stvec &&& ~~~3#64 ∧ t.me.viq = v.me.viq ∧ t.mem = v.mem) ∧
      (∀ w v i, u.fetchWord = .ok (w, v) → decodeS w = .ok i → v.canIssue i = false →
        step s = .next (r.tick (CtxIx.core c) []).settle) ∧
      (∀ w v d, u.fetchWord = .ok (w, v) → decodeS w = .error d →
        step s = .next (after (v.pointTrap ⟨defectCause d, 0, v.mySc.pc⟩))) ∧
      (∀ tr, u.fetchWord = .error tr → step s = .next (after (u.scalarTrap tr))) ∧
      (∀ pa, u.mySc.pc.toNat % 4 = 0 → u.fetchLoc u.scalarAgent u.mySc.pc 4 = .ok pa → u.me.icache = [] → s.choices.fill = false →
        ∃ v, u.fetchWord = .ok (s.mem.le pa 4, v) ∧ v = u.setMe { u.me with icache := v.me.icache })) ∧
    (s.agenda = .lanes c :: rest → on → let u : State := { r with laneTurn := c, cur := c }
      ∀ b w i t, u.me.block = some b → b.words[b.pos]? = some w → decodeE w.toNat = .ok i → u.wordBad b i = [] → exec i u = .next t →
        (t.me.block ≠ none ∨ (∀ e ∈ u.me.viq, e.passed = none) → step s = .next t.settle) ∧
        (t.me.block = none → (∃ e ∈ u.me.viq, e.passed ≠ none) → step s = .next (u.perform 0).settle)) ∧
    (∀ i t, s.agenda = .event i :: rest → on → isEvent i = true → exec i r = .next t → step s = .next t.settle) ∧
    (∀ f x t, s.agenda = .event (.cardPowerOn f x) :: rest → exec (.cardPowerOn f x) r = .next t → step s = .next t.settle) ∧
    (¬ on → (s.agenda = [] → step s = .next s) ∧
      ∀ a, s.agenda = a :: rest → (∀ f x, a ≠ .event (.cardPowerOn f x)) → step s = .next r)

/-- R42, R43: a core's two issue slots go to ready contexts and to no context twice; the first goes to the one that has waited longest
among those that have not issued for 12 cycles, else to one of the highest class; a slot stays empty only when no further context is
ready. A scalar cycle of a core with power issues to those slots and counts. Contexts without a task or without power, parked, or with
a delivery that is due, are not ready, and neither are those in `late`, whose next word or source register is not available yet, which
is the agenda's to say (log entry 5). -/
def Sys2Proof.Spec.SelectorFillsTheSlots : Prop :=
  (∀ (s : State) c, s.ready c = true → (s.ctx c).task.isSome = true ∧ (s.core (CtxIx.core c)).powered = true ∧
    (s.ctx c).parked = none ∧ (s.sc c).uliDue = false) ∧
  (∀ (s : State) (k : CoreIx) late, let rs := fun c => CtxIx.core c = k ∧ s.ready c = true ∧ c ∉ late
    (s.slots2 k late = [] ↔ ∀ c, ¬ rs c) ∧
    (∀ a l, s.slots2 k late = a :: l → rs a ∧
      (∀ d, rs d → 12 ≤ (s.ctx d).waited → (s.ctx d).waited ≤ (s.ctx a).waited) ∧
      ((∀ d, rs d → (s.ctx d).waited < 12) → ∀ d, rs d → s.prioOf d ≤ s.prioOf a) ∧
      ((∀ d, rs d → d = a) → l = []) ∧ (∀ d, rs d → d ≠ a → ∃ b, l = [b] ∧ rs b ∧ b ≠ a))) ∧
  ∀ (s : State) (k : CoreIx) late rest t, s.agenda = .cycle k late :: rest → s.skerry.powered = true → (s.core k).powered = true →
    let r : State := { s with agenda := rest }
    let cs := r.slots2 k late
    r.issueAll cs = .next t → step s = .next (t.tick k (cs.map fun c => (c, r.prioOf c))).settle

/-- R42, R43, R45, R118, R130, R278: what one step runs. That one context issues in an act of its own, and that a step then looks at
the bindings, is the form of this model (log entry 5). -/
def Obligations.StepRuns : Prop := StepRunsTheDecodedInstruction ∧ SelectorFillsTheSlots ∧ LanesTakeTheOldestEntry

/-- An instruction changes no other context than its own, but for TSTOP, which stops one, and QINIT, which ends what is parked
on the block. -/
def Sys2Proof.Spec.InstructionsKeepToTheirContext : Prop :=
  ∀ (i : Instr) (s t : State), isEvent i = false → (∀ o, i ≠ .tstop o) → (∀ a b c, i ≠ .qinit a b c) → exec i s = .next t →
    t.cur = s.cur ∧ ∀ c, c ≠ s.cur → t.ctx c = s.ctx c

/-- R313: at user level no scalar-stream instruction reaches S level but by a trap, which goes to STVEC and keeps that the level
was user. -/
def Sys2Proof.Spec.PrivilegeRisesOnlyByTraps : Prop :=
  ∀ (w : Nat) (i : Instr) (s t : State), decodeS w = .ok i → s.mySc.sup = false → (∀ q ∈ s.qwaits, q.ctx ≠ s.cur) →
    exec i s = .next t → t.mySc.sup = true →
    t.mySc.pc = s.mySc.stvec &&& ~~~3#64 ∧ t.mySc.sstatus.getLsbD 0 = false

/-- R69, R313: an instruction acts on its own context, and only a trap raises the level. -/
def Obligations.InstructionsKeepTheirPlace : Prop := InstructionsKeepToTheirContext ∧ PrivilegeRisesOnlyByTraps

end
end

