-- ==== Sys2Proof/Laws/State.lean ====
section
/-!
SUPPORT. What each update of the state leaves and changes, one lemma for each field and update.
-/
namespace Sys2Proof.Machine

/-! ### setCtx -/

@[simp] theorem State.setCtx_cores (s : State) (c : CtxIx) (x : Context) : (s.setCtx c x).cores = s.cores := rfl
@[simp] theorem State.setCtx_quads (s : State) (c : CtxIx) (x : Context) : (s.setCtx c x).quads = s.quads := rfl
@[simp] theorem State.setCtx_dies (s : State) (c : CtxIx) (x : Context) : (s.setCtx c x).dies = s.dies := rfl
@[simp] theorem State.setCtx_ports (s : State) (c : CtxIx) (x : Context) : (s.setCtx c x).ports = s.ports := rfl
@[simp] theorem State.setCtx_host (s : State) (c : CtxIx) (x : Context) : (s.setCtx c x).host = s.host := rfl
@[simp] theorem State.setCtx_skerry (s : State) (c : CtxIx) (x : Context) : (s.setCtx c x).skerry = s.skerry := rfl
@[simp] theorem State.setCtx_mem (s : State) (c : CtxIx) (x : Context) : (s.setCtx c x).mem = s.mem := rfl
@[simp] theorem State.setCtx_mram (s : State) (c : CtxIx) (x : Context) : (s.setCtx c x).mram = s.mram := rfl
@[simp] theorem State.setCtx_holmOwn (s : State) (c : CtxIx) (x : Context) : (s.setCtx c x).holmOwn = s.holmOwn := rfl
@[simp] theorem State.setCtx_dirty (s : State) (c : CtxIx) (x : Context) : (s.setCtx c x).dirty = s.dirty := rfl
@[simp] theorem State.setCtx_marks (s : State) (c : CtxIx) (x : Context) : (s.setCtx c x).marks = s.marks := rfl
@[simp] theorem State.setCtx_qwaits (s : State) (c : CtxIx) (x : Context) : (s.setCtx c x).qwaits = s.qwaits := rfl
@[simp] theorem State.setCtx_bwaits (s : State) (c : CtxIx) (x : Context) : (s.setCtx c x).bwaits = s.bwaits := rfl
@[simp] theorem State.setCtx_binds (s : State) (c : CtxIx) (x : Context) : (s.setCtx c x).binds = s.binds := rfl
@[simp] theorem State.setCtx_launches (s : State) (c : CtxIx) (x : Context) : (s.setCtx c x).launches = s.launches := rfl
@[simp] theorem State.setCtx_readySeq (s : State) (c : CtxIx) (x : Context) : (s.setCtx c x).readySeq = s.readySeq := rfl
@[simp] theorem State.setCtx_counts (s : State) (c : CtxIx) (x : Context) : (s.setCtx c x).counts = s.counts := rfl
@[simp] theorem State.setCtx_nsends (s : State) (c : CtxIx) (x : Context) : (s.setCtx c x).nsends = s.nsends := rfl
@[simp] theorem State.setCtx_jobs (s : State) (c : CtxIx) (x : Context) : (s.setCtx c x).jobs = s.jobs := rfl
@[simp] theorem State.setCtx_contribs (s : State) (c : CtxIx) (x : Context) : (s.setCtx c x).contribs = s.contribs := rfl
@[simp] theorem State.setCtx_retire (s : State) (c : CtxIx) (x : Context) : (s.setCtx c x).retire = s.retire := rfl
@[simp] theorem State.setCtx_lpFailed (s : State) (c : CtxIx) (x : Context) : (s.setCtx c x).lpFailed = s.lpFailed := rfl
@[simp] theorem State.setCtx_nextId (s : State) (c : CtxIx) (x : Context) : (s.setCtx c x).nextId = s.nextId := rfl
@[simp] theorem State.setCtx_cur (s : State) (c : CtxIx) (x : Context) : (s.setCtx c x).cur = s.cur := rfl
@[simp] theorem State.setCtx_turn (s : State) (c : CtxIx) (x : Context) : (s.setCtx c x).turn = s.turn := rfl
@[simp] theorem State.setCtx_laneTurn (s : State) (c : CtxIx) (x : Context) : (s.setCtx c x).laneTurn = s.laneTurn := rfl
@[simp] theorem State.setCtx_l1 (s : State) (c : CtxIx) (x : Context) : (s.setCtx c x).l1 = s.l1 := rfl
@[simp] theorem State.setCtx_dispatched (s : State) (c : CtxIx) (x : Context) : (s.setCtx c x).dispatched = s.dispatched := rfl
@[simp] theorem State.setCtx_agenda (s : State) (c : CtxIx) (x : Context) : (s.setCtx c x).agenda = s.agenda := rfl
@[simp] theorem State.setCtx_choices (s : State) (c : CtxIx) (x : Context) : (s.setCtx c x).choices = s.choices := rfl
@[simp] theorem State.setCtx_freeCtr (s : State) (c : CtxIx) (x : Context) : (s.setCtx c x).freeCtr = s.freeCtr := rfl
@[simp] theorem State.setCtx_core (s : State) (c : CtxIx) (x : Context) (k : CoreIx) : (s.setCtx c x).core k = s.core k := rfl
@[simp] theorem State.setCtx_quad (s : State) (c : CtxIx) (x : Context) (k : QuadIx) : (s.setCtx c x).quad k = s.quad k := rfl
@[simp] theorem State.setCtx_die (s : State) (c : CtxIx) (x : Context) (k : DieIx) : (s.setCtx c x).die k = s.die k := rfl
@[simp] theorem State.setCtx_port (s : State) (c : CtxIx) (x : Context) (k : PortIx) : (s.setCtx c x).port k = s.port k := rfl
@[simp] theorem State.setCtx_same (s : State) (c : CtxIx) (x : Context) : (s.setCtx c x).ctx c = x := by
  simp [State.setCtx, State.ctx]
theorem State.setCtx_ne (s : State) (c k : CtxIx) (x : Context) (h : k ≠ c) : (s.setCtx c x).ctx k = s.ctx k := by
  have : c.val ≠ k.val := fun e => h (Fin.ext e.symm)
  simp [State.setCtx, State.ctx, this]
theorem State.setCtx_eq (s : State) (c k : CtxIx) (x : Context) : (s.setCtx c x).ctx k = if k = c then x else s.ctx k := by
  split
  · next h => subst h; simp
  · next h => exact s.setCtx_ne c k x h
@[simp] theorem State.setCtx_setCtx (s : State) (c : CtxIx) (x y : Context) : (s.setCtx c x).setCtx c y = s.setCtx c y := by
  simp [State.setCtx]

/-! ### setCore -/

@[simp] theorem State.setCore_ctxs (s : State) (c : CoreIx) (x : Core) : (s.setCore c x).ctxs = s.ctxs := rfl
@[simp] theorem State.setCore_quads (s : State) (c : CoreIx) (x : Core) : (s.setCore c x).quads = s.quads := rfl
@[simp] theorem State.setCore_dies (s : State) (c : CoreIx) (x : Core) : (s.setCore c x).dies = s.dies := rfl
@[simp] theorem State.setCore_ports (s : State) (c : CoreIx) (x : Core) : (s.setCore c x).ports = s.ports := rfl
@[simp] theorem State.setCore_host (s : State) (c : CoreIx) (x : Core) : (s.setCore c x).host = s.host := rfl
@[simp] theorem State.setCore_skerry (s : State) (c : CoreIx) (x : Core) : (s.setCore c x).skerry = s.skerry := rfl
@[simp] theorem State.setCore_mem (s : State) (c : CoreIx) (x : Core) : (s.setCore c x).mem = s.mem := rfl
@[simp] theorem State.setCore_mram (s : State) (c : CoreIx) (x : Core) : (s.setCore c x).mram = s.mram := rfl
@[simp] theorem State.setCore_holmOwn (s : State) (c : CoreIx) (x : Core) : (s.setCore c x).holmOwn = s.holmOwn := rfl
@[simp] theorem State.setCore_dirty (s : State) (c : CoreIx) (x : Core) : (s.setCore c x).dirty = s.dirty := rfl
@[simp] theorem State.setCore_marks (s : State) (c : CoreIx) (x : Core) : (s.setCore c x).marks = s.marks := rfl
@[simp] theorem State.setCore_qwaits (s : State) (c : CoreIx) (x : Core) : (s.setCore c x).qwaits = s.qwaits := rfl
@[simp] theorem State.setCore_bwaits (s : State) (c : CoreIx) (x : Core) : (s.setCore c x).bwaits = s.bwaits := rfl
@[simp] theorem State.setCore_binds (s : State) (c : CoreIx) (x : Core) : (s.setCore c x).binds = s.binds := rfl
@[simp] theorem State.setCore_launches (s : State) (c : CoreIx) (x : Core) : (s.setCore c x).launches = s.launches := rfl
@[simp] theorem State.setCore_readySeq (s : State) (c : CoreIx) (x : Core) : (s.setCore c x).readySeq = s.readySeq := rfl
@[simp] theorem State.setCore_counts (s : State) (c : CoreIx) (x : Core) : (s.setCore c x).counts = s.counts := rfl
@[simp] theorem State.setCore_nsends (s : State) (c : CoreIx) (x : Core) : (s.setCore c x).nsends = s.nsends := rfl
@[simp] theorem State.setCore_jobs (s : State) (c : CoreIx) (x : Core) : (s.setCore c x).jobs = s.jobs := rfl
@[simp] theorem State.setCore_contribs (s : State) (c : CoreIx) (x : Core) : (s.setCore c x).contribs = s.contribs := rfl
@[simp] theorem State.setCore_retire (s : State) (c : CoreIx) (x : Core) : (s.setCore c x).retire = s.retire := rfl
@[simp] theorem State.setCore_lpFailed (s : State) (c : CoreIx) (x : Core) : (s.setCore c x).lpFailed = s.lpFailed := rfl
@[simp] theorem State.setCore_nextId (s : State) (c : CoreIx) (x : Core) : (s.setCore c x).nextId = s.nextId := rfl
@[simp] theorem State.setCore_cur (s : State) (c : CoreIx) (x : Core) : (s.setCore c x).cur = s.cur := rfl
@[simp] theorem State.setCore_turn (s : State) (c : CoreIx) (x : Core) : (s.setCore c x).turn = s.turn := rfl
@[simp] theorem State.setCore_laneTurn (s : State) (c : CoreIx) (x : Core) : (s.setCore c x).laneTurn = s.laneTurn := rfl
@[simp] theorem State.setCore_l1 (s : State) (c : CoreIx) (x : Core) : (s.setCore c x).l1 = s.l1 := rfl
@[simp] theorem State.setCore_dispatched (s : State) (c : CoreIx) (x : Core) : (s.setCore c x).dispatched = s.dispatched := rfl
@[simp] theorem State.setCore_agenda (s : State) (c : CoreIx) (x : Core) : (s.setCore c x).agenda = s.agenda := rfl
@[simp] theorem State.setCore_choices (s : State) (c : CoreIx) (x : Core) : (s.setCore c x).choices = s.choices := rfl
@[simp] theorem State.setCore_freeCtr (s : State) (c : CoreIx) (x : Core) : (s.setCore c x).freeCtr = s.freeCtr := rfl
@[simp] theorem State.setCore_ctx (s : State) (c : CoreIx) (x : Core) (k : CtxIx) : (s.setCore c x).ctx k = s.ctx k := rfl
@[simp] theorem State.setCore_quad (s : State) (c : CoreIx) (x : Core) (k : QuadIx) : (s.setCore c x).quad k = s.quad k := rfl
@[simp] theorem State.setCore_die (s : State) (c : CoreIx) (x : Core) (k : DieIx) : (s.setCore c x).die k = s.die k := rfl
@[simp] theorem State.setCore_port (s : State) (c : CoreIx) (x : Core) (k : PortIx) : (s.setCore c x).port k = s.port k := rfl
@[simp] theorem State.setCore_same (s : State) (c : CoreIx) (x : Core) : (s.setCore c x).core c = x := by
  simp [State.setCore, State.core]
theorem State.setCore_ne (s : State) (c k : CoreIx) (x : Core) (h : k ≠ c) : (s.setCore c x).core k = s.core k := by
  have : c.val ≠ k.val := fun e => h (Fin.ext e.symm)
  simp [State.setCore, State.core, this]
theorem State.setCore_eq (s : State) (c k : CoreIx) (x : Core) : (s.setCore c x).core k = if k = c then x else s.core k := by
  split
  · next h => subst h; simp
  · next h => exact s.setCore_ne c k x h
@[simp] theorem State.setCore_setCore (s : State) (c : CoreIx) (x y : Core) : (s.setCore c x).setCore c y = s.setCore c y := by
  simp [State.setCore]
@[simp] theorem State.setCore_sc (s : State) (c : CoreIx) (x : Core) (k : CtxIx) : (s.setCore c x).sc k = s.sc k := rfl

/-! ### setQuad -/

@[simp] theorem State.setQuad_ctxs (s : State) (c : QuadIx) (x : Quad) : (s.setQuad c x).ctxs = s.ctxs := rfl
@[simp] theorem State.setQuad_cores (s : State) (c : QuadIx) (x : Quad) : (s.setQuad c x).cores = s.cores := rfl
@[simp] theorem State.setQuad_dies (s : State) (c : QuadIx) (x : Quad) : (s.setQuad c x).dies = s.dies := rfl
@[simp] theorem State.setQuad_ports (s : State) (c : QuadIx) (x : Quad) : (s.setQuad c x).ports = s.ports := rfl
@[simp] theorem State.setQuad_host (s : State) (c : QuadIx) (x : Quad) : (s.setQuad c x).host = s.host := rfl
@[simp] theorem State.setQuad_skerry (s : State) (c : QuadIx) (x : Quad) : (s.setQuad c x).skerry = s.skerry := rfl
@[simp] theorem State.setQuad_mem (s : State) (c : QuadIx) (x : Quad) : (s.setQuad c x).mem = s.mem := rfl
@[simp] theorem State.setQuad_mram (s : State) (c : QuadIx) (x : Quad) : (s.setQuad c x).mram = s.mram := rfl
@[simp] theorem State.setQuad_holmOwn (s : State) (c : QuadIx) (x : Quad) : (s.setQuad c x).holmOwn = s.holmOwn := rfl
@[simp] theorem State.setQuad_dirty (s : State) (c : QuadIx) (x : Quad) : (s.setQuad c x).dirty = s.dirty := rfl
@[simp] theorem State.setQuad_marks (s : State) (c : QuadIx) (x : Quad) : (s.setQuad c x).marks = s.marks := rfl
@[simp] theorem State.setQuad_qwaits (s : State) (c : QuadIx) (x : Quad) : (s.setQuad c x).qwaits = s.qwaits := rfl
@[simp] theorem State.setQuad_bwaits (s : State) (c : QuadIx) (x : Quad) : (s.setQuad c x).bwaits = s.bwaits := rfl
@[simp] theorem State.setQuad_binds (s : State) (c : QuadIx) (x : Quad) : (s.setQuad c x).binds = s.binds := rfl
@[simp] theorem State.setQuad_launches (s : State) (c : QuadIx) (x : Quad) : (s.setQuad c x).launches = s.launches := rfl
@[simp] theorem State.setQuad_readySeq (s : State) (c : QuadIx) (x : Quad) : (s.setQuad c x).readySeq = s.readySeq := rfl
@[simp] theorem State.setQuad_counts (s : State) (c : QuadIx) (x : Quad) : (s.setQuad c x).counts = s.counts := rfl
@[simp] theorem State.setQuad_nsends (s : State) (c : QuadIx) (x : Quad) : (s.setQuad c x).nsends = s.nsends := rfl
@[simp] theorem State.setQuad_jobs (s : State) (c : QuadIx) (x : Quad) : (s.setQuad c x).jobs = s.jobs := rfl
@[simp] theorem State.setQuad_contribs (s : State) (c : QuadIx) (x : Quad) : (s.setQuad c x).contribs = s.contribs := rfl
@[simp] theorem State.setQuad_retire (s : State) (c : QuadIx) (x : Quad) : (s.setQuad c x).retire = s.retire := rfl
@[simp] theorem State.setQuad_lpFailed (s : State) (c : QuadIx) (x : Quad) : (s.setQuad c x).lpFailed = s.lpFailed := rfl
@[simp] theorem State.setQuad_nextId (s : State) (c : QuadIx) (x : Quad) : (s.setQuad c x).nextId = s.nextId := rfl
@[simp] theorem State.setQuad_cur (s : State) (c : QuadIx) (x : Quad) : (s.setQuad c x).cur = s.cur := rfl
@[simp] theorem State.setQuad_turn (s : State) (c : QuadIx) (x : Quad) : (s.setQuad c x).turn = s.turn := rfl
@[simp] theorem State.setQuad_laneTurn (s : State) (c : QuadIx) (x : Quad) : (s.setQuad c x).laneTurn = s.laneTurn := rfl
@[simp] theorem State.setQuad_l1 (s : State) (c : QuadIx) (x : Quad) : (s.setQuad c x).l1 = s.l1 := rfl
@[simp] theorem State.setQuad_dispatched (s : State) (c : QuadIx) (x : Quad) : (s.setQuad c x).dispatched = s.dispatched := rfl
@[simp] theorem State.setQuad_agenda (s : State) (c : QuadIx) (x : Quad) : (s.setQuad c x).agenda = s.agenda := rfl
@[simp] theorem State.setQuad_choices (s : State) (c : QuadIx) (x : Quad) : (s.setQuad c x).choices = s.choices := rfl
@[simp] theorem State.setQuad_freeCtr (s : State) (c : QuadIx) (x : Quad) : (s.setQuad c x).freeCtr = s.freeCtr := rfl
@[simp] theorem State.setQuad_ctx (s : State) (c : QuadIx) (x : Quad) (k : CtxIx) : (s.setQuad c x).ctx k = s.ctx k := rfl
@[simp] theorem State.setQuad_core (s : State) (c : QuadIx) (x : Quad) (k : CoreIx) : (s.setQuad c x).core k = s.core k := rfl
@[simp] theorem State.setQuad_die (s : State) (c : QuadIx) (x : Quad) (k : DieIx) : (s.setQuad c x).die k = s.die k := rfl
@[simp] theorem State.setQuad_port (s : State) (c : QuadIx) (x : Quad) (k : PortIx) : (s.setQuad c x).port k = s.port k := rfl
@[simp] theorem State.setQuad_same (s : State) (c : QuadIx) (x : Quad) : (s.setQuad c x).quad c = x := by
  simp [State.setQuad, State.quad]
theorem State.setQuad_ne (s : State) (c k : QuadIx) (x : Quad) (h : k ≠ c) : (s.setQuad c x).quad k = s.quad k := by
  have : c.val ≠ k.val := fun e => h (Fin.ext e.symm)
  simp [State.setQuad, State.quad, this]
theorem State.setQuad_eq (s : State) (c k : QuadIx) (x : Quad) : (s.setQuad c x).quad k = if k = c then x else s.quad k := by
  split
  · next h => subst h; simp
  · next h => exact s.setQuad_ne c k x h
@[simp] theorem State.setQuad_setQuad (s : State) (c : QuadIx) (x y : Quad) : (s.setQuad c x).setQuad c y = s.setQuad c y := by
  simp [State.setQuad]
@[simp] theorem State.setQuad_sc (s : State) (c : QuadIx) (x : Quad) (k : CtxIx) : (s.setQuad c x).sc k = s.sc k := rfl

/-! ### setDie -/

@[simp] theorem State.setDie_ctxs (s : State) (c : DieIx) (x : Die) : (s.setDie c x).ctxs = s.ctxs := rfl
@[simp] theorem State.setDie_cores (s : State) (c : DieIx) (x : Die) : (s.setDie c x).cores = s.cores := rfl
@[simp] theorem State.setDie_quads (s : State) (c : DieIx) (x : Die) : (s.setDie c x).quads = s.quads := rfl
@[simp] theorem State.setDie_ports (s : State) (c : DieIx) (x : Die) : (s.setDie c x).ports = s.ports := rfl
@[simp] theorem State.setDie_host (s : State) (c : DieIx) (x : Die) : (s.setDie c x).host = s.host := rfl
@[simp] theorem State.setDie_skerry (s : State) (c : DieIx) (x : Die) : (s.setDie c x).skerry = s.skerry := rfl
@[simp] theorem State.setDie_mem (s : State) (c : DieIx) (x : Die) : (s.setDie c x).mem = s.mem := rfl
@[simp] theorem State.setDie_mram (s : State) (c : DieIx) (x : Die) : (s.setDie c x).mram = s.mram := rfl
@[simp] theorem State.setDie_holmOwn (s : State) (c : DieIx) (x : Die) : (s.setDie c x).holmOwn = s.holmOwn := rfl
@[simp] theorem State.setDie_dirty (s : State) (c : DieIx) (x : Die) : (s.setDie c x).dirty = s.dirty := rfl
@[simp] theorem State.setDie_marks (s : State) (c : DieIx) (x : Die) : (s.setDie c x).marks = s.marks := rfl
@[simp] theorem State.setDie_qwaits (s : State) (c : DieIx) (x : Die) : (s.setDie c x).qwaits = s.qwaits := rfl
@[simp] theorem State.setDie_bwaits (s : State) (c : DieIx) (x : Die) : (s.setDie c x).bwaits = s.bwaits := rfl
@[simp] theorem State.setDie_binds (s : State) (c : DieIx) (x : Die) : (s.setDie c x).binds = s.binds := rfl
@[simp] theorem State.setDie_launches (s : State) (c : DieIx) (x : Die) : (s.setDie c x).launches = s.launches := rfl
@[simp] theorem State.setDie_readySeq (s : State) (c : DieIx) (x : Die) : (s.setDie c x).readySeq = s.readySeq := rfl
@[simp] theorem State.setDie_counts (s : State) (c : DieIx) (x : Die) : (s.setDie c x).counts = s.counts := rfl
@[simp] theorem State.setDie_nsends (s : State) (c : DieIx) (x : Die) : (s.setDie c x).nsends = s.nsends := rfl
@[simp] theorem State.setDie_jobs (s : State) (c : DieIx) (x : Die) : (s.setDie c x).jobs = s.jobs := rfl
@[simp] theorem State.setDie_contribs (s : State) (c : DieIx) (x : Die) : (s.setDie c x).contribs = s.contribs := rfl
@[simp] theorem State.setDie_retire (s : State) (c : DieIx) (x : Die) : (s.setDie c x).retire = s.retire := rfl
@[simp] theorem State.setDie_lpFailed (s : State) (c : DieIx) (x : Die) : (s.setDie c x).lpFailed = s.lpFailed := rfl
@[simp] theorem State.setDie_nextId (s : State) (c : DieIx) (x : Die) : (s.setDie c x).nextId = s.nextId := rfl
@[simp] theorem State.setDie_cur (s : State) (c : DieIx) (x : Die) : (s.setDie c x).cur = s.cur := rfl
@[simp] theorem State.setDie_turn (s : State) (c : DieIx) (x : Die) : (s.setDie c x).turn = s.turn := rfl
@[simp] theorem State.setDie_laneTurn (s : State) (c : DieIx) (x : Die) : (s.setDie c x).laneTurn = s.laneTurn := rfl
@[simp] theorem State.setDie_l1 (s : State) (c : DieIx) (x : Die) : (s.setDie c x).l1 = s.l1 := rfl
@[simp] theorem State.setDie_dispatched (s : State) (c : DieIx) (x : Die) : (s.setDie c x).dispatched = s.dispatched := rfl
@[simp] theorem State.setDie_agenda (s : State) (c : DieIx) (x : Die) : (s.setDie c x).agenda = s.agenda := rfl
@[simp] theorem State.setDie_choices (s : State) (c : DieIx) (x : Die) : (s.setDie c x).choices = s.choices := rfl
@[simp] theorem State.setDie_freeCtr (s : State) (c : DieIx) (x : Die) : (s.setDie c x).freeCtr = s.freeCtr := rfl
@[simp] theorem State.setDie_ctx (s : State) (c : DieIx) (x : Die) (k : CtxIx) : (s.setDie c x).ctx k = s.ctx k := rfl
@[simp] theorem State.setDie_core (s : State) (c : DieIx) (x : Die) (k : CoreIx) : (s.setDie c x).core k = s.core k := rfl
@[simp] theorem State.setDie_quad (s : State) (c : DieIx) (x : Die) (k : QuadIx) : (s.setDie c x).quad k = s.quad k := rfl
@[simp] theorem State.setDie_port (s : State) (c : DieIx) (x : Die) (k : PortIx) : (s.setDie c x).port k = s.port k := rfl
@[simp] theorem State.setDie_same (s : State) (c : DieIx) (x : Die) : (s.setDie c x).die c = x := by
  simp [State.setDie, State.die]
theorem State.setDie_ne (s : State) (c k : DieIx) (x : Die) (h : k ≠ c) : (s.setDie c x).die k = s.die k := by
  have : c.val ≠ k.val := fun e => h (Fin.ext e.symm)
  simp [State.setDie, State.die, this]
theorem State.setDie_eq (s : State) (c k : DieIx) (x : Die) : (s.setDie c x).die k = if k = c then x else s.die k := by
  split
  · next h => subst h; simp
  · next h => exact s.setDie_ne c k x h
@[simp] theorem State.setDie_setDie (s : State) (c : DieIx) (x y : Die) : (s.setDie c x).setDie c y = s.setDie c y := by
  simp [State.setDie]
@[simp] theorem State.setDie_sc (s : State) (c : DieIx) (x : Die) (k : CtxIx) : (s.setDie c x).sc k = s.sc k := rfl

/-! ### setPort -/

@[simp] theorem State.setPort_ctxs (s : State) (c : PortIx) (x : Port) : (s.setPort c x).ctxs = s.ctxs := rfl
@[simp] theorem State.setPort_cores (s : State) (c : PortIx) (x : Port) : (s.setPort c x).cores = s.cores := rfl
@[simp] theorem State.setPort_quads (s : State) (c : PortIx) (x : Port) : (s.setPort c x).quads = s.quads := rfl
@[simp] theorem State.setPort_dies (s : State) (c : PortIx) (x : Port) : (s.setPort c x).dies = s.dies := rfl
@[simp] theorem State.setPort_host (s : State) (c : PortIx) (x : Port) : (s.setPort c x).host = s.host := rfl
@[simp] theorem State.setPort_skerry (s : State) (c : PortIx) (x : Port) : (s.setPort c x).skerry = s.skerry := rfl
@[simp] theorem State.setPort_mem (s : State) (c : PortIx) (x : Port) : (s.setPort c x).mem = s.mem := rfl
@[simp] theorem State.setPort_mram (s : State) (c : PortIx) (x : Port) : (s.setPort c x).mram = s.mram := rfl
@[simp] theorem State.setPort_holmOwn (s : State) (c : PortIx) (x : Port) : (s.setPort c x).holmOwn = s.holmOwn := rfl
@[simp] theorem State.setPort_dirty (s : State) (c : PortIx) (x : Port) : (s.setPort c x).dirty = s.dirty := rfl
@[simp] theorem State.setPort_marks (s : State) (c : PortIx) (x : Port) : (s.setPort c x).marks = s.marks := rfl
@[simp] theorem State.setPort_qwaits (s : State) (c : PortIx) (x : Port) : (s.setPort c x).qwaits = s.qwaits := rfl
@[simp] theorem State.setPort_bwaits (s : State) (c : PortIx) (x : Port) : (s.setPort c x).bwaits = s.bwaits := rfl
@[simp] theorem State.setPort_binds (s : State) (c : PortIx) (x : Port) : (s.setPort c x).binds = s.binds := rfl
@[simp] theorem State.setPort_launches (s : State) (c : PortIx) (x : Port) : (s.setPort c x).launches = s.launches := rfl
@[simp] theorem State.setPort_readySeq (s : State) (c : PortIx) (x : Port) : (s.setPort c x).readySeq = s.readySeq := rfl
@[simp] theorem State.setPort_counts (s : State) (c : PortIx) (x : Port) : (s.setPort c x).counts = s.counts := rfl
@[simp] theorem State.setPort_nsends (s : State) (c : PortIx) (x : Port) : (s.setPort c x).nsends = s.nsends := rfl
@[simp] theorem State.setPort_jobs (s : State) (c : PortIx) (x : Port) : (s.setPort c x).jobs = s.jobs := rfl
@[simp] theorem State.setPort_contribs (s : State) (c : PortIx) (x : Port) : (s.setPort c x).contribs = s.contribs := rfl
@[simp] theorem State.setPort_retire (s : State) (c : PortIx) (x : Port) : (s.setPort c x).retire = s.retire := rfl
@[simp] theorem State.setPort_lpFailed (s : State) (c : PortIx) (x : Port) : (s.setPort c x).lpFailed = s.lpFailed := rfl
@[simp] theorem State.setPort_nextId (s : State) (c : PortIx) (x : Port) : (s.setPort c x).nextId = s.nextId := rfl
@[simp] theorem State.setPort_cur (s : State) (c : PortIx) (x : Port) : (s.setPort c x).cur = s.cur := rfl
@[simp] theorem State.setPort_turn (s : State) (c : PortIx) (x : Port) : (s.setPort c x).turn = s.turn := rfl
@[simp] theorem State.setPort_laneTurn (s : State) (c : PortIx) (x : Port) : (s.setPort c x).laneTurn = s.laneTurn := rfl
@[simp] theorem State.setPort_l1 (s : State) (c : PortIx) (x : Port) : (s.setPort c x).l1 = s.l1 := rfl
@[simp] theorem State.setPort_dispatched (s : State) (c : PortIx) (x : Port) : (s.setPort c x).dispatched = s.dispatched := rfl
@[simp] theorem State.setPort_agenda (s : State) (c : PortIx) (x : Port) : (s.setPort c x).agenda = s.agenda := rfl
@[simp] theorem State.setPort_choices (s : State) (c : PortIx) (x : Port) : (s.setPort c x).choices = s.choices := rfl
@[simp] theorem State.setPort_freeCtr (s : State) (c : PortIx) (x : Port) : (s.setPort c x).freeCtr = s.freeCtr := rfl
@[simp] theorem State.setPort_ctx (s : State) (c : PortIx) (x : Port) (k : CtxIx) : (s.setPort c x).ctx k = s.ctx k := rfl
@[simp] theorem State.setPort_core (s : State) (c : PortIx) (x : Port) (k : CoreIx) : (s.setPort c x).core k = s.core k := rfl
@[simp] theorem State.setPort_quad (s : State) (c : PortIx) (x : Port) (k : QuadIx) : (s.setPort c x).quad k = s.quad k := rfl
@[simp] theorem State.setPort_die (s : State) (c : PortIx) (x : Port) (k : DieIx) : (s.setPort c x).die k = s.die k := rfl
@[simp] theorem State.setPort_same (s : State) (c : PortIx) (x : Port) : (s.setPort c x).port c = x := by
  simp [State.setPort, State.port]
theorem State.setPort_ne (s : State) (c k : PortIx) (x : Port) (h : k ≠ c) : (s.setPort c x).port k = s.port k := by
  have : c.val ≠ k.val := fun e => h (Fin.ext e.symm)
  simp [State.setPort, State.port, this]
theorem State.setPort_eq (s : State) (c k : PortIx) (x : Port) : (s.setPort c x).port k = if k = c then x else s.port k := by
  split
  · next h => subst h; simp
  · next h => exact s.setPort_ne c k x h
@[simp] theorem State.setPort_setPort (s : State) (c : PortIx) (x y : Port) : (s.setPort c x).setPort c y = s.setPort c y := by
  simp [State.setPort]
@[simp] theorem State.setPort_sc (s : State) (c : PortIx) (x : Port) (k : CtxIx) : (s.setPort c x).sc k = s.sc k := rfl

/-! ### setSc -/

@[simp] theorem Context.setSc_viq (x : Context) (sc : Scalar) : (x.setSc sc).viq = x.viq := rfl
@[simp] theorem Context.setSc_block (x : Context) (sc : Scalar) : (x.setSc sc).block = x.block := rfl
@[simp] theorem Context.setSc_parked (x : Context) (sc : Scalar) : (x.setSc sc).parked = x.parked := rfl
@[simp] theorem Context.setSc_task (x : Context) (sc : Scalar) : (x.setSc sc).task = x.task := rfl
@[simp] theorem Context.setSc_startedAt (x : Context) (sc : Scalar) : (x.setSc sc).startedAt = x.startedAt := rfl
@[simp] theorem Context.setSc_sliceOut (x : Context) (sc : Scalar) : (x.setSc sc).sliceOut = x.sliceOut := rfl
@[simp] theorem Context.setSc_order (x : Context) (sc : Scalar) : (x.setSc sc).order = x.order := rfl
@[simp] theorem Context.setSc_waited (x : Context) (sc : Scalar) : (x.setSc sc).waited = x.waited := rfl
@[simp] theorem Context.setSc_stopReq (x : Context) (sc : Scalar) : (x.setSc sc).stopReq = x.stopReq := rfl
@[simp] theorem Context.setSc_down (x : Context) (sc : Scalar) : (x.setSc sc).down = x.down := rfl
@[simp] theorem Context.setSc_bars (x : Context) (sc : Scalar) : (x.setSc sc).bars = x.bars := rfl
@[simp] theorem Context.setSc_holmA (x : Context) (sc : Scalar) : (x.setSc sc).holmA = x.holmA := rfl
@[simp] theorem Context.setSc_holmB (x : Context) (sc : Scalar) : (x.setSc sc).holmB = x.holmB := rfl
@[simp] theorem Context.setSc_icache (x : Context) (sc : Scalar) : (x.setSc sc).icache = x.icache := rfl
@[simp] theorem Context.setSc_bcache (x : Context) (sc : Scalar) : (x.setSc sc).bcache = x.bcache := rfl
@[simp] theorem Context.setSc_holds (x : Context) (sc : Scalar) : (x.setSc sc).holds = x.holds := rfl
@[simp] theorem Context.setSc_badRegs (x : Context) (sc : Scalar) : (x.setSc sc).badRegs = x.badRegs := rfl
@[simp] theorem Context.setSc_regs (x : Context) (sc : Scalar) : (x.setSc sc).regs = { x.regs with sc := sc } := rfl
@[simp] theorem State.setSc_cores (s : State) (c : CtxIx) (sc : Scalar) : (s.setSc c sc).cores = s.cores := rfl
@[simp] theorem State.setSc_quads (s : State) (c : CtxIx) (sc : Scalar) : (s.setSc c sc).quads = s.quads := rfl
@[simp] theorem State.setSc_dies (s : State) (c : CtxIx) (sc : Scalar) : (s.setSc c sc).dies = s.dies := rfl
@[simp] theorem State.setSc_ports (s : State) (c : CtxIx) (sc : Scalar) : (s.setSc c sc).ports = s.ports := rfl
@[simp] theorem State.setSc_host (s : State) (c : CtxIx) (sc : Scalar) : (s.setSc c sc).host = s.host := rfl
@[simp] theorem State.setSc_skerry (s : State) (c : CtxIx) (sc : Scalar) : (s.setSc c sc).skerry = s.skerry := rfl
@[simp] theorem State.setSc_mem (s : State) (c : CtxIx) (sc : Scalar) : (s.setSc c sc).mem = s.mem := rfl
@[simp] theorem State.setSc_mram (s : State) (c : CtxIx) (sc : Scalar) : (s.setSc c sc).mram = s.mram := rfl
@[simp] theorem State.setSc_holmOwn (s : State) (c : CtxIx) (sc : Scalar) : (s.setSc c sc).holmOwn = s.holmOwn := rfl
@[simp] theorem State.setSc_dirty (s : State) (c : CtxIx) (sc : Scalar) : (s.setSc c sc).dirty = s.dirty := rfl
@[simp] theorem State.setSc_marks (s : State) (c : CtxIx) (sc : Scalar) : (s.setSc c sc).marks = s.marks := rfl
@[simp] theorem State.setSc_qwaits (s : State) (c : CtxIx) (sc : Scalar) : (s.setSc c sc).qwaits = s.qwaits := rfl
@[simp] theorem State.setSc_bwaits (s : State) (c : CtxIx) (sc : Scalar) : (s.setSc c sc).bwaits = s.bwaits := rfl
@[simp] theorem State.setSc_binds (s : State) (c : CtxIx) (sc : Scalar) : (s.setSc c sc).binds = s.binds := rfl
@[simp] theorem State.setSc_launches (s : State) (c : CtxIx) (sc : Scalar) : (s.setSc c sc).launches = s.launches := rfl
@[simp] theorem State.setSc_readySeq (s : State) (c : CtxIx) (sc : Scalar) : (s.setSc c sc).readySeq = s.readySeq := rfl
@[simp] theorem State.setSc_counts (s : State) (c : CtxIx) (sc : Scalar) : (s.setSc c sc).counts = s.counts := rfl
@[simp] theorem State.setSc_nsends (s : State) (c : CtxIx) (sc : Scalar) : (s.setSc c sc).nsends = s.nsends := rfl
@[simp] theorem State.setSc_jobs (s : State) (c : CtxIx) (sc : Scalar) : (s.setSc c sc).jobs = s.jobs := rfl
@[simp] theorem State.setSc_contribs (s : State) (c : CtxIx) (sc : Scalar) : (s.setSc c sc).contribs = s.contribs := rfl
@[simp] theorem State.setSc_retire (s : State) (c : CtxIx) (sc : Scalar) : (s.setSc c sc).retire = s.retire := rfl
@[simp] theorem State.setSc_lpFailed (s : State) (c : CtxIx) (sc : Scalar) : (s.setSc c sc).lpFailed = s.lpFailed := rfl
@[simp] theorem State.setSc_nextId (s : State) (c : CtxIx) (sc : Scalar) : (s.setSc c sc).nextId = s.nextId := rfl
@[simp] theorem State.setSc_cur (s : State) (c : CtxIx) (sc : Scalar) : (s.setSc c sc).cur = s.cur := rfl
@[simp] theorem State.setSc_turn (s : State) (c : CtxIx) (sc : Scalar) : (s.setSc c sc).turn = s.turn := rfl
@[simp] theorem State.setSc_laneTurn (s : State) (c : CtxIx) (sc : Scalar) : (s.setSc c sc).laneTurn = s.laneTurn := rfl
@[simp] theorem State.setSc_l1 (s : State) (c : CtxIx) (sc : Scalar) : (s.setSc c sc).l1 = s.l1 := rfl
@[simp] theorem State.setSc_dispatched (s : State) (c : CtxIx) (sc : Scalar) : (s.setSc c sc).dispatched = s.dispatched := rfl
@[simp] theorem State.setSc_agenda (s : State) (c : CtxIx) (sc : Scalar) : (s.setSc c sc).agenda = s.agenda := rfl
@[simp] theorem State.setSc_choices (s : State) (c : CtxIx) (sc : Scalar) : (s.setSc c sc).choices = s.choices := rfl
@[simp] theorem State.setSc_freeCtr (s : State) (c : CtxIx) (sc : Scalar) : (s.setSc c sc).freeCtr = s.freeCtr := rfl
@[simp] theorem State.setSc_ctx (s : State) (c : CtxIx) (sc : Scalar) : (s.setSc c sc).ctx c = (s.ctx c).setSc sc := by
  simp [State.setSc]
@[simp] theorem State.setSc_sc (s : State) (c : CtxIx) (sc : Scalar) : (s.setSc c sc).sc c = sc := by
  simp [State.sc]
theorem State.setSc_ctx_ne (s : State) (c k : CtxIx) (sc : Scalar) (h : k ≠ c) : (s.setSc c sc).ctx k = s.ctx k :=
  s.setCtx_ne c k _ h

/-! ### Updates of the scalar side -/

@[simp] theorem Scalar.retire_x (sc : Scalar) : (sc.retire).x = sc.x := rfl
@[simp] theorem Scalar.retire_sup (sc : Scalar) : (sc.retire).sup = sc.sup := rfl
@[simp] theorem Scalar.retire_vl (sc : Scalar) : (sc.retire).vl = sc.vl := rfl
@[simp] theorem Scalar.retire_vt (sc : Scalar) : (sc.retire).vt = sc.vt := rfl
@[simp] theorem Scalar.retire_vstart (sc : Scalar) : (sc.retire).vstart = sc.vstart := rfl
@[simp] theorem Scalar.retire_theta (sc : Scalar) : (sc.retire).theta = sc.theta := rfl
@[simp] theorem Scalar.retire_wlim (sc : Scalar) : (sc.retire).wlim = sc.wlim := rfl
@[simp] theorem Scalar.retire_fflags (sc : Scalar) : (sc.retire).fflags = sc.fflags := rfl
@[simp] theorem Scalar.retire_frm (sc : Scalar) : (sc.retire).frm = sc.frm := rfl
@[simp] theorem Scalar.retire_fiboff (sc : Scalar) : (sc.retire).fiboff = sc.fiboff := rfl
@[simp] theorem Scalar.retire_sstr (sc : Scalar) : (sc.retire).sstr = sc.sstr := rfl
@[simp] theorem Scalar.retire_pwaddr (sc : Scalar) : (sc.retire).pwaddr = sc.pwaddr := rfl
@[simp] theorem Scalar.retire_ulivec (sc : Scalar) : (sc.retire).ulivec = sc.ulivec := rfl
@[simp] theorem Scalar.retire_ulien (sc : Scalar) : (sc.retire).ulien = sc.ulien := rfl
@[simp] theorem Scalar.retire_ulinh (sc : Scalar) : (sc.retire).ulinh = sc.ulinh := rfl
@[simp] theorem Scalar.retire_ulipend (sc : Scalar) : (sc.retire).ulipend = sc.ulipend := rfl
@[simp] theorem Scalar.retire_tid (sc : Scalar) : (sc.retire).tid = sc.tid := rfl
@[simp] theorem Scalar.retire_tcore (sc : Scalar) : (sc.retire).tcore = sc.tcore := rfl
@[simp] theorem Scalar.retire_tquad (sc : Scalar) : (sc.retire).tquad = sc.tquad := rfl
@[simp] theorem Scalar.retire_tdie (sc : Scalar) : (sc.retire).tdie = sc.tdie := rfl
@[simp] theorem Scalar.retire_mgrant (sc : Scalar) : (sc.retire).mgrant = sc.mgrant := rfl
@[simp] theorem Scalar.retire_mstate (sc : Scalar) : (sc.retire).mstate = sc.mstate := rfl
@[simp] theorem Scalar.retire_asb (sc : Scalar) : (sc.retire).asb = sc.asb := rfl
@[simp] theorem Scalar.retire_asl (sc : Scalar) : (sc.retire).asl = sc.asl := rfl
@[simp] theorem Scalar.retire_asp (sc : Scalar) : (sc.retire).asp = sc.asp := rfl
@[simp] theorem Scalar.retire_pstat (sc : Scalar) : (sc.retire).pstat = sc.pstat := rfl
@[simp] theorem Scalar.retire_rvec (sc : Scalar) : (sc.retire).rvec = sc.rvec := rfl
@[simp] theorem Scalar.retire_stvec (sc : Scalar) : (sc.retire).stvec = sc.stvec := rfl
@[simp] theorem Scalar.retire_sepc (sc : Scalar) : (sc.retire).sepc = sc.sepc := rfl
@[simp] theorem Scalar.retire_scause (sc : Scalar) : (sc.retire).scause = sc.scause := rfl
@[simp] theorem Scalar.retire_saddr (sc : Scalar) : (sc.retire).saddr = sc.saddr := rfl
@[simp] theorem Scalar.retire_selem (sc : Scalar) : (sc.retire).selem = sc.selem := rfl
@[simp] theorem Scalar.retire_sstatus (sc : Scalar) : (sc.retire).sstatus = sc.sstatus := rfl
@[simp] theorem Scalar.retire_satp (sc : Scalar) : (sc.retire).satp = sc.satp := rfl
@[simp] theorem Scalar.retire_vtf (sc : Scalar) : (sc.retire).vtf = sc.vtf := rfl
@[simp] theorem Scalar.retire_shadow (sc : Scalar) : (sc.retire).shadow = sc.shadow := rfl
@[simp] theorem Scalar.retire_vsq (sc : Scalar) : (sc.retire).vsq = sc.vsq := rfl
@[simp] theorem Scalar.retire_vsqPops (sc : Scalar) : (sc.retire).vsqPops = sc.vsqPops := rfl
@[simp] theorem Scalar.retire_ivl (sc : Scalar) : (sc.retire).ivl = sc.ivl := rfl

@[simp] theorem Scalar.retireTo_x (sc : Scalar) (a : Word64) : (sc.retireTo a).x = sc.x := rfl
@[simp] theorem Scalar.retireTo_sup (sc : Scalar) (a : Word64) : (sc.retireTo a).sup = sc.sup := rfl
@[simp] theorem Scalar.retireTo_vl (sc : Scalar) (a : Word64) : (sc.retireTo a).vl = sc.vl := rfl
@[simp] theorem Scalar.retireTo_vt (sc : Scalar) (a : Word64) : (sc.retireTo a).vt = sc.vt := rfl
@[simp] theorem Scalar.retireTo_vstart (sc : Scalar) (a : Word64) : (sc.retireTo a).vstart = sc.vstart := rfl
@[simp] theorem Scalar.retireTo_theta (sc : Scalar) (a : Word64) : (sc.retireTo a).theta = sc.theta := rfl
@[simp] theorem Scalar.retireTo_wlim (sc : Scalar) (a : Word64) : (sc.retireTo a).wlim = sc.wlim := rfl
@[simp] theorem Scalar.retireTo_fflags (sc : Scalar) (a : Word64) : (sc.retireTo a).fflags = sc.fflags := rfl
@[simp] theorem Scalar.retireTo_frm (sc : Scalar) (a : Word64) : (sc.retireTo a).frm = sc.frm := rfl
@[simp] theorem Scalar.retireTo_fiboff (sc : Scalar) (a : Word64) : (sc.retireTo a).fiboff = sc.fiboff := rfl
@[simp] theorem Scalar.retireTo_sstr (sc : Scalar) (a : Word64) : (sc.retireTo a).sstr = sc.sstr := rfl
@[simp] theorem Scalar.retireTo_pwaddr (sc : Scalar) (a : Word64) : (sc.retireTo a).pwaddr = sc.pwaddr := rfl
@[simp] theorem Scalar.retireTo_ulivec (sc : Scalar) (a : Word64) : (sc.retireTo a).ulivec = sc.ulivec := rfl
@[simp] theorem Scalar.retireTo_ulien (sc : Scalar) (a : Word64) : (sc.retireTo a).ulien = sc.ulien := rfl
@[simp] theorem Scalar.retireTo_ulinh (sc : Scalar) (a : Word64) : (sc.retireTo a).ulinh = sc.ulinh := rfl
@[simp] theorem Scalar.retireTo_ulipend (sc : Scalar) (a : Word64) : (sc.retireTo a).ulipend = sc.ulipend := rfl
@[simp] theorem Scalar.retireTo_tid (sc : Scalar) (a : Word64) : (sc.retireTo a).tid = sc.tid := rfl
@[simp] theorem Scalar.retireTo_tcore (sc : Scalar) (a : Word64) : (sc.retireTo a).tcore = sc.tcore := rfl
@[simp] theorem Scalar.retireTo_tquad (sc : Scalar) (a : Word64) : (sc.retireTo a).tquad = sc.tquad := rfl
@[simp] theorem Scalar.retireTo_tdie (sc : Scalar) (a : Word64) : (sc.retireTo a).tdie = sc.tdie := rfl
@[simp] theorem Scalar.retireTo_mgrant (sc : Scalar) (a : Word64) : (sc.retireTo a).mgrant = sc.mgrant := rfl
@[simp] theorem Scalar.retireTo_mstate (sc : Scalar) (a : Word64) : (sc.retireTo a).mstate = sc.mstate := rfl
@[simp] theorem Scalar.retireTo_asb (sc : Scalar) (a : Word64) : (sc.retireTo a).asb = sc.asb := rfl
@[simp] theorem Scalar.retireTo_asl (sc : Scalar) (a : Word64) : (sc.retireTo a).asl = sc.asl := rfl
@[simp] theorem Scalar.retireTo_asp (sc : Scalar) (a : Word64) : (sc.retireTo a).asp = sc.asp := rfl
@[simp] theorem Scalar.retireTo_pstat (sc : Scalar) (a : Word64) : (sc.retireTo a).pstat = sc.pstat := rfl
@[simp] theorem Scalar.retireTo_rvec (sc : Scalar) (a : Word64) : (sc.retireTo a).rvec = sc.rvec := rfl
@[simp] theorem Scalar.retireTo_stvec (sc : Scalar) (a : Word64) : (sc.retireTo a).stvec = sc.stvec := rfl
@[simp] theorem Scalar.retireTo_sepc (sc : Scalar) (a : Word64) : (sc.retireTo a).sepc = sc.sepc := rfl
@[simp] theorem Scalar.retireTo_scause (sc : Scalar) (a : Word64) : (sc.retireTo a).scause = sc.scause := rfl
@[simp] theorem Scalar.retireTo_saddr (sc : Scalar) (a : Word64) : (sc.retireTo a).saddr = sc.saddr := rfl
@[simp] theorem Scalar.retireTo_selem (sc : Scalar) (a : Word64) : (sc.retireTo a).selem = sc.selem := rfl
@[simp] theorem Scalar.retireTo_sstatus (sc : Scalar) (a : Word64) : (sc.retireTo a).sstatus = sc.sstatus := rfl
@[simp] theorem Scalar.retireTo_satp (sc : Scalar) (a : Word64) : (sc.retireTo a).satp = sc.satp := rfl
@[simp] theorem Scalar.retireTo_vtf (sc : Scalar) (a : Word64) : (sc.retireTo a).vtf = sc.vtf := rfl
@[simp] theorem Scalar.retireTo_shadow (sc : Scalar) (a : Word64) : (sc.retireTo a).shadow = sc.shadow := rfl
@[simp] theorem Scalar.retireTo_vsq (sc : Scalar) (a : Word64) : (sc.retireTo a).vsq = sc.vsq := rfl
@[simp] theorem Scalar.retireTo_vsqPops (sc : Scalar) (a : Word64) : (sc.retireTo a).vsqPops = sc.vsqPops := rfl
@[simp] theorem Scalar.retireTo_ivl (sc : Scalar) (a : Word64) : (sc.retireTo a).ivl = sc.ivl := rfl

@[simp] theorem Scalar.setFlags_x (sc : Scalar) (f : BitVec 8) : (sc.setFlags f).x = sc.x := rfl
@[simp] theorem Scalar.setFlags_pc (sc : Scalar) (f : BitVec 8) : (sc.setFlags f).pc = sc.pc := rfl
@[simp] theorem Scalar.setFlags_sup (sc : Scalar) (f : BitVec 8) : (sc.setFlags f).sup = sc.sup := rfl
@[simp] theorem Scalar.setFlags_vl (sc : Scalar) (f : BitVec 8) : (sc.setFlags f).vl = sc.vl := rfl
@[simp] theorem Scalar.setFlags_vt (sc : Scalar) (f : BitVec 8) : (sc.setFlags f).vt = sc.vt := rfl
@[simp] theorem Scalar.setFlags_vstart (sc : Scalar) (f : BitVec 8) : (sc.setFlags f).vstart = sc.vstart := rfl
@[simp] theorem Scalar.setFlags_theta (sc : Scalar) (f : BitVec 8) : (sc.setFlags f).theta = sc.theta := rfl
@[simp] theorem Scalar.setFlags_wlim (sc : Scalar) (f : BitVec 8) : (sc.setFlags f).wlim = sc.wlim := rfl
@[simp] theorem Scalar.setFlags_frm (sc : Scalar) (f : BitVec 8) : (sc.setFlags f).frm = sc.frm := rfl
@[simp] theorem Scalar.setFlags_fiboff (sc : Scalar) (f : BitVec 8) : (sc.setFlags f).fiboff = sc.fiboff := rfl
@[simp] theorem Scalar.setFlags_sstr (sc : Scalar) (f : BitVec 8) : (sc.setFlags f).sstr = sc.sstr := rfl
@[simp] theorem Scalar.setFlags_pwaddr (sc : Scalar) (f : BitVec 8) : (sc.setFlags f).pwaddr = sc.pwaddr := rfl
@[simp] theorem Scalar.setFlags_ulivec (sc : Scalar) (f : BitVec 8) : (sc.setFlags f).ulivec = sc.ulivec := rfl
@[simp] theorem Scalar.setFlags_ulien (sc : Scalar) (f : BitVec 8) : (sc.setFlags f).ulien = sc.ulien := rfl
@[simp] theorem Scalar.setFlags_ulinh (sc : Scalar) (f : BitVec 8) : (sc.setFlags f).ulinh = sc.ulinh := rfl
@[simp] theorem Scalar.setFlags_ulipend (sc : Scalar) (f : BitVec 8) : (sc.setFlags f).ulipend = sc.ulipend := rfl
@[simp] theorem Scalar.setFlags_instret (sc : Scalar) (f : BitVec 8) : (sc.setFlags f).instret = sc.instret := rfl
@[simp] theorem Scalar.setFlags_tid (sc : Scalar) (f : BitVec 8) : (sc.setFlags f).tid = sc.tid := rfl
@[simp] theorem Scalar.setFlags_tcore (sc : Scalar) (f : BitVec 8) : (sc.setFlags f).tcore = sc.tcore := rfl
@[simp] theorem Scalar.setFlags_tquad (sc : Scalar) (f : BitVec 8) : (sc.setFlags f).tquad = sc.tquad := rfl
@[simp] theorem Scalar.setFlags_tdie (sc : Scalar) (f : BitVec 8) : (sc.setFlags f).tdie = sc.tdie := rfl
@[simp] theorem Scalar.setFlags_mgrant (sc : Scalar) (f : BitVec 8) : (sc.setFlags f).mgrant = sc.mgrant := rfl
@[simp] theorem Scalar.setFlags_mstate (sc : Scalar) (f : BitVec 8) : (sc.setFlags f).mstate = sc.mstate := rfl
@[simp] theorem Scalar.setFlags_asb (sc : Scalar) (f : BitVec 8) : (sc.setFlags f).asb = sc.asb := rfl
@[simp] theorem Scalar.setFlags_asl (sc : Scalar) (f : BitVec 8) : (sc.setFlags f).asl = sc.asl := rfl
@[simp] theorem Scalar.setFlags_asp (sc : Scalar) (f : BitVec 8) : (sc.setFlags f).asp = sc.asp := rfl
@[simp] theorem Scalar.setFlags_pstat (sc : Scalar) (f : BitVec 8) : (sc.setFlags f).pstat = sc.pstat := rfl
@[simp] theorem Scalar.setFlags_rvec (sc : Scalar) (f : BitVec 8) : (sc.setFlags f).rvec = sc.rvec := rfl
@[simp] theorem Scalar.setFlags_stvec (sc : Scalar) (f : BitVec 8) : (sc.setFlags f).stvec = sc.stvec := rfl
@[simp] theorem Scalar.setFlags_sepc (sc : Scalar) (f : BitVec 8) : (sc.setFlags f).sepc = sc.sepc := rfl
@[simp] theorem Scalar.setFlags_scause (sc : Scalar) (f : BitVec 8) : (sc.setFlags f).scause = sc.scause := rfl
@[simp] theorem Scalar.setFlags_saddr (sc : Scalar) (f : BitVec 8) : (sc.setFlags f).saddr = sc.saddr := rfl
@[simp] theorem Scalar.setFlags_selem (sc : Scalar) (f : BitVec 8) : (sc.setFlags f).selem = sc.selem := rfl
@[simp] theorem Scalar.setFlags_sstatus (sc : Scalar) (f : BitVec 8) : (sc.setFlags f).sstatus = sc.sstatus := rfl
@[simp] theorem Scalar.setFlags_satp (sc : Scalar) (f : BitVec 8) : (sc.setFlags f).satp = sc.satp := rfl
@[simp] theorem Scalar.setFlags_vtf (sc : Scalar) (f : BitVec 8) : (sc.setFlags f).vtf = sc.vtf := rfl
@[simp] theorem Scalar.setFlags_shadow (sc : Scalar) (f : BitVec 8) : (sc.setFlags f).shadow = sc.shadow := rfl
@[simp] theorem Scalar.setFlags_vsq (sc : Scalar) (f : BitVec 8) : (sc.setFlags f).vsq = sc.vsq := rfl
@[simp] theorem Scalar.setFlags_vsqPops (sc : Scalar) (f : BitVec 8) : (sc.setFlags f).vsqPops = sc.vsqPops := rfl
@[simp] theorem Scalar.setFlags_ivl (sc : Scalar) (f : BitVec 8) : (sc.setFlags f).ivl = sc.ivl := rfl

@[simp] theorem Scalar.endInterval_x (sc : Scalar) : (sc.endInterval).x = sc.x := rfl
@[simp] theorem Scalar.endInterval_pc (sc : Scalar) : (sc.endInterval).pc = sc.pc := rfl
@[simp] theorem Scalar.endInterval_sup (sc : Scalar) : (sc.endInterval).sup = sc.sup := rfl
@[simp] theorem Scalar.endInterval_vl (sc : Scalar) : (sc.endInterval).vl = sc.vl := rfl
@[simp] theorem Scalar.endInterval_vt (sc : Scalar) : (sc.endInterval).vt = sc.vt := rfl
@[simp] theorem Scalar.endInterval_vstart (sc : Scalar) : (sc.endInterval).vstart = sc.vstart := rfl
@[simp] theorem Scalar.endInterval_theta (sc : Scalar) : (sc.endInterval).theta = sc.theta := rfl
@[simp] theorem Scalar.endInterval_wlim (sc : Scalar) : (sc.endInterval).wlim = sc.wlim := rfl
@[simp] theorem Scalar.endInterval_fflags (sc : Scalar) : (sc.endInterval).fflags = sc.fflags := rfl
@[simp] theorem Scalar.endInterval_frm (sc : Scalar) : (sc.endInterval).frm = sc.frm := rfl
@[simp] theorem Scalar.endInterval_fiboff (sc : Scalar) : (sc.endInterval).fiboff = sc.fiboff := rfl
@[simp] theorem Scalar.endInterval_sstr (sc : Scalar) : (sc.endInterval).sstr = sc.sstr := rfl
@[simp] theorem Scalar.endInterval_pwaddr (sc : Scalar) : (sc.endInterval).pwaddr = sc.pwaddr := rfl
@[simp] theorem Scalar.endInterval_ulivec (sc : Scalar) : (sc.endInterval).ulivec = sc.ulivec := rfl
@[simp] theorem Scalar.endInterval_ulien (sc : Scalar) : (sc.endInterval).ulien = sc.ulien := rfl
@[simp] theorem Scalar.endInterval_ulinh (sc : Scalar) : (sc.endInterval).ulinh = sc.ulinh := rfl
@[simp] theorem Scalar.endInterval_ulipend (sc : Scalar) : (sc.endInterval).ulipend = sc.ulipend := rfl
@[simp] theorem Scalar.endInterval_instret (sc : Scalar) : (sc.endInterval).instret = sc.instret := rfl
@[simp] theorem Scalar.endInterval_tid (sc : Scalar) : (sc.endInterval).tid = sc.tid := rfl
@[simp] theorem Scalar.endInterval_tcore (sc : Scalar) : (sc.endInterval).tcore = sc.tcore := rfl
@[simp] theorem Scalar.endInterval_tquad (sc : Scalar) : (sc.endInterval).tquad = sc.tquad := rfl
@[simp] theorem Scalar.endInterval_tdie (sc : Scalar) : (sc.endInterval).tdie = sc.tdie := rfl
@[simp] theorem Scalar.endInterval_mgrant (sc : Scalar) : (sc.endInterval).mgrant = sc.mgrant := rfl
@[simp] theorem Scalar.endInterval_mstate (sc : Scalar) : (sc.endInterval).mstate = sc.mstate := rfl
@[simp] theorem Scalar.endInterval_asb (sc : Scalar) : (sc.endInterval).asb = sc.asb := rfl
@[simp] theorem Scalar.endInterval_asl (sc : Scalar) : (sc.endInterval).asl = sc.asl := rfl
@[simp] theorem Scalar.endInterval_asp (sc : Scalar) : (sc.endInterval).asp = sc.asp := rfl
@[simp] theorem Scalar.endInterval_pstat (sc : Scalar) : (sc.endInterval).pstat = sc.pstat := rfl
@[simp] theorem Scalar.endInterval_rvec (sc : Scalar) : (sc.endInterval).rvec = sc.rvec := rfl
@[simp] theorem Scalar.endInterval_stvec (sc : Scalar) : (sc.endInterval).stvec = sc.stvec := rfl
@[simp] theorem Scalar.endInterval_sepc (sc : Scalar) : (sc.endInterval).sepc = sc.sepc := rfl
@[simp] theorem Scalar.endInterval_scause (sc : Scalar) : (sc.endInterval).scause = sc.scause := rfl
@[simp] theorem Scalar.endInterval_saddr (sc : Scalar) : (sc.endInterval).saddr = sc.saddr := rfl
@[simp] theorem Scalar.endInterval_selem (sc : Scalar) : (sc.endInterval).selem = sc.selem := rfl
@[simp] theorem Scalar.endInterval_sstatus (sc : Scalar) : (sc.endInterval).sstatus = sc.sstatus := rfl
@[simp] theorem Scalar.endInterval_satp (sc : Scalar) : (sc.endInterval).satp = sc.satp := rfl
@[simp] theorem Scalar.endInterval_vtf (sc : Scalar) : (sc.endInterval).vtf = sc.vtf := rfl
@[simp] theorem Scalar.endInterval_shadow (sc : Scalar) : (sc.endInterval).shadow = sc.shadow := rfl
@[simp] theorem Scalar.endInterval_vsq (sc : Scalar) : (sc.endInterval).vsq = sc.vsq := rfl
@[simp] theorem Scalar.endInterval_vsqPops (sc : Scalar) : (sc.endInterval).vsqPops = sc.vsqPops := rfl

@[simp] theorem Scalar.retire_pc (sc : Scalar) : sc.retire.pc = sc.pc + 4 := rfl
@[simp] theorem Scalar.retire_instret (sc : Scalar) : sc.retire.instret = sc.instret + 1 := rfl
@[simp] theorem Scalar.retireTo_pc (sc : Scalar) (a : Word64) : (sc.retireTo a).pc = a := rfl
@[simp] theorem Scalar.retireTo_instret (sc : Scalar) (a : Word64) : (sc.retireTo a).instret = sc.instret + 1 := rfl
@[simp] theorem Scalar.setFlags_fflags (sc : Scalar) (f : BitVec 8) : (sc.setFlags f).fflags = sc.fflags ||| f := rfl
@[simp] theorem Scalar.endInterval_ivl (sc : Scalar) : sc.endInterval.ivl = sc.ivl + 1 := rfl

@[simp] theorem Scalar.wx_pc (sc : Scalar) (r : XReg) (v : Word64) : (sc.wx r v).pc = sc.pc := by
  unfold Scalar.wx; split <;> rfl
@[simp] theorem Scalar.wx_sup (sc : Scalar) (r : XReg) (v : Word64) : (sc.wx r v).sup = sc.sup := by
  unfold Scalar.wx; split <;> rfl
@[simp] theorem Scalar.wx_vl (sc : Scalar) (r : XReg) (v : Word64) : (sc.wx r v).vl = sc.vl := by
  unfold Scalar.wx; split <;> rfl
@[simp] theorem Scalar.wx_vt (sc : Scalar) (r : XReg) (v : Word64) : (sc.wx r v).vt = sc.vt := by
  unfold Scalar.wx; split <;> rfl
@[simp] theorem Scalar.wx_vstart (sc : Scalar) (r : XReg) (v : Word64) : (sc.wx r v).vstart = sc.vstart := by
  unfold Scalar.wx; split <;> rfl
@[simp] theorem Scalar.wx_theta (sc : Scalar) (r : XReg) (v : Word64) : (sc.wx r v).theta = sc.theta := by
  unfold Scalar.wx; split <;> rfl
@[simp] theorem Scalar.wx_wlim (sc : Scalar) (r : XReg) (v : Word64) : (sc.wx r v).wlim = sc.wlim := by
  unfold Scalar.wx; split <;> rfl
@[simp] theorem Scalar.wx_fflags (sc : Scalar) (r : XReg) (v : Word64) : (sc.wx r v).fflags = sc.fflags := by
  unfold Scalar.wx; split <;> rfl
@[simp] theorem Scalar.wx_frm (sc : Scalar) (r : XReg) (v : Word64) : (sc.wx r v).frm = sc.frm := by
  unfold Scalar.wx; split <;> rfl
@[simp] theorem Scalar.wx_fiboff (sc : Scalar) (r : XReg) (v : Word64) : (sc.wx r v).fiboff = sc.fiboff := by
  unfold Scalar.wx; split <;> rfl
@[simp] theorem Scalar.wx_sstr (sc : Scalar) (r : XReg) (v : Word64) : (sc.wx r v).sstr = sc.sstr := by
  unfold Scalar.wx; split <;> rfl
@[simp] theorem Scalar.wx_pwaddr (sc : Scalar) (r : XReg) (v : Word64) : (sc.wx r v).pwaddr = sc.pwaddr := by
  unfold Scalar.wx; split <;> rfl
@[simp] theorem Scalar.wx_ulivec (sc : Scalar) (r : XReg) (v : Word64) : (sc.wx r v).ulivec = sc.ulivec := by
  unfold Scalar.wx; split <;> rfl
@[simp] theorem Scalar.wx_ulien (sc : Scalar) (r : XReg) (v : Word64) : (sc.wx r v).ulien = sc.ulien := by
  unfold Scalar.wx; split <;> rfl
@[simp] theorem Scalar.wx_ulinh (sc : Scalar) (r : XReg) (v : Word64) : (sc.wx r v).ulinh = sc.ulinh := by
  unfold Scalar.wx; split <;> rfl
@[simp] theorem Scalar.wx_ulipend (sc : Scalar) (r : XReg) (v : Word64) : (sc.wx r v).ulipend = sc.ulipend := by
  unfold Scalar.wx; split <;> rfl
@[simp] theorem Scalar.wx_instret (sc : Scalar) (r : XReg) (v : Word64) : (sc.wx r v).instret = sc.instret := by
  unfold Scalar.wx; split <;> rfl
@[simp] theorem Scalar.wx_tid (sc : Scalar) (r : XReg) (v : Word64) : (sc.wx r v).tid = sc.tid := by
  unfold Scalar.wx; split <;> rfl
@[simp] theorem Scalar.wx_tcore (sc : Scalar) (r : XReg) (v : Word64) : (sc.wx r v).tcore = sc.tcore := by
  unfold Scalar.wx; split <;> rfl
@[simp] theorem Scalar.wx_tquad (sc : Scalar) (r : XReg) (v : Word64) : (sc.wx r v).tquad = sc.tquad := by
  unfold Scalar.wx; split <;> rfl
@[simp] theorem Scalar.wx_tdie (sc : Scalar) (r : XReg) (v : Word64) : (sc.wx r v).tdie = sc.tdie := by
  unfold Scalar.wx; split <;> rfl
@[simp] theorem Scalar.wx_mgrant (sc : Scalar) (r : XReg) (v : Word64) : (sc.wx r v).mgrant = sc.mgrant := by
  unfold Scalar.wx; split <;> rfl
@[simp] theorem Scalar.wx_mstate (sc : Scalar) (r : XReg) (v : Word64) : (sc.wx r v).mstate = sc.mstate := by
  unfold Scalar.wx; split <;> rfl
@[simp] theorem Scalar.wx_asb (sc : Scalar) (r : XReg) (v : Word64) : (sc.wx r v).asb = sc.asb := by
  unfold Scalar.wx; split <;> rfl
@[simp] theorem Scalar.wx_asl (sc : Scalar) (r : XReg) (v : Word64) : (sc.wx r v).asl = sc.asl := by
  unfold Scalar.wx; split <;> rfl
@[simp] theorem Scalar.wx_asp (sc : Scalar) (r : XReg) (v : Word64) : (sc.wx r v).asp = sc.asp := by
  unfold Scalar.wx; split <;> rfl
@[simp] theorem Scalar.wx_pstat (sc : Scalar) (r : XReg) (v : Word64) : (sc.wx r v).pstat = sc.pstat := by
  unfold Scalar.wx; split <;> rfl
@[simp] theorem Scalar.wx_rvec (sc : Scalar) (r : XReg) (v : Word64) : (sc.wx r v).rvec = sc.rvec := by
  unfold Scalar.wx; split <;> rfl
@[simp] theorem Scalar.wx_stvec (sc : Scalar) (r : XReg) (v : Word64) : (sc.wx r v).stvec = sc.stvec := by
  unfold Scalar.wx; split <;> rfl
@[simp] theorem Scalar.wx_sepc (sc : Scalar) (r : XReg) (v : Word64) : (sc.wx r v).sepc = sc.sepc := by
  unfold Scalar.wx; split <;> rfl
@[simp] theorem Scalar.wx_scause (sc : Scalar) (r : XReg) (v : Word64) : (sc.wx r v).scause = sc.scause := by
  unfold Scalar.wx; split <;> rfl
@[simp] theorem Scalar.wx_saddr (sc : Scalar) (r : XReg) (v : Word64) : (sc.wx r v).saddr = sc.saddr := by
  unfold Scalar.wx; split <;> rfl
@[simp] theorem Scalar.wx_selem (sc : Scalar) (r : XReg) (v : Word64) : (sc.wx r v).selem = sc.selem := by
  unfold Scalar.wx; split <;> rfl
@[simp] theorem Scalar.wx_sstatus (sc : Scalar) (r : XReg) (v : Word64) : (sc.wx r v).sstatus = sc.sstatus := by
  unfold Scalar.wx; split <;> rfl
@[simp] theorem Scalar.wx_satp (sc : Scalar) (r : XReg) (v : Word64) : (sc.wx r v).satp = sc.satp := by
  unfold Scalar.wx; split <;> rfl
@[simp] theorem Scalar.wx_vtf (sc : Scalar) (r : XReg) (v : Word64) : (sc.wx r v).vtf = sc.vtf := by
  unfold Scalar.wx; split <;> rfl
@[simp] theorem Scalar.wx_shadow (sc : Scalar) (r : XReg) (v : Word64) : (sc.wx r v).shadow = sc.shadow := by
  unfold Scalar.wx; split <;> rfl
@[simp] theorem Scalar.wx_vsq (sc : Scalar) (r : XReg) (v : Word64) : (sc.wx r v).vsq = sc.vsq := by
  unfold Scalar.wx; split <;> rfl
@[simp] theorem Scalar.wx_vsqPops (sc : Scalar) (r : XReg) (v : Word64) : (sc.wx r v).vsqPops = sc.vsqPops := by
  unfold Scalar.wx; split <;> rfl
@[simp] theorem Scalar.wx_ivl (sc : Scalar) (r : XReg) (v : Word64) : (sc.wx r v).ivl = sc.ivl := by
  unfold Scalar.wx; split <;> rfl

/-- x0 reads as zero (R70). -/
@[simp] theorem Scalar.rx_zero (sc : Scalar) : sc.rx 0 = 0 := rfl
/-- A write is read back, unless it names x0. -/
theorem Scalar.rx_wx (sc : Scalar) (r k : XReg) (v : Word64) : (sc.wx r v).rx k = if k = r ∧ r ≠ 0 then v else sc.rx k := by
  unfold Scalar.wx Scalar.rx
  by_cases hr : r = 0
  · simp [hr]
  · by_cases hk : k = r
    · subst hk; simp [hr]
    · have : r.val ≠ k.val := fun e => hk (Fin.ext e.symm)
      simp [hr, hk, this]
theorem Scalar.rx_retire (sc : Scalar) (k : XReg) : sc.retire.rx k = sc.rx k := rfl
theorem Scalar.rx_retireTo (sc : Scalar) (a : Word64) (k : XReg) : (sc.retireTo a).rx k = sc.rx k := rfl
theorem Scalar.rx_setFlags (sc : Scalar) (f : BitVec 8) (k : XReg) : (sc.setFlags f).rx k = sc.rx k := rfl

end Sys2Proof.Machine
end

