-- ==== Sys2Proof/Laws/Ops.lean ====
section
/-!
SUPPORT. What the shared operations can do, said once: every meaning is written with them.
-/
namespace Sys2Proof.Machine

/-- `r` is a next state. -/
abbrev IsNext (r : Host.Outcome State Fault Refusal) : Prop := ∃ t, r = .next t

theorem isNext_next (t : State) : IsNext (.next t) := ⟨t, rfl⟩

/-! ### Waiting, holding and trapping -/

/-- A ready instruction goes on. -/
theorem State.waits_ready (s : State) (r : Bool) (k : Unit → Host.Outcome State Fault Refusal) (h : r = true) :
    s.waits r k = k () := by simp [State.waits, h]
/-- An instruction that is not ready has no effect yet. -/
theorem State.waits_not (s : State) (r : Bool) (k : Unit → Host.Outcome State Fault Refusal) (h : r = false) :
    s.waits r k = .next s := by simp [State.waits, h]
theorem State.waits_isNext (s : State) (r : Bool) (k : Unit → Host.Outcome State Fault Refusal) (h : IsNext (k ())) :
    IsNext (s.waits r k) := by unfold State.waits; split; exacts [h, ⟨_, rfl⟩]

theorem Context.drained_iff (x : Context) : x.drained = true ↔ x.viq = [] ∧ x.block = none := by
  simp [Context.drained]
/-- Drained lanes have passed every fault point. -/
theorem Context.settled_of_drained (x : Context) (h : x.drained = true) : x.settled = true := by
  have hd := (Context.drained_iff x).1 h
  simp [Context.settled, hd.1, hd.2]
/-- Drained lanes owe no access. -/
theorem State.pendingAccess_drained (s : State) (k : Bool × Bool → Bool) (p : Nat → Bool) (h : s.me.drained = true) :
    s.pendingAccess k p = false := by
  have hd := (Context.drained_iff _).1 h
  simp [State.pendingAccess, hd.1, hd.2]

/-- With the lanes drained a held instruction, a release, a load and a serialising one go on. -/
theorem State.held_drained (s : State) (k : Unit → Host.Outcome State Fault Refusal) (h : s.me.drained = true) :
    s.held k = k () := by
  simp [State.held, State.waits, State.intervalReady, s.pendingAccess_drained _ _ h, Context.settled_of_drained _ h]
theorem State.heldRel_drained (s : State) (k : Unit → Host.Outcome State Fault Refusal) (h : s.me.drained = true) :
    s.heldRel k = k () := by
  simp [State.heldRel, State.waits, State.accessesDone, s.pendingAccess_drained _ _ h, Context.settled_of_drained _ h]
theorem State.serial_drained (s : State) (k : Unit → Host.Outcome State Fault Refusal) (h : s.me.drained = true) :
    s.serial k = k () := s.waits_ready _ k h
theorem State.held_isNext (s : State) (k : Unit → Host.Outcome State Fault Refusal) (h : IsNext (k ())) :
    IsNext (s.held k) := s.waits_isNext _ k h
theorem State.heldRel_isNext (s : State) (k : Unit → Host.Outcome State Fault Refusal) (h : IsNext (k ())) :
    IsNext (s.heldRel k) := s.waits_isNext _ k h
theorem State.serial_isNext (s : State) (k : Unit → Host.Outcome State Fault Refusal) (h : IsNext (k ())) :
    IsNext (s.serial k) := s.waits_isNext _ k h
theorem State.privileged_isNext (s : State) (k : Unit → Host.Outcome State Fault Refusal) (h : IsNext (k ())) :
    IsNext (s.privileged k) := by unfold State.privileged; split; exacts [h, ⟨_, rfl⟩]
theorem State.privileged_sup (s : State) (k : Unit → Host.Outcome State Fault Refusal) (h : s.mySc.sup = true) :
    s.privileged k = k () := by simp [State.privileged, h]
theorem State.scalar_isNext (s : State) (f : Scalar → Scalar) : IsNext (s.scalar f) := ⟨_, rfl⟩
theorem State.scalarTry_isNext (s : State) (r : Except Trap State) : IsNext (s.scalarTry r) := by
  unfold State.scalarTry; split <;> exact ⟨_, rfl⟩
@[simp] theorem State.scalarTry_ok (s t : State) : s.scalarTry (.ok t) = .next t := rfl
@[simp] theorem State.scalarTry_error (s : State) (t : Trap) : s.scalarTry (.error t) = .next (s.scalarTrap t) := rfl

/-- A context that waits in no BAR is only taken out of what it waits in. -/
theorem Context.unpark_of_ne_bar (x : Context) (h : ∀ l, x.parked ≠ some (.bar l)) :
    x.unpark = { x with parked := none } := by
  unfold Context.unpark
  split
  · next l hl => exact absurd hl (h l)
  · rfl
/-- A trap changes the context that takes it and nothing else. -/
theorem State.takeTrap_eq (s : State) (c : CtxIx) (back : Scalar) (t : Trap) (epc : Word64) (blk : Bool) :
    s.takeTrap c back t epc blk = s.setCtx c { (s.ctx c).unpark with
      regs := { (s.ctx c).unpark.regs with sc := back.clearVtf.enterTrap t epc blk }, viq := [], block := none
      holds := (s.ctx c).unpark.viq.filterMap Entry.held ++ (s.ctx c).unpark.holds } := rfl
theorem State.scalarTrap_drained (s : State) (t : Trap) (h : s.me.drained = true) :
    s.scalarTrap t = s.takeTrap s.cur s.mySc t s.mySc.pc false := by simp [State.scalarTrap, h]

/-! ### The VIQ -/

/-- An entry always leaves a next state. -/
theorem State.viqWith_isNext (s : State) (i : Instr) (k : Captured) (post : Scalar → Scalar) (p : Perf) :
    IsNext (s.viqWith i k post p) := by
  unfold State.viqWith
  split
  · split <;> exact ⟨_, rfl⟩
  · dsimp only
    split
    · exact ⟨_, rfl⟩
    · split
      · split
        · exact ⟨_, rfl⟩
        · split <;> exact ⟨_, rfl⟩
      · exact ⟨_, rfl⟩
theorem State.viq_isNext (s : State) (i : Instr) (rcd : Option (BitVec 512)) (post : Scalar → Scalar) (p : Perf) :
    IsNext (s.viq i rcd post p) := s.viqWith_isNext i _ post p

/-- The head of the VIQ is performed on the state without it. -/
theorem State.runHead_cons (s : State) (p : Perf) (e : Entry) (rest : List Entry) (h : s.me.viq = e :: rest) :
    s.runHead p = (p e (s.setMe { s.me with viq := rest })).finish e := by
  unfold State.runHead; rw [h]

/-- The state in which an instruction has issued, without its entry: past the word, with what was kept for its replay used up. -/
def State.issued (s : State) (post : Scalar → Scalar) : State :=
  s.setMe { s.me.setSc (s.issuedSc post) with holds := s.me.holds.filter fun h => !h.of s.mySc }

/-- An instruction that is performed as it issues: the entry captures the scalar side as it stood, and works on the
state in which the instruction has issued. -/
theorem State.viqWith_now (s : State) (i : Instr) (k : Captured) (post : Scalar → Scalar) (p : Perf)
    (h : s.performsNow i = true) :
    s.viqWith i k post p = .next ((p (s.entryFor i k) (s.issued post)).finish (s.entryFor i k)) := by
  have hd : s.me.drained = true := by
    unfold State.performsNow at h; simp only [Bool.and_eq_true] at h; exact h.1.1
  have hv := (Context.drained_iff _).1 hd
  have hu : ¬ 32 ≤ s.me.viqUsed := by simp [Context.viqUsed, hv.1, hv.2]
  have ha : (atIssue i && !s.me.drained) = false := by simp [hd]
  unfold State.viqWith
  simp only [hu, if_false, ha, h, if_true, Bool.false_eq_true]
  congr 1
  rw [State.runHead_cons _ p (s.entryFor i k) [] (by simp [State.me, hv.1])]
  congr 2
  have hv1 : (s.ctx s.cur).viq = [] := hv.1
  simp [State.issued, State.me, State.setMe, Context.setSc, hv1]

/-- An instruction that waits in the VIQ behind older entries or a held lane. -/
theorem State.viqWith_later (s : State) (i : Instr) (k : Captured) (post : Scalar → Scalar) (p : Perf)
    (h : s.performsNow i = false) (hu : s.me.viqUsed < 32) (ha : (atIssue i && !s.me.drained) = false) :
    s.viqWith i k post p = .next (s.setMe { s.me.setSc (s.issuedSc post) with
      viq := s.me.viq ++ [s.entryFor i k], holds := s.me.holds.filter fun h => !h.of s.mySc }) := by
  unfold State.viqWith
  have hu' : ¬ 32 ≤ s.me.viqUsed := by omega
  simp [hu', ha, h]

/-! ### Element blocks -/

theorem State.onBlock_isNext (s : State) (f : Word) (h : s.me.block.isSome = true) : IsNext (s.onBlock f) := by
  unfold State.onBlock
  split
  · next hb => simp [hb] at h
  · split <;> exact ⟨_, rfl⟩
/-- A word that does not fault changes the block in flight and nothing else. -/
theorem State.onBlock_ok (s : State) (f : Word) (b b' : Block) (hb : s.me.block = some b) (hf : f s b = .ok b') :
    s.onBlock f = .next (s.setMe { s.me with block := some b' }) := by
  simp [State.onBlock, hb, hf]
/-- A word that faults aborts the block. -/
theorem State.onBlock_error (s : State) (f : Word) (b : Block) (t : Trap) (hb : s.me.block = some b) (hf : f s b = .error t) :
    s.onBlock f = .next (s.blockTrap b t) := by
  simp [State.onBlock, hb, hf]
theorem State.onBlock_none (s : State) (f : Word) (hb : s.me.block = none) : s.onBlock f = .fault .noBlock := by
  simp [State.onBlock, hb]

end Sys2Proof.Machine
end

