-- ==== Sys2Proof/Laws/Elements.lean ====
section
/-!
SUPPORT. Elements of registers: reading a packed register, the write policies of R77, R160 and R192, and what a word of
an element block leaves.
-/
namespace Sys2Proof.Machine

theorem packNat_lt (w : Nat) (f : Nat → Nat) (n : Nat) : packNat w f n < 2 ^ (w * n) := by
  induction n with
  | zero => simp [packNat]
  | succ n ih =>
    have h : f n % 2 ^ w < 2 ^ w := Nat.mod_lt _ (Nat.pow_pos (by decide))
    rw [packNat, Nat.mul_succ, Nat.pow_add]
    calc packNat w f n + f n % 2 ^ w * 2 ^ (w * n) < 2 ^ (w * n) + f n % 2 ^ w * 2 ^ (w * n) := by omega
      _ = (f n % 2 ^ w + 1) * 2 ^ (w * n) := by rw [Nat.add_mul, Nat.one_mul, Nat.add_comm]
      _ ≤ 2 ^ w * 2 ^ (w * n) := Nat.mul_le_mul_right _ h
      _ = 2 ^ (w * n) * 2 ^ w := Nat.mul_comm _ _

/-- A digit of a packed number, whatever stands above the digits. -/
theorem packNat_digit (w : Nat) (f : Nat → Nat) (i : Nat) :
    ∀ n, i < n → ∀ t, (packNat w f n + t * 2 ^ (w * n)) / 2 ^ (w * i) % 2 ^ w = f i % 2 ^ w := by
  intro n
  induction n with
  | zero => intro h; omega
  | succ n ih =>
    intro h t
    by_cases hi : i < n
    · have := ih hi (f n % 2 ^ w + t * 2 ^ w)
      rw [packNat, Nat.mul_succ, Nat.pow_add, Nat.add_assoc, ← Nat.mul_assoc, Nat.mul_right_comm, ← Nat.add_mul]
      exact this
    · have hn : i = n := by omega
      subst hn
      have hlt := packNat_lt w f i
      have hp : 0 < 2 ^ (w * i) := Nat.pow_pos (by decide)
      rw [packNat, Nat.mul_succ, Nat.pow_add, Nat.add_assoc, ← Nat.mul_assoc, Nat.mul_right_comm, ← Nat.add_mul,
        Nat.add_mul_div_right _ _ hp, Nat.div_eq_of_lt hlt, Nat.zero_add, Nat.add_mul_mod_self_right, Nat.mod_mod]

theorem elem_lt {n : Nat} (v : BitVec n) (i w : Nat) : elem v i w < 2 ^ w := Nat.mod_lt _ (Nat.pow_pos (by decide))
theorem elem_mod {n : Nat} (v : BitVec n) (i w : Nat) : elem v i w % 2 ^ w = elem v i w := Nat.mod_eq_of_lt (elem_lt v i w)

/-- A digit of a number kept to `N` bits, when the digit lies inside. -/
theorem digit_mod (x N w i : Nat) (h : w * i + w ≤ N) : x % 2 ^ N / 2 ^ (w * i) % 2 ^ w = x / 2 ^ (w * i) % 2 ^ w := by
  obtain ⟨k, hk⟩ := Nat.exists_eq_add_of_le h
  subst hk
  rw [Nat.pow_add, Nat.pow_add, Nat.mul_assoc, Nat.mod_mul_right_div_self, Nat.mod_mul_right_mod]

/-- An element of a register packed from `n` elements. -/
theorem elem_pack {N : Nat} (w : Nat) (f : Nat → Nat) (n i t : Nat) (hi : i < n) (hN : w * n ≤ N) :
    elem (BitVec.ofNat N (packNat w f n + t * 2 ^ (w * n))) i w = f i % 2 ^ w := by
  have : w * i + w ≤ N := by
    have : w * (i + 1) ≤ w * n := Nat.mul_le_mul_left _ hi
    rw [Nat.mul_succ] at this; omega
  rw [elem, BitVec.toNat_ofNat, digit_mod _ _ _ _ this, packNat_digit _ _ _ _ hi]
theorem elem_pack0 {N : Nat} (w : Nat) (f : Nat → Nat) (n i : Nat) (hi : i < n) (hN : w * n ≤ N) :
    elem (BitVec.ofNat N (packNat w f n)) i w = f i % 2 ^ w := by
  have := elem_pack (N := N) w f n i 0 hi hN
  simpa using this

theorem vlmax_mul (ew w : Nat) (h : w ≤ ew) : w * vlmax ew ≤ 8192 := by
  have : ew * (8192 / ew) ≤ 8192 := Nat.mul_div_le 8192 ew
  exact Nat.le_trans (Nat.mul_le_mul_right _ h) this

/-- An element of a destination (R77). -/
theorem elem_vecDest (old : VBits) (sc : Scalar) (w : Nat) (f : Nat → Nat) (i : Nat) (hw : w ≤ sc.ew) (hi : i < sc.vlm) :
    elem (vecDest old sc w f) i w = f i % 2 ^ w := by
  unfold vecDest
  simp only
  split
  · exact elem_pack0 _ _ _ _ hi (vlmax_mul _ _ hw)
  · exact elem_pack _ _ _ _ _ hi (vlmax_mul _ _ hw)
/-- An element of a destination with the policies of R160. -/
theorem elem_vecWrite (old : VBits) (sc : Scalar) (w : Nat) (f : Nat → Option Nat) (i : Nat) (hw : w ≤ sc.ew)
    (hi : i < sc.vlm) :
    elem (vecWrite old sc w f) i w =
      if i < sc.vl then (match f i with
        | some x => x % 2 ^ w
        | none => if vtMp sc.vt then 0 else elem old i w)
      else if vtTp sc.vt then 0 else elem old i w := by
  rw [vecWrite, elem_vecDest _ _ _ _ _ hw hi]
  split
  · cases hf : f i with
    | some x => rfl
    | none =>
      simp only
      split
      · simp
      · exact elem_mod _ _ _
  · split
    · simp
    · exact elem_mod _ _ _

/-! ### Registers of the acting context -/

@[simp] theorem State.vreg_setV_same (s : State) (r : VReg) (x : VBits) : (s.setV r x).vreg r = x := by
  simp [State.vreg, State.setV, State.me, State.setMe]
theorem State.vreg_setV_ne (s : State) (r k : VReg) (x : VBits) (h : k ≠ r) : (s.setV r x).vreg k = s.vreg k := by
  have : r.val ≠ k.val := fun e => h (Fin.ext e.symm)
  simp [State.vreg, State.setV, State.me, State.setMe, this]
@[simp] theorem State.mreg_setM_same (s : State) (r : MReg) (x : MBits) : (s.setM r x).mreg r = x := by
  simp [State.mreg, State.setM, State.me, State.setMe]
@[simp] theorem State.wreg_setW_same (s : State) (r : WReg) (x : VBits) : (s.setW r x).wreg r = x := by
  simp [State.wreg, State.setW, State.me, State.setMe]
@[simp] theorem State.mreg_setV (s : State) (r : VReg) (x : VBits) (k : MReg) : (s.setV r x).mreg k = s.mreg k := by
  simp [State.mreg, State.setV, State.me, State.setMe]
@[simp] theorem State.vreg_setM (s : State) (r : MReg) (x : MBits) (k : VReg) : (s.setM r x).vreg k = s.vreg k := by
  simp [State.vreg, State.setM, State.me, State.setMe]
@[simp] theorem State.setV_mySc (s : State) (r : VReg) (x : VBits) : (s.setV r x).mySc = s.mySc := by
  simp [State.mySc, State.sc, State.setV, State.me, State.setMe]
@[simp] theorem State.setM_mySc (s : State) (r : MReg) (x : MBits) : (s.setM r x).mySc = s.mySc := by
  simp [State.mySc, State.sc, State.setM, State.me, State.setMe]

/-! ### Shadows -/

/-- A vector register has a shadow in the block. -/
def Block.declares (b : Block) (d : VReg) : Prop := ∃ x, (d, x) ∈ b.shV

theorem find_map_key {K V : Type} [DecidableEq K] (l : List (K × V)) (k r : K) (x : V) (hk : ∃ y, (k, y) ∈ l) :
    (l.map fun p => if p.1 == k then (k, x) else p).find? (fun p => p.1 == r) =
      if r = k then some (k, x) else l.find? fun p => p.1 == r := by
  induction l with
  | nil => obtain ⟨y, hy⟩ := hk; simp at hy
  | cons p l ih =>
    obtain ⟨p1, p2⟩ := p
    by_cases hp : p1 = k
    · subst hp
      by_cases hr : r = p1
      · subst hr; simp
      · have hr' : ¬ p1 = r := fun e => hr e.symm
        simp only [List.map_cons, if_true, List.find?_cons, beq_iff_eq, beq_eq_false_iff_ne.2 hr', hr, if_false]
        by_cases hin : ∃ y, (p1, y) ∈ l
        · simpa [hr] using ih hin
        · have : l.map (fun p => if p.1 == p1 then (p1, x) else p) = l := by
            have : ∀ p ∈ l, (if p.1 == p1 then (p1, x) else p) = p := by
              intro p hp
              have : p.1 ≠ p1 := fun e => hin ⟨p.2, by rw [← e]; exact hp⟩
              simp [this]
            calc l.map _ = l.map id := List.map_congr_left this
              _ = l := List.map_id l
          simpa using congrArg (List.find? fun p => p.1 == r) this
    · have hin : ∃ y, (k, y) ∈ l := by
        obtain ⟨y, hy⟩ := hk
        rcases List.mem_cons.1 hy with h | h
        · exact absurd (congrArg Prod.fst h).symm hp
        · exact ⟨y, h⟩
      have := ih hin
      by_cases hpr : p1 = r
      · subst hpr; simp [hp]
      · simp [hp, hpr] at this ⊢
        exact this

/-- A shadow that was written is read back; every other register reads as before. -/
theorem Block.v_setV (b : Block) (s : State) (d r : VReg) (x : VBits) (h : b.declares d) :
    (b.setV d x).v s r = if r = d then x else b.v s r := by
  unfold Block.setV Block.v
  simp only [find_map_key b.shV d r x h]
  by_cases hr : r = d <;> simp [hr]

/-- What a lanewise word leaves (R192): element by element, its flags, the next position, and everything else. -/
theorem Block.lanewise_spec (b : Block) (s : State) (d : VReg) (w : Nat) (m : MSel) (res : Nat → Nat × Flags)
    (hd : b.declares d) (hw : w ≤ b.sc.ew) :
    let b' := b.lanewise s d w m res
    (∀ i, i < b.sc.vlm → b.active s m i = true → elem (b'.v s d) i w = (res i).1 % 2 ^ w) ∧
    (∀ i, i < b.sc.vlm → i < b.sc.vl → b.active s m i = false →
      elem (b'.v s d) i w = if b.inrun i && vtMp b.sc.vt then 0 else elem (b.v s d) i w) ∧
    (∀ i, i < b.sc.vlm → b.sc.vl ≤ i → elem (b'.v s d) i w = if vtTp b.sc.vt then 0 else elem (b.v s d) i w) ∧
    (∀ r, r ≠ d → b'.v s r = b.v s r) ∧
    b' = { b with shV := b'.shV, flags := b.flags ||| b.flagsOf s m (fun i => (res i).2), pos := b.pos + 1 } := by
  have hv : ∀ r, (b.lanewise s d w m res).v s r = (b.putV s d w m fun i => some (res i).1).v s r := fun r => rfl
  have he : ∀ i, i < b.sc.vlm → elem ((b.lanewise s d w m res).v s d) i w =
      b.cell s m (elem (b.v s d) i w) (fun i => some (res i).1) i % 2 ^ w := by
    intro i hi
    rw [hv, Block.putV, Block.v_setV _ _ _ _ _ hd, if_pos rfl, elem_vecDest _ _ _ _ _ hw hi]
  refine ⟨?_, ?_, ?_, ?_, rfl⟩
  · intro i hi ha
    rw [he i hi]
    simp only [Block.active, Bool.and_eq_true, decide_eq_true_eq] at ha
    simp [Block.cell, show ¬ b.sc.vl ≤ i by omega, ha.1.2, ha.2]
  · intro i hi hl ha
    rw [he i hi]
    simp only [Block.active, hl, decide_true, Bool.true_and, Bool.and_eq_false_iff] at ha
    by_cases hr : b.inrun i = true
    · have hs : b.selects s m i = false := by simpa [hr] using ha
      simp only [Block.cell, show ¬ b.sc.vl ≤ i by omega, hr, hs, if_false, Bool.not_true, Bool.false_eq_true, Bool.not_false,
        if_true, Bool.true_and]
      split
      · simp
      · exact elem_mod _ _ _
    · simp only [Bool.not_eq_true] at hr
      simp [Block.cell, show ¬ b.sc.vl ≤ i by omega, hr, elem_mod]
  · intro i hi hl
    rw [he i hi]
    simp only [Block.cell, hl, if_true]
    split
    · simp
    · exact elem_mod _ _ _
  · intro r hr
    rw [hv, Block.putV, Block.v_setV _ _ _ _ _ hd, if_neg hr]

end Sys2Proof.Machine
end

