-- ==== Sys2Proof/Laws/Memory.lean ====
section
/-!
SUPPORT. Finite maps in canonical form: reading after writing, and every operation keeps the form.
-/
namespace Sys2Proof.Machine

variable {α : Type} [DecidableEq α] (d : α)

/-- A lower bound may be lowered. -/
theorem fwfFrom_mono {lo hi : Nat} (h : lo ≤ hi) : ∀ m : List (Nat × α), fwfFrom d hi m → fwfFrom d lo m
  | [], _ => rfl
  | (k, v) :: t, hm => by
    simp only [fwfFrom, Bool.and_eq_true, decide_eq_true_eq] at hm ⊢
    exact ⟨⟨by omega, hm.1.2⟩, hm.2⟩

/-- Below its bound a canonical map has the default. -/
theorem fget_below {lo a : Nat} (ha : a < lo) : ∀ m : List (Nat × α), fwfFrom d lo m → fget d m a = d
  | [], _ => rfl
  | (k, v) :: t, hm => by
    simp only [fwfFrom, Bool.and_eq_true, decide_eq_true_eq] at hm
    have h1 : a ≠ k := by omega
    have h2 : a < k := by omega
    simp [fget, h1, h2]

/-- A write keeps the form. -/
theorem fset_wf {lo : Nat} (a : Nat) (v : α) (ha : lo ≤ a) :
    ∀ m : List (Nat × α), fwfFrom d lo m → fwfFrom d lo (fset d m a v)
  | [], _ => by
    unfold fset; split
    · rfl
    · next h => simp [fwfFrom, ha, h]
  | (k, w) :: t, hm => by
    have hm' := hm
    simp only [fwfFrom, Bool.and_eq_true, decide_eq_true_eq] at hm
    obtain ⟨⟨hk, hw⟩, ht⟩ := hm
    unfold fset
    split
    · next h1 =>
      split
      · exact hm'
      · next hv =>
        simp only [fwfFrom, Bool.and_eq_true, decide_eq_true_eq]
        exact ⟨⟨ha, hv⟩, ⟨by omega, hw⟩, ht⟩
    · next h1 =>
      split
      · next h2 =>
        split
        · exact fwfFrom_mono d (by omega) t ht
        · next hv =>
          subst h2
          simp only [fwfFrom, Bool.and_eq_true, decide_eq_true_eq]
          exact ⟨⟨ha, hv⟩, ht⟩
      · next h2 =>
        simp only [fwfFrom, Bool.and_eq_true, decide_eq_true_eq]
        exact ⟨⟨hk, hw⟩, fset_wf a v (by omega) t ht⟩

/-- Reading after a write: the value at its key, elsewhere as before. -/
theorem fget_fset {lo : Nat} (a b : Nat) (v : α) : ∀ m : List (Nat × α), fwfFrom d lo m →
    fget d (fset d m a v) b = if b = a then v else fget d m b
  | [], _ => by
    by_cases hv : v = d <;> by_cases hb : b = a <;> simp [fset, fget, hv, hb]
  | (k, w) :: t, hm => by
    simp only [fwfFrom, Bool.and_eq_true, decide_eq_true_eq] at hm
    obtain ⟨⟨hk, hw⟩, ht⟩ := hm
    have below : ∀ c, c < k + 1 → fget d t c = d := fun c hc => fget_below d hc t ht
    have ih := fget_fset (lo := k + 1) a b v t ht
    rcases Nat.lt_trichotomy a k with h1 | h1 | h1
    · by_cases hv : v = d
      · have : fset d ((k, w) :: t) a v = (k, w) :: t := by simp [fset, h1, hv]
        rw [this]
        split
        · next hb => subst hb; subst hv; have : b ≠ k := by omega
                     simp [fget, this, h1]
        · rfl
      · have : fset d ((k, w) :: t) a v = (a, v) :: (k, w) :: t := by simp [fset, h1, hv]
        rw [this]
        simp only [fget]
        by_cases hb : b = a
        · simp [hb]
        · simp only [hb, if_false]
          by_cases hlt : b < a
          · have : b ≠ k := by omega
            have : b < k := by omega
            simp [*]
          · simp [hlt]
    · subst h1
      by_cases hv : v = d
      · have : fset d ((a, w) :: t) a v = t := by simp [fset, hv]
        rw [this]
        by_cases hb : b = a
        · subst hb; simp [hv, below b (by omega)]
        · simp only [hb, if_false, fget]
          by_cases hlt : b < a
          · simp [hlt, below b (by omega)]
          · simp [hlt]
      · have : fset d ((a, w) :: t) a v = (a, v) :: t := by simp [fset, hv]
        rw [this]
        by_cases hb : b = a <;> simp [fget, hb]
    · have h2 : ¬ a < k := by omega
      have h3 : ¬ a = k := by omega
      have : fset d ((k, w) :: t) a v = (k, w) :: fset d t a v := by simp [fset, h2, h3]
      rw [this]
      simp only [fget, ih]
      by_cases hb : b = k
      · have : b ≠ a := by omega
        simp [hb, show ¬ k = a from fun e => h3 e.symm]
      · by_cases hlt : b < k
        · have : b ≠ a := by omega
          simp [hb, hlt, this]
        · simp [hb, hlt]

/-! ### Bytes -/

@[simp] theorem Memory.wf_empty : Memory.empty.wf = true := rfl
@[simp] theorem Memory.put_lost (m : Memory) (a : Nat) (b : Byte) : (m.put a b).lost = m.lost := rfl
@[simp] theorem Memory.putBytes_lost (bs : List Byte) : ∀ (m : Memory) (a : Nat), (m.putBytes a bs).lost = m.lost := by
  induction bs with
  | nil => intro m a; rfl
  | cons b bs ih => intro m a; exact ih _ _
theorem Memory.put_wf (m : Memory) (a : Nat) (b : Byte) (h : m.wf = true) : (m.put a b).wf = true :=
  fset_wf (0 : Byte) a _ (Nat.zero_le _) m.cells h
theorem Memory.byte_put (m : Memory) (a k : Nat) (b : Byte) (h : m.wf = true) :
    (m.put a b).byte k = if k = a then b else m.byte k := by
  simp only [Memory.byte, Memory.put, fget_fset (0 : Byte) a k _ m.cells h]
  split
  · next e => subst e; rw [BitVec.xor_assoc, BitVec.xor_self, BitVec.xor_zero]
  · rfl
theorem Memory.putBytes_wf (bs : List Byte) : ∀ (m : Memory) (a : Nat), m.wf = true → (m.putBytes a bs).wf = true := by
  induction bs with
  | nil => intro m a h; exact h
  | cons b bs ih => intro m a h; exact ih _ _ (m.put_wf a b h)
theorem Memory.putLe_wf (m : Memory) (a n x : Nat) (h : m.wf = true) : (m.putLe a n x).wf = true :=
  Memory.putBytes_wf (leBytes n x) m a h
/-- A byte after a write of bytes: one of them inside the range, as before outside it. -/
theorem Memory.byte_putBytes (bs : List Byte) : ∀ (m : Memory) (a k : Nat), m.wf = true →
    (m.putBytes a bs).byte k = if a ≤ k ∧ k < a + bs.length then bs.getD (k - a) 0 else m.byte k := by
  induction bs with
  | nil => intro m a k _; simp [Memory.putBytes, show ¬ (a ≤ k ∧ k < a) by omega]
  | cons b bs ih =>
    intro m a k h
    rw [Memory.putBytes, ih _ _ _ (m.put_wf a b h), m.byte_put a k b h]
    by_cases h1 : k = a
    · subst h1; simp
    · by_cases h2 : a + 1 ≤ k ∧ k < a + 1 + bs.length
      · have h3 : a ≤ k ∧ k < a + (b :: bs).length := by simp; omega
        rw [if_pos h2, if_pos h3, show k - a = (k - (a + 1)) + 1 by omega]
        simp
      · have h3 : ¬ (a ≤ k ∧ k < a + (b :: bs).length) := by simp; omega
        rw [if_neg h2, if_neg h3, if_neg h1]
@[simp] theorem leBytes_length (n x : Nat) : (leBytes n x).length = n := by
  induction n generalizing x with
  | zero => rfl
  | succ n ih => simp [leBytes, ih]
theorem leNat_leBytes (n x : Nat) : leNat (leBytes n x) = x % 256 ^ n := by
  induction n generalizing x with
  | zero => simp [leBytes, leNat, Nat.mod_one]
  | succ n ih =>
    simp only [leBytes, leNat, ih, BitVec.toNat_ofNat]
    rw [show 256 ^ (n + 1) = 256 * 256 ^ n by rw [Nat.pow_succ, Nat.mul_comm], Nat.mod_mul]
theorem Memory.bytes_eq (n : Nat) : ∀ (m : Memory) (a : Nat), m.bytes a n = (List.range n).map fun k => m.byte (a + k) := by
  induction n with
  | zero => intro m a; rfl
  | succ n ih =>
    intro m a
    rw [Memory.bytes, ih, List.range_succ_eq_map]
    simp [Function.comp_def, Nat.add_assoc, Nat.add_comm 1]
/-- Dropping entries keeps the form. -/
theorem filter_wf (p : Nat × α → Bool) : ∀ (m : List (Nat × α)) (lo : Nat), fwfFrom d lo m → fwfFrom d lo (m.filter p)
  | [], _, _ => rfl
  | (a, b) :: t, lo, hm => by
    simp only [fwfFrom, Bool.and_eq_true, decide_eq_true_eq] at hm
    obtain ⟨⟨ha, hb⟩, ht⟩ := hm
    have ih := filter_wf p t (a + 1) ht
    rw [List.filter_cons]
    split
    · simp only [fwfFrom, Bool.and_eq_true, decide_eq_true_eq]; exact ⟨⟨ha, hb⟩, ih⟩
    · exact fwfFrom_mono d (by omega) _ ih

/-- The loss of a die keeps the form. -/
theorem Memory.lose_wf (m : Memory) (d : DieIx) (n : Nat) (h : m.wf = true) : (m.lose d n).wf = true :=
  filter_wf (0 : Byte) _ m.cells 0 h

/-! ### The memories of the machine -/

/-- A core's scratchpad keeps the form. -/
theorem Core.putScratch_wf (bs : List Byte) : ∀ (k : Core) (off : Nat), k.scratch.wf = true → (k.putScratch off bs).scratch.wf = true := by
  induction bs with
  | nil => intro k off h; exact h
  | cons b bs ih => intro k off h; exact ih _ _ (Memory.put_wf _ _ _ h)
theorem Core.setScratch_wf (k : Core) (off : Nat) (bs : List Byte) (h : k.scratch.wf = true) :
    (k.setScratch off bs).scratch.wf = true := k.putScratch_wf bs off h
@[simp] theorem State.homeWrite_mem (s : State) (pa : Nat) (bs : List Byte) : (s.homeWrite pa bs).mem = s.mem.putBytes pa bs := rfl
@[simp] theorem State.holmStore_mem (s : State) (c : Option CoreIx) (pa : Nat) (bs : List Byte) :
    (s.holmStore c pa bs).mem = s.mem := by
  unfold State.holmStore; split
  · rfl
  · split <;> rfl
@[simp] theorem State.storePhys_mem (s : State) (c : Option CoreIx) (pa : Nat) (bs : List Byte) :
    (s.storePhys c pa bs).mem = s.mem.putBytes pa bs := by
  unfold State.storePhys; cases c <;> simp [State.setCore]
theorem State.holmStore_mram_wf (s : State) (c : Option CoreIx) (pa : Nat) (bs : List Byte) (h : s.mram.wf = true) :
    (s.holmStore c pa bs).mram.wf = true := by
  unfold State.holmStore; split
  · exact h
  · split
    · exact h
    · exact Memory.putBytes_wf _ _ _ h
theorem State.storePhys_mram_wf (s : State) (c : Option CoreIx) (pa : Nat) (bs : List Byte) (h : s.mram.wf = true) :
    (s.storePhys c pa bs).mram.wf = true := by
  unfold State.storePhys; cases c
  · exact State.holmStore_mram_wf _ _ _ _ h
  · exact State.holmStore_mram_wf _ _ _ _ h
/-- A store of a scratchpad location leaves memory. -/
@[simp] theorem State.storeLoc_win_mem (s : State) (c : Option CoreIx) (k : CoreIx) (off : Nat) (bs : List Byte) :
    (s.storeLoc c (.win k off) bs).mem = s.mem := rfl
/-- A store at a physical address writes its bytes. -/
@[simp] theorem State.storeLoc_mem_mem (s : State) (c : Option CoreIx) (pa : Nat) (bs : List Byte) :
    (s.storeLoc c (.mem pa) bs).mem = s.mem.putBytes pa bs := s.storePhys_mem c pa bs

end Sys2Proof.Machine
end

