-- ==== Sys2Proof/Laws/PerInstr.lean ====
section
/-!
SUPPORT. One statement about every instruction as syntax: which stream it belongs to (R114, R128): a 32-bit word, a
64-bit word, or a device event, which has no encoding.
-/
namespace Sys2Proof.Laws.Stream

/-- The instruction has a 32-bit word, or a 64-bit word, or is a device event without one. -/
def Statement (i : Instr) : Prop :=
  ((∃ w, encode i = some (32, w)) ∧ Machine.isEvent i = false) ∨ ((∃ w, encode i = some (64, w)) ∧ Machine.isEvent i = false) ∨
    (encode i = none ∧ Machine.isEvent i = true)

theorem add (o : X3) : Statement (.add o) := .inl ⟨⟨_, rfl⟩, rfl⟩
theorem sub (o : X3) : Statement (.sub o) := .inl ⟨⟨_, rfl⟩, rfl⟩
theorem and (o : X3) : Statement (.and o) := .inl ⟨⟨_, rfl⟩, rfl⟩
theorem or (o : X3) : Statement (.or o) := .inl ⟨⟨_, rfl⟩, rfl⟩
theorem xor (o : X3) : Statement (.xor o) := .inl ⟨⟨_, rfl⟩, rfl⟩
theorem andn (o : X3) : Statement (.andn o) := .inl ⟨⟨_, rfl⟩, rfl⟩
theorem orn (o : X3) : Statement (.orn o) := .inl ⟨⟨_, rfl⟩, rfl⟩
theorem sll (o : X3) : Statement (.sll o) := .inl ⟨⟨_, rfl⟩, rfl⟩
theorem srl (o : X3) : Statement (.srl o) := .inl ⟨⟨_, rfl⟩, rfl⟩
theorem sra (o : X3) : Statement (.sra o) := .inl ⟨⟨_, rfl⟩, rfl⟩
theorem slt (o : X3) : Statement (.slt o) := .inl ⟨⟨_, rfl⟩, rfl⟩
theorem sltn (o : X3) : Statement (.sltn o) := .inl ⟨⟨_, rfl⟩, rfl⟩
theorem min (o : X3) : Statement (.min o) := .inl ⟨⟨_, rfl⟩, rfl⟩
theorem max (o : X3) : Statement (.max o) := .inl ⟨⟨_, rfl⟩, rfl⟩
theorem minn (o : X3) : Statement (.minn o) := .inl ⟨⟨_, rfl⟩, rfl⟩
theorem maxn (o : X3) : Statement (.maxn o) := .inl ⟨⟨_, rfl⟩, rfl⟩
theorem mul (o : X3) : Statement (.mul o) := .inl ⟨⟨_, rfl⟩, rfl⟩
theorem mulh (o : X3) : Statement (.mulh o) := .inl ⟨⟨_, rfl⟩, rfl⟩
theorem mulhn (o : X3) : Statement (.mulhn o) := .inl ⟨⟨_, rfl⟩, rfl⟩
theorem div (o : X3) : Statement (.div o) := .inl ⟨⟨_, rfl⟩, rfl⟩
theorem divn (o : X3) : Statement (.divn o) := .inl ⟨⟨_, rfl⟩, rfl⟩
theorem rem (o : X3) : Statement (.rem o) := .inl ⟨⟨_, rfl⟩, rfl⟩
theorem remn (o : X3) : Statement (.remn o) := .inl ⟨⟨_, rfl⟩, rfl⟩
theorem clz (o : X2) : Statement (.clz o) := .inl ⟨⟨_, rfl⟩, rfl⟩
theorem ctz (o : X2) : Statement (.ctz o) := .inl ⟨⟨_, rfl⟩, rfl⟩
theorem popc (o : X2) : Statement (.popc o) := .inl ⟨⟨_, rfl⟩, rfl⟩
theorem sext (o : XExt) : Statement (.sext o) := .inl ⟨⟨_, rfl⟩, rfl⟩
theorem zext (o : XExt) : Statement (.zext o) := .inl ⟨⟨_, rfl⟩, rfl⟩
theorem slli (o : XSh) : Statement (.slli o) := .inl ⟨⟨_, rfl⟩, rfl⟩
theorem srli (o : XSh) : Statement (.srli o) := .inl ⟨⟨_, rfl⟩, rfl⟩
theorem srai (o : XSh) : Statement (.srai o) := .inl ⟨⟨_, rfl⟩, rfl⟩
theorem addi (o : XImm) : Statement (.addi o) := .inl ⟨⟨_, rfl⟩, rfl⟩
theorem andi (o : XImm) : Statement (.andi o) := .inl ⟨⟨_, rfl⟩, rfl⟩
theorem ori (o : XImm) : Statement (.ori o) := .inl ⟨⟨_, rfl⟩, rfl⟩
theorem xori (o : XImm) : Statement (.xori o) := .inl ⟨⟨_, rfl⟩, rfl⟩
theorem slti (o : XImm) : Statement (.slti o) := .inl ⟨⟨_, rfl⟩, rfl⟩
theorem shori (o : XImm) : Statement (.shori o) := .inl ⟨⟨_, rfl⟩, rfl⟩
theorem lih (d : XReg) (i : BitVec 16) : Statement (.lih d i) := .inl ⟨⟨_, rfl⟩, rfl⟩
theorem ld (d a : XReg) (off : BitVec 12) (z : LdSize) : Statement (.ld d a off z) := .inl ⟨⟨_, rfl⟩, rfl⟩
theorem st (d a : XReg) (off : BitVec 12) (z : StSize) : Statement (.st d a off z) := .inl ⟨⟨_, rfl⟩, rfl⟩
theorem ldx (o : X3) (z : LdSize) : Statement (.ldx o z) := .inl ⟨⟨_, rfl⟩, rfl⟩
theorem stx (o : X3) (z : StSize) : Statement (.stx o z) := .inl ⟨⟨_, rfl⟩, rfl⟩
theorem ldAcq (o : X3) (c : Scope) (z : LdSize) : Statement (.ldAcq o c z) := .inl ⟨⟨_, rfl⟩, rfl⟩
theorem stRel (o : X3) (c : Scope) (z : StSize) : Statement (.stRel o c z) := .inl ⟨⟨_, rfl⟩, rfl⟩
theorem amo (o : AmoArgs) : Statement (.amo o) := .inl ⟨⟨_, rfl⟩, rfl⟩
theorem cas (o : CasArgs) : Statement (.cas o) := .inl ⟨⟨_, rfl⟩, rfl⟩
theorem beq (o : Br) : Statement (.beq o) := .inl ⟨⟨_, rfl⟩, rfl⟩
theorem bne (o : Br) : Statement (.bne o) := .inl ⟨⟨_, rfl⟩, rfl⟩
theorem blt (o : Br) : Statement (.blt o) := .inl ⟨⟨_, rfl⟩, rfl⟩
theorem bge (o : Br) : Statement (.bge o) := .inl ⟨⟨_, rfl⟩, rfl⟩
theorem bltn (o : Br) : Statement (.bltn o) := .inl ⟨⟨_, rfl⟩, rfl⟩
theorem bgen (o : Br) : Statement (.bgen o) := .inl ⟨⟨_, rfl⟩, rfl⟩
theorem jal (d : XReg) (i : BitVec 16) : Statement (.jal d i) := .inl ⟨⟨_, rfl⟩, rfl⟩
theorem jalr (o : XImm) : Statement (.jalr o) := .inl ⟨⟨_, rfl⟩, rfl⟩
theorem fadd (o : Fp3) : Statement (.fadd o) := .inl ⟨⟨_, rfl⟩, rfl⟩
theorem fsub (o : Fp3) : Statement (.fsub o) := .inl ⟨⟨_, rfl⟩, rfl⟩
theorem fmul (o : Fp3) : Statement (.fmul o) := .inl ⟨⟨_, rfl⟩, rfl⟩
theorem ffma (o : Fp3) : Statement (.ffma o) := .inl ⟨⟨_, rfl⟩, rfl⟩
theorem fdiv (o : Fp3) : Statement (.fdiv o) := .inl ⟨⟨_, rfl⟩, rfl⟩
theorem fsqrt (o : X2) (t : FpT) (r : Rnd) : Statement (.fsqrt o t r) := .inl ⟨⟨_, rfl⟩, rfl⟩
theorem fmin (o : Fp3n) : Statement (.fmin o) := .inl ⟨⟨_, rfl⟩, rfl⟩
theorem fmax (o : Fp3n) : Statement (.fmax o) := .inl ⟨⟨_, rfl⟩, rfl⟩
theorem fcmp (o : X3) (t : FpT) (c : Cond) : Statement (.fcmp o t c) := .inl ⟨⟨_, rfl⟩, rfl⟩
theorem fclass (o : X2) (t : FpT) : Statement (.fclass o t) := .inl ⟨⟨_, rfl⟩, rfl⟩
theorem fcvtToFp (o : FpCvt) : Statement (.fcvtToFp o) := .inl ⟨⟨_, rfl⟩, rfl⟩
theorem fcvtFromFp (o : FpCvt) : Statement (.fcvtFromFp o) := .inl ⟨⟨_, rfl⟩, rfl⟩
theorem csrr (d : XReg) (c : BitVec 12) : Statement (.csrr d c) := .inl ⟨⟨_, rfl⟩, rfl⟩
theorem csrw (a : XReg) (c : BitVec 12) : Statement (.csrw a c) := .inl ⟨⟨_, rfl⟩, rfl⟩
theorem csrs (o : X2) (c : BitVec 12) : Statement (.csrs o c) := .inl ⟨⟨_, rfl⟩, rfl⟩
theorem csrc (o : X2) (c : BitVec 12) : Statement (.csrc o c) := .inl ⟨⟨_, rfl⟩, rfl⟩
theorem fenceLd (c : Scope) : Statement (.fenceLd c) := .inl ⟨⟨_, rfl⟩, rfl⟩
theorem fenceSt (c : Scope) : Statement (.fenceSt c) := .inl ⟨⟨_, rfl⟩, rfl⟩
theorem fenceAll (c : Scope) : Statement (.fenceAll c) := .inl ⟨⟨_, rfl⟩, rfl⟩
theorem bar (c : Scope) : Statement (.bar c) := .inl ⟨⟨_, rfl⟩, rfl⟩
theorem xpop (d : XReg) : Statement (.xpop d) := .inl ⟨⟨_, rfl⟩, rfl⟩
theorem feat (d : XReg) (n : Fin 32) : Statement (.feat d n) := .inl ⟨⟨_, rfl⟩, rfl⟩
theorem tlbinv (a b : XReg) : Statement (.tlbinv a b) := .inl ⟨⟨_, rfl⟩, rfl⟩
theorem srinv (a : XReg) : Statement (.srinv a) := .inl ⟨⟨_, rfl⟩, rfl⟩
theorem launch (a : XReg) : Statement (.launch a) := .inl ⟨⟨_, rfl⟩, rfl⟩
theorem tstop (o : X2) : Statement (.tstop o) := .inl ⟨⟨_, rfl⟩, rfl⟩
theorem vfetch (o : BitVec 26) : Statement (.vfetch o) := .inl ⟨⟨_, rfl⟩, rfl⟩
theorem vfetchx (a : XReg) : Statement (.vfetchx a) := .inl ⟨⟨_, rfl⟩, rfl⟩
theorem vsetl (o : X2) (t : BitVec 11) : Statement (.vsetl o t) := .inl ⟨⟨_, rfl⟩, rfl⟩
theorem vsetlx (o : X3) : Statement (.vsetlx o) := .inl ⟨⟨_, rfl⟩, rfl⟩
theorem vldxAcq (v : VReg) (a : XReg) (i : VReg) (m : MSel) (c : Scope) : Statement (.vldxAcq v a i m c) := .inl ⟨⟨_, rfl⟩, rfl⟩
theorem vstsNtf (o : VStore) (b : XReg) : Statement (.vstsNtf o b) := .inl ⟨⟨_, rfl⟩, rfl⟩
theorem strip (c p : XReg) (n : Fin 4) (o : BitVec 14) : Statement (.strip c p n o) := .inl ⟨⟨_, rfl⟩, rfl⟩
theorem setfib (o : X2) (mo : MReg) (t : BitVec 11) : Statement (.setfib o mo t) := .inl ⟨⟨_, rfl⟩, rfl⟩
theorem vsplat (o : VMem) : Statement (.vsplat o) := .inl ⟨⟨_, rfl⟩, rfl⟩
theorem vprf (a b : XReg) (e : EwSel) : Statement (.vprf a b e) := .inl ⟨⟨_, rfl⟩, rfl⟩
theorem vld (o : VMem) : Statement (.vld o) := .inl ⟨⟨_, rfl⟩, rfl⟩
theorem vlds (o : VMem) (b : XReg) : Statement (.vlds o b) := .inl ⟨⟨_, rfl⟩, rfl⟩
theorem vldg (o : VMem) (n : Fin 9) : Statement (.vldg o n) := .inl ⟨⟨_, rfl⟩, rfl⟩
theorem vld2 (o : VMem) : Statement (.vld2 o) := .inl ⟨⟨_, rfl⟩, rfl⟩
theorem vst (o : VstArgs) : Statement (.vst o) := .inl ⟨⟨_, rfl⟩, rfl⟩
theorem vsts (o : VStore) (b : XReg) : Statement (.vsts o b) := .inl ⟨⟨_, rfl⟩, rfl⟩
theorem vstg (o : VStore) (n : Fin 9) (ntf : Bool) : Statement (.vstg o n ntf) := .inl ⟨⟨_, rfl⟩, rfl⟩
theorem vst2 (o : VStore) (ntf : Bool) : Statement (.vst2 o ntf) := .inl ⟨⟨_, rfl⟩, rfl⟩
theorem vldx (o : VMem) (i : VReg) : Statement (.vldx o i) := .inl ⟨⟨_, rfl⟩, rfl⟩
theorem vstx (o : VStore) (i : VReg) (ntf : Bool) : Statement (.vstx o i ntf) := .inl ⟨⟨_, rfl⟩, rfl⟩
theorem vldw (v : VReg) (a : XReg) (i : VReg) (mo : MReg) (e : EwSel) : Statement (.vldw v a i mo e) := .inl ⟨⟨_, rfl⟩, rfl⟩
theorem vldb (v : VReg) (a b : XReg) (mo : MReg) (e : EwSel) : Statement (.vldb v a b mo e) := .inl ⟨⟨_, rfl⟩, rfl⟩
theorem vstb (o : VStore) (b : XReg) : Statement (.vstb o b) := .inl ⟨⟨_, rfl⟩, rfl⟩
theorem vstbNtf (o : VStore) (b : XReg) : Statement (.vstbNtf o b) := .inl ⟨⟨_, rfl⟩, rfl⟩
theorem vamo (o : VamoArgs) : Statement (.vamo o) := .inl ⟨⟨_, rfl⟩, rfl⟩
theorem vsred (o : VStore) (op : SredOp) : Statement (.vsred o op) := .inl ⟨⟨_, rfl⟩, rfl⟩
theorem vrred (o : VStore) (t : RredT) (ntf ord : Bool) : Statement (.vrred o t ntf ord) := .inl ⟨⟨_, rfl⟩, rfl⟩
theorem fcfg (f : FeedIx) (a b : XReg) (stride : Fin 16) (out : Bool) (e : EwSel) : Statement (.fcfg f a b stride out e) := .inl ⟨⟨_, rfl⟩, rfl⟩
theorem fld (v : VReg) (f : FeedIx) : Statement (.fld v f) := .inl ⟨⟨_, rfl⟩, rfl⟩
theorem fst (v : VReg) (f : FeedIx) (m : MSel) (ch : Bool) (e : EwSel) : Statement (.fst v f m ch e) := .inl ⟨⟨_, rfl⟩, rfl⟩
theorem fend (f : FeedIx) (a : XReg) (m : MSel) (e : EwSel) : Statement (.fend f a m e) := .inl ⟨⟨_, rfl⟩, rfl⟩
theorem apush (a b : XReg) (tag : Byte) : Statement (.apush a b tag) := .inl ⟨⟨_, rfl⟩, rfl⟩
theorem apop (o : X3) (tag : Byte) : Statement (.apop o tag) := .inl ⟨⟨_, rfl⟩, rfl⟩
theorem nsend (o : NsendArgs) : Statement (.nsend o) := .inl ⟨⟨_, rfl⟩, rfl⟩
theorem matt (o : X2) : Statement (.matt o) := .inl ⟨⟨_, rfl⟩, rfl⟩
theorem mattB (o : X2) : Statement (.mattB o) := .inl ⟨⟨_, rfl⟩, rfl⟩
theorem mzero (acc : AccIx) : Statement (.mzero acc) := .inl ⟨⟨_, rfl⟩, rfl⟩
theorem mopa (acc : AccIx) (v : VSrc) (k : Fin 512) (mr mc : MSel) : Statement (.mopa acc v k mr mc) := .inl ⟨⟨_, rfl⟩, rfl⟩
theorem mopav (acc : AccIx) (v : VSrc) (b : VReg) (mr mc : MSel) (t : MatT) : Statement (.mopav acc v b mr mc t) := .inl ⟨⟨_, rfl⟩, rfl⟩
theorem mrds (acc : AccIx) (v : VReg) (i : Fin 128) (col : Bool) : Statement (.mrds acc v i col) := .inl ⟨⟨_, rfl⟩, rfl⟩
theorem mwrs (acc : AccIx) (v : VSrc) (i : Fin 128) (col : Bool) : Statement (.mwrs acc v i col) := .inl ⟨⟨_, rfl⟩, rfl⟩
theorem mstt (o : MsArgs) : Statement (.mstt o) := .inl ⟨⟨_, rfl⟩, rfl⟩
theorem mgacc (o : MsArgs) : Statement (.mgacc o) := .inl ⟨⟨_, rfl⟩, rfl⟩
theorem mgst (a : XReg) : Statement (.mgst a) := .inl ⟨⟨_, rfl⟩, rfl⟩
theorem mwld (a : XReg) (layout : Option (Fin 16)) : Statement (.mwld a layout) := by
  cases layout <;> exact .inl ⟨⟨_, rfl⟩, rfl⟩
theorem qinit (a b : XReg) (c : Scope) : Statement (.qinit a b c) := .inl ⟨⟨_, rfl⟩, rfl⟩
theorem qcnt (o : X2) (c : Scope) : Statement (.qcnt o c) := .inl ⟨⟨_, rfl⟩, rfl⟩
theorem qclose (a : XReg) (c : Scope) : Statement (.qclose a c) := .inl ⟨⟨_, rfl⟩, rfl⟩
theorem qenqX (o : QArgs) : Statement (.qenqX o) := .inl ⟨⟨_, rfl⟩, rfl⟩
theorem qdeqX (o : QArgs) : Statement (.qdeqX o) := .inl ⟨⟨_, rfl⟩, rfl⟩
theorem qenqM (o : QArgs) : Statement (.qenqM o) := .inl ⟨⟨_, rfl⟩, rfl⟩
theorem qdeqM (o : QArgs) : Statement (.qdeqM o) := .inl ⟨⟨_, rfl⟩, rfl⟩
theorem qenqV (o : QvArgs) : Statement (.qenqV o) := .inl ⟨⟨_, rfl⟩, rfl⟩
theorem qdeqV (o : QvArgs) : Statement (.qdeqV o) := .inl ⟨⟨_, rfl⟩, rfl⟩
theorem binit (o : X3) : Statement (.binit o) := .inl ⟨⟨_, rfl⟩, rfl⟩
theorem barr (a b : XReg) : Statement (.barr a b) := .inl ⟨⟨_, rfl⟩, rfl⟩
theorem barrRel (a b : XReg) : Statement (.barrRel a b) := .inl ⟨⟨_, rfl⟩, rfl⟩
theorem bwait (o : X3) : Statement (.bwait o) := .inl ⟨⟨_, rfl⟩, rfl⟩
theorem bphase (o : X2) : Statement (.bphase o) := .inl ⟨⟨_, rfl⟩, rfl⟩
theorem sigdec (a b : XReg) : Statement (.sigdec a b) := .inl ⟨⟨_, rfl⟩, rfl⟩
theorem sigwait (a : XReg) : Statement (.sigwait a) := .inl ⟨⟨_, rfl⟩, rfl⟩
theorem uliarm (o : X3) : Statement (.uliarm o) := .inl ⟨⟨_, rfl⟩, rfl⟩
theorem vfadd (o : VE2r) : Statement (.vfadd o) := .inr (.inl ⟨⟨_, rfl⟩, rfl⟩)
theorem vfsub (o : VE2r) : Statement (.vfsub o) := .inr (.inl ⟨⟨_, rfl⟩, rfl⟩)
theorem vfmul (o : VE2r) : Statement (.vfmul o) := .inr (.inl ⟨⟨_, rfl⟩, rfl⟩)
theorem vfma (o : VE3r) : Statement (.vfma o) := .inr (.inl ⟨⟨_, rfl⟩, rfl⟩)
theorem vfms (o : VE3r) : Statement (.vfms o) := .inr (.inl ⟨⟨_, rfl⟩, rfl⟩)
theorem vfnma (o : VE3r) : Statement (.vfnma o) := .inr (.inl ⟨⟨_, rfl⟩, rfl⟩)
theorem vfdiv (o : VE2r) : Statement (.vfdiv o) := .inr (.inl ⟨⟨_, rfl⟩, rfl⟩)
theorem vfsqrt (o : VE1r) : Statement (.vfsqrt o) := .inr (.inl ⟨⟨_, rfl⟩, rfl⟩)
theorem vfmin (o : VE2) : Statement (.vfmin o) := .inr (.inl ⟨⟨_, rfl⟩, rfl⟩)
theorem vfmax (o : VE2) : Statement (.vfmax o) := .inr (.inl ⟨⟨_, rfl⟩, rfl⟩)
theorem vfabs (o : VE1) : Statement (.vfabs o) := .inr (.inl ⟨⟨_, rfl⟩, rfl⟩)
theorem vfneg (o : VE1) : Statement (.vfneg o) := .inr (.inl ⟨⟨_, rfl⟩, rfl⟩)
theorem vfsgn (o : VE2) : Statement (.vfsgn o) := .inr (.inl ⟨⟨_, rfl⟩, rfl⟩)
theorem vadd (o : VE2) : Statement (.vadd o) := .inr (.inl ⟨⟨_, rfl⟩, rfl⟩)
theorem vsub (o : VE2) : Statement (.vsub o) := .inr (.inl ⟨⟨_, rfl⟩, rfl⟩)
theorem vmul (o : VE2) : Statement (.vmul o) := .inr (.inl ⟨⟨_, rfl⟩, rfl⟩)
theorem vmulh (o : VE2) : Statement (.vmulh o) := .inr (.inl ⟨⟨_, rfl⟩, rfl⟩)
theorem vmulhn (o : VE2) : Statement (.vmulhn o) := .inr (.inl ⟨⟨_, rfl⟩, rfl⟩)
theorem vand (o : VE2) : Statement (.vand o) := .inr (.inl ⟨⟨_, rfl⟩, rfl⟩)
theorem vor (o : VE2) : Statement (.vor o) := .inr (.inl ⟨⟨_, rfl⟩, rfl⟩)
theorem vxor (o : VE2) : Statement (.vxor o) := .inr (.inl ⟨⟨_, rfl⟩, rfl⟩)
theorem vsll (o : VE2) : Statement (.vsll o) := .inr (.inl ⟨⟨_, rfl⟩, rfl⟩)
theorem vsrl (o : VE2) : Statement (.vsrl o) := .inr (.inl ⟨⟨_, rfl⟩, rfl⟩)
theorem vsra (o : VE2) : Statement (.vsra o) := .inr (.inl ⟨⟨_, rfl⟩, rfl⟩)
theorem vmin (o : VE2) : Statement (.vmin o) := .inr (.inl ⟨⟨_, rfl⟩, rfl⟩)
theorem vmax (o : VE2) : Statement (.vmax o) := .inr (.inl ⟨⟨_, rfl⟩, rfl⟩)
theorem vminn (o : VE2) : Statement (.vminn o) := .inr (.inl ⟨⟨_, rfl⟩, rfl⟩)
theorem vmaxn (o : VE2) : Statement (.vmaxn o) := .inr (.inl ⟨⟨_, rfl⟩, rfl⟩)
theorem vsadd (o : VE2) : Statement (.vsadd o) := .inr (.inl ⟨⟨_, rfl⟩, rfl⟩)
theorem vssub (o : VE2) : Statement (.vssub o) := .inr (.inl ⟨⟨_, rfl⟩, rfl⟩)
theorem vsaddn (o : VE2) : Statement (.vsaddn o) := .inr (.inl ⟨⟨_, rfl⟩, rfl⟩)
theorem vssubn (o : VE2) : Statement (.vssubn o) := .inr (.inl ⟨⟨_, rfl⟩, rfl⟩)
theorem vdot (o : VDotArgs) : Statement (.vdot o) := .inr (.inl ⟨⟨_, rfl⟩, rfl⟩)
theorem vfcmp (o : VCmpArgs) : Statement (.vfcmp o) := .inr (.inl ⟨⟨_, rfl⟩, rfl⟩)
theorem vcmp (o : VCmpArgs) : Statement (.vcmp o) := .inr (.inl ⟨⟨_, rfl⟩, rfl⟩)
theorem mand (o : MOp) : Statement (.mand o) := .inr (.inl ⟨⟨_, rfl⟩, rfl⟩)
theorem mor (o : MOp) : Statement (.mor o) := .inr (.inl ⟨⟨_, rfl⟩, rfl⟩)
theorem mxor (o : MOp) : Statement (.mxor o) := .inr (.inl ⟨⟨_, rfl⟩, rfl⟩)
theorem mandn (o : MOp) : Statement (.mandn o) := .inr (.inl ⟨⟨_, rfl⟩, rfl⟩)
theorem mset (d : Fin 4) (m : MSel) (val : Bool) : Statement (.mset d m val) := .inr (.inl ⟨⟨_, rfl⟩, rfl⟩)
theorem mpopc (a : MReg) (m : MSel) : Statement (.mpopc a m) := .inr (.inl ⟨⟨_, rfl⟩, rfl⟩)
theorem mfirst (a : MReg) (m : MSel) : Statement (.mfirst a m) := .inr (.inl ⟨⟨_, rfl⟩, rfl⟩)
theorem vcvt (o : VCvtArgs) : Statement (.vcvt o) := .inr (.inl ⟨⟨_, rfl⟩, rfl⟩)
theorem vqmx (o : VQmxArgs) : Statement (.vqmx o) := .inr (.inl ⟨⟨_, rfl⟩, rfl⟩)
theorem vmov (o : VE1) : Statement (.vmov o) := .inr (.inl ⟨⟨_, rfl⟩, rfl⟩)
theorem vbcast (o : VE1i) : Statement (.vbcast o) := .inr (.inl ⟨⟨_, rfl⟩, rfl⟩)
theorem vext (a : VSrc) (t : EType) (i : Fin 4096) : Statement (.vext a t i) := .inr (.inl ⟨⟨_, rfl⟩, rfl⟩)
theorem viota (d : VReg) (m : MSel) (t : EType) : Statement (.viota d m t) := .inr (.inl ⟨⟨_, rfl⟩, rfl⟩)
theorem vslup (o : VE1i) : Statement (.vslup o) := .inr (.inl ⟨⟨_, rfl⟩, rfl⟩)
theorem vsldn (o : VE1i) : Statement (.vsldn o) := .inr (.inl ⟨⟨_, rfl⟩, rfl⟩)
theorem vperm (o : VE2) : Statement (.vperm o) := .inr (.inl ⟨⟨_, rfl⟩, rfl⟩)
theorem vcomp (o : VE1) : Statement (.vcomp o) := .inr (.inl ⟨⟨_, rfl⟩, rfl⟩)
theorem vexpd (o : VE1) : Statement (.vexpd o) := .inr (.inl ⟨⟨_, rfl⟩, rfl⟩)
theorem vmatch (o : VE1) : Statement (.vmatch o) := .inr (.inl ⟨⟨_, rfl⟩, rfl⟩)
theorem vfredsum (o : VRedArgs) : Statement (.vfredsum o) := .inr (.inl ⟨⟨_, rfl⟩, rfl⟩)
theorem vfredmax (o : VRedArgs) : Statement (.vfredmax o) := .inr (.inl ⟨⟨_, rfl⟩, rfl⟩)
theorem vfredmin (o : VRedArgs) : Statement (.vfredmin o) := .inr (.inl ⟨⟨_, rfl⟩, rfl⟩)
theorem vredsum (o : VRedIArgs) : Statement (.vredsum o) := .inr (.inl ⟨⟨_, rfl⟩, rfl⟩)
theorem vredmax (o : VRedIArgs) : Statement (.vredmax o) := .inr (.inl ⟨⟨_, rfl⟩, rfl⟩)
theorem vredmin (o : VRedIArgs) : Statement (.vredmin o) := .inr (.inl ⟨⟨_, rfl⟩, rfl⟩)
theorem vfscan (o : VScanArgs) : Statement (.vfscan o) := .inr (.inl ⟨⟨_, rfl⟩, rfl⟩)
theorem vscan (o : VScanIArgs) : Statement (.vscan o) := .inr (.inl ⟨⟨_, rfl⟩, rfl⟩)
theorem wramp (a c : VSrc) (m : MSel) (w : WReg) : Statement (.wramp a c m w) := .inr (.inl ⟨⟨_, rfl⟩, rfl⟩)
theorem wcmp (a : MReg) (m : MSel) (w : WReg) : Statement (.wcmp a m w) := .inr (.inl ⟨⟨_, rfl⟩, rfl⟩)
theorem wcomp (m : MSel) (d z : WReg) : Statement (.wcomp m d z) := .inr (.inl ⟨⟨_, rfl⟩, rfl⟩)
theorem wmul (m : MSel) (d s1 s2 : WReg) : Statement (.wmul m d s1 s2) := .inr (.inl ⟨⟨_, rfl⟩, rfl⟩)
theorem wmov (dir : WMovDir) (m : MSel) (t : EType) (r : Rnd) (w : WReg) : Statement (.wmov dir m t r w) := by
  cases dir <;> exact .inr (.inl ⟨⟨_, rfl⟩, rfl⟩)
theorem wbegin (arms : Arms) (pf : Bool) : Statement (.wbegin arms pf) := .inr (.inl ⟨⟨_, rfl⟩, rfl⟩)
theorem wjoin (o : WJoinArgs) : Statement (.wjoin o) := .inr (.inl ⟨⟨_, rfl⟩, rfl⟩)
theorem wgjoin (o : WGJoinArgs) : Statement (.wgjoin o) := .inr (.inl ⟨⟨_, rfl⟩, rfl⟩)
theorem wgramp (o : WGRampArgs) : Statement (.wgramp o) := .inr (.inl ⟨⟨_, rfl⟩, rfl⟩)
theorem wcont (w : WReg) (dist : Fin 256) : Statement (.wcont w dist) := .inr (.inl ⟨⟨_, rfl⟩, rfl⟩)
theorem lde (o : LdeArgs) : Statement (.lde o) := .inr (.inl ⟨⟨_, rfl⟩, rfl⟩)
theorem ste (o : SteArgs) : Statement (.ste o) := .inr (.inl ⟨⟨_, rfl⟩, rfl⟩)
theorem wsta (o : WstaArgs) : Statement (.wsta o) := .inr (.inl ⟨⟨_, rfl⟩, rfl⟩)
theorem launchDequeue (d : DieIx) : Statement (.launchDequeue d) := .inr (.inr ⟨rfl, rfl⟩)
theorem dependenceReady (d : DieIx) (l : Nat) : Statement (.dependenceReady d l) := .inr (.inr ⟨rfl, rfl⟩)
theorem taskStart (d : DieIx) (l : Nat) (cs : List CtxIx) : Statement (.taskStart d l cs) := .inr (.inr ⟨rfl, rfl⟩)
theorem taskResume (l : Nat) (cs : List CtxIx) : Statement (.taskResume l cs) := .inr (.inr ⟨rfl, rfl⟩)
theorem launchComplete (l : Nat) : Statement (.launchComplete l) := .inr (.inr ⟨rfl, rfl⟩)
theorem queueWake (c : CtxIx) : Statement (.queueWake c) := .inr (.inr ⟨rfl, rfl⟩)
theorem bwaitWake (c : CtxIx) : Statement (.bwaitWake c) := .inr (.inr ⟨rfl, rfl⟩)
theorem sigwaitWake (c : CtxIx) : Statement (.sigwaitWake c) := .inr (.inr ⟨rfl, rfl⟩)
theorem barComplete (c : CtxIx) : Statement (.barComplete c) := .inr (.inr ⟨rfl, rfl⟩)
theorem xpopWake (c : CtxIx) : Statement (.xpopWake c) := .inr (.inr ⟨rfl, rfl⟩)
theorem fldWake (c : CtxIx) : Statement (.fldWake c) := .inr (.inr ⟨rfl, rfl⟩)
theorem waiteWake (c : CtxIx) : Statement (.waiteWake c) := .inr (.inr ⟨rfl, rfl⟩)
theorem mattBGrant (q : QuadIx) : Statement (.mattBGrant q) := .inr (.inr ⟨rfl, rfl⟩)
theorem weightBufferSwitch (q : QuadIx) : Statement (.weightBufferSwitch q) := .inr (.inr ⟨rfl, rfl⟩)
theorem feedOutputDone (c : CtxIx) (f : FeedIx) : Statement (.feedOutputDone c f) := .inr (.inr ⟨rfl, rfl⟩)
theorem byteCountAdd (n : Nat) : Statement (.byteCountAdd n) := .inr (.inr ⟨rfl, rfl⟩)
theorem vrredApply (n : Nat) : Statement (.vrredApply n) := .inr (.inr ⟨rfl, rfl⟩)
theorem uliDelivery (c : CtxIx) : Statement (.uliDelivery c) := .inr (.inr ⟨rfl, rfl⟩)
theorem timeSliceExpiry (c : CtxIx) : Statement (.timeSliceExpiry c) := .inr (.inr ⟨rfl, rfl⟩)
theorem msixMessage (b : Fin 256) : Statement (.msixMessage b) := .inr (.inr ⟨rfl, rfl⟩)
theorem preempt (c : CtxIx) : Statement (.preempt c) := .inr (.inr ⟨rfl, rfl⟩)
theorem viqEntryStart (c : CtxIx) : Statement (.viqEntryStart c) := .inr (.inr ⟨rfl, rfl⟩)
theorem feedInputEnded (c : CtxIx) (f : FeedIx) : Statement (.feedInputEnded c f) := .inr (.inr ⟨rfl, rfl⟩)
theorem nsendComplete (id : Nat) : Statement (.nsendComplete id) := .inr (.inr ⟨rfl, rfl⟩)
theorem failureCompletion (p : PortIx) (id : Nat) : Statement (.failureCompletion p id) := .inr (.inr ⟨rfl, rfl⟩)
theorem transferReceive (p : PortIx) (t : Transfer) : Statement (.transferReceive p t) := .inr (.inr ⟨rfl, rfl⟩)
theorem flitReceive (p : PortIx) (f : RxFlit) : Statement (.flitReceive p f) := .inr (.inr ⟨rfl, rfl⟩)
theorem replayTimeout (p : PortIx) : Statement (.replayTimeout p) := .inr (.inr ⟨rfl, rfl⟩)
theorem laneShed (p : PortIx) (working : Nat) : Statement (.laneShed p working) := .inr (.inr ⟨rfl, rfl⟩)
theorem linkRetrainDone (p : PortIx) (ok : Bool) (peer : BitVec 12) : Statement (.linkRetrainDone p ok peer) := .inr (.inr ⟨rfl, rfl⟩)
theorem paceNoticeReceive (p : PortIx) (n : Notice) : Statement (.paceNoticeReceive p n) := .inr (.inr ⟨rfl, rfl⟩)
theorem hostWindowAccess (write : Bool) (off : Nat) (n : Nat) (data : Word64) : Statement (.hostWindowAccess write off n data) := .inr (.inr ⟨rfl, rfl⟩)
theorem hostPush (a : Fin 8) (k : BitVec 16) : Statement (.hostPush a k) := .inr (.inr ⟨rfl, rfl⟩)
theorem hostPop (a : Fin 8) (k : BitVec 16) : Statement (.hostPop a k) := .inr (.inr ⟨rfl, rfl⟩)
theorem hcreset : Statement .hcreset := .inr (.inr ⟨rfl, rfl⟩)
theorem deviceQuery (c : Cmd) : Statement (.deviceQuery c) := .inr (.inr ⟨rfl, rfl⟩)
theorem driverAccept (c : Cmd) : Statement (.driverAccept c) := .inr (.inr ⟨rfl, rfl⟩)
theorem copy (c : Cmd) : Statement (.copy c) := .inr (.inr ⟨rfl, rfl⟩)
theorem fill (c : Cmd) : Statement (.fill c) := .inr (.inr ⟨rfl, rfl⟩)
theorem extentAdd (c : Cmd) : Statement (.extentAdd c) := .inr (.inr ⟨rfl, rfl⟩)
theorem extentRelease (c : Cmd) : Statement (.extentRelease c) := .inr (.inr ⟨rfl, rfl⟩)
theorem linkState (c : Cmd) : Statement (.linkState c) := .inr (.inr ⟨rfl, rfl⟩)
theorem paceList (c : Cmd) : Statement (.paceList c) := .inr (.inr ⟨rfl, rfl⟩)
theorem paceSend (c : Cmd) : Statement (.paceSend c) := .inr (.inr ⟨rfl, rfl⟩)
theorem msixArm (b : Fin 256) (obj : Word64) (ctl : Word64) : Statement (.msixArm b obj ctl) := .inr (.inr ⟨rfl, rfl⟩)
theorem extentOffer (o : Offer) : Statement (.extentOffer o) := .inr (.inr ⟨rfl, rfl⟩)
theorem governorPeriod (r : List QuadReading) : Statement (.governorPeriod r) := .inr (.inr ⟨rfl, rfl⟩)
theorem damageUpdate (q : QuadIx) (t : Nat) : Statement (.damageUpdate q t) := .inr (.inr ⟨rfl, rfl⟩)
theorem hardGradient (q : QuadIx) (g : Nat) : Statement (.hardGradient q g) := .inr (.inr ⟨rfl, rfl⟩)
theorem thermalTrip (t : Nat) : Statement (.thermalTrip t) := .inr (.inr ⟨rfl, rfl⟩)
theorem currentLimit (d : DieIx) (amps : Nat) : Statement (.currentLimit d amps) := .inr (.inr ⟨rfl, rfl⟩)
theorem watchdogReset : Statement .watchdogReset := .inr (.inr ⟨rfl, rfl⟩)
theorem cardPowerOn (f : Flash) (t : Training) : Statement (.cardPowerOn f t) := .inr (.inr ⟨rfl, rfl⟩)
theorem unplannedPowerLoss (cs : List CoreIx) (cut : List CtxIx) : Statement (.unplannedPowerLoss cs cut) := .inr (.inr ⟨rfl, rfl⟩)
theorem powerRestore (c : CoreIx) : Statement (.powerRestore c) := .inr (.inr ⟨rfl, rfl⟩)
theorem plannedStop (c : CoreIx) : Statement (.plannedStop c) := .inr (.inr ⟨rfl, rfl⟩)
theorem channelFailure (stack : Fin 16) (ch : Fin 32) : Statement (.channelFailure stack ch) := .inr (.inr ⟨rfl, rfl⟩)
theorem rebuildMove (region : Fin 5) : Statement (.rebuildMove region) := .inr (.inr ⟨rfl, rfl⟩)
theorem lpddrChannelFailure (ch : Nat) : Statement (.lpddrChannelFailure ch) := .inr (.inr ⟨rfl, rfl⟩)
theorem writebackError (pa : Nat) (bytes : Nat) : Statement (.writebackError pa bytes) := .inr (.inr ⟨rfl, rfl⟩)
theorem lqbWrite (d : DieIx) (v : Word64) : Statement (.lqbWrite d v) := .inr (.inr ⟨rfl, rfl⟩)
theorem pspbWrite (c : CoreIx) (v : Word64) : Statement (.pspbWrite c v) := .inr (.inr ⟨rfl, rfl⟩)
theorem ulipendClear (c : CtxIx) (v : Word64) : Statement (.ulipendClear c v) := .inr (.inr ⟨rfl, rfl⟩)
theorem dfqlostClear (d : DieIx) (v : Word64) : Statement (.dfqlostClear d v) := .inr (.inr ⟨rfl, rfl⟩)
theorem aerrClear (a : Fin 8) : Statement (.aerrClear a) := .inr (.inr ⟨rfl, rfl⟩)
theorem registerWrite (pa : Nat) (n : Nat) (v : Word64) : Statement (.registerWrite pa n v) := .inr (.inr ⟨rfl, rfl⟩)
theorem holmPersist (pa : Nat) : Statement (.holmPersist pa) := .inr (.inr ⟨rfl, rfl⟩)
theorem hardGradientClear (q : QuadIx) (g : Nat) : Statement (.hardGradientClear q g) := .inr (.inr ⟨rfl, rfl⟩)
theorem droopRelease (d : DieIx) (amps : Nat) : Statement (.droopRelease d amps) := .inr (.inr ⟨rfl, rfl⟩)
theorem ifence : Statement .ifence := .inl ⟨⟨_, rfl⟩, rfl⟩
theorem syscall : Statement .syscall := .inl ⟨⟨_, rfl⟩, rfl⟩
theorem brk : Statement .brk := .inl ⟨⟨_, rfl⟩, rfl⟩
theorem sret : Statement .sret := .inl ⟨⟨_, rfl⟩, rfl⟩
theorem uliret : Statement .uliret := .inl ⟨⟨_, rfl⟩, rfl⟩
theorem waite : Statement .waite := .inl ⟨⟨_, rfl⟩, rfl⟩
theorem texit : Statement .texit := .inl ⟨⟨_, rfl⟩, rfl⟩
theorem mdet : Statement .mdet := .inl ⟨⟨_, rfl⟩, rfl⟩
theorem mten : Statement .mten := .inl ⟨⟨_, rfl⟩, rfl⟩
theorem mtdis : Statement .mtdis := .inl ⟨⟨_, rfl⟩, rfl⟩
theorem pfenceCore : Statement .pfenceCore := .inl ⟨⟨_, rfl⟩, rfl⟩
theorem pfenceDie : Statement .pfenceDie := .inl ⟨⟨_, rfl⟩, rfl⟩
theorem stop : Statement .stop := .inr (.inl ⟨⟨_, rfl⟩, rfl⟩)
theorem wnext : Statement .wnext := .inr (.inl ⟨⟨_, rfl⟩, rfl⟩)
theorem wend : Statement .wend := .inr (.inl ⟨⟨_, rfl⟩, rfl⟩)

end Sys2Proof.Laws.Stream
end

