-- ==== Sys2Proof/Tests/Slice0.lean ====
section
/-!
SUPPORT. Tests: words written out from the encoding tables, ill-formed terms, for each statement states and operands that
meet its hypotheses (one for each clause, at the ends of its ranges), and one-step tests with values worked out by hand.
-/

open Sys2Proof Sys2Proof.Machine Sys2Proof.Spec
namespace Sys2Proof.Tests
set_option Elab.async false

/-! ### Decoding: words written out from Tables 7-1 to 7-12 -/

/-- SA form (Table 7-1); SI and SB leave xb and fn to the immediate. -/
def sa (op d a b fn : Nat) : Nat := op * 2 ^ 26 + d * 2 ^ 21 + a * 2 ^ 16 + b * 2 ^ 11 + fn
/-- SI and SB forms. -/
def si (op d a imm : Nat) : Nat := op * 2 ^ 26 + d * 2 ^ 21 + a * 2 ^ 16 + imm
/-- SV form: v, xa, xb, msk, ch, ew, sub. -/
def sv (op v a b msk ch ew sub : Nat) : Nat :=
  op * 2 ^ 26 + v * 2 ^ 20 + a * 2 ^ 15 + b * 2 ^ 10 + msk * 2 ^ 6 + ch * 2 ^ 5 + ew * 2 ^ 2 + sub
/-- SM form: acc, va, xa, mrow, mcol, ch, sub. -/
def sm (op acc v a mr mc ch sub : Nat) : Nat :=
  op * 2 ^ 26 + acc * 2 ^ 24 + v * 2 ^ 18 + a * 2 ^ 13 + mr * 2 ^ 9 + mc * 2 ^ 5 + ch * 2 ^ 4 + sub
/-- SQ form: xd, xa, xb, scope, blk, sub. -/
def sq (op d a b sc blk sub : Nat) : Nat :=
  op * 2 ^ 26 + d * 2 ^ 21 + a * 2 ^ 16 + b * 2 ^ 11 + sc * 2 ^ 8 + blk * 2 ^ 7 + sub
/-- E format (Table 7-10): op8, vd, va, vb, vc, chain bits 31 to 29, mask, type, source type, rounding, imm13. -/
def ev (op d a b c ch m t st r i : Nat) : Nat :=
  op * 2 ^ 56 + d * 2 ^ 50 + a * 2 ^ 44 + b * 2 ^ 38 + c * 2 ^ 32 + ch * 2 ^ 29 + m * 2 ^ 25 + t * 2 ^ 20 + st * 2 ^ 16 +
    r * 2 ^ 13 + i
/-- Every word of the list decodes to the instruction beside it. -/
def decodes (n : Nat) (l : List (Nat × Instr)) : Bool := l.all fun p => decodeTableWord n p.1 == some p.2

-- R119, Table 7-5
theorem test_decode_register_operations : decodes 32
  [(sa 1 3 1 2 0, .add ⟨3, 1, 2⟩), (sa 1 4 1 2 1, .sub ⟨4, 1, 2⟩), (sa 1 5 1 2 2, .and ⟨5, 1, 2⟩), (sa 1 6 1 2 3, .or ⟨6, 1, 2⟩),
   (sa 1 7 1 2 4, .xor ⟨7, 1, 2⟩), (sa 1 8 1 2 5, .andn ⟨8, 1, 2⟩), (sa 1 9 1 2 6, .orn ⟨9, 1, 2⟩), (sa 1 10 1 2 7, .sll ⟨10, 1, 2⟩),
   (sa 1 11 1 2 8, .srl ⟨11, 1, 2⟩), (sa 1 12 1 2 9, .sra ⟨12, 1, 2⟩), (sa 1 13 1 2 10, .slt ⟨13, 1, 2⟩),
   (sa 1 14 1 2 11, .sltn ⟨14, 1, 2⟩), (sa 1 15 1 2 12, .min ⟨15, 1, 2⟩), (sa 1 16 1 2 13, .max ⟨16, 1, 2⟩),
   (sa 1 17 1 2 14, .minn ⟨17, 1, 2⟩), (sa 1 18 1 2 15, .maxn ⟨18, 1, 2⟩)] = true := by decide
theorem test_decode_multiply_and_bit_operations : decodes 32
  [(sa 1 3 31 2 16, .mul ⟨3, 31, 2⟩), (sa 1 3 31 2 17, .mulh ⟨3, 31, 2⟩), (sa 1 3 31 2 18, .mulhn ⟨3, 31, 2⟩),
   (sa 1 3 31 2 19, .div ⟨3, 31, 2⟩), (sa 1 3 31 2 20, .divn ⟨3, 31, 2⟩), (sa 1 3 31 2 21, .rem ⟨3, 31, 2⟩),
   (sa 1 3 31 2 22, .remn ⟨3, 31, 2⟩), (sa 1 3 31 0 23, .clz ⟨3, 31⟩), (sa 1 3 31 0 24, .ctz ⟨3, 31⟩), (sa 1 3 31 0 25, .popc ⟨3, 31⟩),
   (sa 1 3 31 0 (1 * 32 + 26), .sext ⟨3, 31, .h⟩), (sa 1 3 31 0 (2 * 32 + 27), .zext ⟨3, 31, .w⟩),
   (sa 1 3 31 0 (63 * 32 + 28), .slli ⟨3, 31, 63⟩), (sa 1 3 31 0 (5 * 32 + 29), .srli ⟨3, 31, 5⟩),
   (sa 1 3 31 0 (32 * 32 + 30), .srai ⟨3, 31, 32⟩)] = true := by decide
-- R120 to R122
theorem test_decode_immediates_and_memory : decodes 32
  [(si 2 5 6 0xFFFF, .addi ⟨5, 6, 0xFFFF⟩), (si 3 5 6 1, .andi ⟨5, 6, 1⟩), (si 4 5 6 2, .ori ⟨5, 6, 2⟩), (si 5 5 6 3, .xori ⟨5, 6, 3⟩),
   (si 6 5 6 4, .slti ⟨5, 6, 4⟩), (si 7 5 6 5, .shori ⟨5, 6, 5⟩), (si 7 5 0 5, .lih 5 5),
   (si 8 5 6 (0xFFF * 16 + 1), .ld 5 6 0xFFF .bn), (si 8 5 6 (8 * 16 + 8 + 6), .st 5 6 8 .d), (sa 9 5 6 7 6, .ldx ⟨5, 6, 7⟩ .d),
   (sa 9 5 6 7 (512 + 4), .stx ⟨5, 6, 7⟩ .w), (sa 9 5 6 0 (2 * 16 + 8 + 5), .ldAcq ⟨5, 6, 0⟩ .die .wn),
   (sa 9 5 6 0 (512 + 4 * 16 + 8 + 2), .stRel ⟨5, 6, 0⟩ .sys .h),
   (sa 9 5 6 7 (1024 + 3 * 128 + 1 * 32 + 16 + 7), .amo ⟨5, 6, 7, .pkg, .acq, true, .minn⟩),
   (sa 9 5 6 7 (1024 + 1 * 128 + 2 * 32 + 9), .cas ⟨5, 6, 7, .quad, .rel, false⟩)] = true := by decide
theorem test_decode_branches_and_floats : decodes 32
  [(si 0x0A 1 2 0x8000, .beq ⟨1, 2, 0x8000⟩), (si 0x0B 1 2 1, .bne ⟨1, 2, 1⟩), (si 0x0C 1 2 1, .blt ⟨1, 2, 1⟩),
   (si 0x0D 1 2 1, .bge ⟨1, 2, 1⟩), (si 0x0E 1 2 1, .bltn ⟨1, 2, 1⟩), (si 0x0F 1 2 1, .bgen ⟨1, 2, 1⟩), (si 0x10 1 0 9, .jal 1 9),
   (si 0x10 1 3 9, .jalr ⟨1, 3, 9⟩), (sa 0x11 1 2 3 (0 * 256 + 1 * 32 + 0), .fadd ⟨1, 2, 3, .f32, .rne⟩),
   (sa 0x11 1 2 3 (1 * 256 + 0 * 32 + 1), .fsub ⟨1, 2, 3, .f64, .rtz⟩), (sa 0x11 1 2 3 (2 * 256 + 2 * 32 + 2), .fmul ⟨1, 2, 3, .f16, .rdn⟩),
   (sa 0x11 1 2 3 (3 * 256 + 3 * 32 + 3), .ffma ⟨1, 2, 3, .bf16, .rup⟩), (sa 0x11 1 2 3 (4 * 256 + 1 * 32 + 4), .fdiv ⟨1, 2, 3, .f32, .rmm⟩),
   (sa 0x11 1 2 0 (7 * 256 + 1 * 32 + 5), .fsqrt ⟨1, 2⟩ .f32 .frm), (sa 0x11 1 2 3 (7 * 256 + 1 * 32 + 6), .fmin ⟨1, 2, 3, .f32⟩),
   (sa 0x11 1 2 3 (1 * 32 + 7), .fmax ⟨1, 2, 3, .f32⟩), (sa 0x11 1 2 3 (4 * 256 + 1 * 32 + 8), .fcmp ⟨1, 2, 3⟩ .f32 .gt),
   (sa 0x11 1 2 0 (1 * 32 + 9), .fclass ⟨1, 2⟩ .f32), (sa 0x11 1 2 0x10 (1 * 32 + 10), .fcvtToFp ⟨1, 2, .f32, .n16, .rne⟩),
   (sa 0x11 1 2 8 (1 * 256 + 0 * 32 + 11), .fcvtFromFp ⟨1, 2, .f64, .s64, .rtz⟩)] = true := by decide
-- R123
theorem test_decode_system : decodes 32
  [(si 0x12 4 0 0x021, .csrr 4 0x021), (si 0x12 0 5 (0x1000 + 0x002), .csrw 5 0x002), (si 0x12 4 5 (0x2000 + 0x002), .csrs ⟨4, 5⟩ 0x002),
   (si 0x12 4 5 (0x3000 + 0x002), .csrc ⟨4, 5⟩ 0x002), (sq 0x13 0 0 0 1 0 0, .fenceLd .quad), (sq 0x13 0 0 0 2 0 1, .fenceSt .die),
   (sq 0x13 0 0 0 4 0 2, .fenceAll .sys), (sq 0x13 0 0 0 0 0 3, .ifence), (sq 0x13 0 0 0 3 0 4, .bar .pkg), (sa 0x14 0 0 0 0, .syscall),
   (sa 0x14 0 0 0 1, .brk), (sa 0x14 0 0 0 2, .sret), (sa 0x14 7 0 0 3, .xpop 7), (sa 0x14 7 0 31 4, .feat 7 31), (sa 0x14 0 0 0 5, .uliret),
   (sa 0x14 0 7 8 6, .tlbinv 7 8), (sa 0x14 0 7 0 7, .srinv 7), (sa 0x14 0 0 0 8, .waite), (sa 0x14 0 0 0 9, .texit),
   (sa 0x14 0 7 0 10, .launch 7), (sa 0x14 7 8 0 11, .tstop ⟨7, 8⟩), (0x15 * 2 ^ 26 + 0x3FFFFFF, .vfetch 0x3FFFFFF),
   (sa 0x16 0 7 0 0, .vfetchx 7)] = true := by decide
-- R124 and the worked encodings of the chapter
theorem test_decode_strip_and_loads : decodes 32
  [(0x60A407EC, .vsetl ⟨5, 4⟩ 0x7EC), (0x741503DC, .vld ⟨1, 10, none, .vt⟩), (0x742583DC, .vld ⟨2, 11, none, .vt⟩), (0x54000003, .vfetch 3),
   (0x783603DC, .vst ⟨3, 12, none, false, .vt, .core, false, false⟩), (0x688ABFFC, .strip 4 10 2 0x3FFC),
   (si 0x18 5 4 (0x8000 + 6), .vsetlx ⟨5, 4, 6⟩), (sv 0x19 3 4 5 2 1 3 0, .vldxAcq 3 4 37 (some 2) .pkg),
   (sv 0x19 3 4 5 2 1 4 1, .vstsNtf ⟨3, 4, some 2, true, .w32⟩ 5), (si 0x1B 5 4 (11 * 2048 + 0x7E3), .setfib ⟨5, 4⟩ 11 0x7E3),
   (sv 0x1C 3 4 0 2 0 5 0, .vsplat ⟨3, 4, some 2, .w64⟩), (sv 0x1C 0 4 5 15 0 0 1, .vprf 4 5 .w2),
   (sv 0x1D 3 4 5 2 0 1 1, .vlds ⟨3, 4, some 2, .w4⟩ 5), (sv 0x1D 3 4 8 2 0 2 2, .vldg ⟨3, 4, some 2, .w8⟩ 8),
   (sv 0x1D 3 4 0 2 0 3 3, .vld2 ⟨3, 4, some 2, .w16⟩), (sv 0x1F 3 4 5 2 0 4 0, .vldx ⟨3, 4, some 2, .w32⟩ 5),
   (sv 0x21 3 4 5 9 1 4 0, .vldw 3 4 37 9 .w32), (sv 0x22 3 4 5 9 0 4 0, .vldb 3 4 5 9 .w32)] = true := by decide
theorem test_decode_stores_and_atomics : decodes 32
  [(sv 0x1E 3 4 (2 * 4 + 2 + 1) 2 1 4 0, .vst ⟨3, 4, some 2, true, .w32, .die, true, true⟩),
   (sv 0x1E 3 4 5 2 1 4 1, .vsts ⟨3, 4, some 2, true, .w32⟩ 5), (sv 0x1E 3 4 (6 * 4 + 1) 2 1 4 2, .vstg ⟨3, 4, some 2, true, .w32⟩ 7 true),
   (sv 0x1E 3 4 1 2 1 4 3, .vst2 ⟨3, 4, some 2, true, .w32⟩ true), (sv 0x20 3 4 5 2 1 4 3, .vstx ⟨3, 4, some 2, true, .w32⟩ 37 true),
   (sv 0x22 3 4 5 2 1 4 1, .vstb ⟨3, 4, some 2, true, .w32⟩ 5), (sv 0x22 3 4 5 2 1 4 2, .vstbNtf ⟨3, 4, some 2, true, .w32⟩ 5),
   (sv 0x23 3 4 (7 * 2) 2 1 (3 * 2 + 1) 0, .vamo ⟨3, 4, some 2, .minn, .ar, .sys, true⟩),
   (sv 0x24 3 4 (9 * 2) 2 1 5 0, .vsred ⟨3, 4, some 2, true, .w64⟩ .fadd),
   (sv 0x24 3 4 (3 * 4 + 2) 2 1 5 3, .vrred ⟨3, 4, some 2, true, .w64⟩ .s64 true true), (sv 0x25 2 4 5 15 1 3 0, .fcfg 2 4 5 15 true .w16),
   (sv 0x25 3 0 2 15 0 7 1, .fld 3 2), (sv 0x25 3 0 2 2 1 4 2, .fst 3 2 (some 2) true .w32), (sv 0x25 0 4 2 15 0 7 3, .fend 2 4 none .vt),
   (sa 0x26 0 4 5 (0xA5 * 2), .apush 4 5 0xA5), (sa 0x26 3 4 5 (0xA5 * 2 + 1), .apop ⟨3, 4, 5⟩ 0xA5),
   (sa 0x27 3 4 5 (64 + 32 + 16 + 8 + 4 + 2), .nsend ⟨3, 4, 5, .mx8, true, true, true, true, true⟩)] = true := by decide
-- R126, R127
theorem test_decode_matrix_and_queues : decodes 32
  [(sa 0x28 3 4 0 0, .matt ⟨3, 4⟩), (sa 0x28 3 4 0 1, .mattB ⟨3, 4⟩), (sa 0x28 0 0 0 2, .mdet), (sa 0x28 0 0 0 3, .mten),
   (sa 0x28 0 0 0 4, .mtdis), (sm 0x29 2 0 0 15 15 0 0, .mzero 2), (sm 0x2A 2 3 31 1 10 1 15, .mopa 2 ⟨3, true⟩ 511 (some 1) (some 10)),
   (sm 0x2B 2 3 1 1 15 1 (8 + 5), .mopav 2 ⟨3, true⟩ 33 (some 1) none .s8), (sm 0x2C 2 3 5 15 15 0 (4 + 2), .mrds 2 3 37 true),
   (sm 0x2C 2 3 5 15 15 1 (8 + 1), .mwrs 2 ⟨3, true⟩ 69 false), (sm 0x2D 2 0 5 1 10 0 0, .mstt ⟨2, 5, some 1, some 10⟩),
   (sm 0x2D 2 0 5 1 10 0 1, .mgacc ⟨2, 5, some 1, some 10⟩), (sm 0x2D 0 0 5 15 15 0 2, .mgst 5),
   (sm 0x2D 0 (16 + 9) 5 15 15 0 3, .mwld 5 (some 9)), (sq 0x30 0 4 5 3 0 0, .qinit 4 5 .pkg), (sq 0x30 3 4 0 2 0 1, .qcnt ⟨3, 4⟩ .die),
   (sq 0x30 0 4 0 1 0 2, .qclose 4 .quad), (sq 0x31 3 4 5 1 1 0, .qenqX ⟨3, 4, 5, .quad, true⟩), (sq 0x31 3 4 5 1 0 1, .qdeqX ⟨3, 4, 5, .quad, false⟩),
   (sq 0x31 3 4 5 1 1 2, .qenqM ⟨3, 4, 5, .quad, true⟩), (sq 0x31 3 4 5 1 0 3, .qdeqM ⟨3, 4, 5, .quad, false⟩),
   (sq 0x32 3 4 0 1 1 (2 * 37), .qenqV ⟨3, 4, 37, .quad, true⟩), (sq 0x32 3 4 0 1 0 (2 * 37 + 1), .qdeqV ⟨3, 4, 37, .quad, false⟩)] = true := by
  decide
theorem test_decode_objects_and_fences : decodes 32
  [(sq 0x33 3 4 5 0 0 0, .binit ⟨3, 4, 5⟩), (sq 0x33 0 4 5 0 0 1, .barr 4 5), (sq 0x33 0 4 5 0 0 2, .barrRel 4 5),
   (sq 0x33 3 4 5 0 0 3, .bwait ⟨3, 4, 5⟩), (sq 0x33 3 4 0 0 0 4, .bphase ⟨3, 4⟩), (sq 0x34 0 4 5 0 0 0, .sigdec 4 5),
   (sq 0x34 0 4 0 0 0 1, .sigwait 4), (sq 0x34 3 4 5 0 0 2, .uliarm ⟨3, 4, 5⟩), (sq 0x35 0 0 0 0 0 0, .pfenceCore),
   (sq 0x35 0 0 0 2 0 0, .pfenceDie)] = true := by decide
-- R129, R130
theorem test_decode_block_floats : decodes 64
  [(0x020C1080DE10E000, .vfadd ⟨3, ⟨1, true⟩, ⟨2, true⟩, none, .f32, .frm⟩), (0x0100000000000000, .stop),
   (0x702012409E10E004, .vfcmp ⟨0, ⟨1, true⟩, ⟨9, false⟩, none, .f32, .gt⟩), (0xB30C10001010E000, .vcomp ⟨3, ⟨1, false⟩, some 8, .f32⟩),
   (0x770080001E00E000, .mpopc 8 none), (0xB80010001010E01F, .vfredsum ⟨none, ⟨1, false⟩, some 8, .f32, .frm, none⟩),
   (0xE02420001E00FFF8, .lde ⟨9, ⟨2, false⟩, none, .f64, 0x1FF8⟩),
   (ev 3 4 5 6 0 2 2 0 0 1 0, .vfsub ⟨4, ⟨5, false⟩, ⟨6, true⟩, some 2, .f64, .rtz⟩), (ev 4 4 5 6 0 0 2 2 0 2 0, .vfmul ⟨4, ⟨5, false⟩, ⟨6, false⟩, some 2, .f16, .rdn⟩),
   (ev 5 4 5 6 7 1 2 3 0 3 0, .vfma ⟨4, ⟨5, false⟩, ⟨6, false⟩, ⟨7, true⟩, some 2, .bf16, .rup⟩),
   (ev 6 4 5 6 7 0 2 1 0 4 0, .vfms ⟨4, ⟨5, false⟩, ⟨6, false⟩, ⟨7, false⟩, some 2, .f32, .rmm⟩),
   (ev 7 4 5 6 7 0 2 1 0 0 0, .vfnma ⟨4, ⟨5, false⟩, ⟨6, false⟩, ⟨7, false⟩, some 2, .f32, .rne⟩),
   (ev 8 4 5 6 0 0 2 1 0 0 0, .vfdiv ⟨4, ⟨5, false⟩, ⟨6, false⟩, some 2, .f32, .rne⟩),
   (ev 9 4 5 0 0 0 2 1 0 0 0, .vfsqrt ⟨4, ⟨5, false⟩, some 2, .f32, .rne⟩), (ev 0x0A 4 5 6 0 0 2 1 0 0 0, .vfmin ⟨4, ⟨5, false⟩, ⟨6, false⟩, some 2, .f32⟩),
   (ev 0x0B 4 5 6 0 0 2 1 0 7 0, .vfmax ⟨4, ⟨5, false⟩, ⟨6, false⟩, some 2, .f32⟩), (ev 0x0C 4 5 0 0 0 2 1 0 0 0, .vfabs ⟨4, ⟨5, false⟩, some 2, .f32⟩),
   (ev 0x0D 4 5 0 0 0 2 1 0 0 0, .vfneg ⟨4, ⟨5, false⟩, some 2, .f32⟩),
   (ev 0x0E 4 5 6 0 0 2 1 0 0 0, .vfsgn ⟨4, ⟨5, false⟩, ⟨6, false⟩, some 2, .f32⟩)] = true := by decide
theorem test_decode_block_integers : decodes 64
  ((List.zip (List.range 19) ([.vadd, .vsub, .vmul, .vmulh, .vmulhn, .vand, .vor, .vxor, .vsll, .vsrl, .vsra, .vmin, .vmax, .vminn, .vmaxn,
      .vsadd, .vssub, .vsaddn, .vssubn] : List (VE2 → Instr))).map
    fun p => (ev (0x40 + p.1) 4 5 6 0 0 2 0x11 0 7 0, p.2 ⟨4, ⟨5, false⟩, ⟨6, false⟩, some 2, .n8⟩)) = true := by decide
theorem test_decode_block_masks_and_moves : decodes 64
  [(ev 0x53 4 5 6 0 0 2 9 0 0 1, .vdot ⟨4, ⟨5, false⟩, ⟨6, false⟩, some 2, .s32, .n16⟩),
   (ev 0x71 9 5 6 0 0 2 8 0 0 5, .vcmp ⟨1, ⟨5, false⟩, ⟨6, false⟩, some 2, .s64, .ge⟩), (ev 0x72 10 3 11 0 0 2 0 0 0 0, .mand ⟨2, 3, 11, some 2⟩),
   (ev 0x73 10 3 11 0 0 2 0 0 0 0, .mor ⟨2, 3, 11, some 2⟩), (ev 0x74 10 3 11 0 0 2 0 0 0 0, .mxor ⟨2, 3, 11, some 2⟩),
   (ev 0x75 10 3 11 0 0 2 0 0 0 0, .mandn ⟨2, 3, 11, some 2⟩), (ev 0x76 11 0 0 0 0 2 0 0 0 1, .mset 3 (some 2) true),
   (ev 0x78 0 11 0 0 0 2 0 0 0 0, .mfirst 11 (some 2)), (ev 0x90 4 5 0 0 0 2 4 9 4 0, .vcvt ⟨4, ⟨5, false⟩, some 2, .e5m2, .s32, .rmm⟩),
   (ev 0x91 4 5 6 0 0 2 6 3 4 0, .vqmx ⟨4, ⟨5, false⟩, 6, some 2, .e2m1, .bf16, .rmm⟩), (ev 0x92 4 5 0 0 0 2 7 0 0 0, .vmov ⟨4, ⟨5, false⟩, some 2, .e8m0⟩),
   (ev 0x93 4 5 0 0 0 2 1 0 0 4095, .vbcast ⟨4, ⟨5, false⟩, some 2, .f32, 4095⟩), (ev 0x94 0 5 0 0 0 15 1 0 0 7, .vext ⟨5, false⟩ .f32 7),
   (ev 0x95 4 0 0 0 0 2 0x0F 0 0 0, .viota 4 (some 2) .n32), (ev 0xB0 4 5 0 0 0 2 1 0 0 7, .vslup ⟨4, ⟨5, false⟩, some 2, .f32, 7⟩),
   (ev 0xB1 4 5 0 0 0 2 1 0 0 7, .vsldn ⟨4, ⟨5, false⟩, some 2, .f32, 7⟩), (ev 0xB2 4 5 6 0 0 2 1 0 0 0, .vperm ⟨4, ⟨5, false⟩, ⟨6, false⟩, some 2, .f32⟩),
   (ev 0xB4 4 5 0 0 0 2 1 0 0 0, .vexpd ⟨4, ⟨5, false⟩, some 2, .f32⟩), (ev 0xB5 4 5 0 0 0 2 1 0 0 0, .vmatch ⟨4, ⟨5, false⟩, some 2, .f32⟩)] = true := by
  decide
theorem test_decode_block_reductions_and_weights : decodes 64
  [(ev 0xB9 4 5 0 0 0 2 1 0 2 (10 * 2), .vfredmax ⟨some 4, ⟨5, false⟩, some 2, .f32, .rdn, some 10⟩),
   (ev 0xBA 4 5 0 0 0 2 1 0 2 (15 * 2), .vfredmin ⟨some 4, ⟨5, false⟩, some 2, .f32, .rdn, none⟩),
   (ev 0xBB 0 5 0 0 0 2 9 0 0 (15 * 2 + 1), .vredsum ⟨none, ⟨5, false⟩, some 2, .s32, none⟩),
   (ev 0xBC 4 5 0 0 0 2 9 0 0 (3 * 2), .vredmax ⟨some 4, ⟨5, false⟩, some 2, .s32, some 3⟩),
   (ev 0xBD 4 5 0 0 0 2 9 0 0 (3 * 2), .vredmin ⟨some 4, ⟨5, false⟩, some 2, .s32, some 3⟩),
   (ev 0xBE 4 5 0 0 0 2 1 0 1 (3 * 2), .vfscan ⟨4, ⟨5, false⟩, some 2, .f32, .rtz, some 3⟩),
   (ev 0xBF 4 5 0 0 0 2 9 0 0 (3 * 2), .vscan ⟨4, ⟨5, false⟩, some 2, .s32, some 3⟩),
   (ev 0xD0 0 5 0 7 1 2 0 0 0 6, .wramp ⟨5, false⟩ ⟨7, true⟩ (some 2) 6), (ev 0xD1 0 11 0 0 0 2 0 0 0 6, .wcmp 11 (some 2) 6),
   (ev 0xD2 0 0 0 0 0 2 0 0 0 (6 + 5 * 8), .wcomp (some 2) 6 5), (ev 0xD3 0 0 0 0 0 2 0 0 0 (6 + 5 * 8 + 4 * 64), .wmul (some 2) 6 5 4),
   (ev 0xD4 0 5 0 0 0 2 1 0 1 6, .wmov (.toWeight ⟨5, false⟩) (some 2) .f32 .rtz 6),
   (ev 0xD4 4 0 0 0 0 2 0x10 0 1 (4096 + 6), .wmov (.toVector 4) (some 2) .n16 .rtz 6),
   (ev 0xD5 0 0 0 0 0 15 0 3 0 (4096 + 1 + 2 * 8 + 3 * 64), .wbegin ⟨1, 1, 2, 3, 0⟩ true), (ev 0xD6 0 0 0 0 0 15 0 0 0 0, .wnext),
   (ev 0xD7 0 0 0 0 0 15 0 0 0 0, .wend), (ev 0xD8 4 5 0 0 0 2 1 2 4 (1 + 2 * 8), .wjoin ⟨4, ⟨5, false⟩, some 2, .f32, .rmm, ⟨0, 1, 2, 0, 0⟩⟩),
   (ev 0xD9 4 5 6 7 0 2 1 0 4 (1 + 2 * 8), .wgjoin ⟨4, ⟨5, false⟩, ⟨6, false⟩, ⟨7, false⟩, some 2, .rmm, 1, 2⟩),
   (ev 0xDA 4 5 0 7 0 2 1 0 4 3, .wgramp ⟨4, ⟨5, false⟩, ⟨7, false⟩, some 2, .rmm, 3⟩), (ev 0xDB 0 0 0 0 0 15 0 0 0 (3 + 200 * 8), .wcont 3 200),
   (ev 0xE1 0 5 6 0 0 2 1 0 0 0x1000, .ste ⟨⟨5, false⟩, ⟨6, false⟩, some 2, .f32, 0x1000⟩),
   (ev 0xE2 0 5 6 0 0 2 1 0 2 3, .wsta ⟨⟨5, false⟩, ⟨6, false⟩, some 2, .f32, .rdn, 3⟩)] = true := by decide

/-- A zero word, a must-be-zero field, an unassigned sub-function, an op8 of no row, and a register above 47 are refused by name
(R117, R118, R128, R129). -/
theorem test_decode_refuses : decodeS 0 = .error .illegal ∧ decodeS (sa 1 3 1 2 31) = .error .illegal ∧
    decodeS (sa 1 3 1 2 23) = .error .illegal ∧ decodeS (sq 0x35 0 0 0 1 0 0) = .error .illegal ∧
    decodeS (sv 0x1D 48 4 0 15 0 7 0) = .error .reservedReg ∧ decodeS (sv 0x1D 48 4 0 12 0 7 0) = .error .illegal ∧
    decodeE 0 = .error .illegal ∧ decodeE (ev 0xF0 0 0 0 0 0 15 0 0 0 0) = .error .illegal ∧
    decodeE (ev 0x40 48 5 6 0 0 2 9 0 0 0) = .error .reservedReg ∧ decodeE 0x0100000000000001 = .error .illegal := by
  refine ⟨rfl, rfl, rfl, rfl, rfl, rfl, rfl, rfl, rfl, rfl⟩
/-! ### Well-formedness: an ill-formed term for each check, which the check refuses -/

/-- A vector source without chaining. -/
def vs (r : VReg) : VSrc := ⟨r, false⟩
/-- Two-operand block terms of a type. -/
def e2 (t : EType) : VE2 := ⟨3, vs 1, vs 2, none, t⟩
/-- The same with rounding. -/
def e2r (t : EType) : VE2r := ⟨3, vs 1, vs 2, none, t, .rne⟩

theorem test_wf_refuses_scalar_and_memory : ∀ i ∈ ([.shori ⟨1, 0, 5⟩, .jalr ⟨1, 0, 4⟩, .fcvtToFp ⟨1, 2, .f32, .e5m2, .rne⟩,
    .fcvtFromFp ⟨1, 2, .f32, .s4, .rne⟩, .bar .sys, .strip 4 30 2 0, .vldg ⟨0, 1, none, .w32⟩ 1, .vldg ⟨41, 1, none, .w32⟩ 8,
    .vstg ⟨0, 1, none, false, .w32⟩ 1 false, .vstg ⟨47, 1, none, false, .w32⟩ 2 false, .vst ⟨1, 2, none, false, .w32, .die, false, false⟩,
    .vldw 47 1 2 8 .w32, .vamo ⟨47, 1, none, .add, .none, .core, true⟩, .vsred ⟨47, 1, none, false, .w32⟩ .add,
    .vsred ⟨2, 1, none, false, .w16⟩ .add, .nsend ⟨1, 2, 31, .mx4, true, false, false, false, false⟩,
    .nsend ⟨1, 2, 30, .raw, false, false, false, true, false⟩, .nsend ⟨1, 2, 3, .raw, true, false, false, false, false⟩,
    .qdeqX ⟨1, 2, 3, .core, true⟩] : List Instr), i.wf = false := by decide
theorem test_wf_refuses_block_words : ∀ i ∈ ([.vfadd (e2r .s32), .vfsub (e2r .e4m3), .vfmul (e2r .n8), .vfdiv (e2r .e8m0),
    .vfma ⟨3, vs 1, vs 2, vs 4, none, .s32, .rne⟩, .vfms ⟨3, vs 1, vs 2, vs 4, none, .s32, .rne⟩, .vfnma ⟨3, vs 1, vs 2, vs 4, none, .s32, .rne⟩,
    .vfsqrt ⟨3, vs 1, none, .s32, .rne⟩, .vfmin (e2 .s32), .vfmax (e2 .s32), .vfsgn (e2 .s32), .vfabs ⟨3, vs 1, none, .s32⟩,
    .vfneg ⟨3, vs 1, none, .s32⟩, .vadd (e2 .f32), .vsub (e2 .f32), .vmul (e2 .f32), .vmulh (e2 .f32), .vmulhn (e2 .f32), .vand (e2 .f32),
    .vor (e2 .f32), .vxor (e2 .f32), .vsll (e2 .f32), .vsrl (e2 .f32), .vsra (e2 .f32), .vmin (e2 .f32), .vmax (e2 .f32), .vminn (e2 .f32),
    .vmaxn (e2 .f32), .vsadd (e2 .f32), .vssub (e2 .f32), .vsaddn (e2 .f32), .vssubn (e2 .f32),
    .vdot ⟨3, vs 1, vs 2, none, .s8, .s4⟩, .vdot ⟨3, vs 1, vs 2, none, .s32, .s32⟩, .vfcmp ⟨0, vs 1, vs 2, none, .s32, .eq⟩,
    .vcmp ⟨0, vs 1, vs 2, none, .f32, .eq⟩] : List Instr), i.wf = false := by decide
theorem test_wf_refuses_moves_and_weights : ∀ i ∈ ([.vcvt ⟨3, vs 1, none, .e8m0, .f32, .rne⟩, .vcvt ⟨3, vs 1, none, .f32, .e8m0, .rne⟩,
    .vqmx ⟨3, vs 1, 4, none, .f32, .f32, .rne⟩, .vqmx ⟨3, vs 1, 4, none, .e4m3, .s32, .rne⟩, .vqmx ⟨3, vs 1, 3, none, .e4m3, .f32, .rne⟩,
    .vext (vs 1) .e8m0 0, .viota 3 none .f32, .vslup ⟨3, vs 1, none, .e8m0, 1⟩, .vsldn ⟨3, vs 1, none, .e8m0, 1⟩, .vperm (e2 .e8m0),
    .vcomp ⟨3, vs 1, none, .e8m0⟩, .vexpd ⟨3, vs 1, none, .e8m0⟩, .vmatch ⟨3, vs 1, none, .e8m0⟩,
    .vfredsum ⟨none, vs 1, none, .s32, .rne, none⟩, .vfredmax ⟨none, vs 1, none, .f32, .rne, some 2⟩, .vfredmin ⟨none, vs 1, none, .s8, .rne, none⟩,
    .vredsum ⟨none, vs 1, none, .f32, none⟩, .vredmax ⟨none, vs 1, none, .s32, some 2⟩, .vredmin ⟨none, vs 1, none, .f32, none⟩,
    .vfscan ⟨3, vs 1, none, .s32, .rne, none⟩, .vscan ⟨3, vs 1, none, .f32, none⟩, .wmov (.toVector 3) none .s32 .rne 1,
    .wbegin ⟨0, 1, 2, 3, 0⟩ false, .wbegin ⟨1, 1, 2, 3, 4⟩ false, .wbegin ⟨0, 1, 1, 0, 0⟩ false,
    .wjoin ⟨3, vs 1, none, .s32, .rne, ⟨0, 1, 2, 0, 0⟩⟩, .wjoin ⟨3, vs 1, none, .f32, .rne, ⟨0, 1, 2, 3, 0⟩⟩,
    .wjoin ⟨3, vs 47, none, .f32, .rne, ⟨0, 1, 2, 0, 0⟩⟩, .wcont 1 0, .lde ⟨3, vs 1, none, .e2m1, 0⟩, .ste ⟨vs 1, vs 2, none, .s4, 0⟩,
    .wsta ⟨vs 1, vs 2, none, .s32, .rne, 1⟩] : List Instr), i.wf = false := by decide
theorem test_wf_accepts : ∀ i ∈ ([.shori ⟨1, 2, 5⟩, .strip 4 28 3 0, .vldg ⟨40, 1, none, .w32⟩ 8, .vst ⟨1, 2, none, false, .w32, .die, true, false⟩,
    .vdot ⟨3, vs 1, vs 2, none, .s32, .n8⟩, .wbegin ⟨2, 1, 2, 3, 0⟩ true, .wjoin ⟨3, vs 44, none, .bf16, .rne, ⟨2, 1, 2, 3, 0⟩⟩,
    .qdeqX ⟨1, 2, 0, .core, true⟩] : List Instr), i.wf = true := by decide
/-! ### States the witnesses and the tests are about -/

/-- The first address of the scratchpad window (R80). -/
def win : Word64 := 0x00FFFF0000000000
/-- Context 0 holds task 0 of launch 0 and acts; its core has 64 KiB of scratchpad; `f` edits its scalar side. -/
def st (f : Scalar → Scalar) : State :=
  let s := State.reset
  let s := s.setCore 0 { s.core 0 with pool1 := 16 }
  s.setCtx 0 { s.ctx 0 with task := some ⟨0, 0⟩, regs := { Regs.reset with sc := f Scalar.reset } }
/-- An entry of the task of `st`. -/
def ent (i : Instr) (z : Scalar) : Entry := ⟨i, z, none, some ⟨0, 0⟩, none, 0, 0, none, [], none⟩
/-- `st` with a task that the context's VIQ has not finished. -/
def busy (i : Instr) (f : Scalar → Scalar) : State :=
  (st f).setMe { (st f).me with viq := [ent i (st f).mySc] }
/-- Registers 5, 6 and 7. -/
def xs (a b c : Word64) (z : Scalar) : Scalar := ((z.wx 5 a).wx 6 b).wx 7 c
/-- Supervisor level. -/
def sup (z : Scalar) : Scalar := { z with sup := true }

theorem st_canonical : Canonical (st id) := by
  refine ⟨rfl, rfl, fun c => ?_, fun q => ?_⟩
  · have h : ((st id).core c).scratch = Memory.empty := by
      simp only [st, State.setCtx_core, State.setCore_eq]
      split <;> simp [State.core, State.reset, Core.reset]
    rw [h]; rfl
  · have h : ((st id).quad q).grad = [] := by simp [st, State.quad, State.reset, Quad.reset]
    rw [h]; rfl

/-! ### Witnesses: states and operands that meet the hypotheses of the statements -/

theorem wit_jalr_aligned_and_not : let s := st (xs 0x1000 2 3)
    (s.mySc.rx 5 + BitVec.ofInt 64 (8 : BitVec 16).toInt).toNat % 4 = 0 ∧
      (s.mySc.rx 6 + BitVec.ofInt 64 (8 : BitVec 16).toInt).toNat % 4 ≠ 0 ∧ s.me.drained = true ∧
      (busy .mdet (xs 0x1000 2 3)).me.drained = false := by decide
theorem wit_scalar_memory : let s := st (xs win 8 0x1234)
    s.intervalReady = true ∧ s.me.settled = true ∧ s.accessesDone = true ∧
      s.scalarLoc s.scalarAgent (s.mySc.rx 5 + BitVec.ofInt 64 (16 : BitVec 12).toInt) 8 .read = .ok (.win 0 16) ∧
      s.scalarLoc s.scalarAgent (s.mySc.rx 5 + s.mySc.rx 6) 8 .write = .ok (.win 0 8) ∧
      s.scalarLoc s.scalarAgent (s.mySc.rx 5) 4 .rw = .ok (.win 0 0) ∧ s.isDevice (.win 0 16) = false := by decide
theorem wit_scalar_memory_faults : let s := st (xs 0x0200000000000000 (win + 2) (win + 0x10000))
    canonical (s.mySc.rx 5) = false ∧ canonical (s.mySc.rx 6) = true ∧ (s.mySc.rx 6).toNat % 4 ≠ 0 ∧
      s.scalarLoc s.scalarAgent (s.mySc.rx 6 + BitVec.ofInt 64 (0 : BitVec 12).toInt) 4 .read = .error ⟨.misalign, 0, win + 2⟩ ∧
      s.scalarLoc s.scalarAgent (s.mySc.rx 7 + BitVec.ofInt 64 (0 : BitVec 12).toInt) 4 .write = .error ⟨.xlatePerm, 0, win + 0x10000⟩ ∧
      s.scalarLoc s.scalarAgent (s.mySc.rx 5) 4 .rw = .error ⟨.xlatePerm, 0, 0x0200000000000000⟩ ∧ s.me.drained = true ∧
      s.scalarLoc s.scalarAgent (s.mySc.rx 6 + s.mySc.rx 0) 4 .read = .error ⟨.misalign, 0, win + 2⟩ ∧
      s.scalarLoc s.scalarAgent (s.mySc.rx 7 + s.mySc.rx 0) 4 .write = .error ⟨.xlatePerm, 0, win + 0x10000⟩ := by decide
/-- Every CSR that is not RO takes a value at supervisor level; VT, FRM refuse one. -/
theorem wit_csr_writes : let s := st (xs 1 0x800 7 ∘ sup)
    (∀ n ∈ ([.vt, .vstart, .theta, .wlim, .fflags, .frm, .fiboff, .sstr, .pwaddr, .ulivec, .ulien, .ulipend, .asb, .asl, .asp, .rvec,
        .stvec, .sepc, .scause, .saddr, .selem, .sstatus, .satp, .lqb, .pspb, .vtf 3] : List Csr),
      n.ro = false ∧ (CsrAfter 65536 n (s.csrRead n) 1).isSome = true ∧ (n.supOnly = true → s.mySc.sup = true)) ∧
    (CsrAfter 65536 .vt (s.csrRead .vt) (s.mySc.rx 6)).isNone = true ∧ (CsrAfter 65536 .frm (s.csrRead .frm) (s.mySc.rx 7)).isNone = true ∧
    s.me.drained = true ∧ s.me.settled = true ∧ (s.myCore.pool1 - s.myCore.pool0) * 4096 = 65536 ∧ csrOf 0x001 = some .vt := by decide
theorem wit_csr_faults : let s := st id
    s.me.drained = true ∧ csrOf 0xFFF = none ∧ (∃ r, csrOf 0x100 = some r ∧ r.supOnly = true) ∧ s.mySc.sup = false ∧
      (∃ r, csrOf 0x000 = some r ∧ r.supOnly = false ∧ r.ro = true) := by
  refine ⟨by decide, by decide, ⟨.stvec, by decide⟩, by decide, ⟨.vl, by decide⟩⟩
theorem wit_levels : (st id).me.drained = true ∧ (st id).mySc.sup = false ∧ (st sup).me.drained = true ∧ (st sup).mySc.sup = true ∧
    (busy .mdet sup).me.drained = false ∧ (busy .mdet id).me.settled = false ∧ (busy .mdet id).mySc.sup = false := by decide
/-- The oldest entry has passed its fault point and has not completed. -/
def passing (i : Instr) (f : Scalar → Scalar) : State :=
  (st f).setMe { (st f).me with viq := [{ ent i (st f).mySc with passed := some ⟨[], Memory.empty, [], State.reset.ports⟩ }] }
theorem wit_fault_points : let s := passing .mdet id
    s.me.settled = true ∧ s.me.drained = false ∧ s.mySc.sup = false := by decide
/-- An access of an older strip interval is pending, and none is. -/
theorem wit_srinv : let i := Instr.vld ⟨2, 5, none, .vt⟩
    ((busy i id).setMySc { (busy i id).mySc with ivl := 1 }).intervalReady = false ∧ (st id).intervalReady = true := by decide +kernel

/-! ### Scalar waits -/

/-- XPOP with an entry, without one, and its wake. -/
theorem wit_xpop : let s := st fun z => { z with vsq := [7, 8] }
    let p := (st fun z => { z with vsq := [7] }).setMe { (st fun z => { z with vsq := [7] }).me with parked := some (.xpop 4) }
    s.mySc.vsq = [7, 8] ∧ (st id).mySc.vsq = [] ∧ (p.ctx 0).parked = some (.xpop 4) ∧ (p.sc 0).vsq = [7] := by decide
theorem wit_waite : let u := fun z : Scalar => { z with ulipend := 1 }
    let p := (st u).setMe { (st u).me with parked := some .waite }
    (st u).mySc.ulipend ≠ 0 ∧ (st id).mySc.ulipend = 0 ∧ (p.ctx 0).parked = some .waite ∧ (p.sc 0).ulipend ≠ 0 ∧
      (p.sc 0).uliDue = false := by decide
/-- A user handler: ULIRET's two cases, and a delivery that is due. -/
theorem wit_uli : let h := st fun z => { z with ulinh := true }
    let d := st fun z => { z with ulien := true, ulipend := 4 }
    h.mySc.ulinh = true ∧ (st id).mySc.ulinh = false ∧ (st id).me.drained = true ∧ (d.sc 0).uliDue = true ∧
      (d.ctx 0).task.isSome = true ∧ (d.ctx 0).parked = none ∧ d.preemptDue 0 = false ∧
      (let p := d.setMe { d.me with parked := some .waite }
       (p.sc 0).uliDue = true ∧ (p.ctx 0).parked = some .waite ∧ p.preemptDue 0 = false) := by decide +kernel

/-- Two tasks of a gang launch on contexts 0 and 8; context 8 has arrived `k` times at the core level and once at the
quad level. -/
def gang (k : Nat) : State :=
  let l : Launch := { supLaunch 0 0 0 with gang := true, count := 2, tpc := 1, cpq := 2, next := 2, pool0 := 20, pool1 := 20, pool2 := 20 }
  let s := { st id with launches := [l] }
  s.setCtx 8 { s.ctx 8 with task := some ⟨0, 1⟩, bars := #v[k, 1, 0, 0] }
theorem wit_bar : let s := gang 0
    (st id).gangTask (st id).cur = none ∧ (st id).me.drained = true ∧ s.gangTask s.cur = some ⟨0, 0⟩ ∧ s.me.drained = true ∧
      (let u := s.setMe (s.me.arrive .quad (· + 1))
       u.barDone ⟨0, 0⟩ .quad (u.me.bars.toList.getD (barIx .quad) 0) = true) ∧
      (let u := s.setMe (s.me.arrive .die (· + 1))
       u.barDone ⟨0, 0⟩ .die (u.me.bars.toList.getD (barIx .die) 0) = false) ∧
      (let p := s.setMe { s.me.arrive .quad (· + 1) with parked := some (.bar .quad) }
       (p.ctx 0).parked = some (.bar .quad) ∧ (p.ctx 0).task = some ⟨0, 0⟩ ∧
         p.barDone ⟨0, 0⟩ .quad ((p.ctx 0).bars.toList.getD (barIx .quad) 0) = true) := by decide

/-! ### Blocks -/

/-- A lane register of 64-bit elements. -/
def lanes64 (l : List Nat) : VBits := BitVec.ofNat 8192 ((l.zipIdx).foldl (fun n p => n + p.1 * 2 ^ (64 * p.2)) 0)
/-- A block at VL = 3, EW = 64 that declares v3, v9, m8 and w2, with registers loaded and the second element of m9 clear. -/
def blkOf (f : Block → Block) : Block :=
  f { entry := ent (.vfetch 0) { Scalar.reset with vl := 3, theta := 0x4000 }
      hdr := 0x1000, words := [0, 0], pos := 1
      shV := [(3, lanes64 [7, 8, 9, 10]), (9, 0)], shM := [(8, 5), (9, 5)], shW := [(2, 0)]
      arms := [], flags := 0, pushes := [], stores := [], count := [] }
/-- That block in flight. -/
def inB (f : Block → Block) : State :=
  let s := st id
  s.setMe { s.me with block := some (blkOf f) }
/-- The same at another element width: `e` is the ew field of VT. -/
def atEw (e : Nat) (b : Block) : Block :=
  { b with entry := { b.entry with chk := { b.entry.chk with vt := BitVec.ofNat 11 (0x7E0 + e) } } }

theorem wit_block_words : let s := inB id
    let b := blkOf id
    s.me.block = some b ∧ b.sc.ew = 64 ∧ Declares b 3 ∧ Declares b 9 ∧ DeclaresM b (mdst 0) ∧ DeclaresW b 2 ∧ b.pushes.length < 16 ∧
      b.sc.vl = 3 ∧ 3 < b.sc.vlm ∧ (EType.f32).isFp = true ∧ (EType.s32).isInt = true ∧ (EType.n64).isInt = true ∧
      b.active s none 2 = true ∧ b.active s (some 9) 1 = false ∧ b.actives s (some 9) = [0, 2] := by
  refine ⟨by decide +kernel, by decide +kernel, ⟨_, .head _⟩, ⟨_, .tail _ (.head _)⟩, ⟨_, .head _⟩, ⟨_, .head _⟩, ?_⟩
  decide +kernel

/-- The types of VDOT, WMOV and VQMX, and the clauses of MFIRST and of the reductions to the VSQ. -/
theorem wit_block_choices : let s := inB id
    let b := blkOf id
    let b32 := blkOf (atEw 4)
    let x := fun i => elem (b.v s 3) i 64
    vdotOk .s32 .s8 = true ∧ (EType.s32).width = b32.sc.ew ∧ (EType.f32).wmovOk = true ∧ (EType.n16).wmovOk = true ∧
      (EType.e4m3).mxElem = true ∧ (9 : VReg) ≠ 3 ∧
      (b.active s (some 9) 0 && (b.m s 9).getLsbD 0) = true ∧
      (∀ i, i < b.sc.vl → (b.active s (some 0) i && (b.m s 9).getLsbD i) = false) ∧
      (b.actives s (some 9)).map x = [7, 9] ∧ intVal .s64 7 ≤ intVal .s64 9 ∧ b.actives s (some 0) = [] := by
  decide +kernel
/-- Two segments, at elements 0 and 2: the first has one active element, then none. -/
theorem wit_block_segments : let s := inB id
    let b := blkOf id
    (∀ k, k < b.sc.vl → b.headOf s (some 9) k = 0 → k ≠ 0 → b.active s (some 9) k = false) ∧
      b.headOf s (some 9) 0 = 0 ∧ b.active s (some 9) 0 = true ∧ b.headOf s (some 9) 2 = 2 ∧
      (∀ k, k < b.sc.vl → b.headOf s (some 9) k = 2 → b.active s (some 0) k = false) := by decide +kernel

/-- A region of two arms in its arm `k`, opened at word `site`. -/
def rgn (k site : Nat) : ArmEntry := .region [0, 1] [7, 7] [0, 0] false k site
theorem wit_block_control :
    let full := blkOf fun b => { b with arms := List.replicate 8 (rgn 0 0) }
    let seven := blkOf fun b => { b with arms := List.replicate 7 (rgn 0 0) }
    let first := blkOf fun b => { b with arms := [rgn 0 0] }
    let last := blkOf fun b => { b with arms := [rgn 1 0] }
    let again := blkOf fun b => { b with pos := 3, arms := [.loop 3 7 4] }
    let inner := blkOf fun b => { b with pos := 3, arms := [.loop 5 7 4] }
    let within := blkOf fun b => { b with pos := 3, arms := [rgn 0 1] }
    16 ≤ full.sc.ew ∧ 8 ≤ full.arms.length ∧ seven.arms.length < 8 ∧ (0 + 1 ≠ [(0 : WReg), 1].length ∧ first.arms = rgn 0 0 :: []) ∧
      (1 + 1 = [(0 : WReg), 1].length ∧ last.arms = rgn 1 0 :: []) ∧ again.arms = ArmEntry.loop again.pos 7 4 :: [] ∧
      inner.arms = ArmEntry.loop 5 7 4 :: [] ∧ 5 ≠ inner.pos ∧ within.arms = rgn 0 1 :: [] ∧ 1 < within.pos - 1 ∧
      (blkOf id).arms = [] ∧ again.sc.wlim = 4096 := by decide +kernel

/-- Addresses for the block's memory words: three doublewords of the scratchpad window, and one beyond it. -/
def adr (last : Nat) (b : Block) : Block := { b with shV := (4, lanes64 [win.toNat, win.toNat + 8, last]) :: b.shV }
theorem wit_block_memory : let b := blkOf (adr (win.toNat + 0xFFF8))
    let s := inB (adr (win.toNat + 0xFFF8))
    let loc := fun i => if i = 2 then Loc.win 0 0xFFF8 else .win 0 (8 * i)
    b.addrBad 4 = false ∧ (∀ i ∈ b.actives s none, ∀ k ∈ [Kind.read, .write, .rw],
      b.elemLoc b s 4 0 64 k i = .ok (loc i)) ∧
      (∀ i ∈ b.actives s none, fget 0 b.count i < 8) ∧ (EType.f64).isFp = true ∧ (EType.f64).width ≤ b.sc.ew := by decide +kernel

/-- The VSQ holds `n` entries. -/
def fullQ (n : Nat) (s : State) : State := s.setMySc { s.mySc with vsq := List.replicate n 1 }
/-- STOP with room for its pushes at the limit, without room, and inside a region. -/
theorem wit_stop : let room := fun n => fullQ n (inB fun b => { b with pushes := [5, 6] })
    (room 14).mySc.vsq.length + 2 = 16 ∧ (room 15).mySc.vsq.length + 2 = 17 ∧
      ((room 15).me.block.map Block.pushes) = some [5, 6] ∧ (blkOf fun b => { b with arms := [rgn 0 0] }).arms ≠ [] := by
  decide +kernel
theorem wit_aborts : let b := blkOf (adr (win.toNat + 0x10000))
    let s := inB (adr (win.toNat + 0x10000))
    let at_ := fun k => b.elemLoc b s 4 0 64 .read k
    let long := blkOf fun b => { b with entry := { b.entry with chk := { b.entry.chk with vl := 129 } } }
    long.addrBad 47 = true ∧ s.me.block = some b ∧ (EType.f32).isInt = false ∧ (EType.s32).isFp = false ∧ (blkOf (atEw 3)).sc.ew < (EType.s32).width ∧
      (blkOf (atEw 2)).sc.ew < 16 ∧ 16 ≤ (blkOf fun b => { b with pushes := List.replicate 16 0 }).pushes.length ∧
      b.addrBad 4 = false ∧ 2 ∈ b.actives s none ∧ at_ 2 = .error ⟨.xlatePerm, 2, win + 0x10000⟩ ∧
      (∀ k ∈ b.actives s none, k < 2 → at_ k = .ok (.win 0 (8 * k))) ∧ b.arms = [] := by decide +kernel

/-- Context 0 fetches from a mapped page, with bytes of memory written: address and 8-byte words. -/
def mapped (ps : List (Nat × Nat)) (f : Scalar → Scalar) : State :=
  let s := (st f).placePage 0
  { s with mem := ps.foldl (fun m p => m.putLe p.1 8 p.2) s.mem }
/-- A block at `probePage + 0x100`: header of declared registers, count, and the words. -/
def blockAt (h c : Nat) (ws : List Nat) : List (Nat × Nat) :=
  (probePage + 0x100, h) :: (probePage + 0x108, c) :: (ws.zipIdx).map fun p => (probePage + 0x110 + 8 * p.2, p.1)
/-- MPOPC of m8. -/
def mpopcWord : Nat := ((encode (.mpopc 8 none)).map Prod.snd).getD 0
/-- Outcomes of the block fetch that the hypotheses of a start name. -/
theorem wit_blocks_start :
    let a : Word64 := BitVec.ofNat 64 (probePage + 0x100)
    let good := mapped (blockAt (2 ^ 60) 1 [0x0100000000000000]) (xs a (a + 4) (win + 8))
    let bad := mapped (blockAt (2 ^ 60) 0 []) (xs a 2 3)
    let worse := mapped (blockAt (2 ^ 60) 2 [0x0100000000000000, 0x0100000000000000]) (xs a 2 3)
    let f := fun s : State => ((s.setMySc (s.issuedSc id)).fetchBlock (agentOf s.cur s.mySc) a 2).map Prod.fst
    let g := fun (s : State) n => ((s.setMySc (s.issuedSc id)).fetchBlock (agentOf s.cur s.mySc) (a + 16) n).map Prod.fst
    good.performsNow (.vfetchx 5) = true ∧ good.mySc.pc + BitVec.ofInt 64 (4 * (64 : BitVec 26).toInt) = a ∧
      (good.mySc.rx 6).toNat % 8 ≠ 0 ∧ (good.mySc.rx 5).toNat % 8 = 0 ∧
      f good = .ok [2 ^ 60, 1] ∧ headerBad (2 ^ 60) 1 = false ∧ g good 1 = .ok [0x0100000000000000] ∧ wordsBad (2 ^ 60) [0x0100000000000000] = false ∧
      f bad = .ok [2 ^ 60, 0] ∧ headerBad (2 ^ 60) 0 = true ∧ f worse = .ok [2 ^ 60, 2] ∧ headerBad (2 ^ 60) 2 = false ∧
      g worse 2 = .ok [0x0100000000000000, 0x0100000000000000] ∧ wordsBad (2 ^ 60) [0x0100000000000000, 0x0100000000000000] = true ∧
      (good.mySc.rx 7).toNat % 8 = 0 ∧ (issued good).entryPushes (good.entryFor (.vfetchx 5) Captured.none) = false ∧
      good.mySc.vsq.length < 16 ∧
      -- a block that pushes, with the VSQ full: MPOPC, STOP
      (let push := fullQ 16 (mapped (blockAt (2 ^ 60) 2 [mpopcWord, 0x0100000000000000]) (xs a 2 3))
       push.performsNow (.vfetchx 5) = true ∧ 16 ≤ push.mySc.vsq.length ∧
         (issued push).entryPushes (push.entryFor (.vfetchx 5) Captured.none) = true) ∧
      ((good.setMySc (good.issuedSc id)).fetchBlock (agentOf good.cur good.mySc) (win + 8) 2).map Prod.fst =
        .error ⟨.xlatePerm, 0, win + 8⟩ := by decide +kernel

/-! ### Vector memory -/

/-- VL = 3; v2 holds numbers, v3 the offsets 0, 8 and 16; bytes of the scratchpad are written: offset and 8-byte words. -/
def vec (ps : List (Nat × Nat)) (f : Scalar → Scalar) : State :=
  let s := st fun z => { f z with vl := 3 }
  let s := (s.setV 2 (lanes64 [7, 8, 9])).setV 3 (lanes64 [0, 8, 16])
  ps.foldl (fun s p => s.storeLe (some 0) (.win 0 p.1) 8 p.2) s
theorem wit_length : let s := st (xs 2 0x7E5 0x800)
    s.me.viqUsed < 32 ∧ vtOk ((0x7E5 : BitVec 11).setWidth 64) = true ∧ s.mySc.rx 6 = (0x7E5 : BitVec 11).setWidth 64 ∧
      vtOk (s.mySc.rx 7) = false ∧ s.me.drained = true ∧ s.performsNow (.vsplat ⟨2, 5, none, .vt⟩) = true ∧ widthNow .vt s = s.mySc.ew ∧
      -- STRIP: one element left, and none
      ((((vec [] (xs 4 2 3)).mySc.wx 5 (4 - 3)).advance 0 3 0 1).rx 5).toInt.toNat = 1 ∧
      ((((vec [] (xs 3 2 3)).mySc.wx 5 (3 - 3)).advance 0 3 0 1).rx 5).toInt.toNat = 0 := by decide +kernel
/-- Two rows of 2 and 3 elements for SETFIB. -/
theorem wit_setfib : let s := vec [(0, 0), (8, 2), (16, 5)] (xs win 2 0)
    (State.fibLoop (s.mySc.rx 5) (s.mySc.rx 6).toInt.toNat (s.myCore.cap 0x7E5) ((s.mySc.rx 6).toInt.toNat + 1) s
      ⟨0, 0, s.mySc.fiboff.toNat, 0⟩).map Prod.fst = .ok ⟨2, 5, 0, 5⟩ ∧ s.me.drained = true := by decide +kernel

/-- The offset of a scratchpad window address. -/
def at3 (k : Nat) : Loc := .win 0 (8 * k)
/-- A shape record at scratchpad offset 64: base the window, 2 by 2 elements of F64, steps 8 and 16. -/
def rec22 : List (Nat × Nat) := [(64, win.toNat), (72, 2 + 2 * 2 ^ 32), (80, 8), (88, 0), (96, 16)]
theorem wit_vector_memory : let s := vec rec22 fun z => { xs win 8 (win + 64) z with pwaddr := win + 0x100 }
    let sc := s.mySc.replay
    let g := agentOf s.cur sc
    s.performsNow (.vld ⟨2, 5, none, .vt⟩) = true ∧ widthNow .vt s ≤ s.mySc.ew ∧ s.actives sc none = [0, 1, 2] ∧
      (∀ kd ∈ [Kind.read, .write, .rw], ∀ k ∈ s.actives sc none,
        ([s.mySc.rx 5 + BitVec.ofNat 64 (k * 64 / 8)].mapM fun a => s.vecLoc g a 8 8 kd k) = .ok [at3 k] ∧
        ([s.mySc.rx 5 + BitVec.ofNat 64 k * s.mySc.rx 6].mapM fun a => s.vecLoc g a 8 8 kd k) = .ok [at3 k] ∧
        ([indexed s 5 3 k].mapM fun a => s.vecLoc g a 8 8 kd k) = .ok [at3 k] ∧
        ((fieldAddrs s 5 2 64 k).mapM fun a => s.vecLoc g a 8 8 kd k) = .ok [at3 (2 * k), at3 (2 * k + 1)]) ∧
      ((s.issueRecord 7).1.rcd.map fun r => (shapeBad r s.mySc 64, recNat r 8 4, recNat r 0 8, recInt r 0x10)) =
        some (false, 2, win.toNat, 8) ∧
      sc.pwaddr ≠ 0 ∧ s.vecLoc g sc.pwaddr 8 8 .write sc.vstart.toNat = .ok (.win 0 0x100) := by decide +kernel
/-- The same accesses from 16 bytes below the end of the scratchpad, where the third element, or the second of two fields, lies beyond it;
and a progress word beyond it. -/
theorem wit_vector_faults : let top := win + 0xFFF0
    let s := vec ((64, top.toNat) :: rec22.tail) fun z => { xs top 8 (win + 64) z with pwaddr := win + 0x100 }
    let p := vec rec22 fun z => { xs win 8 (win + 64) z with pwaddr := win + 0x10000 }
    let sc := s.mySc.replay
    let g := agentOf s.cur sc
    let out := fun n (k : Nat) => if k < 2 then some [Loc.win 0 (0xFFF0 + 8 * k)] else if n = k then none else some []
    (∀ kd ∈ [Kind.read, .write],
      (∀ k ∈ s.actives sc none, ∀ a ∈ [unitAddr s 5 64 k, strideAddr s 5 6 k, [indexed s 5 3 k]],
        (a.mapM fun a => s.vecLoc g a 8 8 kd k).toOption = out 2 k) ∧
      (fieldAddrs s 5 2 64 0).mapM (fun a => s.vecLoc g a 8 8 kd 0) = .ok [.win 0 0xFFF0, .win 0 0xFFF8] ∧
      (fieldAddrs s 5 2 64 1).mapM (fun a => s.vecLoc g a 8 8 kd 1) = .error ⟨.xlatePerm, 1, win + 0x10000⟩ ∧
      (s.issueRecord 7).1.rcd.map (fun r => (shapeBad r s.mySc 64,
        (s.actives sc none).map fun k => ((shapeAddr r k).mapM fun a => (s.issueRecord 7).2.vecLoc g a 8 8 kd k).toOption)) =
          some (false, (s.actives sc none).map (out 2))) ∧
      sc.pwaddr ≠ 0 ∧ s.vecLoc g sc.pwaddr 8 8 .write sc.vstart.toNat = .ok (.win 0 0x100) ∧
      p.mySc.replay.pwaddr ≠ 0 ∧
      p.vecLoc (agentOf p.cur p.mySc.replay) p.mySc.replay.pwaddr 8 8 .write p.mySc.replay.vstart.toNat = .error ⟨.xlatePerm, 0, win + 0x10000⟩ ∧
      (p.issueRecord 7).2.vecLoc (agentOf p.cur p.mySc.replay) p.mySc.replay.pwaddr 8 8 .write p.mySc.replay.vstart.toNat =
        .error ⟨.xlatePerm, 0, win + 0x10000⟩ := by decide +kernel
/-- The third element of a load lies beyond the scratchpad. -/
theorem wit_vector_fault : let s := vec [] (xs (win + 0xFFF0) 0 0)
    let at_ := fun k => s.vecLoc (agentOf s.cur s.mySc.replay) (s.mySc.rx 5 + BitVec.ofNat 64 (k * 64 / 8)) 8 8 .read k
    s.performsNow (.vld ⟨2, 5, none, .vt⟩) = true ∧ 2 ∈ s.actives s.mySc.replay none ∧ at_ 2 = .error ⟨.xlatePerm, 2, win + 0x10000⟩ ∧
      ∀ k ∈ s.actives s.mySc.replay none, k < 2 → at_ k = .ok (.win 0 (0xFFF0 + 8 * k)) := by decide +kernel
theorem wit_gathers : let s := vec [] (xs win (win + 16) 0)
    let sc := s.mySc.replay
    let g := agentOf s.cur sc
    s.performsNow (.vldxAcq 2 5 3 none .core) = true ∧ s.performsNow (.vldw 2 5 3 1 .vt) = true ∧ vregAdd 2 1 = some 3 ∧
      8 ≤ s.mySc.ew ∧ (s.mySc.rx 5).toNat % (64 / 8) = 0 ∧
      (∀ k ∈ s.actives sc none, s.vecPlace g (indexed s 5 3 k) (sc.ew / 8) (sc.ew / 8) .read k = .ok (at3 k) ∧
        s.homeWithin .core 0 (at3 k) = true ∧ s.vecLoc g (indexed s 5 3 k) (sc.ew / 8) (sc.ew / 8) .read k = .ok (at3 k)) := by decide +kernel
/-- A bitmap block of 64-bit elements, of which the first and the third are there, and room to write one. -/
theorem wit_bitmaps : let bytes := bitmapBlock 8 64 3 (fun k => k != 1) (fun k => k + 40)
    let words := (List.range 6).map fun i => (8 * i, leNat ((bytes.drop (8 * i)).take 8))
    let s := vec words fun z => { xs win 0 8 z with pwaddr := win + 0x100 }
    let g := agentOf s.cur s.mySc.replay
    s.performsNow (.vldb 2 5 6 1 .vt) = true ∧ bytes.length = 48 ∧ etypeOf 8 = some .s64 ∧ (s.mySc.rx 5).toNat % 16 = 0 ∧
      (s.bitmapHeader g (s.mySc.rx 5)).map (fun h => (bitmapBad h 64 0 3,
        (List.range 3).map fun k => s.bitmapElem g (s.mySc.rx 5) (h % 2 ^ 8) 64 k (0 + k))) =
          .ok (false, [.ok (some 40), .ok none, .ok (some 42)]) ∧
      s.performsNow (.vstb ⟨2, 5, none, false, .vt⟩ 7) = true ∧ s.performsNow (.vstbNtf ⟨2, 5, none, false, .vt⟩ 7) = true ∧
      s.span g .write (s.mySc.rx 5) 48 = .ok [(.win 0 0, 48)] ∧ s.vecLoc g s.mySc.pwaddr 8 8 .write 0 = .ok (.win 0 0x100) := by
  decide +kernel
theorem wit_atomics : let s := vec [] (xs win 0 0)
    let sc := s.mySc.replay
    let o : VamoArgs := ⟨2, 5, none, .add, .none, .core, true⟩
    s.performsNow (.vamo o) = true ∧ vregAdd 2 1 = some 3 ∧ 8 * amoBytes true ≤ s.mySc.ew ∧
      (s.actives sc none).Pairwise (fun i j => indexed s 5 3 i ≠ indexed s 5 3 j) ∧
      (∀ k ∈ s.actives sc none, s.vecLoc (agentOf s.cur sc) (indexed s 5 3 k) 8 8 .rw k = .ok (at3 k)) ∧
      s.performsNow (.vsred ⟨2, 5, none, false, .vt⟩ .add) = true := by decide +kernel
theorem wit_reduction_area : let s := vec [] fun z => { xs (win + 16) 0 0 z with pwaddr := win + 0x100 }
    let g := agentOf s.cur s.mySc.replay
    s.performsNow (.vrred ⟨2, 5, none, false, .vt⟩ .s64 true true) = true ∧ rredSource .s64 64 = some (.s64, false) ∧
      rredSource .f32 8 = some (.e4m3, true) ∧ vtSc (0x025 : BitVec 11) ≠ none ∧
      s.peerLoc g (s.mySc.rx 5 - 16) 16 16 .write 0 = .ok (.win 0 0) ∧ s.isPeer (.win 0 0) = false ∧
      (∀ k ∈ s.actives s.mySc.replay none, s.peerLoc g (s.mySc.rx 5 + BitVec.ofNat 64 (k * 8)) 8 8 .write k = .ok (.win 0 (16 + 8 * k)) ∧
        s.isPeer (.win 0 (16 + 8 * k)) = false) ∧
      s.vecLoc g s.mySc.pwaddr 8 8 .write s.mySc.replay.vstart.toNat = .ok (.win 0 0x100) := by decide +kernel

/-! ### Feeds and the activation stack -/

/-- `vec` with slot 0 holding `x`, pool 2 beginning at 128 KiB, and the ferry held or not. -/
def fed (x : FeedSlot) (held : Bool) (f : Scalar → Scalar) : State :=
  let s := vec [] f
  let s := s.setCore 0 { s.core 0 with pool2 := 32 }
  ({ s with choices := { s.choices with ferryHeld := held } } : State).setFeed 0 x
/-- An input of `n` doublewords from the window with `buf` fetched, and an output with `pos` appended. -/
def inp (st' : FeedState) (n : Nat) (buf : List Word64) : FeedSlot := ⟨st', false, win, n, 64, 1, 0, buf.length, buf, none, none⟩
def outp (st' : FeedState) (n pos : Nat) : FeedSlot := ⟨st', true, win, n, 64, 1, pos, pos, [], none, none⟩
theorem wit_feed_input : let r := xs win 4 0
    let s := fed (inp .open 4 []) false r
    let g := agentOf s.cur s.mySc.replay
    (fed FeedSlot.idle false r).performsNow (.fcfg 0 5 6 0 false .vt) = true ∧ ((fed FeedSlot.idle false r).feed 0).st = .idle ∧
      (s.mySc.rx 6).toNat < 2 ^ 40 ∧ (s.mySc.rx 5).toNat % (64 / 8) = 0 ∧
      4096 ≤ (fed FeedSlot.idle false r).stripFree (CtxIx.core 0) ∧
      s.performsNow (.fld 2 0) = true ∧ (s.feed 0).st ≠ .idle ∧ (s.feed 0).out = false ∧ (s.feed 0).w ≤ s.mySc.ew ∧
      -- elements to move, none yet, and a feed that is drained
      (s.ferryIn g (s.feed 0)).buf.length = 4 ∧ (s.ferryIn g (s.feed 0)).st ≠ .drained ∧
      ((fed (inp .open 4 []) true r).feed 0).buf = [] ∧ ((fed (inp .open 4 []) true r).feed 0).fault = none ∧
      ((fed (inp .open 4 []) true r).feed 0).ferry < 4 ∧ (fed (inp .open 4 []) true r).performsNow (.fld 2 0) = true ∧
      -- a feed whose ferry stopped on a fault
      (let y := fed { inp .open 4 [] with fault := some (.xlateMiss, 8) } true r
       (y.feed 0).buf = [] ∧ (y.feed 0).ferry < (y.feed 0).len ∧ (y.feed 0).fault = some (.xlateMiss, 8)) ∧
      (let d := fed { inp .ended 4 [] with pos := 4, ferry := 4 } false r
       (d.ferryIn (agentOf d.cur d.mySc.replay) (d.feed 0)).st = .drained ∧ (d.ferryIn (agentOf d.cur d.mySc.replay) (d.feed 0)).buf = []) ∧
      (let p := (fed (inp .open 4 []) false r).setMe { (fed (inp .open 4 []) false r).me with
          parked := some (.fld 2 0) }
       (p.ctx 0).parked = some (.fld 2 0)) ∧
      ((s.ctx 0).regs.feeds[(0 : FeedIx).val]).st = .open := by decide +kernel
theorem wit_feed_output : let r := xs (win + 0x100) 0 0
    let s := fed (outp .open 8 5) false r
    let g := agentOf s.cur s.mySc.replay
    s.performsNow (.fst 2 0 none false .vt) = true ∧ (s.feed 0).st = .open ∧ (s.feed 0).out = true ∧ (s.feed 0).w ≤ s.mySc.ew ∧
      (s.feed 0).pos + s.mySc.vl = (s.feed 0).len ∧ (s.feed 0).fault = none ∧ (s.feed 0).buf.length + s.mySc.vl ≤ (s.feed 0).room ∧
      (fed (outp .open 8 5) true r).choices.ferryHeld = true ∧ s.choices.ferryHeld = false ∧
      ((issued s).ferryOut g 0 (s.feed 0)).2.fault = none ∧
      s.performsNow (.fend 0 5 none .vt) = true ∧ s.countLoc g (s.mySc.rx 5) = .ok (.win 0 0x100) ∧
      (((issued s).ferryOut g 0 (s.feed 0)).1.setFeed 0 ((issued s).ferryOut g 0 (s.feed 0)).2).countLoc g (s.mySc.rx 5) =
        .ok (.win 0 0x100) ∧
      (let e := fed { outp .ended 8 8 with bo := some 3 } false r
       let z := (e.ctx 0).regs.feeds[(0 : FeedIx).val]
       z.st = .ended ∧ z.out = true ∧
         ((({ e with cur := 0 } : State).ferryOut (agentOf 0 (e.sc 0)) 0 { z with fault := none }).2.fault = none)) := by decide +kernel

/-- A stack of `size` bytes at the window's start, with ASP `used` above its base. -/
def astk (used size : Nat) (z : Scalar) : Scalar :=
  { z with asb := win, asl := win + BitVec.ofNat 64 size, asp := win + BitVec.ofNat 64 used }
theorem wit_activation_stack :
    let push := vec [] (astk 0 32 ∘ xs (win + 0x100) 9 0)
    let full := vec [] (astk 0 32 ∘ xs (win + 0x100) 17 0)
    let h := frameHeader 9 3
    let pop := vec [(0, 7), (8, 8), (16, leNat (h.take 8)), (24, leNat (h.drop 8))] (astk 32 32 ∘ xs (win + 0x100) 16 0)
    let none := vec [] (astk 0 32 ∘ xs (win + 0x100) 16 0)
    let g := agentOf push.cur push.mySc.replay
    push.me.drained = true ∧ push.mySc.asp.toNat + (9 + 15) / 16 * 16 + 16 = push.mySc.asl.toNat ∧
      push.span g .read (push.mySc.rx 5) 9 = .ok [(.win 0 0x100, 9)] ∧ push.span g .write push.mySc.asp 32 = .ok [(.win 0 0, 32)] ∧
      full.mySc.asl.toNat < full.mySc.asp.toNat + (17 + 15) / 16 * 16 + 16 ∧
      none.mySc.asp.toNat < none.mySc.asb.toNat + 16 ∧ pop.mySc.asb.toNat + 16 ≤ pop.mySc.asp.toNat ∧
      pop.span (agentOf 0 pop.mySc.replay) .read (pop.mySc.asp - 16) 16 = .ok [(.win 0 16, 16)] ∧
      frameOk (pop.loadSpan [(.win 0 16, 16)]) 3 = true ∧ frameOk (pop.loadSpan [(.win 0 16, 16)]) 4 = false ∧
      leNat ((pop.loadSpan [(.win 0 16, 16)]).take 4) = 9 ∧
      pop.span (agentOf 0 pop.mySc.replay) .read (pop.mySc.asp - 16 - 16) 9 = .ok [(.win 0 0, 9)] ∧
      pop.span (agentOf 0 pop.mySc.replay) .write (pop.mySc.rx 5) 9 = .ok [(.win 0 0x100, 9)] := by decide +kernel

/-! ### The matrix unit -/

/-- `s` with `w` waiting in quad 0 and `held` rows held for a pre-empted task. -/
def quad0 (w : List CtxIx) (held : Nat) (s : State) : State :=
  s.setQuad 0 { s.quad 0 with waiting := w, heldRows := if held = 0 then [] else [(⟨9, 9⟩, held)] }
/-- A band of 16 rows, with or without the tile state. -/
def banded (m : BitVec 2) (z : Scalar) : Scalar := { z with mgrant := 16, mstate := m }
theorem wit_bands : let s := quad0 [] 0 (st (xs 17 0 0))
    let full := quad0 [] 128 (st (xs 17 0 0))
    s.me.drained = true ∧ s.me.badRegs = [] ∧ CtxIx.quad s.cur = 0 ∧ s.mySc.band = false ∧ (st (banded 2)).mySc.band = true ∧
      rowReq (s.mySc.rx 5) = 32 ∧ rowReq (s.mySc.rx 6) = 0 ∧ (s.quad 0).waiting = [] ∧
      min (128 - s.attached 0) ((s.quad 0).rowCap - s.attached 0) / 16 * 16 ≠ 0 ∧
      min (128 - full.attached 0) ((full.quad 0).rowCap - full.attached 0) / 16 * 16 = 0 ∧
      (0 : CtxIx) ∉ ((quad0 [9] 0 s).quad 0).waiting ∧ ((quad0 [9] 0 s).quad 0).waiting ≠ [] ∧ s.choices.lanesHeld = false ∧
      (st (banded 3)).mySc.tile = true ∧ (st (banded 2)).mySc.tile = false ∧
      (let w := (quad0 [0] 0 s).setMe { s.me with viq := [ent (.mattB ⟨4, 5⟩) s.mySc] }
       (w.quad 0).waiting = [0] ∧ (w.ctx 0).viq.map Entry.instr = [.mattB ⟨4, 5⟩]) ∧
      (let w := s.setQuad 0 { s.quad 0 with wnext := some ((s.quad 0).wbuf, 0) }
       (w.quad 0).wnext = some ((s.quad 0).wbuf, 0)) := by decide +kernel
theorem wit_accumulators : let s := vec [] (banded 3)
    s.performsNow (.mzero 1) = true ∧ s.mySc.band = true ∧ s.mySc.tile = true ∧ (vec [] (banded 2)).mySc.tile = false ∧
      s.mySc.mgrant.toNat ≤ 128 ∧ (15 : Nat) < s.mySc.mgrant.toNat ∧ 4 % stepDepth (s.quad 0).wbuf.ty = 0 ∧
      s.performsNow (.mopa 1 ⟨2, false⟩ 4 none none) = true ∧ s.performsNow (.mopav 1 ⟨2, false⟩ 3 none none .s8) = true := by
  decide +kernel
/-- A shape record at offset 64 of the window: 2 by 2 words of F32 from its base in steps of 4 and 8. -/
def rec32 (base : Nat) : List (Nat × Nat) := [(64, base), (72, 2 + 2 * 2 ^ 32), (80, 4), (88, 0), (96, 8), (112, 1)]
theorem wit_matrix_memory : let s := vec (rec32 win.toNat) (banded 3 ∘ xs (win + 64) 0 0)
    let g := agentOf s.cur s.mySc.replay
    let o : MsArgs := ⟨1, 5, none, none⟩
    s.performsNow (.mstt o) = true ∧ s.performsNow (.mgacc o) = true ∧ s.mySc.vstart = 0 ∧ s.mySc.vtfHit = none ∧ (s.issueRecord 5).1.rcd.map (fun r =>
      (recType r, recNat r 8 4, recNat r 12 4, recNat r 0x33 1, recAccOk r)) = some (some .f32, 2, 2, 0, true) ∧
      ((s.issueRecord 5).1.rcd.map fun r =>
        (((issued (s.issueRecord 5).2).storeRows g r 4 ((List.range 2).filter fun j => s.selects none j)
          (fun u i j => convertVal .f32 .f32 (u.accElem 1 i j) .rne) ((List.range 2).filter fun i => s.selects none i)).2.2.2,
          gradBad r s.mySc.mgrant.toNat, ((s.quad 0).regionFor r).map GradRegion.state)) = some (none, false, some 0) ∧
      fwfFrom (0 : BitVec 32) 0 (s.quad 0).grad = true := by decide +kernel
/-- MGST of a region whose record stands in memory. -/
theorem wit_gradient_store : let ps := (rec32 (probePage + 0x200)).map fun p => (probePage + 0x100 + p.1, p.2)
    let s := mapped ps (banded 3 ∘ xs (BitVec.ofNat 64 (probePage + 0x140)) 0 0)
    let s := s.setQuad 0 { s.quad 0 with regions := [⟨0, 2, 2, 0, 0, 5, 0⟩] }
    let g := agentOf s.cur s.mySc.replay
    s.performsNow (.mgst 5) = true ∧ s.gradHeld 0 = false ∧ s.mySc.vstart = 0 ∧ s.mySc.vtfHit = none ∧
      s.vecLoc g (s.mySc.rx 5) 64 1 .write 0 = .ok (.mem (probePage + 0x140)) ∧
      ((s.issueRecord 5).1.rcd.map fun r => (gradBad r 128, recType r, recNat r 0x33 1,
        ((s.quad 0).regions.find? fun y => y.base == recNat r 0x18 4).map GradRegion.count,
        ((issued (s.issueRecord 5).2).storeRows g r 4 (List.range 2)
          (fun _ i j => convertVal .f32 .bf16 ((s.quad 0).slot (i * 2 + j) % 2 ^ 16) .rne) (List.range 2)).2.2.2)) =
        some (false, some .f32, 0, some 5, none) := by decide +kernel
/-- A weight image of S8 in layout 0 with element (0, 0): three levels of one word. -/
def image8 : Nat := let h := 3 + 11 * 2 ^ 8 + 2 ^ 32
  h + bitmapCheck h * 2 ^ 24
theorem wit_weight_image : let s := vec [(0, image8), (8, 0), (16, 1), (24, 1), (32, 1), (40, 5)] (banded 2 ∘ xs win 0 0)
    let g := agentOf s.cur s.mySc.replay
    s.performsNow (.mwld 5 none) = true ∧ (s.quad 0).wnext = none ∧ s.bitmapHeader g (s.mySc.rx 5) = .ok image8 ∧
      s.span g .read (s.mySc.rx 5 + 16) 8 = .ok [(.win 0 16, 8)] ∧ leNat (s.loadSpan [(.win 0 16, 8)]) = 1 ∧
      imageBad image8 1 = false ∧ (s.loadImage g (s.mySc.rx 5) image8 1 false).map (fun i => (i.1.ty, i.1.elems)) = .ok (.s8, [(0, 5)]) := by
  decide +kernel

/-! ### Queues -/

/-- Virtual and physical address of a queue block. -/
def qva : Word64 := BitVec.ofNat 64 (probePage + 0x400)
def qloc : Loc := .mem (probePage + 0x400)
/-- A block of 4 elements of 8 bytes, of which `n` are queued. -/
def qcb (n flags : Nat) : Qcb :=
  ({ Qcb.ofNat 0 with
    magic := 0x5143, ver := 1, size := 3, flags := flags, cap := 4, tail := n, free := 4 - n, base := probePage + 0x800 } : Qcb).sealed
/-- The block in mapped memory, initialised; x5 its address. -/
def qst (q : Qcb) (f : Scalar → Scalar) : State :=
  ((mapped [] f).putQcb qloc q).markClean qloc
/-- The die's own queue agent. -/
def qag (s : State) : QAgent := ctxQAgent s.cur s.scalarAgent

theorem qst_canonical : Canonical (qst (qcb 2 0) (xs qva 0 0)) :=
  ⟨by decide +kernel, by decide +kernel, by decide +kernel, by decide +kernel⟩
theorem wit_queue_step : let s := qst (qcb 2 0) (xs qva 0 0)
    let ag := qag s
    (qva + 4).toNat % 64 ≠ 0 ∧ s.blockLoc ag.g qva = .ok qloc ∧ s.qcbAt qloc = qcb 2 0 ∧ s.disturbed qloc = false ∧ (qcb 2 0).bad = false ∧
      (qcb 2 0).broken = false ∧ (∃ d, ag.die = some d ∧ s.homeDie qloc = some d.val) ∧
      -- corrupt, broken, and single-die blocks met from another die
      (({ qcb 2 0 with head := 1 } : Qcb).bad = true) ∧ (qcb 2 2).bad = false ∧ (qcb 2 2).broken = true ∧
      (qcb 2 0).multi = false ∧ (∀ d, (⟨ag.g, some 1⟩ : QAgent).die = some d → s.homeDie qloc ≠ some d.val) ∧
      (QForm.x 0).fits (2 ^ (qcb 2 0).size) = true ∧
      s.ringTrap ag.g (qcb 2 0) = none ∧ (∀ k ∈ [Kind.read, .write], s.ringSlots ag.g k (qcb 2 0) 0 1 = .ok [[.mem (probePage + 0x800)]] ∧
        s.ringSlots ag.g k (qcb 2 0) 2 1 = .ok [[.mem (probePage + 0x810)]]) ∧
      (qva + 0x100).toNat % min 8 8 = 0 ∧ s.chunks s.scalarAgent .read 8 1 (qva + 0x100) = .ok [.mem (probePage + 0x500)] := by
  refine ⟨by decide +kernel, by decide +kernel, by decide +kernel, by decide +kernel, by decide +kernel, by decide +kernel,
    ⟨0, by decide +kernel, by decide +kernel⟩, ?_⟩
  decide +kernel
/-- The block, a slot of its ring and a buffer, none of which overlaps another. -/
theorem wit_queue_apart : Apart (.mem (probePage + 0x810)) 8 qloc 64 ∧ Apart (.mem (probePage + 0x500)) 8 qloc 64 ∧
    Apart (.mem (probePage + 0x810)) 8 (.mem (probePage + 0x500)) 8 ∧ Apart (.mem (probePage + 0x900)) 1 (.mem (probePage + 0x810)) 8 := by
  simp [Apart, qloc]
/-- A block whose ring lies in a page of device registers. -/
def devQ : State :=
  let q : Qcb := ({ qcb 2 0 with base := probePage + 0x10000 } : Qcb).sealed
  ((mapped [(probeTables + 0x20008, 0xF000000000 + 927)] (xs qva 0 0)).putQcb qloc q).markClean qloc
theorem wit_queue_device : let s := devQ
    let ag := qag s
    s.blockLoc ag.g qva = .ok qloc ∧ s.disturbed qloc = false ∧ (s.qcbAt qloc).bad = false ∧ (s.qcbAt qloc).broken = false ∧
      ag.die = some 0 ∧ s.homeDie qloc = some 0 ∧ s.me.drained = true ∧
      s.ringTrap s.scalarAgent (s.qcbAt qloc) = some ⟨.xlatePerm, 0, BitVec.ofNat 64 (probePage + 0x10000)⟩ := by decide +kernel

/-- The outcome of a step at the home: 0 fault, 1 park, 2 grant, and the number granted. -/
def outKind : QOut → Nat × Nat
  | .fault _ _ => (0, 0)
  | .park _ => (1, 0)
  | .grant _ g _ => (2, g)
theorem wit_queue_outcomes : let s := fun n => qst (qcb n 0) (xs qva 9 (qva + 0x200))
    let op := fun (n : Nat) (enq : Bool) (f : QForm) => outKind ((s n).qOp (qag (s n)) qva ⟨enq, 1, true, f, some 0⟩)
    let m := QForm.m (qva + 0x100) (s 0).scalarAgent
    (s 2).me.drained = true ∧
      [op 2 true (.x 9), op 4 true (.x 9), op 2 false (.x 0), op 0 false (.x 0), op 2 true m, op 4 true m, op 2 false m, op 0 false m] =
        [(2, 1), (1, 0), (2, 1), (1, 0), (2, 1), (1, 0), (2, 1), (1, 0)] ∧
      outKind ((s 2).qOp (qag (s 2)) (qva + 8) ⟨true, 1, true, .x 9, some 0⟩) = (0, 0) ∧
      ((s 2).mySc.rx 5).toNat % 64 = 0 := by decide +kernel
/-- LAUNCH at a queue that has a record's room, is full, or is not there; QENQ.V and QDEQ.V of three elements. -/
theorem wit_queue_more : let big := fun n => ({ qcb n 0 with size := 6 } : Qcb).sealed
    let s := fun n => let u := qst (big n) (xs (qva + 0x40) 9 (qva + 8))
      u.setDie 0 { u.die 0 with lqb := qva, dsatp := u.mySc.satp }
    let at_ := fun (u : State) => outKind (u.qOp ⟨u.dieAgent 0, some 0⟩ (u.die 0).lqb ⟨true, 1, true, .m (u.mySc.rx 5) u.scalarAgent, some 0⟩)
    let v := fun n => (qst (qcb n 0) fun z => { xs qva 0 0 z with vl := 3 }).setV 2 (lanes64 [7, 8, 9])
    let vop := fun n enq => let u := issuedEnd (v n)
      outKind (u.qOp (ctxQAgent 0 (agentOf 0 (v n).mySc.replay)) qva ⟨enq, 3, true, .v 64 ((v n).vreg 2), some 0⟩)
    ((s 2).mySc.rx 7).toNat % 64 ≠ 0 ∧ ((s 2).mySc.rx 5).toNat % 64 = 0 ∧ at_ (s 2) = (2, 1) ∧ at_ (s 4) = (1, 0) ∧
      at_ (qst (big 2) (xs qva 0 0)) = (0, 0) ∧ vop 1 true = (2, 3) ∧ vop 4 false = (2, 3) ∧ (v 1).me.drained = true ∧ (v 1).me.badRegs = [] := by decide +kernel
/-- QINIT of a template in memory, and of one with a capacity of zero. -/
theorem wit_qinit : let t := fun cap => [(probePage + 0x600, 3 * 2 ^ 24), (probePage + 0x608, cap + 255 * 2 ^ 32), (probePage + 0x620, probePage + 0x800)]
    let s := fun cap => mapped (t cap) (xs qva (qva + 0x200) 0)
    ((s 4).qinit qva (qva + 0x200)).toOption.isSome = true ∧
      ((s 0).qinit qva (qva + 0x200)).map (fun _ => ()) = .error ⟨.qcbRange, 0, qva⟩ ∧ (s 4).blockLoc (s 4).scalarAgent qva = .ok qloc := by
  decide +kernel
theorem wit_parked : ∀ i ∈ [Instr.qenqX ⟨4, 5, 6, .die, true⟩, .qdeqX ⟨4, 5, 6, .die, true⟩, .qenqM ⟨4, 5, 6, .die, true⟩,
      .qdeqM ⟨4, 5, 6, .die, true⟩, .launch 5, .qenqV ⟨4, 5, 2, .die, true⟩, .qdeqV ⟨4, 5, 2, .die, true⟩, .bwait ⟨4, 5, 6⟩, .sigwait 5],
    let s := (st id).setMe { (st id).me with parked := some i, viq := [ent i (st id).mySc] }
    (s.ctx 0).parked = some i ∧ (s.ctx 0).viq.length = 1 := by decide +kernel

/-! ### Objects and user-level interrupts -/

/-- A barrier object at the window's start: PHASE `p`, scope .die, three bytes expected, two arrived; a number at 0x40. -/
def obj (p n : Nat) (f : Scalar → Scalar) : State :=
  let s := vec [(64, n)] f
  s.putBar (.win 0 0) ⟨p, 2, false, 0, 3, 2, 0⟩
theorem wit_objects : let s := obj 7 1 (xs win 7 (win + 64))
    let g := s.scalarAgent
    s.me.drained = true ∧ (∀ k ∈ [Kind.read, .rw], s.objLoc g (s.mySc.rx 5) 32 k = .ok (.win 0 0)) ∧ (s.barAt (.win 0 0)).valid = true ∧
      (s.barAt (.win 0 0)).phase = 7 ∧ (s.mySc.rx 6).toNat % 2 ^ 32 = 7 ∧
      ((obj 8 1 (xs win 7 0)).barAt (.win 0 0)).phase = 7 + 1 ∧ ((obj 6 1 (xs win 7 0)).barAt (.win 0 0)).phase + 2 ^ 32 - 7 = 2 ^ 32 - 1 ∧
      (∀ k ∈ [Kind.read, .rw], s.objLoc g (s.mySc.rx 7) 8 k = .ok (.win 0 64)) ∧ s.loadLe (.win 0 64) 8 = 1 ∧
      (obj 7 0 id).loadLe (.win 0 64) 8 = 0 ∧ (obj 7 (2 ^ 63) id).loadLe (.win 0 64) 8 = 2 ^ 63 ∧ (obj 7 1 sup).mySc.sup = true ∧
      ((s.putBar (.win 0 0) ⟨7, 5, false, 0, 3, 2, 0⟩).barAt (.win 0 0)).valid = false ∧
      -- operands of BINIT: a scope and NOCARRY, and a number that must be zero
      (3 * 2 ^ 32 + 2 ^ 35) % 2 ^ 32 = 0 ∧ (3 * 2 ^ 32 + 2 ^ 35) / 2 ^ 36 % 2 ^ 28 = 0 ∧ 1 % 2 ^ 32 ≠ 0 := by decide +kernel
theorem obj_canonical : Canonical (obj 7 1 (xs win 7 (win + 64))) :=
  ⟨by decide +kernel, by decide +kernel, by decide +kernel, by decide +kernel⟩
theorem wit_byte_count : let s := { obj 7 1 id with counts := [⟨(Loc.win 0 0).key, 5, 2, 0, 0, none, none⟩] }
    s.counts[0]? = some ⟨(Loc.win 0 0).key, 5, 2, 0, 0, none, none⟩ ∧ keyLoc (Loc.win 0 0).key = .win 0 0 ∧ (s.barAt (.win 0 0)).valid = true ∧
      2 ≤ (s.barAt (.win 0 0)).scope := by decide +kernel
theorem wit_uliarm : let s := obj 7 1 (xs win 0x12 0x62)
    let b : Binding := ⟨3, 2, 0, (Loc.win 0 64).key⟩
    let e := { obj 7 0 id with binds := [(0, b)] }
    s.me.drained = true ∧ s.uliObj 1 (s.mySc.rx 5) = .ok (Loc.win 0 0).key ∧ 5 < (s.mySc.rx 7).toNat / 16 % 16 ∧
      (s.mySc.rx 6).toNat / 16 % 16 = 1 ∧ (s.mySc.rx 6).toNat / 2 ^ 8 % 2 ^ 24 = 0 ∧ s.uliObj 5 3 = .ok 3 ∧
      e.binds = [(0, b)] ∧ e.uliHolds 0 b = true := by decide +kernel

/-! ### Launches and tasks -/

/-- A launch record's low 512 bits: version 1, one task, one context of one core, split 20, 20, 20; `f` edits it. -/
def recOf (f : Nat → Nat) : Nat :=
  f (probePage + 2 ^ 96 + 2 ^ 128 + 2 ^ 132 + 2 ^ 135 + 2 ^ 139 + 2 ^ 176 + 20 * 2 ^ 192 + 20 * 2 ^ 208 + 20 * 2 ^ 224)
/-- Die 0 takes records from a queue of 64-byte elements at `qva` that holds `recs`; its address-space table, at
`probePage + 0x1000`, has one good entry. -/
def die0 (recs : List Nat) : State :=
  let q : Qcb := ({ qcb recs.length 0 with size := 6 } : Qcb).sealed
  let s := qst q id
  let m := (recs.zipIdx).foldl (fun m p => m.putLe (probePage + 0x800 + 64 * p.2) 64 p.1) s.mem
  let m := (m.putLe (probePage + 0x1000) 8 s.mySc.satp.toNat).putLe (probePage + 0x1010) 8 1
  ({ s with mem := m } : State).setDie 0 { s.die 0 with
    lqb := qva, dsatp := s.mySc.satp, lqWritten := true, dasn := 1, dasb := BitVec.ofNat 60 (probePage + 0x1000) }
/-- The unit's dequeue. -/
def deq (s : State) : QOut := s.qOp ⟨s.dieAgent 0, some 0⟩ (s.die 0).lqb ⟨false, 1, false, .raw (List.replicate 64 0), none⟩
theorem wit_launch_records : let s := die0 [recOf id]
    recOf id < 2 ^ 512 ∧ s.rejectReason 0 (LaunchRec.ofNat (recOf id)) = none ∧
      s.rejectReason 0 (LaunchRec.ofNat (recOf (· + 2 ^ 480))) = some 8 ∧ s.rejectReason 0 (LaunchRec.ofNat (recOf (· + 1))) = some 5 ∧
      (s.die 0).lqWritten = true ∧ s.skerry.powered = true ∧ (s.die 0).lqStopped = false ∧ s.depn 0 < 64 ∧
      (match deq s with | .grant _ 1 [e] => leNat e == recOf id | _ => false) = true ∧
      outKind (deq (die0 [])) = (2, 0) ∧ outKind (deq (s.setDie 0 { s.die 0 with lqb := qva + 8 })) = (0, 0) ∧
      (State.reset.die 0).lqWritten = false := by decide +kernel
theorem all_ctxs (s : State) (p : Context → Bool) (h : s.ctxs.toList.all p = true) (c : CtxIx) : p (s.ctx c) = true :=
  List.all_eq_true.mp h _ (by simp [State.ctx])
theorem wit_dequeue_may : ∀ c, CtxIx.die c = 0 → ((die0 [recOf id]).ctx c).down = false := fun c _ => by
  simpa using all_ctxs _ (fun x => !x.down) (by decide +kernel) c

/-- A record that waits for the object at the window's physical stand-in `probePage + 0x100`, at PHASE 7. -/
def waitingOn (token : Nat) : State :=
  let s := die0 []
  let l : Launch := { supLaunch 0 0 s.mySc.satp with st := .waiting, dep := BitVec.ofNat 64 (probePage + 0x100), token := BitVec.ofNat 32 token }
  ({ s with launches := [l] } : State).putBar (.mem (probePage + 0x100)) ⟨7, 2, false, 0, 3, 0, 0⟩
theorem wit_dependences : let s := waitingOn 7
    s.launches.map Launch.st = [.waiting] ∧ s.launches.map (fun l => s.objLoc l.agent l.dep 32 .read) = [.ok (.mem (probePage + 0x100))] ∧
      (s.barAt (.mem (probePage + 0x100))).valid = true ∧ (s.barAt (.mem (probePage + 0x100))).phase = 7 ∧
      ((s.putBar (.mem (probePage + 0x100)) ⟨7, 5, false, 0, 3, 0, 0⟩).barAt (.mem (probePage + 0x100))).valid = false ∧
      ((waitingOn 6).launches.map Launch.token) = [6] ∧ ((waitingOn 8).launches.map Launch.token) = [8] ∧
      (({ supLaunch 0 0 s.mySc.satp with dep := win } : Launch).agent.core = none) ∧
      (s.objLoc (supLaunch 0 0 s.mySc.satp).agent win 32 .read).isOk = false := by decide +kernel

/-- Launches `ls` of die 0, which has started, with four save slots at its local region; cores above `n` have no power. -/
def ready (n : Nat) (ls : List Launch) (s : State) : State :=
  let s := { s with launches := ls, cores := s.cores.mapFinIdx fun k x _ => { x with powered := decide (k < n) } }
  s.setDie 0 { s.die 0 with lqWritten := true, dcsa := BitVec.ofNat 60 (probePage + 0x80000), dcsn := 4 }
/-- A ready launch of one task. -/
def one (prio : Nat) : Launch :=
  { supLaunch 0x4000 0 0 with st := .ready, next := 0, bound := [], pool0 := 20, pool1 := 20, pool2 := 20, prio := prio }
theorem wit_task_start : let l := one 0
    let s := ready 192 [l] State.reset
    let g : Launch := { one 0 with gang := true, count := 2, tpc := 2, pool0 := 40, pool1 := 40, pool2 := 40 }
    let u := ready 192 [g] State.reset
    l.die = 0 ∧ l.placing = true ∧ s.headOfClass 0 l = true ∧ l.dies = 1 ∧ s.heldBack l false [8] = false ∧ l.remote [8] = false ∧ s.placeOk 0 l l.next 8 = true ∧
      g.placing = true ∧ u.headOfClass 0 g = true ∧ u.heldBack g false [8, 9] = false ∧ g.remote [8, 9] = false ∧ (u.startNext 0 [8, 9]).2 = true ∧
      (u.startNext 0 [8, 16]).2 = false ∧ (ready 192 [{ l with dies := 2 }] State.reset).hasRight 0 = true := by decide +kernel
/-- A launch that has ended, with a signal object in memory. -/
theorem wit_task_end : let s := mapped [(probePage + 0x100, 1)] id
    let l : Launch := { supLaunch 0 0 s.mySc.satp with st := .running, next := 1, ended := [0], signal := BitVec.ofNat 64 (probePage + 0x100) }
    let u := busy .mdet id
    s.me.settled = true ∧ s.me.task = some ⟨0, 0⟩ ∧ (∀ e ∈ s.me.viq, e.task = none) ∧
      (∃ e ∈ (u.ctx 0).viq, e.task = some ⟨0, 0⟩) ∧ l.st = .running ∧ (l.count ≤ l.next ∧ l.count ≤ l.ended.length) ∧ l.failed = false ∧
      s.objLoc l.agent l.signal 8 .write = .ok (.mem (probePage + 0x100)) ∧ s.loadErr (.mem (probePage + 0x100)) 8 = false ∧
      ¬ (1 ≤ ({ l with ended := [] } : Launch).ended.length) := by decide +kernel
/-- Context 0 holds the only context with power that the split leaves, and a higher class waits. -/
def crowded (f : Scalar → Scalar) : State := ready 1 [{ one 0 with st := .running, next := 1 }, one 1] (st f)
theorem crowded_ctx (c : CtxIx) : (crowded id).ctx c = if c = 0 then (st id).ctx 0 else Context.reset := by
  have h : (crowded id).ctx c = (st id).ctx c := by unfold crowded ready; rw [State.setDie_ctx]; unfold State.ctx; rfl
  rw [h]
  split
  · next h => rw [h]
  · next h =>
    simp only [st, State.setCtx_ne _ _ _ _ h]
    simp [State.ctx, State.setCore, State.reset]
theorem crowded_placeOk (c : CtxIx) : (crowded id).placeOk 1 (one 1) 0 c = false := by
  by_cases hz : c = 0
  · subst hz; decide +kernel
  · unfold State.placeOk
    by_cases h8 : c.val % 8 = 0
    · have : ((crowded id).core (CtxIx.core c)).powered = false := by
        have hk : ¬ c.val / 8 < 1 := by
          intro h; apply hz; ext; simp; omega
        simp [crowded, ready, State.core, State.setDie, CtxIx.core]
        omega
      simp [State.splitFits, this]
    · have : decide (c.val % 8 < (one 1).pool0 / 20) = false := by simp [one, supLaunch]; omega
      simp [this]
theorem crowded_launches : (crowded id).launches = [{ one 0 with st := .running, next := 1 }, one 1] := by
  simp only [crowded, ready, State.setDie_launches]
theorem crowded_head : (crowded id).headOfClass 1 (one 1) = true := by
  unfold State.headOfClass State.firstOfClass State.classOf
  rw [crowded_launches]
  decide
theorem crowded_victims : (crowded id).victims 1 (one 1) true = [0] := by
  have h : (crowded id).victims 1 (one 1) true = (List.finRange 1536).filter fun c => decide (c = 0) := by
    unfold State.victims
    simp only [crowded_head]
    congr 1
    funext c
    by_cases hz : c = 0
    · subst hz; decide +kernel
    · simp only [crowded_ctx, if_neg hz]
      simp [Context.reset, hz]
  rw [h]; decide +kernel
theorem crowded_places (ok : CoreIx → Bool) : (crowded id).findPlaces 1 ok = none := by
  have h : (crowded id).launches[1]? = some (one 1) := by rw [crowded_launches]; rfl
  have hf : ((List.finRange 1536).find? fun c => ok (CtxIx.core c) && (crowded id).placeOk 1 (one 1) (one 1).next c) = none :=
    List.find?_eq_none.mpr fun c _ => by simp [show (one 1).next = 0 from rfl, crowded_placeOk]
  unfold State.findPlaces
  rw [h]
  simp only [hf]
  rfl
theorem crowded_gang : (crowded id).gangOf 0 = [0] := by decide +kernel
theorem crowded_fits0 (ok : CoreIx → Bool) : ((crowded id).without []).fitsOn 1 (one 1) true ok = false := by
  simp [State.without, State.fitsOn, crowded_places]
theorem crowded_fits1 : ((crowded id).without [0]).fitsOn 1 (one 1) true ((crowded id).openTo (one 1)) = true := by decide +kernel
/-- The victims of `chosen` that would help, where `c` is the only one and in a gang of its own. -/
def helping (s : State) (i : Nat) (l : Launch) (c : CtxIx) : List CtxIx :=
  s.ranked ([c].filter fun c => (s.gangOf c).any fun k => (s.without [c]).serves i l true (s.openTo l) (CtxIx.core k))
theorem crowded_helping : helping (crowded id) 1 (one 1) 0 = [0] := by decide +kernel
theorem crowded_slots : (crowded id).slotsFor [0] = true := by decide +kernel
/-- One victim in a gang of its own is chosen where it is needed, is enough and has a slot. -/
theorem chosen_one (s : State) (i : Nat) (l : Launch) (c : CtxIx) (hv : s.victims i l true = [c]) (hg : s.gangOf c = [c])
    (h0 : (s.without []).fitsOn i l true (s.openTo l) = false) (h1 : (s.without [c]).fitsOn i l true (s.openTo l) = true)
    (hr : helping s i l c = [c])
    (hs : s.slotsFor [c] = true) : s.chosen i l true = [c] := by
  have hf : [c].flatMap s.gangOf = [c] := by simp [hg]
  have hl : List.range 2 = [0, 1] := rfl
  unfold State.chosen
  rw [hv]
  dsimp only
  rw [hf, if_pos h1]
  unfold helping at hr
  erw [hr]
  simp [hl, List.find?, h0, h1, hg, hs]
theorem crowded_chosen : (crowded id).chosen 1 (one 1) true = [0] := by
  have h := chosen_one (crowded id) 1 (one 1) 0
  rw [crowded_victims, crowded_gang, crowded_fits0, crowded_fits1, crowded_slots] at h
  exact h rfl rfl rfl rfl crowded_helping rfl
theorem crowded_first : (crowded id).firstOfClass 1 (one 1) = true := by
  have h := crowded_head
  unfold State.headOfClass at h
  exact (Bool.and_eq_true_iff.mp h).1
theorem wit_preempt_for : ((crowded id).preemptFor 0).isSome = true := by
  unfold State.preemptFor
  rw [List.find?_isSome]
  refine ⟨(1, true, 0), ?_, by decide⟩
  unfold State.wants
  rw [List.mem_flatMap]
  refine ⟨(one 1, 1), ?_, ?_⟩
  · rw [crowded_launches]; exact .tail _ (.head _)
  · simp only [State.places, crowded_places, crowded_chosen, crowded_head, crowded_first]; decide
/-- No matrix unit has a weight image to switch to, and the contexts hold no entries. -/
theorem none_passed (s : State) (cs : List CtxIx) (hq : s.quads = State.reset.quads) (hv : ∀ k ∈ cs, (s.ctx k).viq = []) :
    NonePassed s cs := fun k hk => by
  refine ⟨by simp [hv k hk], fun q w h => ?_⟩
  have : (s.quad q).wnext = none := by unfold State.quad; simp [hq, State.reset, Quad.reset]
  rw [this] at h; cases h
/-- A context that has been asked to stop, in a gang of its own. -/
def asked (f : Scalar → Scalar) : State :=
  let s := crowded f
  s.setCtx 0 { s.ctx 0 with stopReq := .preempt }
theorem wit_preempt : let s := asked id
    (s.ctx 0).task = some ⟨0, 0⟩ ∧ (s.ctx 0).stopReq = .preempt ∧ s.gangOf 0 = [0] ∧ s.userLevel [0] = true ∧ s.slotsFor [0] = true ∧
      (([0] : List CtxIx).foldl State.completePassed s).userLevel [0] = true ∧ ((State.reset).ctx 0).stopReq ≠ .preempt ∧
      (asked sup).userLevel [0] = false ∧ (State.reset).slotsFor [0] = false ∧
      (s.die 0).dslice.toNat = 4194304 ∧ (s.core 0).cycle.toNat - (s.ctx 0).startedAt = 0 ∧
      (let u := s.setCore 0 { s.core 0 with cycle := 4194304 }
       (u.core 0).cycle.toNat - (u.ctx 0).startedAt = 4194304) := by decide +kernel
theorem wit_preempt_none_passed : NonePassed (asked id) [0] :=
  none_passed _ _ rfl (by decide +kernel)
theorem wit_resume : let v : Saved := ⟨0, 0, 0, #v[0, 0, 0, 0], [], Vector.replicate 4 FeedSlot.idle, [], [], 0, false⟩
    let l : Launch := { one 0 with st := .running, next := 1, saved := [v] }
    let s := ready 192 [l] State.reset
    (l.saved.find? fun v => s.resumeOk 0 l v 0) = some v ∧ s.heldBack l true [0] = false ∧ l.remote [0] = false ∧ s.lostRange ((s.die 0).slotBase 0) 0x58000 = false := by decide +kernel
theorem wit_tstop : let s := ready 192 [one 0] ((st (xs 1 0x800 2 ∘ sup)).setCtx 8 { (st id).ctx 8 with task := some ⟨0, 0⟩ })
    s.mySc.sup = true ∧ s.me.drained = true ∧ 2048 ≤ (s.mySc.rx 6).toNat ∧ (s.mySc.rx 5).toNat % 256 * 8 + (s.mySc.rx 5).toNat / 256 % 8 = 8 ∧
      (8 : CtxIx) ≠ s.cur ∧ (s.ctx 8).task = some ⟨0, 0⟩ ∧ (s.ctx 16).task = none ∧ s.gangOf 8 = [8] ∧ s.slotsFor [8] = true ∧
      s.userLevel [8] = true ∧ (st id).slotsFor [8] = false ∧
      (([8] : List CtxIx).foldl State.completePassed s).userLevel [8] = true ∧
      (s.setSc 8 { s.sc 8 with sup := true }).userLevel [8] = false := by decide +kernel
theorem wit_tstop_none_passed :
    NonePassed (ready 192 [one 0] ((st (xs 1 0x800 2 ∘ sup)).setCtx 8 { (st id).ctx 8 with task := some ⟨0, 0⟩ })) [8] :=
  none_passed _ _ rfl (by decide +kernel)

/-! ### Narrows -/

/-- `mapped`, and its next page maps the first page of `pa`'s region of home field 7. -/
def alsoMapped (pa : Nat) (ps : List (Nat × Nat)) (f : Scalar → Scalar) : State :=
  mapped ((probeTables + 0x20008, pa + 7 * 2 ^ 7 + 31) :: ps) f
/-- Port 0 is up towards peer 3 and its window 0 covers the first 64 KiB of its aperture. -/
def linked (f : Scalar → Scalar) : State :=
  let s := alsoMapped 0x80000000000 [(probePage + 0x100, 1)] f
  s.setPort 0 { s.port 0 with
    lanes := 3, npeer := 3, outW := (s.port 0).outW.set 0 (BitVec.ofNat 64 (2 ^ 63 + 16 * 2 ^ 40 + 3 * 2 ^ 49), 0x5000) }
/-- x5 the source, x6 the count, x8 the completion object, x9 the destination. -/
def sendRegs (n : Word64) (z : Scalar) : Scalar :=
  (((z.wx 5 (BitVec.ofNat 64 (probePage + 0x200))).wx 6 n).wx 8 (BitVec.ofNat 64 (probePage + 0x100))).wx 9 (BitVec.ofNat 64 (probePage + 0x10000))
def nsArgs (bar compl : Bool) : NsendArgs := ⟨9, 5, 6, .raw, false, false, bar, compl, false⟩
/-- What the plan of an NSEND is: its port and its completion. -/
def planOf (n : Word64) (o : NsendArgs) : Except Trap (Option PortIx × Completion) :=
  let s := linked (sendRegs n)
  ((issued s).nsendPlan (s.entryFor (.nsend o) Captured.none) o).map fun p => (p.win.map (·.1), p.compl)
theorem wit_nsend : (linked (sendRegs 4)).jobs = [] ∧ (((linked id).setPort 0 { (linked id).port 0 with
      egress := List.replicate 15361 ⟨0, 1, [], 0⟩ }).port 0).fits 1 = false ∧ (linked (sendRegs 4)).performsNow (.nsend (nsArgs false true)) = true ∧
    2 ^ 24 < ((linked (sendRegs 0x1000001)).mySc.rx 6).toNat ∧ planOf 4 (nsArgs false true) = .ok (some 0, .signal (Loc.mem (probePage + 0x100)).key) ∧
    planOf 4 (nsArgs true true) = .ok (some 0, .barrier (Loc.mem (probePage + 0x100)).key) ∧ planOf 0 (nsArgs false false) = .ok (none, .none) ∧
    planOf 0 (nsArgs true true) = .ok (none, .barrier (Loc.mem (probePage + 0x100)).key) ∧
    planOf 0 (nsArgs false true) = .ok (none, .signal (Loc.mem (probePage + 0x100)).key) ∧
    planOf 0x5000 (nsArgs false false) = .error ⟨.narrows, 0, BitVec.ofNat 64 (probePage + 0x10000)⟩ := by decide +kernel
/-- Transfers in flight with each completion. -/
def flying (c : Completion) (ntf : Option (Nat × Nat)) : Nsend := ⟨5, 0, ntf.isSome, .write, .raw, 0, 1, .s64, c, 8, ntf, 0, 0, none, none⟩
theorem wit_transfers : ∀ x ∈ [flying .none none, flying (.barrier 3) none, flying (.signal (Loc.win 0 0).key) none, flying .none (some ((Loc.win 0 0).key, 3))],
    let s := { obj 7 1 id with nsends := [x] }
    s.sent x = true ∧ s.sendsBefore x = false ∧ ({ s with nsends := [{ x with id := 4 }, x] } : State).sendsBefore x = true ∧
      s.nsends.find? (fun y => y.id == 5) = some x ∧ s.nsends.find? (fun y => y.id == 5 && y.port == x.port) = some x ∧
      (s.die x.die).dfqb = 0 := by decide +kernel
/-- Contributions to an area whose header is at the window's start: rank `r` of two. -/
def area (r : Nat) (c : List Contrib) : State := { vec [(8, r + 2 * 2 ^ 32)] id with contribs := c }
def contrib (ord : Bool) (tid : Nat) (d : List (Nat × EType × Nat × Option Nat)) : Contrib :=
  ⟨(Loc.win 0 0).key, d, .s64, ord, tid, 0, true, 0, 0, none, none, none, none, none⟩
theorem wit_contributions : let u := contrib false 0 [((Loc.win 0 16).key, .s64, 5, none)]
    (area 0 [u]).contribReady 0 = true ∧ ((area 0 [u]).areaHeader u.hdr).1 = 0 ∧ u.ntf = none ∧ u.inBo = none ∧
      (area 1 [contrib true 3 []]).contribReady 0 = true ∧ (area 0 [contrib true 3 []]).contribReady 0 = false ∧
      ((area 1 []).areaHeader u.hdr).2.2 = 2 ∧ u.hdr % 16 = 0 ∧
      -- of two that arrived on one link the second waits
      (let p := { u with peer := some (0, 3, 1) }
       (area 0 [p, p]).eligible 1 = false ∧ (area 0 [p, p]).contribReady 1 = false ∧ (area 0 [p, p]).contribReady 0 = true ∧ (area 0 [u, p]).contribReady 0 = true) := by
  decide +kernel
/-- A write of eight bytes from peer 3, with an inbound entry over the mapped page. -/
def inbound (bo : Word64) : State :=
  let s := mapped [] id
  let s := s.putBar (.mem (probePage + 0x100)) ⟨7, 3, false, 0, 3, 0, 0⟩
  s.setPort 0 { s.port 0 with
    nrsatp := s.mySc.satp, inW := (s.port 0).inW.set 0 ⟨BitVec.ofNat 64 probePage, 0x10000, bo, true⟩ }
def wrote (a : Nat) : Transfer := ⟨.write, .raw, .f32, 3, 1, BitVec.ofNat 64 a, 2, .f32, 0, [], [], List.replicate 8 1⟩
theorem wit_receive : let x := wrote (probePage + 0x200)
    let s := inbound 0
    let t := inbound (BitVec.ofNat 64 (probePage + 0x100))
    ((s.port 0).inbound x.remote.toNat x.data.length).isSome = true ∧
      s.span (s.portAgent 0) .write x.remote x.data.length = .ok [(.mem (probePage + 0x200), 8)] ∧
      ((t.port 0).inbound x.remote.toNat x.data.length).map InEntry.bo = some (BitVec.ofNat 64 (probePage + 0x100)) ∧
      t.countLoc (t.portAgent 0) (BitVec.ofNat 64 (probePage + 0x100)) = .ok (.mem (probePage + 0x100)) ∧
      t.span (t.portAgent 0) .write x.remote x.data.length = .ok [(.mem (probePage + 0x200), 8)] ∧
      (s.receive 0 x).isSome = true ∧
      (s.port 0).inbound (wrote (probePage + 0xFFFC)).remote.toNat (transferBytes (wrote (probePage + 0xFFFC))) = none ∧
      (s.die (s.portDie 0)).dfqb = 0 := by decide +kernel

/-- A reduce-add comes after a contribution that arrived before it and may be applied. -/
theorem wit_receive_add : let x : Transfer := { wrote (probePage + 0x200) with kind := .reduceAdd }
    let s := { inbound 0 with contribs := [{ contrib false 0 [] with peer := some (1, 3, 1) }] }
    s.contribReady 0 = true ∧ (s.inOrder x).contribs = [] ∧ ((s.inOrder x).receive 0 x).isSome = true ∧
      ((s.inOrder x).receive 0 { x with remote := 0 }).isSome = false := by decide +kernel

/-- A flit of number `seq` with a CRC that fits. -/
def flit (seq : Nat) : RxFlit := ⟨seq, 1, false, 0, crc32c ([1, 2] ++ leBytes 8 (seq + 2 ^ 24)), [1, 2]⟩
theorem wit_flits : let s := linked id
    let word := fun n : Nat => n % 2 ^ 24 + 1 % 4 * 2 ^ 24 + false.toNat * 2 ^ 26 + 0 % 2 ^ 24 * 2 ^ 32
    let late := s.setPort 0 { s.port 0 with expect := 2 ^ 23 }
    crc32c ((flit 1).payload ++ leBytes 8 (word 1)) = (flit 1).crc ∧ crc32c ((flit 1).payload ++ leBytes 8 (word 1)) ≠ 7 ∧
      ((s.port 0).expect + 2 ^ 24 - 1) % 2 ^ 24 = 0 ∧ ((s.port 0).expect + 2 ^ 24 - 2) % 2 ^ 24 = 2 ^ 24 - 1 ∧
      ((late.port 0).expect + 2 ^ 24 - 1) % 2 ^ 24 = 2 ^ 23 - 1 ∧ ((late.port 0).expect + 2 ^ 24 - 0) % 2 ^ 24 = 2 ^ 23 ∧
      (s.port 0).egress = [] ∧ (s.port 0).pausing = false ∧ (s.port 0).down = false ∧ (s.port 0).lanes ≠ 0 ∧ (State.reset.port 0).lanes = 0 ∧
      (∀ j ∈ s.jobs, j.port ≠ 0) ∧ ((s.setPort 0 { s.port 0 with egress := [⟨0, 1, [], 0⟩] }).port 0).egress = [⟨0, 1, [], 0⟩] ∧
      (s.port 0).replay.length < 4096 ∧ (s.port 0).credit[1] = true ∧
      ((s.setPort 0 { s.port 0 with credit := (s.port 0).credit.set 1 false }).port 0).credit[1] = false ∧
      -- lanes: fewer than four, and four
      min (s.port 0).laneCap 3 < 4 ∧ 4 ≤ min (s.port 0).laneCap 4 ∧ (s.port 0).failed < 2 ∧
      ((s.setPort 0 { s.port 0 with down := true, failed := 2 }).port 0).down = true := by decide +kernel
def note (o : BitVec 12) (c : BitVec 8) (seq : BitVec 32) : Notice := ⟨false, c, 5, o, seq⟩
theorem wit_notices : let k := { Skerry.reset with running := true, ceilings := [note 1 8 4] }
    let full := { k with ceilings := (List.range 64).map fun i => note (BitVec.ofNat 12 (i + 2)) 4 0 }
    let same := fun n e : Notice => e.tag == n.tag && e.origin == n.origin
    let newer := fun n : Notice => k.ceilings.any fun e => same n e && decide (n.seq.toNat < e.seq.toNat)
    k.running = true ∧ newer (note 1 8 3) = true ∧ newer (note 1 8 4) = false ∧
      (k.ceilings.filter fun e => !same (note 2 8 0) e).length < 64 ∧ 64 ≤ (full.ceilings.filter fun e => !same (note 1 8 0) e).length ∧
      (∀ e ∈ full.ceilings.filter fun e => !same (note 1 8 0) e, ceilingRead e.ceiling.toNat ≤ ceilingRead (note 1 8 0).ceiling.toNat) ∧
      -- a stricter notice displaces one of the highest
      (∀ m ∈ full.ceilings.filter fun e => !same (note 1 3 0) e, ceilingRead m.ceiling.toNat = 4 ∧
        ceilingRead (note 1 3 0).ceiling.toNat < ceilingRead m.ceiling.toNat) ∧
      ({ k with running := false } : Skerry).running = false := by decide +kernel

/-! ### The host port -/

/-- The host's page table is the mapped one, its window starts at the mapped page, and the driver has accepted generation
`g` and features `fs`. -/
def hosted (g : Option (Nat × Word64)) (f : State → State) : State :=
  let s := mapped [(probePage + 0x100, 1)] id
  f { s with host := { s.host with hcsatp := s.mySc.satp, winbase := BitVec.ofNat 64 probePage, accepted := g } }
def cmd (gen : Nat) (signal status a0 a1 a2 a3 : Word64) : Cmd := ⟨gen, false, 0, signal, status, a0, a1, a2, a3, 0⟩
def pg (n : Nat) : Word64 := BitVec.ofNat 64 (probePage + n)
theorem wit_host_window : let s := hosted none id
    s.hostReach (s.host.winbase.toNat + 8) 8 = true ∧ s.lostRange (s.host.winbase.toNat + 8) 8 = false ∧
      8 + 8 ≤ 2 ^ s.host.bar2 ∧ ¬ 2 ^ 30 - 4 + 8 ≤ 2 ^ s.host.bar2 ∧
      (let d := s.setDie 0 { s.die 0 with offline := [0, 1, 2, 3] }
       d.hostReach (s.host.winbase.toNat + 8) 8 = true ∧ d.lostRange (s.host.winbase.toNat + 8) 8 = true) ∧
      (hosted none fun s => { s with host := { s.host with winbase := 0xF000000000 } }).hostReach 0xF000000008 8 = false := by decide +kernel
/-- A queue alias of the block at `qva`, for pushes or pops, with `n` of 4 elements queued. -/
def aliased (pop : Bool) (n flags : Nat) : State :=
  let s := qst (qcb n (flags + 8)) id
  let s := { s with host := { s.host with hcsatp := s.mySc.satp } }
  { s with host := { s.host with queues := s.host.queues.set 0 ⟨qva, pop, false⟩ } }
theorem wit_queue_page : let s := aliased false 2 0
    let q := s.qcbAt qloc
    s.host.queues[0].pop = false ∧ s.blockLoc s.hostAgent qva = .ok qloc ∧ s.disturbed qloc = false ∧ q.bad = false ∧ q.broken = false ∧
      q.multi = true ∧ q.closed = false ∧ q.free = 2 ∧ q.count = 2 ∧ s.parkedOn qloc.key true = [] ∧ s.parkedOn qloc.key false = [] ∧
      (aliased true 2 0).host.queues[0].pop = true ∧ ((aliased false 2 1).qcbAt qloc).closed = true ∧
      (s.blockLoc s.hostAgent (qva + 8)).isOk = false := by decide +kernel
theorem wit_commands : let s := hosted (some (3, 7)) id
    let c := cmd 1 0 (pg 0x100) (pg 0x200) (pg 0x300) 16 0
    s.skerry.running = true ∧ (hosted none fun s => { s with skerry := { s.skerry with running := false } }).skerry.running = false ∧
      s.objLoc s.hostAgent (pg 0x100) 8 .write = .ok (.mem (probePage + 0x100)) ∧ (hosted none id).host.accepted = none ∧
      s.host.accepted = some (3, 7) ∧ (1 ≤ 3 ∧ c.gen ≤ 3) ∧ (cmd 4 0 0 0 0 0 0).gen = 4 ∧ (7 : Word64).getLsbD 0 = true ∧ (7 : Word64).getLsbD 1 = true ∧
      (7 : Word64).getLsbD 2 = true ∧
      s.span s.hostAgent .read c.a1 16 = .ok [(.mem (probePage + 0x300), 16)] ∧
      s.span s.hostAgent .write c.a0 16 = .ok [(.mem (probePage + 0x200), 16)] ∧
      s.span s.hostAgent .write (pg 0x1000) 8192 = .ok [(.mem (probePage + 0x1000), 8192)] ∧ (pg 0x1000).toNat % 64 = 0 ∧
      (pg 0x1008).toNat % 64 ≠ 0 ∧ s.span s.hostAgent .write (pg 0xFFFF) 2 = .error ⟨.xlateMiss, 0, pg 0x10000⟩ ∧
      s.skerry.offers.length ≤ 128 ∧
      (let t := { s with host := { s.host with started := [(0, .copy, c)] } }
       (∃ p ∈ t.host.started, p.2 = (CmdOp.copy, c)) ∧ (∀ p ∈ t.host.started, p.2 ≠ (CmdOp.fill, c)) ∧ t.host.started ≠ []) ∧
      s.inFlight 0x40000000000 0x10000000 = false ∧
      ({ s with counts := [⟨0x40000000000, 8, 0, 0, 0, none, none⟩] } : State).inFlight 0x40000000000 0x10000000 = true := by
  decide +kernel
/-- An alias of a queue of commands, which holds `recs`. -/
def commanded (recs : List Nat) : State :=
  let s := qst ({ qcb recs.length 8 with size := 6 } : Qcb).sealed id
  let m := (recs.zipIdx).foldl (fun m p => m.putLe (probePage + 0x800 + 64 * p.2) 64 p.1) s.mem
  { s with mem := m, host := { s.host with hcsatp := s.mySc.satp, queues := s.host.queues.set 0 ⟨qva, false, false⟩ } }
theorem wit_commands_start : let c := 0x11 + 2 ^ 16
    let u := commanded [c]
    u.skerry.running = true ∧ u.skerry.powered = true ∧ u.host.resetPend = false ∧ (commanded [c]).cur = 0 ∧
      (match u.qOp ⟨u.hostAgent, none⟩ u.host.queues[0].qcb ⟨false, 1, false, .raw (List.replicate 64 0), none⟩ with
        | .grant _ 1 [e] => leNat e == c
        | _ => false) = true ∧
      cmdOpOf (c % 2 ^ 16) = some .fill ∧ cmdOpOf 0x12 = none ∧ (cmdOf c).fence = false ∧ (cmdOf (c + 2 ^ 24)).fence = true ∧
      (∃ p ∈ ({ u.host with started := [(0, .copy, cmdOf 0)] } : HostPage).started, p.1 = 0) := by decide +kernel
/-- An offer of 256 MiB on CXL link 0, or that capacity added at the first fabric address. -/
theorem wit_extents : let o : Offer := ⟨0, 0x1000, 0x10000000, 0⟩
    let s := hosted (some (3, 7)) fun s => { s with skerry := { s.skerry with offers := [o] } }
    let t := hosted (some (3, 7)) fun s => { s with skerry := { s.skerry with extents := [⟨0, 0x1000, 0x40000000000, 0x10000000⟩] } }
    let c := cmd 2 0 0 0 0x1000 0x10000000 0x40000000000
    let hit := fun o : Offer => o.port == c.a0.toNat && o.dpa == c.a1.toNat && o.len == c.a2.toNat
    let gone := fun e : Extent => e.pa == 0x40000000000 && e.len == 0x10000000
    c.a0.toNat ≤ 1 ∧ c.a3.toNat % 2 ^ 28 = 0 ∧ c.a2.toNat % 2 ^ 28 = 0 ∧ 0x40000000000 ≤ c.a3.toNat ∧ c.a3.toNat + c.a2.toNat ≤ 0x80000000000 ∧
      (∀ e ∈ s.skerry.extents, c.a3.toNat + c.a2.toNat ≤ e.pa ∨ e.pa + e.len ≤ c.a3.toNat) ∧
      (s.skerry.extents.filter fun e => e.port == 0).length < 64 ∧ s.skerry.offers.any hit = true ∧
      (hosted (some (3, 7)) id).skerry.offers.any hit = false ∧ t.skerry.extents.any gone = true ∧ s.skerry.extents.any gone = false ∧
      -- PACE lists: a place, and ports that are up or down
      (∃ i : Fin 16, s.host.pace[i.val].2.2 = false) ∧ (∃ p : PortIx, (1 : Nat).testBit p.val = true ∧ (s.port p).lanes = 0) ∧
      (∀ p : PortIx, (1 : Nat).testBit p.val = true → ((linked id).port p).down = false ∧ ((linked id).port p).lanes ≠ 0) := by decide +kernel
/-- Message bindings: armed on a signal object, a queue and a barrier object, whose conditions hold or not. -/
theorem wit_messages : let sig := fun n : Nat => (hosted none fun s => { s with mem := s.mem.putLe (probePage + 0x100) 8 n })
    let m : MsixBind := ⟨pg 0x100, 1, 5, true, 0, false⟩
    let s := sig 0
    s.objLoc s.hostAgent m.obj 8 .read = .ok (.mem (probePage + 0x100)) ∧ s.msixHolds m = true ∧ (sig 1).msixHolds m = false ∧
      (aliased true 2 0).msixHolds ⟨qva, 2, 5, true, 0, false⟩ = true ∧ (aliased true 0 0).msixHolds ⟨qva, 2, 5, true, 0, false⟩ = false ∧
      ({ s with host := { s.host with msix := s.host.msix.set 3 m } } : State).host.msix[3].armed = true ∧ m.due = false ∧
      ({ m with due := true } : MsixBind).due = true ∧
      (s.skerry.offers.filter fun x => x.port == 0).length < 64 := by decide +kernel

/-! ### Devices, power and failures -/

theorem wit_devices : let s := alsoMapped 0xF000000000 [] (xs (pg 0x10000) 0 0)
    let l := fun k => s.scalarLoc s.scalarAgent (s.mySc.rx 5 + BitVec.ofInt 64 (0 : BitVec 12).toInt) 8 k
    s.isDevice (.mem 0xF000000000) = true ∧ l .read = .ok (.mem 0xF000000000) ∧ l .write = .ok (.mem 0xF000000000) ∧ s.intervalReady = true ∧
      s.me.drained = true ∧ s.me.settled = true ∧ ({ s with choices := { s.choices with fill := false } } : State).choices.fill = false ∧
      s.scalarLoc s.scalarAgent (s.mySc.rx 5) 8 .read = .ok (.mem 0xF000000000) ∧
      s.scalarLoc s.scalarAgent (s.mySc.rx 5) 8 .write = .ok (.mem 0xF000000000) ∧ State.reset.host.started = [] ∧
      DevAfter (devReg 0xF000000000) (s.devRead (devReg 0xF000000000)).1 5 = some 5 ∧ 0xF000000000 % 8 = 0 := by decide +kernel
theorem wit_governor : let rd := fun c b : Nat => QuadReading.mk (Vector.replicate 4 ⟨c, b⟩)
    let r : List QuadReading := rd (106 * 16) (106 * 16) :: List.replicate 47 (rd (90 * 16) (75 * 16))
    r.length = 48 ∧ (st id).skerry.powered = true ∧ ({ Skerry.reset with powered := false } : Skerry).powered = false ∧
      ((st id).ctx 0).task.isSome = true ∧ (r[(CtxIx.quad 0).val]?).map QuadReading.tq = some (106 * 16) ∧
      (rd (90 * 16) (75 * 16)).gq = 240 ∧ coolFor 99 1600 1680 1600 = 100 ∧ coolFor 100 1600 1680 1680 = 100 ∧
      coolFor 99 1600 1680 1601 = 0 ∧ coolFor 100 1600 1680 1681 = 0 ∧ (100 ≤ ((st id).quad 0).coolT ∧ 100 ≤ ((st id).quad 0).coolG) := by decide +kernel
theorem wit_failures : let s := st id
    let x : Retire := ⟨0, [3], [], 5, true⟩
    let t := { s with retire := [x] }
    (s.die 0).offline.contains 0 = false ∧ s.skerry.parity = true ∧ ({ s.skerry with parity := false } : Skerry).parity = false ∧
      (let e := { s with dirty := [(probePage, 3)] }
       (probePage, (3 : Byte)) ∈ e.dirty ∧ (∀ x ∈ e.dirty, x.1 = probePage → x.2 = 3) ∧ inHolm probePage = false) ∧ s.stackRetired 0 = false ∧ t.stackRetired 0 = true ∧
      (s.setDie 0 { s.die 0 with offline := [0] } |>.die 0).offline.contains 0 = true ∧
      t.retire.find? (fun y => y.region == (0 : Fin 5).val) = some x ∧ x.boundary + 1 < s.skerry.regionLines 0 ∧
      s.skerry.regionLines 0 ≤ s.skerry.regionLines 0 - 1 + 1 ∧ (s.die (s.sliceDie 0x10000000000)).dfqb = 0 := by decide +kernel

/-- A commit record with the CRC of its fields. -/
def recorded (k : Nat) : HolmSlot :=
  let h : HolmSlot := { HolmSlot.empty with seq := 4, state := k, snap := some Regs.reset, task := some ⟨0, 0⟩, pc := 0x88 }
  { h with crc := h.sum }
theorem recorded_valid (k : Nat) (h : k = 2 ∨ k = 3) : (recorded k).valid = true := by
  rcases h with rfl | rfl <;> simp [recorded, HolmSlot.valid, HolmSlot.closed, HolmSlot.sum]
theorem winner_of (x : Context) (t : TaskRef) (h : HolmSlot) (ha : x.holmA = h) (hv : h.valid = true) (ht : h.task = some t)
    (hb : x.holmB.valid = false) : x.winner t = some (h, x.holmB.broken) := by
  subst ha
  simp [Context.winner, hv, ht, hb]
/-- A context stopped at PFENCE.CORE with a record of its task in slot A, or in neither slot; with power or without. -/
def atFence (rec' : Nat) (f : Scalar → Scalar) : State :=
  let s := mapped [(probePage, 0xD4000000)] f
  s.setCtx 0 { s.ctx 0 with holmA := recorded rec' }
/-- The same after the core lost power. -/
def lostCore (rec' : Nat) : State :=
  let s := atFence rec' id
  let s := (s.setCtx 0 { s.ctx 0 with down := true }).setCore 0 { s.core 0 with powered := false }
  s.setDie 0 { s.die 0 with lqWritten := true }
theorem lost_holmA (k : Nat) : ((lostCore k).ctx 0).holmA = recorded k := by simp [lostCore, atFence]
theorem lost_holmB (k : Nat) : ((lostCore k).ctx 0).holmB = HolmSlot.empty := by
  have h : ((mapped [(probePage, 0xD4000000)] id).ctx 0).holmB = ((st id).ctx 0).holmB := rfl
  have r : (State.reset.ctx 0).holmB = HolmSlot.empty := by simp [State.ctx, State.reset, Context.reset]
  simp [lostCore, atFence, h, st, r]
/-- A record that alone is valid, beside an empty slot and beside an open one. -/
theorem wit_winner : ∀ k ∈ [2, 3], ((lostCore k).ctx 0).winner ⟨0, 0⟩ = some (recorded k, false) ∧
    ({ (lostCore k).ctx 0 with holmB := { HolmSlot.empty with state := 1 } } : Context).winner ⟨0, 0⟩ = some (recorded k, true) := by
  intro k hk
  have hv := recorded_valid k (by simpa using hk)
  refine ⟨?_, winner_of _ _ _ (lost_holmA k) hv rfl rfl⟩
  have h := winner_of _ ⟨0, 0⟩ _ (lost_holmA k) hv rfl (by rw [lost_holmB]; rfl)
  rw [h, lost_holmB]; rfl
/-- A context parked on a queue whose block die 0 homes, and one that is not. -/
theorem wit_parked_at_home : let w : QWait := ⟨(Loc.mem 0x10000000000).key, true, 9, 1⟩
    homeOf 0 w.qcb = true ∧ ∀ x ∈ [w], x.ctx ≠ 8 := by decide +kernel
theorem wit_power_loss : let s := atFence 2 id
    (s.core 0).powered = true ∧ (s.ctx 0).task.isSome = true ∧ s.atPfenceCore 0 = true ∧ (0 : CtxIx) ∈ [(0 : CtxIx)] ∧
      (st id).atPfenceCore 0 = false ∧ (s.core 1).powered = true ∧ 1840 ≤ 1840 := by decide +kernel
theorem wit_power_returns : ∀ k ∈ [2, 3], let s := lostCore k
    (s.die 0).lqWritten = true ∧ (s.core 0).powered = false ∧ CtxIx.core 0 = 0 ∧ (s.ctx 0).down = true ∧ (s.ctx 0).task = some ⟨0, 0⟩ ∧
      s.gangTask 0 = none ∧ s.skerry.powered = true ∧ ({ s.skerry with powered := false } : Skerry).powered = false := by decide +kernel
/-- A planned stop of core 0, whose one task is at user level and in no gang; one that waits; and one without slots. -/
theorem wit_planned_stop : let cs := fun s : State => (((coreCtxs 0).filter fun c => (s.ctx c).task.isSome).map s.gangOf).flatten.dedup
    let s := crowded id
    (s.core 0).powered = true ∧ cs s = [0] ∧ s.slotsFor [0] = true ∧ s.userLevel [0] = true ∧ cs (crowded sup) = [0] ∧
      (crowded sup).slotsFor [0] = true ∧ (crowded sup).userLevel [0] = false ∧
      (let t := s.setDie 0 { s.die 0 with dcsn := 0 }
       cs t = [0] ∧ t.slotsFor [0] = false) ∧ ((s.setCore 0 { s.core 0 with floorHold := true }).core 0).floorHold = true := by
  decide +kernel
theorem wit_planned_stop_none_passed : NonePassed (crowded id) [0] := none_passed _ _ rfl (by decide +kernel)
/-- Starts without a supervisor; with one, wherever its signatures verify: what they verify is open (log entry 6). -/
theorem wit_start : chooseCopy Skerry.reset 2 [] [] = none ∧ State.reset.skerry.booted = false ∧
    (let s := { State.reset with skerry := { Skerry.reset with booted := true } }
     s.skerry.booted = true ∧ s.skerry.powered = true) ∧
    (∃ k : Fin 16, k ∉ ([3, 4] : List (Fin 16))) ∧
    ∀ i : Signed, i.supOk = true → Skerry.reset.minVer.getD 1 0 ≤ i.version → i.hashOk = true → i.signedOk = true →
      chooseCopy Skerry.reset 2 i.bytes [] = some i := by
  refine ⟨by decide +kernel, by decide +kernel, by decide +kernel, ⟨0, by decide⟩, fun i h1 h2 h3 h4 => ?_⟩
  have h : admitted Skerry.reset 2 ⟨i.bytes⟩ = true := by
    unfold admitted
    rw [if_neg (by decide)]
    simp only [show (⟨i.bytes⟩ : Signed).hashOk = true from h3, show (⟨i.bytes⟩ : Signed).signedOk = true from h4,
      show (⟨i.bytes⟩ : Signed).supOk = true from h1, Bool.true_and]
    exact decide_eq_true h2
  simp [chooseCopy, h]

/-! ### Steps -/

/-- What a fetch gives: the word, or its trap. -/
def fetched (s : State) : Except Trap Nat := s.fetchWord.map Prod.fst
theorem wit_steps : let s := { mapped [(probePage, 0x50000000)] id with agenda := [.issue 0] }
    let u := ({ s with agenda := [] } : State).fetching 0
    let z := { mapped [] id with agenda := [.issue 0] }
    ({ s with agenda := [] } : State).awake 0 = true ∧ ({ State.reset with agenda := [] } : State).awake 0 = false ∧
      u.canIssue .syscall = true ∧ u.me.badRegs = [] ∧
      (let b := { busy .mdet id with choices := { (busy .mdet id).choices with lanesHeld := true } }
       (b.setMe { b.me with viq := List.replicate 32 (ent .mdet b.mySc) }).canIssue .mdet = false) ∧ fetched u = .ok 0x50000000 ∧ decodeS 0x50000000 = .ok .syscall ∧
      fetched (({ z with agenda := [] } : State).fetching 0) = .ok 0 ∧ decodeS 0 = .error .illegal ∧
      fetched (({ st id with agenda := [] } : State).fetching 0) = .error ⟨.xlateMiss, 0, 0⟩ ∧
      -- without power, and a word that faults whatever its registers hold
      s.skerry.powered = true ∧ ({ s.skerry with powered := false } : Skerry).powered = false ∧ u.faultsBare (.tstop ⟨1, 2⟩) = true ∧
      u.mySc.pc.toNat % 4 = 0 ∧ u.me.icache = [] ∧ isEvent .watchdogReset = true := by decide +kernel
theorem wit_lanes_step : let b := blkOf fun b => { b with words := [0x0100000000000000], pos := 0 }
    let s := (st id).setMe { (st id).me with block := some b }
    let v := (st id).setMe { (st id).me with viq := [ent .mdet (st id).mySc] }
    s.me.block = some b ∧ b.words[b.pos]? = some 0x0100000000000000 ∧ decodeE 0x0100000000000000 = .ok .stop ∧
      s.wordBad b .stop = [] ∧ s.skerry.powered = true ∧ (∀ e ∈ s.me.viq, e.passed = none) ∧
      (v.ctx 0).block = none ∧ (v.ctx 0).parked = none ∧ (v.ctx 0).entryParked = false ∧ (∃ d, ({ v.ctx 0 with parked := some (.xpop d) } : Context).parked = some (.xpop 5)) ∧ (v.ctx 0).viq.map Entry.instr = [.mdet] ∧ (perfOf .mdet).isSome = true ∧
      (st id).me.block = none := by decide +kernel
/-- A word that needs a VIQ entry while the queues are full and the oldest entry waits to push; and one that does not. -/
theorem wit_deadlocked : let w := ((encode .mdet).map Prod.snd).getD 0
    let s := mapped [(probePage, w)] fun z => { z with vsq := List.replicate 16 1 }
    let s := s.setMe { s.me with
      viq := List.replicate 31 (ent .mdet s.mySc), block := some (blkOf fun b => { b with pushes := [5] }) }
    let u := s.fetching 0
    s.awake 0 = true ∧ fetched u = .ok w ∧ decodeS w = .ok .mdet ∧ (u.fetchWord.map fun p => p.2.deadlocked .mdet) = .ok true ∧
      (st id).deadlocked .mdet = false := by decide +kernel
/-- An entry of a task that has ended, with what it works on, and one that has passed its fault point while the context is parked. -/
theorem wit_lanes_past : let x := (passing .mdet id).me
    let e : Entry := { ent .mdet x.regs.sc with task := some ⟨0, 7⟩, past := some ⟨x.regs, []⟩ }
    e.task ≠ x.task ∧ (∃ y ∈ x.viq, y.passed ≠ none) ∧ ({ x with parked := some (.sigwait 5) } : Context).parked ≠ none := by decide +kernel
/-- A ready context that has issued within 12 cycles, and one that has not; entries of which one has passed its fault point. -/
theorem wit_selector : let s := { mapped [(probePage, 0x50000000)] id with agenda := [] }
    let late := s.setCtx 0 { s.ctx 0 with waited := 12 }
    let x := (busy .mdet id).me
    (s.core 0).powered = true ∧ s.slots2 0 [] = [0] ∧ s.slots2 0 [0] = [] ∧ s.ready 0 = true ∧ (s.ctx 0).waited < 12 ∧ late.ready 0 = true ∧ 12 ≤ (late.ctx 0).waited ∧ s.ready 1 = false ∧
      (∃ y ∈ ({ x with viq := [{ ent .mdet x.regs.sc with passed := some ⟨[], Memory.empty, [], State.reset.ports⟩ }] } : Context).viq, y.passed ≠ none) := by decide +kernel
/-- An instruction that raises the level, and a store that stays in its context. -/
theorem wit_keep_place : (st id).mySc.sup = false ∧ (st id).qwaits = [] ∧ isEvent .syscall = false ∧
    (match exec .syscall (st id) with | .next t => t.mySc.sup | _ => false) = true := by decide +kernel

/-! ### One step each: expected values by hand from the rule named -/

/-- The state after an instruction. -/
def run (i : Instr) (s : State) : State :=
  match exec i s with
  | .next t => t
  | _ => State.reset

/-- R136: 0 − 1 wraps. -/
theorem test_sub_wraps : (run (.sub ⟨4, 5, 6⟩) (st (xs 0 1 0))).mySc.rx 4 = 0xFFFFFFFFFFFFFFFF := by decide +kernel
/-- R136: the high half of (−1) × (−1) and of (2^64 − 1)². -/
theorem test_mulh_signs : (run (.mulh ⟨4, 5, 6⟩) (st (xs (-1) (-1) 0))).mySc.rx 4 = 0 ∧
    (run (.mulhn ⟨4, 5, 6⟩) (st (xs (-1) (-1) 0))).mySc.rx 4 = -2 := by decide +kernel
/-- R95: −2^63 / −1 wraps without a flag; −7 rem 2 is −1; a zero divisor gives −1 and DZ (bit 1). -/
theorem test_div_corners : (run (.div ⟨4, 5, 6⟩) (st (xs 0x8000000000000000 (-1) 0))).mySc.rx 4 = 0x8000000000000000 ∧
    (run (.rem ⟨4, 5, 6⟩) (st (xs (-7) 2 0))).mySc.rx 4 = -1 ∧
    (let t := run (.div ⟨4, 5, 6⟩) (st (xs 9 0 0)); t.mySc.rx 4 = -1 ∧ t.mySc.fflags = 2) := by decide +kernel
/-- R136: a shift counts xb mod 64. -/
theorem test_sra_counts_mod_64 : (run (.sra ⟨5, 5, 6⟩) (st (xs (-8) 65 0))).mySc.rx 5 = -4 := by decide +kernel
/-- R137: SHORI shifts sixteen bits in; LIH starts from zero. -/
theorem test_shori : (run (.shori ⟨5, 5, 0xBEEF⟩) (st (xs 0xDEAD 0 0))).mySc.rx 5 = 0xDEADBEEF ∧
    (run (.lih 5 0x8000) (st (xs (-1) 0 0))).mySc.rx 5 = 0x8000 := by decide +kernel
/-- R142: a branch back by one word, and not taken; JAL links the next word. -/
theorem test_branches : let s := st fun z => { xs (-1) 1 0 z with pc := 0x100 }
    (run (.blt ⟨5, 6, 0xFFFF⟩) s).mySc.pc = 0xFC ∧ (run (.bltn ⟨5, 6, 0xFFFF⟩) s).mySc.pc = 0x104 ∧
    (let t := run (.jal 1 8) s; t.mySc.pc = 0x120 ∧ t.mySc.rx 1 = 0x104) := by decide +kernel
/-- R139: LD.B extends the sign, LD.BN does not; ST.H stores two bytes, the low one first. -/
theorem test_load_store : let s := vec [(0, 0x80)] (xs win 0x1234 0)
    (run (.ld 4 5 0 .b) s).mySc.rx 4 = 0xFFFFFFFFFFFFFF80 ∧ (run (.ld 4 5 0 .bn) s).mySc.rx 4 = 0x80 ∧
    (run (.st 6 5 2 .h) s).loadLe (.win 0 0) 8 = 0x12340080 := by decide +kernel
/-- R141: AMO.MIN.W compares signed words and returns the old one extended; CAS fails without a write. -/
theorem test_atomics : let s := vec [(0, 0xFFFFFFFE)] (xs win 5 0)
    (let t := run (.amo ⟨4, 5, 6, .die, .none, false, .min⟩) s; t.mySc.rx 4 = -2 ∧ t.loadLe (.win 0 0) 8 = 0xFFFFFFFE) ∧
    (let t := run (.amo ⟨4, 5, 6, .die, .none, false, .minn⟩) s; t.mySc.rx 4 = -2 ∧ t.loadLe (.win 0 0) 8 = 5) ∧
    (let t := run (.cas ⟨7, 5, 6, .die, .none, true⟩) s; t.mySc.rx 7 = 0xFFFFFFFE ∧ t.loadLe (.win 0 0) 8 = 0xFFFFFFFE) := by decide +kernel
/-- Table 5-6: THETA above 0x8000 is stored as 0x8000; WLIM 0 as 1; a write of VL, which is RO, is ILLEGAL (1). -/
theorem test_csr : (run (.csrw 5 0x008) (st (xs 0xFFFF 0 0))).mySc.theta = 0x8000 ∧ (run (.csrw 6 0x009) (st (xs 1 0 0))).mySc.wlim = 1 ∧ (run (.csrw 7 0x009) (st (xs 1 0 5000))).mySc.wlim = 4096 ∧
    (run (.csrw 5 0x000) (st (xs 1 0 0))).mySc.scause = 1 := by decide +kernel
/-- R313: SYSCALL at user level, with an unaligned STVEC, and the return from it. -/
theorem test_syscall_and_return : let s := st fun z => { z with pc := 0x40, stvec := 0x1003 }
    let t := run .syscall s
    let u := run .sret t
    t.mySc.pc = 0x1000 ∧ t.mySc.sepc = 0x40 ∧ t.mySc.scause = 0x1B ∧ t.mySc.sup = true ∧ t.mySc.sstatus = 0 ∧
      u.mySc.pc = 0x40 ∧ u.mySc.sup = false ∧ u.mySc.sstatus = 2 := by decide +kernel
/-- R138: 1.5 + 2.25 in F32; 1 / 0 sets DZ and gives infinity; an ordered compare with a NaN is false with NV. -/
theorem test_scalar_float : let s := st (xs 0x3FC00000 0x40100000 0)
    (run (.fadd ⟨4, 5, 6, .f32, .rne⟩) s).mySc.rx 4 = 0x40700000 ∧
    (let t := run (.fdiv ⟨4, 5, 7, .f32, .rne⟩) s; t.mySc.rx 4 = 0x7F800000 ∧ t.mySc.fflags = 2) ∧
    (let t := run (.fcmp ⟨4, 5, 6⟩ .f32 .lt) (st (xs 0x7FC00000 0 0)); t.mySc.rx 4 = 0 ∧ t.mySc.fflags = 1) := by decide +kernel
/-- R50: XPOP takes the oldest entry. -/
theorem test_xpop : let t := run (.xpop 4) (st fun z => { z with vsq := [7, 8] })
    t.mySc.rx 4 = 7 ∧ t.mySc.vsq = [8] := by decide +kernel
/-- R163: 300 elements asked for at 64 bits: 128 granted, one register of 8,192 bits. -/
theorem test_vsetl : let t := run (.vsetl ⟨4, 5⟩ 0x7E5) (st (xs 300 0 0))
    t.mySc.vl = 128 ∧ t.mySc.rx 4 = 128 := by decide +kernel
/-- R160: a strided load and an indexed store; an inactive element stays under MP = 0. -/
theorem test_vector_memory : let s := vec [(0, 11), (16, 22), (32, 33)] (xs win 16 0)
    (let t := run (.vlds ⟨2, 5, none, .vt⟩ 6) s; (List.range 3).map (fun k => elem (t.vreg 2) k 64) = [11, 22, 33]) ∧
    (let t := run (.vstx ⟨2, 5, none, false, .vt⟩ 3 false) s; (List.range 3).map (fun k => t.loadLe (.win 0 (8 * k)) 8) = [7, 8, 9]) := by
  decide +kernel
/-- R173: VAMO.ADD.D returns the old values and adds 7, 8 and 9. -/
theorem test_vamo : let s := vec [(0, 1), (8, 2), (16, 3)] (xs win 0 0)
    let t := run (.vamo ⟨2, 5, none, .add, .none, .core, true⟩) s
    (List.range 3).map (fun k => elem (t.vreg 2) k 64) = [1, 2, 3] ∧ (List.range 3).map (fun k => t.loadLe (.win 0 (8 * k)) 8) = [8, 10, 12] := by
  decide +kernel
/-- R181: a frame of 9 bytes takes 32 of the stack. -/
theorem test_apush : let t := run (.apush 5 6 3) (vec [(0x100, 0x41)] (astk 0 64 ∘ xs (win + 0x100) 9 0))
    t.mySc.asp = win + 32 ∧ t.loadLe (.win 0 0) 8 = 0x41 ∧ t.loadLe (.win 0 16) 4 = 9 ∧ t.loadLe (.win 0 20) 1 = 3 := by decide +kernel
/-- R286: an element goes in at the tail and comes out at the head. -/
theorem test_queue : let s := qst (qcb 0 0) (xs qva 0x55 0)
    let t := run (.qenqX ⟨4, 5, 6, .die, true⟩) s
    let u := run (.qdeqX ⟨7, 5, 6, .die, true⟩) t
    t.mySc.rx 4 = 1 ∧ (t.qcbAt qloc).count = 1 ∧ u.mySc.rx 7 = 0x55 ∧ (u.qcbAt qloc).free = 4 ∧ (u.qcbAt qloc).bad = false := by
  decide +kernel
/-- R296: two bytes have arrived and one more completes the phase of three, with nothing carried; R301: SIGDEC by 1. -/
theorem test_objects : let t := run (.barr 5 6) (obj 7 1 (xs win 1 0))
    (t.barAt (.win 0 0)).phase = 8 ∧ (t.barAt (.win 0 0)).arrived = 0 ∧
    (run (.sigdec 7 6) (obj 7 1 (sup ∘ xs win 1 (win + 64)))).loadLe (.win 0 64) 8 = 0 := by decide +kernel
/-- R155, R49: TEXIT frees its context. -/
theorem test_texit : (run .texit (st id)).me.task = none := by decide +kernel

/-- The block of `inB` after a word. -/
def after (i : Instr) (f : Block → Block) : Block :=
  match exec i (inB f) with
  | .next t => (t.me.block).getD (blkOf id)
  | _ => blkOf id
/-- Element `k` of v9 there. -/
def v9 (b : Block) (w k : Nat) : Nat := elem (b.v (inB id) 9) k w
/-- The two sources of the block tests: v5 and v6 as shadows, 32-bit elements. -/
def src32 (x y : List Nat) (b : Block) : Block :=
  let p := fun l : List Nat => BitVec.ofNat 8192 ((l.zipIdx).foldl (fun n p => n + p.1 * 2 ^ (32 * p.2)) 0)
  { b with shV := (5, p x) :: (6, p y) :: b.shV }
def ve (t : EType) : VE2 := ⟨9, ⟨5, false⟩, ⟨6, false⟩, none, t⟩
/-- R197: a wrapping and a saturating sum of words, with SAT (bit 5). -/
theorem test_block_sums : let f := src32 [0x7FFFFFFF, 5, 6] [1, 1, 1]
    (let b := after (.vadd (ve .s32)) f; (List.range 3).map (v9 b 32) = [0x80000000, 6, 7] ∧ b.flags = 0) ∧
    (let b := after (.vsadd (ve .s32)) f; (List.range 3).map (v9 b 32) = [0x7FFFFFFF, 6, 7] ∧ b.flags = 0x20) := by decide +kernel
/-- R196: 1 + 2 and 3 × 2 in F32. -/
theorem test_block_floats : let f := src32 [0x3F800000, 0x40400000, 0] [0x40000000, 0x40000000, 0]
    let o : VE2r := ⟨9, ⟨5, false⟩, ⟨6, false⟩, none, .f32, .rne⟩
    v9 (after (.vfadd o) f) 32 0 = 0x40400000 ∧ v9 (after (.vfmul o) f) 32 1 = 0x40C00000 := by decide +kernel
/-- R199: a signed compare; R208: a sum pushed with its sign. -/
theorem test_block_compare_and_sum : let f := src32 [0xFFFFFFFF, 1, 0xFFFFFFF0] [0, 0, 0]
    ((after (.vcmp ⟨0, ⟨5, false⟩, ⟨6, false⟩, none, .s32, .lt⟩) f).m (inB id) 8).toNat % 8 = 5 ∧
    (after (.vredsum ⟨none, ⟨5, false⟩, none, .s32, none⟩) f).pushes = [-16] := by decide +kernel
/-- R216: half of a half; R223: the mean of 1 and 3 under equal weights is 2. -/
theorem test_block_weights :
    let ws := fun (b : Block) => { b with
      shW := [(2, 0), (0, BitVec.ofNat 8192 0x4000), (1, BitVec.ofNat 8192 0x4000)], entry := { b.entry with chk := { b.entry.chk with theta := 0 } } }
    elem ((after (.wmul none 2 0 1) ws).w (inB id) 2) 0 16 = 0x2000 ∧
    v9 (after (.wjoin ⟨9, ⟨5, false⟩, none, .f32, .rne, ⟨0, 0, 1, 0, 0⟩⟩) (src32 [0x3F800000] [0x40400000] ∘ ws)) 32 0 = 0x40000000 := by decide +kernel
/-- R189: STOP commits the shadows and the pushes, and clears VSTART. -/
theorem test_stop :
    let s := inB fun b => { b with pushes := [5], flags := 0x10 }
    let t := run .stop (s.setMySc { s.mySc with vstart := 3 })
    t.me.block = none ∧ t.mySc.vstart = 0 ∧ t.mySc.vsq = [5] ∧ t.mySc.fflags = 0x10 ∧ elem (t.vreg 3) 1 64 = 8 := by decide +kernel
/-- R239: a step of S8 adds 2 × 3 + 4 × 5 to element (0, 0). -/
theorem test_matrix_step : let s := ((vec [] (banded 3)).setV 2 (BitVec.ofNat 8192 0x0402)).setV 3 (BitVec.ofNat 8192 0x0503)
    (run (.mopav 1 ⟨2, false⟩ 3 none none .s8) s).accElem 1 0 0 = 26 := by decide +kernel
/-- R42, R278: the step after a word is placed runs it, and counts a cycle of the model. -/
theorem test_step_runs_a_placed_word : let s := State.reset.withFetchWord 32 0b00001000101000000000000000000111
    (match step s with | .next t => t.mySc.rx 5 == 7 && t.mySc.pc == s.mySc.pc + 4 | _ => false) = true := by decide +kernel
/-- Table 2-3: what a started task finds. -/
theorem test_task_start : let t := run (.taskStart 0 0 [8]) (ready 192 [{ one 0 with arg := 0x77, entry := 8 }] State.reset)
    (t.sc 8).rx 3 = 0x77 ∧ (t.sc 8).pc = 0x4008 ∧ (t.sc 8).sup = false ∧ (t.sc 8).sstatus = 2 := by decide +kernel
/-- FIPS 180-4, its example of one block: the digest of "abc". -/
theorem test_sha384 : leNat ((sha384 [0x61, 0x62, 0x63]).reverse) =
    0xcb00753f45a35e8bb5a03d699ac65007272c32ab0eded1631a8b605a43ff5bed8086072ba1e7cc2358baeca134c825a7 := by decide +kernel

/-! ### Chained starts -/

/-- A load of 24 doublewords whose 18th lies on an unmapped page, and `y` after it. -/
def chainPair (y : Instr) : State :=
  let s := mapped ((probePage + 0x10000 - 16, 15) :: (probePage + 0x10000 - 8, 16) ::
      blockAt (2 ^ 60 + 2 ^ 4) 2 [0x921010009E00E000, 0x0100000000000000])
    fun z => { xs (BitVec.ofNat 64 (probePage + 0x10000 - 136)) (BitVec.ofNat 64 probePage)
      (BitVec.ofNat 64 (probePage + 0x100)) z with vl := 24 }
  s.setMe { s.me with viq := [ent (.vld ⟨1, 5, none, .vt⟩) s.mySc, ent y { s.mySc with pc := s.mySc.pc + 4 }] }
/-- The state a step leaves. -/
def steps (s : State) (a : Act) : State := outState s (step { s with agenda := [a] })
/-- What the chained tests look at: SCAUSE, SELEM, VTF0, and elements 15 and 16 of the stored array. -/
def chainSeen (t : State) : List Nat :=
  [t.mySc.scause.toNat, t.mySc.selem.toNat, (t.mySc.vtf.toList.getD 0 0).toNat, t.mem.le (probePage + 120) 8,
    t.mem.le (probePage + 128) 8]
/-- R316: the chained store completed group 0, 16 elements, and is recorded; or it had not started. -/
theorem test_chained_store : chainSeen (steps (chainPair (.vst ⟨1, 6, none, true, .vt, .core, false, false⟩)) (.chain 0 [2])) =
    [6, 17, 0x10021, 15, 0] := by decide +kernel
/-- R316: an entry whose chain bits are all 0 had not started. -/
theorem test_unchained_store : chainSeen (steps (chainPair (.vst ⟨1, 6, none, false, .vt, .core, false, false⟩)) (.chain 0 [2])) =
    [6, 17, 0, 0, 0] := by decide +kernel
/-- R193, R316: a chained block is recorded with VSTART 0. -/
theorem test_chained_block : chainSeen (steps (chainPair (.vfetchx 7)) (.chain 0 [1])) = [6, 17, 0x10001, 0, 0] := by
  decide +kernel
/-- A parked XPOP does not hold the lanes (R50). -/
theorem test_lanes_run_under_a_parked_pop : let s := busy .mdet id
    ((steps (s.setMe { s.me with parked := some (.xpop 5) }) (.lanes 0)).me.viq).isEmpty = true := by decide +kernel
/-- What an entry ends in: 0 done, 1 a trap of an entry, 2 a trap of a block, 3 a wait. -/
def endsIn : PerfOut → Nat
  | .done _ => 0
  | .trap _ _ _ false => 1
  | .trap _ _ _ true => 2
  | .wait _ => 3
theorem wit_chained : let s := chainPair (.vst ⟨1, 6, none, true, .vt, .core, false, false⟩)
    let b := busy (.vsetl ⟨5, 4⟩ 0x7E5) id
    let ends := fun (s : State) (p : Perf) => s.me.viq.head?.map fun e => endsIn ((s.setMe { s.me with viq := s.me.viq.tail }).performSound e p)
    s.me.block = none ∧ s.me.entryParked = false ∧ s.me.viq.length = 2 ∧ (∀ e ∈ s.me.viq, e.passed = none ∧ e.task = s.me.task) ∧ (perfOf (.vld ⟨1, 5, none, .vt⟩)).isSome = true ∧
      ends s (perfVld ⟨1, 5, none, .vt⟩) = some 1 ∧ b.me.block = none ∧ b.me.entryParked = false ∧ b.me.viq.length = 1 ∧
      (perfOf (.vsetl ⟨5, 4⟩ 0x7E5)).isSome = true ∧ ends b perfNone = some 0 := by decide +kernel

/-! ### Clauses about waits, faults and choices -/

/-- An older entry that stores holds FENCE.ST and not FENCE.LD. -/
theorem wit_fences : let s := busy (.vst ⟨2, 5, none, false, .vt, .core, false, false⟩) id
    (¬ AccessPending (·.1) s) ∧ AccessPending (·.2) s ∧ s.me.viq.length = 1 ∧ s.me.drained = false := by
  have he : ∀ e ∈ (busy (.vst ⟨2, 5, none, false, .vt, .core, false, false⟩) id).me.viq,
      ((busy (.vst ⟨2, 5, none, false, .vt, .core, false, false⟩) id).entryAccess e).1 = false := by decide +kernel
  have hb : (busy (.vst ⟨2, 5, none, false, .vt, .core, false, false⟩) id).me.block = none := by decide +kernel
  refine ⟨?_, .inl ⟨_, .head _, by decide +kernel⟩, by decide +kernel, by decide +kernel⟩
  rintro (⟨e, hm, h⟩ | ⟨b, h, -⟩)
  · exact Bool.noConfusion ((he e hm).symm.trans h)
  · rw [hb] at h; cases h
/-- A STOP with a store, while the lanes run and while they are held. -/
theorem wit_stop_later : let s := inB fun b => { b with stores := [(2 ^ 60, [1])] }
    let h := { s with choices := { s.choices with lanesHeld := true } }
    let b := blkOf fun b => { b with stores := [(2 ^ 60, [1])] }
    s.me.block = some b ∧ h.me.block = some b ∧ b.stores ≠ [] ∧ b.arms = [] ∧ b.pushes = [] ∧ s.choices.lanesHeld = false ∧
      h.choices.lanesHeld = true ∧ s.mySc.vsq = [] := by decide +kernel
/-- Elements 0 and 1 of a VAMO at one address. -/
theorem wit_atomic_dup : let s := (vec [] (xs win 0 0)).setV 3 (lanes64 [8, 8, 16])
    let sc := s.mySc.replay
    let below := (s.actives sc none).filter (· < 1)
    s.performsNow (.vamo ⟨2, 5, none, .add, .none, .core, true⟩) = true ∧ 0 ∈ below ∧ 1 ∈ s.actives sc none ∧
      indexed s 5 3 0 = indexed s 5 3 1 ∧ below.Pairwise (fun p q => indexed s 5 3 p ≠ indexed s 5 3 q) ∧
      (∀ k ∈ below, s.vecLoc (agentOf s.cur sc) (indexed s 5 3 k) 8 8 .rw k = .ok (at3 1)) := by decide +kernel
/-- The matrix instructions without the tile state, and a MOPA whose weight row is no multiple of the step depth. -/
theorem wit_matrix_state : let s := vec [] (banded 2)
    let t := (vec [] (banded 3)).setQuad 0 { (vec [] (banded 3)).quad 0 with wbuf := { WeightImage.initial with ty := .s8 } }
    s.mySc.tile = false ∧ s.performsNow (.mrds 1 2 3 false) = true ∧ s.performsNow (.mwrs 1 ⟨2, false⟩ 3 true) = true ∧
      s.performsNow (.mopa 1 ⟨2, false⟩ 4 none none) = true ∧ s.performsNow (.mopav 1 ⟨2, false⟩ 3 none none .s8) = true ∧
      t.mySc.band = true ∧ t.mySc.tile = true ∧ t.performsNow (.mopa 1 ⟨2, false⟩ 1 none none) = true ∧
      1 % stepDepth (t.quad 0).wbuf.ty ≠ 0 := by decide +kernel
/-- A context asked to stop whose passed entry ends in a trap: it then runs at S level. -/
theorem wit_preempt_trap : let s := asked id
    let e := ent (.vld ⟨2, 5, none, .vt⟩) { s.mySc with vl := 1 }
    let u := s.setMe { s.me with viq := [{ e with passed := some ⟨[], Memory.empty, [], s.ports⟩ }] }
    (u.ctx 0).stopReq = .preempt ∧ u.gangOf 0 = [0] ∧ u.slotsFor [0] = true ∧ u.userLevel [0] = true ∧
      (([0] : List CtxIx).foldl State.completePassed u).userLevel [0] = false := by decide +kernel
/-- A feed whose ferry runs as FLD issues. -/
theorem wit_ferry_runs : let s := fed (inp .open 4 []) false (xs win 4 0)
    (((s.ferryRun (agentOf s.cur s.mySc) 0 (s.feed 0)).feed 0).buf.length) = 4 ∧ s.choices.ferryHeld = false := by decide +kernel
/-- A gradient region that opens in state 0, and one that is open already. -/
theorem wit_region_opens : let s := vec [(64, win.toNat), (72, 2 + 2 * 2 ^ 32), (80, 4), (88, 0), (96, 8), (112, 1 + 2 * 2 ^ 16)] (banded 3 ∘ xs (win + 64) 0 0)
    ((s.issueRecord 5).1.rcd.bind fun r => ((s.quad 0).regionFor r).map fun x =>
      decide (x.state = 0) && (s.quad 0).regions.all fun y => y.base != x.base).isSome = true := by decide +kernel
/-- A word that ends a block waits for an older entry that has passed its fault point. -/
theorem wit_word_after_passed : let s := inB fun b => { b with words := [0x0100000000000000], pos := 0 }
    let e := ent (.vsplat ⟨2, 5, none, .vt⟩) s.mySc
    let u := s.setMe { s.me with viq := [{ e with passed := some ⟨[], Memory.empty, [], s.ports⟩ }] }
    (∃ e ∈ u.me.viq, e.passed ≠ none) ∧ (match exec .stop u with | .next t => t.me.block.isNone | _ => false) = true := by
  refine ⟨⟨_, .head _, by decide +kernel⟩, by decide +kernel⟩
/-- A context that a TSTOP of context 8 has asked to stop, and one that no context has. -/
theorem wit_asked_by : ((st id).ctx 0).stopReq ≠ .tstop 8 ∧ (((st id).askStop [0] (.tstop 8)).ctx 0).stopReq = .tstop 8 := by decide +kernel

/-! ### One step each (R147, R155, R248, R284) -/

theorem test_syscall_past_fault_points : let t := run .syscall (passing .mdet id)
    t.mySc.scause = 0x1B ∧ t.me.viq.length = 1 ∧ (run .syscall (busy .mdet id)).mySc.scause = 0 := by decide +kernel
theorem test_texit_leaves_its_registers : let s := (passing (.vst ⟨2, 5, none, false, .vt, .core, false, false⟩) id).setV 2 7
    ((run .texit s).me.viq.map fun e => e.past.map fun p => p.regs.v[2]) = [some 7] := by decide +kernel
theorem test_qcnt_of_a_ring_of_registers : let t := run (.qcnt ⟨4, 5⟩ .die) devQ
    t.mySc.scause = 0x07 ∧ t.mySc.saddr = BitVec.ofNat 64 (probePage + 0x10000) := by decide +kernel
theorem test_mark_covers_a_line : let s := fun n => (qst (qcb 2 0) (xs qva 0 0)).storeLe (some 0) (.mem (probePage + n)) 8 1
    (s 0x440).disturbed qloc = true ∧ (s 0x480).disturbed qloc = false := by decide +kernel

end Sys2Proof.Tests
end

/-!
PROOFS. Setting the vector length, strip control, VSPLAT and VPRF (R8, R163 to R166): the rules about issue, traps and scalar
loads that these need, then the statement O25.
-/
namespace Sys2Proof.Machine

/-! ### The arms of strip control -/

theorem exec_vsetl (o : X2) (t : BitVec 11) (s : State) : exec (.vsetl o t) s = execVsetl o t s := rfl
theorem exec_vsetlx (o : X3) (s : State) : exec (.vsetlx o) s = execVsetlx o s := rfl
theorem exec_strip (c p : XReg) (n : Fin 4) (off : BitVec 14) (s : State) :
    exec (.strip c p n off) s = execStrip c p n off s := rfl
theorem exec_setfib (o : X2) (mo : MReg) (t : BitVec 11) (s : State) : exec (.setfib o mo t) s = execSetfib o mo t s := rfl
theorem exec_vsplat (o : VMem) (s : State) : exec (.vsplat o) s = execVsplat o s := rfl
theorem exec_vprf (a b : XReg) (e : EwSel) (s : State) : exec (.vprf a b e) s = execVprf a b e s := rfl

/-! ### Branch targets -/

/-- A branch offset counts words: shifting by two multiplies by four (R142). -/
theorem branchTarget_eq (pc : Word64) {n : Nat} (off : BitVec n) :
    branchTarget pc off = pc + BitVec.ofInt 64 (4 * off.toInt) := by
  have h : BitVec.ofInt 64 (4 * off.toInt) = 4#64 * off.signExtend 64 := by
    rw [BitVec.ofInt_mul]; rfl
  rw [branchTarget, h, BitVec.shiftLeft_eq_mul_twoPow, BitVec.mul_comm]; rfl

/-! ### The scalar side of an instruction that issues -/

theorem Scalar.rx_congr {a b : Scalar} (h : a.x = b.x) (r : XReg) : a.rx r = b.rx r := by
  unfold Scalar.rx; rw [h]
/-- A replay changes the VSTART captured and the VTFs (R318). -/
theorem Scalar.replay_eq (sc : Scalar) : sc.replay = { sc with vstart := sc.replay.vstart, vtf := sc.replay.vtf } := by
  unfold Scalar.replay; split <;> rfl
@[simp] theorem Scalar.replay_x (sc : Scalar) : sc.replay.x = sc.x := by rw [sc.replay_eq]
@[simp] theorem Scalar.replay_pc (sc : Scalar) : sc.replay.pc = sc.pc := by rw [sc.replay_eq]
@[simp] theorem Scalar.replay_vl (sc : Scalar) : sc.replay.vl = sc.vl := by rw [sc.replay_eq]
@[simp] theorem Scalar.replay_vt (sc : Scalar) : sc.replay.vt = sc.vt := by rw [sc.replay_eq]
@[simp] theorem Scalar.replay_sstr (sc : Scalar) : sc.replay.sstr = sc.sstr := by rw [sc.replay_eq]
@[simp] theorem Scalar.replay_instret (sc : Scalar) : sc.replay.instret = sc.instret := by rw [sc.replay_eq]
@[simp] theorem Scalar.replay_rx (sc : Scalar) (r : XReg) : sc.replay.rx r = sc.rx r := Scalar.rx_congr sc.replay_x r
@[simp] theorem Scalar.replay_ew (sc : Scalar) : sc.replay.ew = sc.ew := by rw [Scalar.ew, replay_vt, Scalar.ew]
@[simp] theorem Scalar.replay_ewBits (sc : Scalar) (e : EwSel) : ewBits e sc.replay = ewBits e sc := by
  cases e <;> simp [ewBits]

/-! ### What a scalar load leaves -/

/-- What a scalar load keeps, which may change the TLBs, the L1s and the counter of free values: every context, the choices of the
run, and memory. -/
structure LoadKeeps (s t : State) : Prop where
  ctxs : t.ctxs = s.ctxs
  cur : t.cur = s.cur
  choices : t.choices = s.choices
  mem : t.mem = s.mem

theorem LoadKeeps.refl (s : State) : LoadKeeps s s := ⟨rfl, rfl, rfl, rfl⟩
theorem LoadKeeps.trans {s t u : State} (h : LoadKeeps s t) (k : LoadKeeps t u) : LoadKeeps s u :=
  ⟨k.ctxs.trans h.ctxs, k.cur.trans h.cur, k.choices.trans h.choices, k.mem.trans h.mem⟩
theorem LoadKeeps.ctx {s t : State} (h : LoadKeeps s t) (c : CtxIx) : t.ctx c = s.ctx c := by
  unfold State.ctx; rw [h.ctxs]
theorem LoadKeeps.me {s t : State} (h : LoadKeeps s t) : t.me = s.me := by
  rw [State.me, h.cur, h.ctx]
theorem LoadKeeps.mySc {s t : State} (h : LoadKeeps s t) : t.mySc = s.mySc := congrArg (·.regs.sc) h.me
theorem LoadKeeps.performsNow {s t : State} (h : LoadKeeps s t) (i : Instr) : t.performsNow i = s.performsNow i := by
  rw [State.performsNow, h.me, h.choices, State.performsNow]
theorem LoadKeeps.issuedSc {s t : State} (h : LoadKeeps s t) (post : Scalar → Scalar) : t.issuedSc post = s.issuedSc post := by
  rw [State.issuedSc, h.mySc, State.issuedSc]

theorem State.fillTlb_loadKeeps (s : State) (g : Agent) (a : Word64) : LoadKeeps s (s.fillTlb g a) := by
  unfold State.fillTlb
  split
  · exact .refl s
  · split
    · exact .refl s
    · dsimp only
      split <;> exact ⟨rfl, rfl, rfl, rfl⟩
theorem State.readAt_loadKeeps (s : State) (k : Option CoreIx) (l : Loc) (n : Nat) : LoadKeeps s (s.readAt k l n) := by
  cases l <;> exact ⟨rfl, rfl, rfl, rfl⟩
theorem State.devRead_loadKeeps (s : State) (r : DevReg) : LoadKeeps s (s.devRead r).2 := by
  cases r <;> exact ⟨rfl, rfl, rfl, rfl⟩
theorem State.devLoad_loadKeeps (s : State) (pa n : Nat) : LoadKeeps s (s.devLoad pa n).2 := s.devRead_loadKeeps _
theorem State.scalarRead_loadKeeps (s : State) (l : Loc) (n : Nat) (c : Option Scope) : LoadKeeps s (s.scalarRead l n c).2 := by
  cases l with
  | mem pa =>
    rw [State.scalarRead]
    split
    · exact s.devLoad_loadKeeps pa n
    · exact s.readAt_loadKeeps _ (.mem pa) n
  | win k off => exact s.readAt_loadKeeps none (.win k off) n
  | uc pa => exact s.readAt_loadKeeps none (.uc pa) n

/-! ### The row loop of SETFIB -/

theorem State.fibRead_loadKeeps {s t : State} {a : Word64} {x : Nat} (h : s.fibRead a = .ok (x, t)) : LoadKeeps s t := by
  unfold State.fibRead at h
  cases hl : s.scalarLoc s.scalarAgent a 8 .read with
  | error tr => rw [hl] at h; cases h
  | ok l =>
    rw [hl] at h
    have ht : t = ((s.fillTlb s.scalarAgent a).scalarRead l 8 none).2 := congrArg Prod.snd (Except.ok.inj h).symm
    exact ht ▸ (s.fillTlb_loadKeeps _ a).trans (State.scalarRead_loadKeeps _ l 8 none)

/-- The row loop reads row pointers and does nothing else to the machine (R165). -/
theorem State.fibLoop_loadKeeps {a : Word64} {rows cap : Nat} : ∀ {fuel : Nat} {s t : State} {f g : FibState},
    s.fibLoop a rows cap fuel f = .ok (g, t) → LoadKeeps s t
  | 0, s, t, f, g, h => by cases h; exact .refl s
  | fuel + 1, s, t, f, g, h => by
    unfold State.fibLoop at h
    split at h
    · cases hhi : s.fibRead (a + BitVec.ofNat 64 (8 * f.j + 8)) with
      | error tr => rw [hhi] at h; cases h
      | ok p =>
        obtain ⟨hi, s1⟩ := p
        cases hlo : s1.fibRead (a + BitVec.ofNat 64 (8 * f.j)) with
        | error tr => simp only [hhi, bind, Except.bind, hlo] at h; cases h
        | ok q =>
          obtain ⟨lo, s2⟩ := q
          simp only [hhi, bind, Except.bind, hlo] at h
          have h12 := (State.fibRead_loadKeeps hhi).trans (State.fibRead_loadKeeps hlo)
          split at h <;> exact h12.trans (State.fibLoop_loadKeeps h)
    · cases h; exact .refl s

/-! ### Entries that leave only the mark of an issue -/

/-- The state in which an instruction has issued, with the queue `q`. -/
def State.issuedWith (s : State) (post : Scalar → Scalar) (q : List Entry) : State :=
  s.setMe { s.me.setSc (s.issuedSc post) with viq := q, holds := s.me.holds.filter fun h => !h.of s.mySc }

theorem State.issued_me (s : State) (post : Scalar → Scalar) : (s.issued post).me =
    { s.me.setSc (s.issuedSc post) with holds := s.me.holds.filter fun h => !h.of s.mySc } := s.setCtx_same _ _
theorem State.issued_ctx_ne (s : State) (post : Scalar → Scalar) (c : CtxIx) (h : c ≠ s.cur) :
    (s.issued post).ctx c = s.ctx c := s.setCtx_ne _ _ _ h
@[simp] theorem State.issued_mySc (s : State) (post : Scalar → Scalar) : (s.issued post).mySc = s.issuedSc post :=
  congrArg (·.regs.sc) (s.issued_me post)
@[simp] theorem State.issued_vreg (s : State) (post : Scalar → Scalar) (r : VReg) : (s.issued post).vreg r = s.vreg r := by
  rw [State.vreg, s.issued_me]; rfl
@[simp] theorem State.issued_mreg (s : State) (post : Scalar → Scalar) (r : MReg) : (s.issued post).mreg r = s.mreg r := by
  rw [State.mreg, s.issued_me]; rfl
theorem State.issued_selects (s : State) (post : Scalar → Scalar) (m : MSel) (k : Nat) :
    (s.issued post).selects m k = s.selects m k := by cases m <;> simp [State.selects]

theorem State.issuedWith_me (s : State) (post : Scalar → Scalar) (q : List Entry) : (s.issuedWith post q).me =
    { s.me.setSc (s.issuedSc post) with viq := q, holds := s.me.holds.filter fun h => !h.of s.mySc } := s.setCtx_same _ _
@[simp] theorem State.issuedWith_mySc (s : State) (post : Scalar → Scalar) (q : List Entry) :
    (s.issuedWith post q).mySc = s.issuedSc post := congrArg (·.regs.sc) (s.issuedWith_me post q)
theorem State.issuedWith_ctx_ne (s : State) (post : Scalar → Scalar) (q : List Entry) (c : CtxIx) (h : c ≠ s.cur) :
    (s.issuedWith post q).ctx c = s.ctx c := s.setCtx_ne _ _ _ h

theorem State.zeroVstart_of_zero (s : State) (h : s.mySc.vstart = 0) : s.zeroVstart = s := if_pos h
theorem State.completed_of_zero (s : State) (e : Entry) (h : s.mySc.vstart = 0) : s.completed e = s := by
  rw [State.completed, s.zeroVstart_of_zero h, ite_self]

/-- VSETL, VSETLX, STRIP and VPRF leave, whether the lanes take their mark at once or later, the scalar side they gave it as they
issued, and a queue (R158). -/
theorem State.viq_perfNone (s : State) (i : Instr) (post : Scalar → Scalar) (hu : s.me.viqUsed < 32) (ha : atIssue i = false)
    (hv : (s.issuedSc post).vstart = 0) : ∃ q, s.viq i none post perfNone = .next (s.issuedWith post q) := by
  cases hp : s.performsNow i with
  | true =>
    refine ⟨s.me.viq, ?_⟩
    rw [State.viq, s.viqWith_now i _ post _ hp]
    exact congrArg _ (State.completed_of_zero _ _ ((congrArg _ (s.issued_mySc post)).trans hv))
  | false => exact ⟨_, s.viqWith_later i _ post _ hp hu (by simp [ha])⟩

/-! ### Register writes -/

theorem Scalar.wx_eq (sc : Scalar) (r : XReg) (v : Word64) : sc.wx r v = { sc with x := (sc.wx r v).x } := by
  unfold Scalar.wx; split <;> rfl
theorem Scalar.wx_x_congr {a b : Scalar} (h : a.x = b.x) (r : XReg) (v : Word64) : (a.wx r v).x = (b.wx r v).x := by
  unfold Scalar.wx; split
  · exact h
  · simp only [h]
/-- A written register reads what was written, and x0 reads zero. -/
theorem Scalar.rx_wx_same (sc : Scalar) (r : XReg) (v : Word64) : (sc.wx r v).rx r = if r = 0 then 0 else v := by
  rw [sc.rx_wx]
  split
  · next h => rw [if_neg h.2]
  · next h => have hr : r = 0 := by simpa using h
              rw [hr, if_pos rfl, sc.rx_zero]
theorem Scalar.rx_wx_ne (sc : Scalar) {r k : XReg} (v : Word64) (h : k ≠ r) : (sc.wx r v).rx k = sc.rx k := by
  rw [sc.rx_wx, if_neg fun e => h e.1]

/-! ### The scalar side once an instruction has issued -/

@[simp] theorem State.issuedSc_id_x (s : State) : (s.issuedSc id).x = s.mySc.x := s.mySc.replay_x
@[simp] theorem State.issuedSc_id_rx (s : State) (r : XReg) : (s.issuedSc id).rx r = s.mySc.rx r :=
  Scalar.rx_congr s.issuedSc_id_x r
@[simp] theorem State.issuedSc_id_pc (s : State) : (s.issuedSc id).pc = s.mySc.pc + 4 :=
  congrArg (· + 4) s.mySc.replay_pc
@[simp] theorem State.issuedSc_id_instret (s : State) : (s.issuedSc id).instret = s.mySc.instret + 1 :=
  congrArg (· + 1) s.mySc.replay_instret
@[simp] theorem State.issuedSc_id_vl (s : State) : (s.issuedSc id).vl = s.mySc.vl := s.mySc.replay_vl
@[simp] theorem State.issuedSc_id_vt (s : State) : (s.issuedSc id).vt = s.mySc.vt := s.mySc.replay_vt
@[simp] theorem State.issuedSc_id_sstr (s : State) : (s.issuedSc id).sstr = s.mySc.sstr := s.mySc.replay_sstr
@[simp] theorem State.issuedSc_id_vstart (s : State) : (s.issuedSc id).vstart = 0 := rfl
theorem State.issuedSc_post (s : State) (post : Scalar → Scalar) : s.issuedSc post = post (s.issuedSc id) := rfl

/-! ### The pointers of STRIP -/

/-- The pointer writes change registers alone (R164). -/
theorem Scalar.advance_eq (p : XReg) (vl : Nat) : ∀ (n k : Nat) (sc : Scalar),
    sc.advance p vl k n = { sc with x := (sc.advance p vl k n).x }
  | 0, _, _ => rfl
  | n + 1, k, sc => by
    rw [Scalar.advance]
    rw [Scalar.advance_eq p vl n (k + 1), Scalar.wx_eq]
/-- They depend on the registers and the strides. -/
theorem Scalar.advance_x_congr (p : XReg) (vl : Nat) : ∀ (n k : Nat) {a b : Scalar}, a.x = b.x → a.sstr = b.sstr →
    (a.advance p vl k n).x = (b.advance p vl k n).x
  | 0, _, _, _, hx, _ => hx
  | n + 1, k, a, b, hx, hs => by
    rw [Scalar.advance, Scalar.advance, Scalar.rx_congr hx, Scalar.sstrOf, hs, ← Scalar.sstrOf]
    exact Scalar.advance_x_congr p vl n (k + 1) (Scalar.wx_x_congr hx _ _) (by simpa using hs)

/-! ### Registers of the acting context -/

theorem State.setM_me (s : State) (r : MReg) (x : MBits) :
    (s.setM r x).me = { s.me with regs := { s.me.regs with m := s.me.regs.m.set r.val x } } := s.setCtx_same _ _
theorem State.setV_me (s : State) (r : VReg) (x : VBits) :
    (s.setV r x).me = { s.me with regs := { s.me.regs with v := s.me.regs.v.set r.val x } } := s.setCtx_same _ _
theorem State.takeTrap_me (s : State) (back : Scalar) (t : Trap) (epc : Word64) (blk : Bool) :
    (s.takeTrap s.cur back t epc blk).me = { s.me.unpark with
      regs := { s.me.unpark.regs with sc := back.clearVtf.enterTrap t epc blk }, viq := [], block := none
      holds := s.me.unpark.viq.filterMap Entry.held ++ s.me.unpark.holds } := s.setCtx_same _ _
theorem State.takeTrap_mySc (s : State) (back : Scalar) (t : Trap) (epc : Word64) (blk : Bool) :
    (s.takeTrap s.cur back t epc blk).mySc = back.clearVtf.enterTrap t epc blk :=
  congrArg (·.regs.sc) (s.takeTrap_me back t epc blk)
theorem State.mreg_setM_ne (s : State) (r k : MReg) (x : MBits) (h : k ≠ r) : (s.setM r x).mreg k = s.mreg k := by
  have : r.val ≠ k.val := fun e => h (Fin.ext e.symm)
  rw [State.mreg, s.setM_me]
  simp [State.mreg, this]

/-- Lanes at rest are not the cause of a wait at issue: an instruction that reads memory as it issues goes on. -/
theorem State.issueRead_drained (s : State) (k : Unit → Host.Outcome State Fault Refusal) (h : s.me.drained = true) :
    s.issueRead k = k () := by
  obtain ⟨hq, hb⟩ := (Context.drained_iff _).1 h
  have hd : s.viqDeadlock = false := by simp [State.viqDeadlock, Context.viqUsed, hq, hb]
  simp [State.issueRead, hd, State.waits, State.intervalReady, s.pendingAccess_drained _ _ h]
theorem State.performsNow_iff (s : State) (i : Instr) : s.performsNow i = true ↔
    s.me.drained = true ∧ s.me.badRegs = [] ∧ (atIssue i = true ∨ s.choices.lanesHeld = false) := by
  simp [State.performsNow, and_assoc]
/-- Without an error in a register no element meets one. -/
theorem State.badElem_none (s : State) (e : Entry) (h : s.me.badRegs = []) : s.badElem e = none := by
  simp [State.badElem, State.badRead, h]

/-! ### What the scalar pipe decides for each instruction of strip control -/

/-- What VSETL and VSETLX make of the scalar side (R163). -/
def Scalar.lengthSet (d : XReg) (vt : BitVec 11) (n : Nat) (sc : Scalar) : Scalar :=
  (({ sc with vt := vt, vl := n } : Scalar).wx d (BitVec.ofNat 64 n)).endInterval
/-- The count less VL and the pointers moved: the register writes of STRIP (R164). -/
def Scalar.strideOn (c p : XReg) (n : Fin 4) (sc : Scalar) : Scalar :=
  (sc.wx c (sc.rx c - BitVec.ofNat 64 sc.vl)).advance p sc.vl 0 (n.val + 1)
/-- What STRIP at `pc` on the core `k` makes of the scalar side (R164). -/
def Scalar.stripped (k : Core) (pc : Word64) (c p : XReg) (n : Fin 4) (off : BitVec 14) (sc : Scalar) : Scalar :=
  let left := posOf ((sc.strideOn c p n).rx c)
  if 0 < left then { (sc.strideOn c p n).endInterval with vl := k.grant sc.vt left, pc := branchTarget pc off }
  else { (sc.strideOn c p n).endInterval with vl := 0 }
/-- What SETFIB makes of the scalar side when its row loop gives `f` (R165). -/
def Scalar.fibSet (d : XReg) (vt : BitVec 11) (f : FibState) (sc : Scalar) : Scalar :=
  (({ sc with vt := vt, vl := f.n, fiboff := BitVec.ofNat 32 f.off } : Scalar).wx d (BitVec.ofNat 64 f.j)).endInterval
/-- What VSPLAT makes of its destination, under the captured scalar side `sc` (R166). -/
def State.splat (s : State) (o : VMem) (sc : Scalar) : VBits :=
  let w := ewBits o.e sc
  vecWrite (s.vreg o.v) sc w fun k =>
    if k < sc.vstart.toNat then some (elem (s.vreg o.v) k w)
    else if s.selects o.m k then some ((sc.rx o.a).toNat % 2 ^ w) else none

/-- A VT that Table 5-6 allows is written with the length granted. -/
theorem State.setLen_ok (s : State) (i : Instr) (d a : XReg) (vt : BitVec 11) (h : vtOk (vt.setWidth 64) = true) :
    s.setLen i d a (vt.setWidth 64) =
      s.viq i none (Scalar.lengthSet d vt (s.myCore.grant vt (posOf (s.mySc.rx a)))) perfNone := by
  have hw : (vt.setWidth 64).setWidth 11 = vt := by simp
  rw [State.setLen, h, hw]; rfl
/-- A forbidden one is ILLEGAL. -/
theorem State.setLen_illegal (s : State) (i : Instr) (d a : XReg) (v : Word64) (h : vtOk v = false) :
    s.setLen i d a v = .next (s.scalarTrap ⟨.illegal, 0, s.mySc.pc⟩) := by
  rw [State.setLen, h]; rfl
theorem execStrip_eq (c p : XReg) (n : Fin 4) (off : BitVec 14) (s : State) : execStrip c p n off s =
    s.viq (.strip c p n off) none (Scalar.stripped s.myCore s.mySc.pc c p n off) perfNone := rfl
theorem execSetfib_illegal (o : X2) (mo : MReg) (vt : BitVec 11) (s : State) (h : vtOk (vt.setWidth 64) = false) :
    execSetfib o mo vt s = .next (s.scalarTrap ⟨.illegal, 0, s.mySc.pc⟩) := by
  rw [execSetfib, h]; rfl
/-- With the lanes at rest SETFIB reads its rows and issues. -/
theorem execSetfib_ok (o : X2) (mo : MReg) (vt : BitVec 11) (s u : State) (f : FibState) (h : vtOk (vt.setWidth 64) = true)
    (hd : s.me.drained = true)
    (hf : State.fibLoop (s.mySc.rx o.a) (posOf (s.mySc.rx o.d)) (s.myCore.cap vt) (fibFuel (posOf (s.mySc.rx o.d))) s
      ⟨0, 0, s.mySc.fiboff.toNat, 0⟩ = .ok (f, u)) : execSetfib o mo vt s =
      u.viqWith (.setfib o mo vt) { Captured.none with mask := f.mo } (Scalar.fibSet o.d vt f) (perfSetfib mo) := by
  rw [execSetfib, h, s.issueRead_drained _ hd]
  simp only [hf]
  rfl
/-- VSPLAT of a width VT allows, where no register holds an error, writes its destination. -/
theorem perfVsplat_done (o : VMem) (e : Entry) (s : State) (hw : ewBits o.e e.chk ≤ e.chk.ew) (hb : s.me.badRegs = []) :
    perfVsplat o e s = .done (s.setV o.v (s.splat o e.chk)) := by
  simp only [perfVsplat, if_neg (Nat.not_lt.2 hw), s.badElem_none e hb]
  rfl

theorem Scalar.strideOn_eq (c p : XReg) (n : Fin 4) (sc : Scalar) :
    sc.strideOn c p n = { sc with x := (sc.strideOn c p n).x } := by
  rw [Scalar.strideOn, Scalar.advance_eq, Scalar.wx_eq]
theorem Scalar.strideOn_x_congr (c p : XReg) (n : Fin 4) {a b : Scalar} (hx : a.x = b.x) (hs : a.sstr = b.sstr)
    (hl : a.vl = b.vl) : (a.strideOn c p n).x = (b.strideOn c p n).x := by
  rw [Scalar.strideOn, Scalar.strideOn, Scalar.rx_congr hx, hl]
  exact Scalar.advance_x_congr _ _ _ _ (Scalar.wx_x_congr hx _ _) (by simpa using hs)
@[simp] theorem Scalar.strideOn_pc (c p : XReg) (n : Fin 4) (sc : Scalar) : (sc.strideOn c p n).pc = sc.pc := by
  rw [sc.strideOn_eq]
@[simp] theorem Scalar.strideOn_vt (c p : XReg) (n : Fin 4) (sc : Scalar) : (sc.strideOn c p n).vt = sc.vt := by
  rw [sc.strideOn_eq]
@[simp] theorem Scalar.strideOn_vstart (c p : XReg) (n : Fin 4) (sc : Scalar) :
    (sc.strideOn c p n).vstart = sc.vstart := by rw [sc.strideOn_eq]

end Sys2Proof.Machine

namespace Sys2Proof.Spec
open Sys2Proof.Machine

/-! ### What an issue leaves, in the words of the statements -/

/-- An entry that is a mark alone is done once it has issued, behind whatever the lanes hold. -/
theorem completes_of_perfNone {i : Instr} {s : State} {post : Scalar → Scalar} {p : State → Prop}
    (he : exec i s = s.viq i none post perfNone) (hu : s.me.viqUsed < 32) (ha : atIssue i = false)
    (hv : (s.issuedSc post).vstart = 0) (hp : ∀ q, p (s.issuedWith post q)) : Completes i s p := by
  obtain ⟨q, hq⟩ := s.viq_perfNone i post hu ha hv
  exact ⟨_, he.trans hq, hp q⟩

theorem setsScalar_of_perfNone {i : Instr} {s : State} {post : Scalar → Scalar} {q : Scalar → Prop}
    (he : exec i s = s.viq i none post perfNone) (hu : s.me.viqUsed < 32) (ha : atIssue i = false)
    (hv : (s.issuedSc post).vstart = 0) (hpc : (s.issuedSc post).pc = s.mySc.pc + 4)
    (hr : (s.issuedSc post).instret = s.mySc.instret + 1) (hq : q (s.issuedSc post)) : SetsScalar i s q := by
  refine completes_of_perfNone he hu ha hv fun l => ?_
  have hregs : (s.issuedWith post l).me.regs = { s.me.regs with sc := s.issuedSc post } :=
    congrArg (·.regs) (s.issuedWith_me post l)
  rw [s.issuedWith_mySc]
  exact ⟨hq, hpc, hv, hr, fun _ => rfl, hregs, fun c hc => s.issuedWith_ctx_ne post l c hc⟩

/-- A trap of the instruction at the pc with lanes at rest (R313). -/
theorem trapsWith_of_scalarTrap {i : Instr} {s : State} (c : Cause) (a : Word64) (hd : s.me.drained = true)
    (he : exec i s = .next (s.scalarTrap ⟨c, 0, a⟩)) : TrapsWith i s c.code a := by
  have hp : s.me.unpark.parked = none := by unfold Context.unpark; split <;> rfl
  refine ⟨_, he, ?_⟩
  beta_reduce
  rw [s.scalarTrap_drained _ hd, s.takeTrap_mySc, s.takeTrap_me]
  refine ⟨⟨rfl, fun k hk => s.setCtx_ne _ _ _ hk⟩, rfl, rfl, rfl, rfl, rfl, rfl, rfl, ?_, rfl, rfl, rfl, rfl, rfl, hp⟩
  change BitVec.ofNat 3 ((if s.mySc.sup then 1 else 0) + 0) = _
  split <;> rfl

/-! ### VSETL and VSETLX -/

/-- VSETL and VSETLX with a VT that Table 5-6 allows (R163). -/
theorem setsScalar_of_setLen {i : Instr} {s : State} {d a : XReg} {vt : BitVec 11}
    (he : exec i s = s.setLen i d a (vt.setWidth 64)) (hu : s.me.viqUsed < 32) (ha : atIssue i = false)
    (hok : vtOk (vt.setWidth 64) = true) :
    let n := min (s.mySc.rx a).toInt.toNat (8192 / 2 ^ (vt.toNat % 8 + 1) * s.myCore.vcap.toNat / 8)
    SetsScalar i s fun z => z.vt = vt ∧ z.vl = n ∧ (∀ r, r ≠ d → z.rx r = s.mySc.rx r) ∧
      z.rx d = if d = 0 then 0 else BitVec.ofNat 64 n := by
  intro n
  refine setsScalar_of_perfNone (he.trans (s.setLen_ok i d a vt hok)) hu ha ?_ ?_ ?_ ?_ <;>
    rw [s.issuedSc_post, Scalar.lengthSet]
  · simp
  · simp
  · exact (Scalar.wx_instret _ _ _).trans s.issuedSc_id_instret
  · refine ⟨by simp, Scalar.wx_vl _ _ _, fun r hr => ?_, Scalar.rx_wx_same _ d _⟩
    exact (Scalar.rx_wx_ne _ _ hr).trans (s.issuedSc_id_rx r)

/-- The same words, and SETFIB, with a VT it forbids (R163, R165). -/
theorem forbidden_vt_traps (s : State) (hd : s.me.drained = true) :
    (∀ d a (vt : BitVec 11), vtOk (vt.setWidth 64) = false → TrapsWith (.vsetl ⟨d, a⟩ vt) s 0x01 s.mySc.pc) ∧
    (∀ d a b, vtOk (s.mySc.rx b) = false → TrapsWith (.vsetlx ⟨d, a, b⟩) s 0x01 s.mySc.pc) ∧
    ∀ o mo (vt : BitVec 11), vtOk (vt.setWidth 64) = false → TrapsWith (.setfib o mo vt) s 0x01 s.mySc.pc := by
  refine ⟨fun d a vt h => ?_, fun d a b h => ?_, fun o mo vt h => ?_⟩ <;>
    refine trapsWith_of_scalarTrap .illegal _ hd ?_
  · exact s.setLen_illegal _ d a _ h
  · exact s.setLen_illegal _ d a _ h
  · exact execSetfib_illegal o mo vt s h

/-! ### STRIP -/

/-- STRIP on its two ways out (R164): elements remain and it branches, or none do and it falls through. -/
theorem strip_advances (s : State) (c p : XReg) (n : Fin 4) (off : BitVec 14) (hu : s.me.viqUsed < 32) :
    let z := (s.mySc.wx c (s.mySc.rx c - BitVec.ofNat 64 s.mySc.vl)).advance p s.mySc.vl 0 (n.val + 1)
    let left := (z.rx c).toInt.toNat
    Completes (.strip c p n off) s fun t => t.mySc.x = z.x ∧ SameMemory s t ∧ t.mySc.vt = s.mySc.vt ∧
      (0 < left → t.mySc.vl = min left (s.mySc.vlm * s.myCore.vcap.toNat / 8) ∧
        t.mySc.pc = s.mySc.pc + BitVec.ofInt 64 (4 * off.toInt)) ∧
      (left = 0 → t.mySc.vl = 0 ∧ t.mySc.pc = s.mySc.pc + 4) := by
  intro z left
  have hx : ((s.issuedSc id).strideOn c p n).x = z.x :=
    Scalar.strideOn_x_congr c p n s.issuedSc_id_x s.issuedSc_id_sstr s.issuedSc_id_vl
  have hl : posOf (((s.issuedSc id).strideOn c p n).rx c) = left := by rw [Scalar.rx_congr hx]; rfl
  have hp : s.issuedSc (Scalar.stripped s.myCore s.mySc.pc c p n off) = if 0 < left then
        { ((s.issuedSc id).strideOn c p n).endInterval with
          vl := s.myCore.grant s.mySc.vt left, pc := branchTarget s.mySc.pc off }
      else { ((s.issuedSc id).strideOn c p n).endInterval with vl := 0 } := by
    rw [s.issuedSc_post, Scalar.stripped, hl, s.issuedSc_id_vt]
  refine completes_of_perfNone ((exec_strip c p n off s).trans (execStrip_eq c p n off s)) hu rfl ?_ fun q => ?_
  · rw [hp]; split <;> simp
  · rw [s.issuedWith_mySc, hp, branchTarget_eq]
    refine ⟨?_, fun _ => rfl, ?_, fun h => ?_, fun h => ?_⟩
    · split <;> exact hx
    · split <;> simp
    · rw [if_pos h]; exact ⟨rfl, rfl⟩
    · rw [if_neg (by omega)]; exact ⟨rfl, by simp⟩

/-! ### SETFIB -/

/-- SETFIB whose row loop ends without a fault (R165). -/
theorem setfib_writes (s : State) (o : X2) (mo : MReg) (vt : BitVec 11) (f : FibState) (u : State)
    (hn : s.performsNow (.setfib o mo vt) = true) (hok : vtOk (vt.setWidth 64) = true)
    (hf : State.fibLoop (s.mySc.rx o.a) (s.mySc.rx o.d).toInt.toNat (s.myCore.cap vt) ((s.mySc.rx o.d).toInt.toNat + 1) s
      ⟨0, 0, s.mySc.fiboff.toNat, 0⟩ = .ok (f, u)) :
    Completes (.setfib o mo vt) s fun t => t.mySc.vl = f.n ∧ t.mySc.vt = vt ∧ t.mySc.fiboff = BitVec.ofNat 32 f.off ∧
      (t.mySc.rx o.d = if o.d = 0 then 0 else BitVec.ofNat 64 f.j) ∧ t.mreg mo = f.mo ∧ (∀ r, r ≠ mo → t.mreg r = s.mreg r) ∧
      t.me.regs.v = s.me.regs.v ∧ SameMemory s t ∧ t.mySc.pc = s.mySc.pc + 4 := by
  have hu := State.fibLoop_loadKeeps hf
  obtain ⟨hd, -, -⟩ := (s.performsNow_iff _).1 hn
  have hsc : ((u.issued (Scalar.fibSet o.d vt f)).setM mo f.mo).mySc = Scalar.fibSet o.d vt f (s.issuedSc id) := by
    rw [State.setM_mySc, State.issued_mySc, hu.issuedSc, s.issuedSc_post]
  have hm : (u.issued (Scalar.fibSet o.d vt f)).me.regs = { s.me.regs with sc := s.issuedSc (Scalar.fibSet o.d vt f) } := by
    rw [State.issued_me, hu.me, hu.issuedSc]; rfl
  refine ⟨(u.issued (Scalar.fibSet o.d vt f)).setM mo f.mo, ?_, ?_⟩
  · rw [exec_setfib, execSetfib_ok o mo vt s u f hok hd hf, u.viqWith_now _ _ _ _ ((hu.performsNow _).trans hn)]
    refine congrArg _ (State.completed_of_zero ((u.issued (Scalar.fibSet o.d vt f)).setM mo f.mo) _ ?_)
    rw [hsc]; simp [Scalar.fibSet]
  · beta_reduce
    rw [hsc]
    refine ⟨Scalar.wx_vl _ _ _, Scalar.wx_vt _ _ _, Scalar.wx_fiboff _ _ _, Scalar.rx_wx_same _ o.d _,
      State.mreg_setM_same _ _ _, fun r hr => ?_, ?_, fun a => congrArg (·.byte a) hu.mem, (Scalar.wx_pc _ _ _).trans s.issuedSc_id_pc⟩
    · rw [State.mreg_setM_ne _ _ _ _ hr, State.mreg, hm]; rfl
    · rw [State.setM_me, hm]

/-! ### VSPLAT and VPRF -/

/-- The element rule of R160: the tail, the elements below VSTART, those selected, and those masked off. -/
theorem elem_vecWrite_selected (old : VBits) (sc : Scalar) (w : Nat) (sel : Nat → Bool) (val : Nat → Nat) (k : Nat)
    (hw : w ≤ sc.ew) (hk : k < sc.vlm) :
    elem (vecWrite old sc w fun i =>
        if i < sc.vstart.toNat then some (elem old i w) else if sel i then some (val i) else none) k w =
      if sc.vl ≤ k then tailOf sc (elem old k w) else if k < sc.vstart.toNat then elem old k w
      else if sel k then val k % 2 ^ w else maskedOf sc (elem old k w) := by
  rw [elem_vecWrite _ _ _ _ _ hw hk]
  by_cases hvl : sc.vl ≤ k
  · rw [if_neg (by omega), if_pos hvl]; rfl
  · rw [if_pos (by omega), if_neg hvl]
    by_cases hst : k < sc.vstart.toNat
    · simp only [if_pos hst, elem_mod]
    · cases hs : sel k <;> simp [hst, maskedOf]

/-- VSPLAT under the policies of R160, where the lanes take it at once (R166). -/
theorem vsplat_writes (s : State) (o : VMem) (hn : s.performsNow (.vsplat o) = true) (hw : widthNow o.e s ≤ s.mySc.ew) :
    let w := widthNow o.e s
    let sc := s.mySc.replay
    Completes (.vsplat o) s fun t => OnlyMe s t ∧ IssuedVM s t id ∧ t.me.regs.m = s.me.regs.m ∧
      (∀ r, r ≠ o.v → t.vreg r = s.vreg r) ∧ ∀ k, k < sc.vlm → let old := elem (s.vreg o.v) k w
        elem (t.vreg o.v) k w =
          if sc.vl ≤ k then tailOf sc old else if k < sc.vstart.toNat then old
          else if s.selects o.m k then (s.mySc.rx o.a).toNat % 2 ^ w else maskedOf sc old := by
  intro w sc
  obtain ⟨-, hbad, -⟩ := (s.performsNow_iff _).1 hn
  have hwe : ewBits o.e sc = w := s.mySc.replay_ewBits o.e
  have hew : w ≤ sc.ew := hw.trans_eq s.mySc.replay_ew.symm
  have hsp : (s.issued id).splat o sc = vecWrite (s.vreg o.v) sc w fun k =>
      if k < sc.vstart.toNat then some (elem (s.vreg o.v) k w)
      else if s.selects o.m k then some ((s.mySc.rx o.a).toNat % 2 ^ w) else none := by
    simp only [State.splat, hwe, State.issued_vreg, State.issued_selects, sc, Scalar.replay_rx]
  have hb : (s.issued id).me.badRegs = [] := (congrArg (·.badRegs) (s.issued_me id)).trans hbad
  have hp : perfVsplat o (s.entryFor (.vsplat o) { Captured.none with rcd := none }) (s.issued id) =
      .done ((s.issued id).setV o.v ((s.issued id).splat o sc)) :=
    perfVsplat_done o (s.entryFor (.vsplat o) { Captured.none with rcd := none }) (s.issued id) (hwe.trans_le hew) hb
  have hme : ((s.issued id).setV o.v ((s.issued id).splat o sc)).me = { s.me with
      regs := { s.me.regs with sc := s.issuedSc id, v := s.me.regs.v.set o.v.val ((s.issued id).splat o sc) }
      holds := s.me.holds.filter fun h => !h.of s.mySc } := by
    rw [State.setV_me, s.issued_me]; rfl
  refine ⟨(s.issued id).setV o.v ((s.issued id).splat o sc), ?_, ⟨rfl, fun c hc => ?_⟩, ?_, ?_,
    fun r hr => ?_, fun k hk => ?_⟩
  · rw [exec_vsplat, execVsplat, State.viq, s.viqWith_now _ _ _ _ hn, hp]
    exact congrArg _ (State.completed_of_zero _ _ (by rw [State.setV_mySc, State.issued_mySc]; rfl))
  · exact (State.setCtx_ne _ _ _ _ hc).trans (s.issued_ctx_ne id c hc)
  · rw [IssuedVM, hme]
  · rw [hme]
  · rw [State.vreg_setV_ne _ _ _ _ hr, s.issued_vreg]
  · rw [State.vreg_setV_same, hsp, elem_vecWrite_selected _ sc w (s.selects o.m) _ k hew hk, Nat.mod_mod]

theorem vprf_sets (s : State) (a b : XReg) (e : EwSel) (hu : s.me.viqUsed < 32) :
    SetsScalar (.vprf a b e) s fun z => z = s.issuedSc id :=
  setsScalar_of_perfNone (exec_vprf a b e s) hu rfl rfl s.issuedSc_id_pc s.issuedSc_id_instret rfl

end Sys2Proof.Spec

namespace Sys2Proof.Proofs
open Sys2Proof.Machine Sys2Proof.Spec

/-- Settles O25: one lemma for each word, over what an entry leaves as it issues. -/
theorem vectorLengthAndSplat : Obligations.VectorLengthAndSplat := by
  unfold Obligations.VectorLengthAndSplat
  intro s
  refine ⟨fun d a vt hu hok => ⟨?vsetl, fun b hb => ?vsetlx⟩, forbidden_vt_traps s, strip_advances s, setfib_writes s,
    vsplat_writes s, vprf_sets s⟩
  case vsetl => exact setsScalar_of_setLen (exec_vsetl _ _ s) hu rfl hok
  case vsetlx => exact setsScalar_of_setLen (by rw [exec_vsetlx, execVsetlx, hb]) hu rfl hok

end Sys2Proof.Proofs

/-!
PROOFS. Reading a context and its scalar side after an update, for the statements of the execution rules.
-/
namespace Sys2Proof.Machine

@[simp] theorem State.setCtx_sc_same (s : State) (c : CtxIx) (x : Context) : (s.setCtx c x).sc c = x.regs.sc :=
  congrArg (·.regs.sc) (s.setCtx_same c x)
theorem State.setCtx_sc_ne (s : State) (c k : CtxIx) (x : Context) (h : k ≠ c) : (s.setCtx c x).sc k = s.sc k :=
  congrArg (·.regs.sc) (s.setCtx_ne c k x h)
theorem State.setMe_me (s : State) (x : Context) : (s.setMe x).me = x := s.setCtx_same _ x
theorem State.setMe_mySc (s : State) (x : Context) : (s.setMe x).mySc = x.regs.sc := s.setCtx_sc_same _ x
/-- Writing back what a context holds changes nothing. -/
@[simp] theorem State.setCtx_self (s : State) (c : CtxIx) : s.setCtx c (s.ctx c) = s := by
  simp [State.setCtx, State.ctx]

end Sys2Proof.Machine

/-!
PROOFS. The scalar instructions that wait (R33, R50, R146, R149, R154): XPOP, WAITE and BAR, then the statement O14.
-/
namespace Sys2Proof.Machine

/-! ### The arms of XPOP, WAITE and BAR -/

theorem exec_xpop (d : XReg) (s : State) : exec (.xpop d) s = execXpop d s := rfl
theorem exec_xpopWake (c : CtxIx) (s : State) : exec (.xpopWake c) s = execXpopWake c s := rfl
theorem exec_waite (s : State) : exec .waite s = execWaite s := rfl
theorem exec_waiteWake (c : CtxIx) (s : State) : exec (.waiteWake c) s = execWaiteWake c s := rfl
theorem exec_bar (c : Scope) (s : State) : exec (.bar c) s = execBar c s := rfl
theorem exec_barComplete (c : CtxIx) (s : State) : exec (.barComplete c) s = execBarComplete c s := rfl

/-! ### Taking the oldest value of the VSQ -/

theorem Scalar.pop_cons (sc : Scalar) (d : XReg) {v : Word64} {rest : List Word64} (h : sc.vsq = v :: rest) :
    sc.pop d = ({ sc with vsq := rest, vsqPops := sc.vsqPops + 1 } : Scalar).wx d v := by
  rw [Scalar.pop, h]

theorem execXpop_cons (d : XReg) (s : State) {v : Word64} {rest : List Word64} (h : s.mySc.vsq = v :: rest) :
    execXpop d s = s.scalar fun sc => sc.pop d := by
  simp [execXpop, h]
theorem execXpop_nil (d : XReg) (s : State) (h : s.mySc.vsq = []) :
    execXpop d s = .next (s.setMe { s.me with parked := some (.xpop d) }) := by
  simp [execXpop, h]
theorem execXpopWake_cons (c : CtxIx) (d : XReg) (s : State) {v : Word64} {rest : List Word64}
    (hp : (s.ctx c).parked = some (.xpop d)) (h : (s.sc c).vsq = v :: rest) : execXpopWake c s =
      .next (s.setCtx c (({ s.ctx c with parked := none } : Context).setSc ((s.sc c).pop d).retire)) := by
  have h' : (s.ctx c).regs.sc.vsq = v :: rest := h
  simp [execXpopWake, hp, h', State.sc]

/-! ### Waiting for an interrupt -/

theorem execWaiteWake_pending (c : CtxIx) (s : State) (hp : (s.ctx c).parked = some .waite) (hu : (s.sc c).ulipend ≠ 0)
    (hd : (s.sc c).uliDue = false) :
    execWaiteWake c s = .next (s.setCtx c (({ s.ctx c with parked := none } : Context).setSc (s.sc c).retire)) := by
  have hu' : (s.ctx c).regs.sc.ulipend ≠ 0 := hu
  have hd' : (s.ctx c).regs.sc.uliDue = false := hd
  simp only [execWaiteWake, hp, hu', hd', if_false, decide_false, Bool.or_self, Bool.false_eq_true, State.sc]

/-! ### Barriers within a gang launch -/

theorem execBar_alone (c : Scope) (s : State) (h : s.gangTask s.cur = none) :
    execBar c s = .next (s.scalarTrap ⟨.scope, 0, s.mySc.pc⟩) := by
  rw [execBar, h]
/-- With the lanes at rest a BAR of a gang counts its arrival, and goes on or parks. -/
theorem execBar_gang (c : Scope) (s : State) {t : TaskRef} (h : s.gangTask s.cur = some t) (hd : s.me.drained = true) :
    execBar c s = (let u := s.setMe (s.me.arrive c (· + 1))
      if u.barDone t c (u.me.bars.toList.getD (barIx c) 0) then u.scalar Scalar.endInterval
      else .next (u.setMe { u.me with parked := some (.bar c) })) := by
  rw [execBar, h]
  exact s.heldRel_drained _ hd
theorem execBarComplete_done (c : CtxIx) (l : Scope) (s : State) {t : TaskRef} (hp : (s.ctx c).parked = some (.bar l))
    (ht : (s.ctx c).task = some t) (hb : s.barDone t l ((s.ctx c).bars.toList.getD (barIx l) 0) = true) :
    execBarComplete c s =
      .next (s.setCtx c (({ s.ctx c with parked := none } : Context).setSc (s.sc c).endInterval.retire)) := by
  simp only [execBarComplete, hp, ht, hb, if_true]; rfl

end Sys2Proof.Machine

namespace Sys2Proof.Spec
open Sys2Proof.Machine

theorem xpopTakesTheOldest : XpopTakesTheOldest := by
  refine ⟨fun d s x rest h => ?takes, fun d s h => ?parks, fun c d s x rest hp h => ?wakes⟩
  case takes =>
    exact ⟨_, (exec_xpop d s).trans (execXpop_cons d s h), congrArg (fun z => s.setMySc z.retire) (s.mySc.pop_cons d h)⟩
  case parks => exact ⟨_, (exec_xpop d s).trans (execXpop_nil d s h), rfl⟩
  case wakes =>
    refine ⟨_, (exec_xpopWake c s).trans (execXpopWake_cons c d s hp h), ?_⟩
    beta_reduce
    rw [(s.sc c).pop_cons d h, State.setCtx_sc_same, State.setCtx_same]
    exact ⟨rfl, Scalar.wx_vsq _ _ _, congrArg (· + 4) (Scalar.wx_pc _ _ _), Scalar.rx_wx_same _ d x,
      fun k hk => s.setCtx_ne _ _ _ hk⟩

theorem waiteWaits : WaiteWaits := by
  refine ⟨fun s h => ?goes, fun s h => ?parks, fun c s hp hu hd => ?wakes⟩
  case goes => exact ⟨_, (exec_waite s).trans (if_neg h), rfl⟩
  case parks => exact ⟨_, (exec_waite s).trans (if_pos h), rfl⟩
  case wakes =>
    refine ⟨_, (exec_waiteWake c s).trans (execWaiteWake_pending c s hp hu hd), ?_⟩
    beta_reduce
    rw [State.setCtx_sc_same, State.setCtx_same]
    exact ⟨rfl, rfl, fun k hk => s.setCtx_ne _ _ _ hk⟩

theorem barArrivesAndCompletes : BarArrivesAndCompletes := by
  refine ⟨fun c s hg hd => ?alone, fun c s t hg hd => ?arrives, fun c l t s hp ht hb => ?wakes⟩
  case alone => exact trapsWith_of_scalarTrap .scope _ hd ((exec_bar c s).trans (execBar_alone c s hg))
  case arrives =>
    intro u k
    have he : exec (.bar c) s = if u.barDone t c k then u.scalar Scalar.endInterval
        else .next (u.setMe { u.me with parked := some (.bar c) }) := (exec_bar c s).trans (execBar_gang c s hg hd)
    have hsc : u.mySc = s.mySc := s.setMe_mySc _
    refine ⟨fun h => ⟨u.setMySc u.mySc.endInterval.retire, by rw [he, if_pos h]; rfl, by rw [hsc]⟩,
      fun h => ⟨_, by rw [he, h]; rfl, rfl⟩⟩
  case wakes =>
    refine ⟨_, (exec_barComplete c s).trans (execBarComplete_done c l s hp ht hb), ?_⟩
    beta_reduce
    rw [State.setCtx_sc_same, State.setCtx_same]
    exact ⟨rfl, rfl, rfl, fun k hk => s.setCtx_ne _ _ _ hk⟩

end Sys2Proof.Spec

namespace Sys2Proof.Proofs
open Sys2Proof.Machine Sys2Proof.Spec

/-- Settles O14: what each instruction decides, and each wake. -/
theorem waitsOfTheScalarStream : Obligations.WaitsOfTheScalarStream :=
  ⟨xpopTakesTheOldest, waiteWaits, barArrivesAndCompletes⟩

end Sys2Proof.Proofs

/-!
PROOFS. What one step runs: the scalar pipe, the lanes, events and the card without power (R42, R118, R130, R354), the selector of a
core (R43), then the lanes' choice among the entries of a context (R45, R49), and the statement O59.
-/
namespace Sys2Proof.Machine

/-! ### One step -/

theorem step_act {s : State} {a : Act} {rest : List Act} (h : s.agenda = a :: rest) :
    step s = ({ s with agenda := rest } : State).act a := by
  simp [step, State.nextAct, h]
theorem State.alive_of_power (s : State) (a : Act) (h : s.skerry.powered = true) : s.alive a = true := by
  simp [State.alive, h]
/-- An act that ends in a next state is followed by a look at the wait lists and the bindings. -/
theorem State.act_next {s t : State} {a : Act} (hl : s.alive a = true) (h : s.perform1 a = .next t) : s.act a = .next t.settle := by
  rw [State.act, if_pos hl, h]
theorem step_next {s t : State} {a : Act} {rest : List Act} (h : s.agenda = a :: rest) (hp : s.skerry.powered = true)
    (ha : ({ s with agenda := rest } : State).perform1 a = .next t) : step s = .next t.settle :=
  (step_act h).trans (State.act_next (State.alive_of_power _ a hp) ha)

/-! ### Fetching -/

theorem Context.forget_eq (x : Context) : x.forget = { x with holds := x.forget.holds } := by
  unfold Context.forget; dsimp only; split <;> rfl
theorem State.fetching_me (s : State) (c : CtxIx) : (s.fetching c).me = (s.ctx c).forget := State.setMe_me _ _
theorem State.fetching_sc (s : State) (c : CtxIx) : (s.fetching c).sc c = s.sc c := by
  rw [State.fetching, State.setCtx_sc_same, Context.forget_eq]; rfl
@[simp] theorem State.fetching_cur (s : State) (c : CtxIx) : (s.fetching c).cur = c := rfl
@[simp] theorem State.fetching_mem (s : State) (c : CtxIx) : (s.fetching c).mem = s.mem := rfl
@[simp] theorem State.fetching_choices (s : State) (c : CtxIx) : (s.fetching c).choices = s.choices := rfl

/-- A run that keeps no translations keeps none (R258). -/
theorem State.fillTlb_of_not_fill (s : State) (g : Agent) (a : Word64) (h : s.choices.fill = false) : s.fillTlb g a = s := by
  simp [State.fillTlb, h]
/-- A pc on a word boundary. -/
theorem pc_aligned {pc : Word64} (h : pc.toNat % 4 = 0) : (pc &&& 3 != 0) = false := by
  have : pc &&& 3 = 0 := by
    apply BitVec.eq_of_toNat_eq
    rw [BitVec.toNat_and]
    exact (Nat.and_two_pow_sub_one_eq_mod pc.toNat 2).trans h
  rw [this]; rfl
theorem State.fetchVal_nil (s : State) (pa n : Nat) : s.fetchVal [] pa n =
    (s.mem.le pa n, (pa / 64 * 64, s.mem.line (pa / 64 * 64)) :: if s.choices.fill then [] else []) := rfl

/-- What a fetch that succeeds is made of (R278). -/
theorem State.fetchWord_ok {s v : State} {w : Nat} (h : s.fetchWord = .ok (w, v)) : ∃ pa,
    s.fetchLoc s.scalarAgent s.mySc.pc 4 = .ok pa ∧ w = (s.fetchVal s.me.icache pa 4).1 ∧
      v = (s.fillTlb s.scalarAgent s.mySc.pc).setMe
        { (s.fillTlb s.scalarAgent s.mySc.pc).me with icache := (s.fetchVal s.me.icache pa 4).2 } := by
  unfold State.fetchWord at h
  dsimp only at h
  split at h
  · cases h
  · cases hl : s.fetchLoc s.scalarAgent s.mySc.pc 4 with
    | error t => rw [hl] at h; cases h
    | ok pa =>
      rw [hl] at h
      obtain ⟨hw, hv⟩ := Prod.mk.inj (Except.ok.inj h)
      exact ⟨pa, rfl, hw.symm, hv.symm⟩
/-- On a word boundary a fetch reads through its granule (R278, R279). -/
theorem State.fetchWord_of_loc {s : State} {pa : Nat} (ha : s.mySc.pc.toNat % 4 = 0)
    (hl : s.fetchLoc s.scalarAgent s.mySc.pc 4 = .ok pa) : s.fetchWord = .ok ((s.fetchVal s.me.icache pa 4).1,
      (s.fillTlb s.scalarAgent s.mySc.pc).setMe
        { (s.fillTlb s.scalarAgent s.mySc.pc).me with icache := (s.fetchVal s.me.icache pa 4).2 }) := by
  unfold State.fetchWord
  simp only [pc_aligned ha, hl]
  rfl
theorem State.fetchWord_mySc {s v : State} {w : Nat} (h : s.fetchWord = .ok (w, v)) : v.mySc = s.mySc := by
  obtain ⟨pa, -, -, rfl⟩ := State.fetchWord_ok h
  exact (State.setMe_mySc _ _).trans (s.fillTlb_loadKeeps _ _).mySc
theorem State.fetchWord_choices {s v : State} {w : Nat} (h : s.fetchWord = .ok (w, v)) : v.choices = s.choices := by
  obtain ⟨pa, -, -, rfl⟩ := State.fetchWord_ok h
  exact (s.fillTlb_loadKeeps _ _).choices

/-! ### What the scalar pipe does with a word -/

section Word
variable {s v : State} {w : Nat}

theorem State.runWord_error {t : Trap} (h : s.fetchWord = .error t) : s.runWord = .next (s.scalarTrap t) := by
  rw [State.runWord, h]
theorem State.runWord_defect {d : Defect} (h : s.fetchWord = .ok (w, v)) (hd : decodeS w = .error d) :
    s.runWord = .next (v.pointTrap ⟨defectCause d, 0, v.mySc.pc⟩) := by
  rw [State.runWord, h]; simp only [hd]
theorem State.runWord_ok {i : Instr} (h : s.fetchWord = .ok (w, v)) (hd : decodeS w = .ok i) (hi : v.canIssue i = true) :
    s.runWord = v.runInstr i := by
  rw [State.runWord, h]; simp only [hd, hi, if_true]

theorem State.ready_of_error {c : CtxIx} {t : Trap} (ha : s.awake c = true) (h : (s.fetching c).fetchWord = .error t) :
    s.ready c = true := by
  simp [State.ready, ha, h]
theorem State.ready_of_defect {c : CtxIx} {d : Defect} (ha : s.awake c = true) (h : (s.fetching c).fetchWord = .ok (w, v))
    (hd : decodeS w = .error d) : s.ready c = true := by
  simp [State.ready, ha, h, hd]
theorem State.ready_iff_canIssue {c : CtxIx} {i : Instr} (ha : s.awake c = true) (h : (s.fetching c).fetchWord = .ok (w, v))
    (hd : decodeS w = .ok i) : s.ready c = v.canIssue i := by
  simp [State.ready, ha, h, hd]

end Word

theorem State.awake_iff (s : State) (c : CtxIx) : s.awake c = true ↔ (s.ctx c).task.isSome = true ∧ (s.ctx c).down = false ∧
    (s.core (CtxIx.core c)).powered = true ∧ (s.ctx c).parked = none ∧ (s.sc c).uliDue = false ∧ s.stopping c = false := by
  simp [State.awake, State.sc, and_assoc]

/-- The scalar pipe of a context that is not ready lets the cycle pass. -/
theorem State.issue_late {s : State} {c : CtxIx} (ha : s.awake c = true) (hr : s.ready c = false) :
    s.perform1 (.issue c) = .next (s.tick (CtxIx.core c) []) := by
  obtain ⟨-, -, hp, -⟩ := (s.awake_iff c).1 ha
  simp [State.perform1, ha, hr, State.cycleOf, hp, State.issueAll]
/-- That of a ready context runs its word, and counts the cycle. -/
theorem State.issue_runs {s t : State} {c : CtxIx} (ha : s.awake c = true) (hr : s.ready c = true)
    (h : (s.fetching c).runWord = .next t) :
    s.perform1 (.issue c) = .next ((t.endAsked c).tick (CtxIx.core c) [(c, s.prioOf c)]) := by
  obtain ⟨-, -, hp, -⟩ := (s.awake_iff c).1 ha
  simp [State.perform1, ha, hr, State.cycleOf, hp, State.issueAll, State.issue, h]

/-! ### Words that fault whatever their registers hold -/

@[simp] theorem State.takeTrap_instret (s : State) (t : Trap) (epc : Word64) (blk : Bool) :
    (s.takeTrap s.cur s.mySc t epc blk).mySc.instret = s.mySc.instret := by
  rw [s.takeTrap_mySc]; rfl
theorem State.scalarTrap_cur (s : State) (t : Trap) : (s.scalarTrap t).cur = s.cur := by
  unfold State.scalarTrap; split <;> rfl
theorem State.pointTrap_cur (s : State) (t : Trap) : (s.pointTrap t).cur = s.cur := by
  unfold State.pointTrap; split <;> rfl
/-- A trap retires nothing (R313). -/
theorem State.scalarTrap_instret (s : State) (t : Trap) : (s.scalarTrap t).mySc.instret = s.mySc.instret := by
  unfold State.scalarTrap; split
  · exact s.takeTrap_instret _ _ _
  · rfl
theorem State.pointTrap_instret (s : State) (t : Trap) : (s.pointTrap t).mySc.instret = s.mySc.instret := by
  unfold State.pointTrap; split
  · dsimp only
    rw [State.setMe_mySc]; exact s.takeTrap_instret _ _ _
  · rfl

/-- An outcome in which the acting context has retired nothing. -/
def RetiresNothing (s : State) (r : Host.Outcome State Fault Refusal) : Prop :=
  ∀ t, r = .next t → t.cur = s.cur ∧ t.mySc.instret = s.mySc.instret

/-- Whether the number of a CSR alone refuses an access that writes or not (R83). -/
def State.csrRefused (s : State) (n : BitVec 12) (wr : Bool) : Bool :=
  match csrOf n with
  | none => true
  | some c => (c.supOnly && !s.mySc.sup) || (wr && c.ro)

theorem State.csrRefused_some (s : State) {n : BitVec 12} {wr : Bool} {c : Csr} (hc : csrOf n = some c)
    (h : s.csrRefused n wr = true) : ((c.supOnly && !s.mySc.sup) || (wr && c.ro)) = true := by
  simpa [State.csrRefused, hc] using h

section Retires
variable {s : State} {r : Host.Outcome State Fault Refusal}

theorem retiresNothing_scalarTrap {t : Trap} (h : r = .next (s.scalarTrap t)) : RetiresNothing s r := by
  subst h; rintro _ ⟨⟩; exact ⟨s.scalarTrap_cur t, s.scalarTrap_instret t⟩
theorem retiresNothing_pointTrap {t : Trap} (h : r = .next (s.pointTrap t)) : RetiresNothing s r := by
  subst h; rintro _ ⟨⟩; exact ⟨s.pointTrap_cur t, s.pointTrap_instret t⟩
theorem retiresNothing_privileged {k : Unit → Host.Outcome State Fault Refusal} (hs : (!s.mySc.sup) = true)
    (h : r = s.privileged k) : RetiresNothing s r :=
  retiresNothing_pointTrap (h.trans (if_neg (by simpa using hs)))

/-- A CSR access that the number alone refuses (R83, R143). -/
theorem retiresNothing_csr {n : BitVec 12} {rd : Option XReg} {wr : Option (Word64 → Word64)}
    (hn : ∀ c, csrOf n = some c → ((c.supOnly && !s.mySc.sup) || (wr.isSome && c.ro)) = true) (h : r = s.csr n rd wr) :
    RetiresNothing s r := by
  subst h
  unfold State.csr
  cases hc : csrOf n with
  | none => exact retiresNothing_pointTrap rfl
  | some c =>
    have := hn c hc
    simp only [Bool.or_eq_true] at this
    dsimp only
    split
    · exact retiresNothing_pointTrap rfl
    · next hp => exact retiresNothing_pointTrap (if_pos (this.resolve_left hp))

end Retires

theorem exec_tstop (o : X2) (s : State) : exec (.tstop o) s = execTstop o s := rfl
theorem exec_tlbinv (a b : XReg) (s : State) : exec (.tlbinv a b) s = execTlbinv a b s := rfl
theorem exec_sigdec (a b : XReg) (s : State) : exec (.sigdec a b) s = execSigdec a b s := rfl
theorem exec_sret (s : State) : exec .sret s = execSret s := rfl
theorem exec_uliret (s : State) : exec .uliret s = execUliret s := rfl

/-- Such a word retires nothing. -/
theorem exec_retiresNothing (i : Instr) (s : State) (h : s.faultsBare i = true) : RetiresNothing s (exec i s) := by
  cases i with
  | tstop o => exact retiresNothing_privileged h (exec_tstop o s)
  | tlbinv a b => exact retiresNothing_privileged h (exec_tlbinv a b s)
  | sigdec a b => exact retiresNothing_privileged h (exec_sigdec a b s)
  | sret => exact retiresNothing_privileged h (exec_sret s)
  | csrr d c => exact retiresNothing_csr (wr := none) (fun r hr => s.csrRefused_some hr h) rfl
  | csrw d c => exact retiresNothing_csr (wr := some _) (fun r hr => s.csrRefused_some hr h) rfl
  | csrs o c =>
    refine retiresNothing_csr (fun r hr => ?_) rfl
    have := s.csrRefused_some hr h
    by_cases ho : o.a = 0 <;> simpa [ho] using this
  | csrc o c =>
    refine retiresNothing_csr (fun r hr => ?_) rfl
    have := s.csrRefused_some hr h
    by_cases ho : o.a = 0 <;> simpa [ho] using this
  | uliret => exact retiresNothing_scalarTrap ((exec_uliret s).trans (if_neg fun hi => by
      rw [show s.faultsBare .uliret = !s.mySc.ulinh from rfl, hi] at h; exact Bool.noConfusion h))
  | vsetl o t => exact retiresNothing_scalarTrap (s.setLen_illegal (.vsetl o t) o.d o.a _ (Bool.not_eq_true' _ ▸ h))
  | setfib o mo t => exact retiresNothing_scalarTrap (execSetfib_illegal o mo t s (Bool.not_eq_true' _ ▸ h))
  | _ => exact Bool.noConfusion h

/-! ### Translations that are kept -/

theorem State.fillAddrs_loadKeeps (s : State) (g : Agent) (as : List Word64) : LoadKeeps s (s.fillAddrs g as) := by
  unfold State.fillAddrs
  split
  · induction as generalizing s with
    | nil => exact .refl s
    | cons a as ih => exact (s.fillTlb_loadKeeps g a).trans (by
        simpa using ih (s.fillTlb g a) (by rwa [(s.fillTlb_loadKeeps g a).choices]))
  · exact .refl s
theorem State.keepXlates_loadKeeps (s t : State) (i : Instr) : LoadKeeps t (s.keepXlates t i) := by
  have fill : ∀ (l : List (Agent × List Word64)) (t : State), LoadKeeps t (l.foldl (fun t p => t.fillAddrs p.1 p.2) t) := by
    intro l
    induction l with
    | nil => exact fun t => .refl t
    | cons p l ih => exact fun t => (t.fillAddrs_loadKeeps p.1 p.2).trans (ih _)
  unfold State.keepXlates
  split
  · exact fill _ t
  · exact .refl t
theorem State.keepXlates_of_not_fill (s t : State) (i : Instr) (h : s.choices.fill = false) : s.keepXlates t i = t := by
  simp [State.keepXlates, h]

/-- An instruction that finds no error in a register leaves what `exec` says, with the translations kept. -/
theorem State.runInstr_next {s t : State} {i : Instr} (hd : s.deadlocked i = false)
    (hb : s.me.badRegs = [] ∨ s.faultsBare i = true) (h : exec i s = .next t) : s.runInstr i = .next (s.keepXlates t i) := by
  have hk := s.keepXlates_loadKeeps t i
  have hn : (!s.me.badRegs.isEmpty && !s.faultsBare i && s.me.badSource i) = false := by
    rcases hb with hb | hb <;> simp [hb]
  have hr : (s.me.badRegs.isEmpty || ((s.keepXlates t i).sc s.cur).instret == s.mySc.instret) = true := by
    rcases hb with hb | hb
    · simp [hb]
    · obtain ⟨hc, hi⟩ := exec_retiresNothing i s hb t h
      have : (s.keepXlates t i).sc s.cur = t.mySc := by
        rw [State.sc, hk.ctx, ← hc]; rfl
      simp [this, hi]
  simp only [State.runInstr, hd, hn, h, hr, if_true, Bool.false_eq_true, if_false]
theorem State.runInstr_deadlocked {s : State} {i : Instr} (h : s.deadlocked i = true) : s.runInstr i = s.deadlockTrap := by
  rw [State.runInstr, if_pos h]

/-! ### The lanes and events -/

/-- The lanes of a context with a block in flight take its next word. -/
theorem State.lanes_block {s : State} {c : CtxIx} {b : Block} {w : BitVec 64}
    (hb : (s.ctx c).block = some b) (hw : b.words[b.pos]? = some w) :
    s.lanes c = ({ s with cur := c } : State).blockWord b w := by
  have hb' : ({ s with cur := c } : State).me.block = some b := hb
  simp only [State.lanes, hb', hw]

section BlockWord
variable {u t : State} {b : Block} {w : BitVec 64} {i : Instr} (hd : decodeE w.toNat = .ok i) (hg : u.wordBad b i = [])
  (h : exec i u = .next t)
include hd hg h

theorem State.blockWord_ok : u.blockWord b w =
    .next (if t.me.block.isNone && u.me.viq.any (·.passed.isSome) then u.perform 0 else t) := by
  simp only [State.blockWord, hd, hg, State.wordStruck, h]
/-- A word that leaves the block in flight, or nothing older, is all that happens. -/
theorem State.blockWord_goes (ho : t.me.block ≠ none ∨ ∀ e ∈ u.me.viq, e.passed = none) : u.blockWord b w = .next t := by
  rw [State.blockWord_ok hd hg h, if_neg]
  rcases ho with ho | ho
  · simp [ho]
  · simpa using fun _ => ho
/-- Before a word that ends the block the older entries that have passed their fault points complete (R47). -/
theorem State.blockWord_ends (hn : t.me.block = none) (ho : ∃ e ∈ u.me.viq, e.passed ≠ none) :
    u.blockWord b w = .next (u.perform 0) := by
  rw [State.blockWord_ok hd hg h, if_pos]
  simpa [hn, Option.isSome_iff_ne_none] using ho

end BlockWord

theorem State.event_of_isEvent {i : Instr} (s : State) (h : isEvent i = true) : s.event i = exec i s := if_pos h

/-- Without power an act that does not bring it back leaves the state as it is (R354). -/
theorem State.act_off (s : State) (a : Act) (hp : s.skerry.powered = false) (ha : ∀ f x, a ≠ .event (.cardPowerOn f x)) :
    s.act a = .next s := by
  have : s.alive a = false := by
    unfold State.alive
    rw [hp]
    split
    · next f x => exact absurd rfl (ha f x)
    · rfl
  simp [State.act, this]

end Sys2Proof.Machine

namespace Sys2Proof.Spec
open Sys2Proof.Machine

theorem stepRunsTheDecodedInstruction : StepRunsTheDecodedInstruction := by
  intro s c rest r u on after
  refine ⟨fun ha h hw => ?asleep, fun ha h hw => ⟨s.fetching_sc c, rfl, rfl, ?runs, ?deadlock, ?late, ?defect, ?noFetch, ?fetch⟩,
    fun ha h => ?lanes, fun i t ha h hi he => ?event, fun f x t ha he => ?power, fun h => ⟨fun ha => ?idle, fun a ha hn => ?off⟩⟩
  case asleep => exact step_next ha h (by simp [State.perform1, r, hw])
  case runs =>
    intro w v i t hf hd hi hl hb he
    have hr : r.ready c = true := (State.ready_iff_canIssue hw hf hd).trans hi
    refine ⟨step_next ha h (State.issue_runs hw hr ?_), fun hc => v.keepXlates_of_not_fill t i ?_⟩
    · exact (State.runWord_ok hf hd hi).trans (State.runInstr_next hl hb he)
    · exact (congrArg (·.fill) (State.fetchWord_choices hf)).trans hc
  case deadlock =>
    intro w v i hf hd hl
    have hi : v.canIssue i = true := by simp [State.canIssue, hl]
    have hr : r.ready c = true := (State.ready_iff_canIssue hw hf hd).trans hi
    refine ⟨_, step_next ha h (State.issue_runs hw hr ((State.runWord_ok hf hd hi).trans (State.runInstr_deadlocked hl))), ?_⟩
    have hsc := v.setSc_sc v.cur (v.mySc.clearVtf.enterTrap ⟨.illegal, 0, v.mySc.pc⟩ v.mySc.pc false)
    have hme := v.setSc_ctx v.cur (v.mySc.clearVtf.enterTrap ⟨.illegal, 0, v.mySc.pc⟩ v.mySc.pc false)
    rw [State.mySc, State.me, State.setSc_cur, hsc, hme]
    exact ⟨rfl, rfl, rfl, rfl, rfl, rfl, rfl⟩
  case late =>
    intro w v i hf hd hi
    exact step_next ha h (State.issue_late hw ((State.ready_iff_canIssue hw hf hd).trans hi))
  case defect =>
    intro w v d hf hd
    exact step_next ha h (State.issue_runs hw (State.ready_of_defect hw hf hd) (State.runWord_defect hf hd))
  case noFetch =>
    intro t hf
    exact step_next ha h (State.issue_runs hw (State.ready_of_error hw hf) (State.runWord_error hf))
  case fetch =>
    intro pa hpc hl hi hc
    have hfill : u.fillTlb u.scalarAgent u.mySc.pc = u := u.fillTlb_of_not_fill _ _ hc
    refine ⟨_, (State.fetchWord_of_loc hpc hl).trans (by rw [hi, hfill]; rfl), ?_⟩
    rw [State.setMe_me]
  case lanes =>
    intro u b w i t hb hw hd hg he
    have hl := State.lanes_block (s := { r with laneTurn := c }) hb hw
    exact ⟨fun ho => step_next ha h (hl.trans (State.blockWord_goes hd hg he ho)),
      fun hn ho => step_next ha h (hl.trans (State.blockWord_ends hd hg he hn ho))⟩
  case event => exact step_next ha h ((r.event_of_isEvent hi).trans he)
  case power => exact (step_act ha).trans (State.act_next (by simp [State.alive]) ((r.event_of_isEvent rfl).trans he))
  case idle =>
    have : s.skerry.powered = false := Bool.eq_false_iff.2 h
    simp [step, State.nextAct, ha, this]
  case off => exact (step_act ha).trans (r.act_off a (Bool.eq_false_iff.2 h) hn)

end Sys2Proof.Spec

/-!
PROOFS. The selector of a core (R42, R43).
-/
namespace Sys2Proof.Machine

theorem mem_coreCtxs (k : CoreIx) (c : CtxIx) : c ∈ coreCtxs k ↔ CtxIx.core c = k := by
  simp only [coreCtxs, List.mem_map, List.mem_finRange, true_and, CtxIx.core, Fin.ext_iff]
  exact ⟨fun ⟨j, h⟩ => by omega, fun h => ⟨⟨c.val % 8, Nat.mod_lt _ (by decide)⟩, by simp only; omega⟩⟩

/-- A running maximum bounds what it has seen, and is its start or one of them. -/
theorem foldl_max_spec {α : Type} (f : α → Nat) (l : List α) : ∀ a,
    let m := l.foldl (fun m c => Nat.max m (f c)) a
    a ≤ m ∧ (∀ c ∈ l, f c ≤ m) ∧ (m = a ∨ ∃ c ∈ l, f c = m) := by
  induction l with
  | nil => intro a; simp
  | cons x l ih =>
    intro a
    obtain ⟨ha, hl, hm⟩ := ih (Nat.max a (f x))
    have hax : a ≤ Nat.max a (f x) ∧ f x ≤ Nat.max a (f x) := ⟨Nat.le_max_left _ _, Nat.le_max_right _ _⟩
    refine ⟨hax.1.trans ha, ?_, ?_⟩
    · simp only [List.mem_cons, forall_eq_or_imp]
      exact ⟨hax.2.trans ha, hl⟩
    · rcases hm with hm | ⟨c, hc, he⟩
      · rcases Nat.le_total a (f x) with h | h
        · exact .inr ⟨x, List.mem_cons_self, (Nat.max_eq_right h).symm.trans hm.symm⟩
        · exact .inl (hm.trans (Nat.max_eq_left h))
      · exact .inr ⟨c, List.mem_cons_of_mem _ hc, he⟩
theorem exists_foldl_max {α : Type} (f : α → Nat) {l : List α} (h : l ≠ []) :
    ∃ c ∈ l, f c = l.foldl (fun m c => Nat.max m (f c)) 0 := by
  obtain ⟨-, hl, hm⟩ := foldl_max_spec f l 0
  rcases hm with hm | hm
  · obtain ⟨c, hc⟩ := List.exists_mem_of_ne_nil l h
    exact ⟨c, hc, by have := hl c hc; omega⟩
  · exact hm

/-- Among contexts that have waited too long the selector finds the longest. -/
theorem exists_longest {l : List CtxIx} (f : CtxIx → Nat) (h : l ≠ []) :
    (l.find? fun c => l.all fun d => decide (f d ≤ f c)) ≠ none := by
  obtain ⟨c, hc, hm⟩ := l.toFinset.exists_max_image f (List.toFinset_nonempty_iff l |>.2 h)
  have hc := List.mem_toFinset.1 hc
  intro hn
  have := List.find?_eq_none.1 hn c hc
  simp only [List.all_eq_true, decide_eq_true_eq] at this
  exact this fun d hd => hm d (List.mem_toFinset.2 hd)

/-- The first that a test selects, else the head. -/
theorem find_or_head {α : Type} (l : List α) (q : α → Bool) :
    ((l.find? q <|> l.head?) = none ↔ l = []) ∧ ∀ a, (l.find? q <|> l.head?) = some a → a ∈ l := by
  cases hf : l.find? q with
  | some b =>
    have hb := List.mem_of_find?_eq_some hf
    exact ⟨⟨(fun h => nomatch h), fun h => absurd hb (h ▸ List.not_mem_nil)⟩, by rintro _ ⟨⟩; exact hb⟩
  | none => exact ⟨List.head?_eq_none_iff, fun a h => List.mem_of_head? h⟩

section Select
variable (s : State) (k : CoreIx) (p : CtxIx → Bool)

/-- A context that the selector of `k` may pick among those that `p` selects. -/
def State.candidate (c : CtxIx) : Prop := CtxIx.core c = k ∧ p c = true ∧ s.ready c = true

/-- What the selector picks: nothing when there is no candidate; else a candidate, the one that has waited longest where one has
waited 12 cycles, and one of the highest class where none has (R43). -/
theorem State.select_spec :
    (s.select k p = none ↔ ∀ c, ¬ s.candidate k p c) ∧
    ∀ a, s.select k p = some a → s.candidate k p a ∧
      (∀ d, s.candidate k p d → 12 ≤ (s.ctx d).waited → (s.ctx d).waited ≤ (s.ctx a).waited) ∧
      ((∀ d, s.candidate k p d → (s.ctx d).waited < 12) → ∀ d, s.candidate k p d → s.prioOf d ≤ s.prioOf a) := by
  have hrs : ∀ c, c ∈ (coreCtxs k).filter (fun c => p c && s.ready c) ↔ s.candidate k p c := fun c => by
    rw [List.mem_filter, mem_coreCtxs, Bool.and_eq_true, State.candidate]
  unfold State.select
  generalize (coreCtxs k).filter (fun c => p c && s.ready c) = rs at hrs
  have hlate : ∀ c, c ∈ rs.filter (fun c => decide (12 ≤ (s.ctx c).waited)) ↔ s.candidate k p c ∧ 12 ≤ (s.ctx c).waited := fun c => by
    rw [List.mem_filter, hrs, decide_eq_true_eq]
  dsimp only
  cases hf : (rs.filter fun c => decide (12 ≤ (s.ctx c).waited)).find? fun c =>
      (rs.filter fun c => decide (12 ≤ (s.ctx c).waited)).all fun d => decide ((s.ctx d).waited ≤ (s.ctx c).waited) with
  | some c =>
    obtain ⟨hc, hw⟩ := (hlate c).1 (List.mem_of_find?_eq_some hf)
    have hall := List.find?_some hf
    simp only [List.all_eq_true, decide_eq_true_eq] at hall
    refine ⟨⟨(fun h => nomatch h), fun h => absurd hc (h c)⟩, ?_⟩
    rintro _ ⟨⟩
    exact ⟨hc, fun d hd h12 => hall d ((hlate d).2 ⟨hd, h12⟩), fun h => absurd (h c hc) (by omega)⟩
  | none =>
    have hnone : ∀ d, s.candidate k p d → (s.ctx d).waited < 12 := by
      intro d hd
      by_contra h12
      refine exists_longest (fun c => (s.ctx c).waited) (List.ne_nil_of_mem ((hlate d).2 ⟨hd, by omega⟩)) hf
    obtain ⟨-, hmax, -⟩ := foldl_max_spec s.prioOf rs 0
    have htop : ∀ c, c ∈ rs.filter (fun c => s.prioOf c == rs.foldl (fun m c => Nat.max m (s.prioOf c)) 0) →
        s.candidate k p c ∧ ∀ d, s.candidate k p d → s.prioOf d ≤ s.prioOf c := by
      intro c hc
      obtain ⟨hm, he⟩ := List.mem_filter.1 hc
      exact ⟨(hrs c).1 hm, fun d hd => beq_iff_eq.1 he ▸ hmax d ((hrs d).2 hd)⟩
    refine ⟨(find_or_head _ _).1.trans ⟨fun h c hc => ?_, fun h => ?_⟩, fun a ha => ?_⟩
    · obtain ⟨m, hm, he⟩ := exists_foldl_max s.prioOf (List.ne_nil_of_mem ((hrs c).2 hc))
      have hm' : m ∈ rs.filter (fun c => s.prioOf c == rs.foldl (fun m c => Nat.max m (s.prioOf c)) 0) :=
        List.mem_filter.2 ⟨hm, beq_iff_eq.2 he⟩
      exact List.ne_nil_of_mem hm' h
    · exact List.eq_nil_iff_forall_not_mem.2 fun c hc => h c (htop c hc).1
    · obtain ⟨hc, hp⟩ := htop a ((find_or_head _ _).2 a ha)
      exact ⟨hc, fun d hd h12 => absurd (hnone d hd) (by omega), fun _ => hp⟩

end Select

/-- A scalar cycle of a core with power (R43, R85). -/
theorem State.cycle_runs {s t : State} {k : CoreIx} {late : List CtxIx} (hp : (s.core k).powered = true)
    (h : s.issueAll (s.slots2 k late) = .next t) :
    s.perform1 (.cycle k late) = .next (t.tick k ((s.slots2 k late).map fun c => (c, s.prioOf c))) := by
  simp [State.perform1, State.cycleOf, hp, h]

end Sys2Proof.Machine

namespace Sys2Proof.Spec
open Sys2Proof.Machine

theorem selectorFillsTheSlots : SelectorFillsTheSlots := by
  refine ⟨fun s c h => ?ready, fun s k late => ?slots, fun s k late rest t ha hp hk => ?cycle⟩
  case ready =>
    have hw : s.awake c = true := by
      unfold State.ready at h
      exact (Bool.and_eq_true_iff.1 h).1
    obtain ⟨ht, -, hk, hn, hu, -⟩ := (s.awake_iff c).1 hw
    exact ⟨ht, hk, hn, hu⟩
  case slots =>
    intro rs
    have hfirst : ∀ d, s.candidate k (fun d => !late.contains d) d ↔ rs d := fun d => by
      simp [State.candidate, rs, and_comm, and_left_comm]
    have hsecond : ∀ c d, s.candidate k (fun d => d != c && !late.contains d) d ↔ rs d ∧ d ≠ c := fun c d => by
      simp [State.candidate, rs, and_assoc, and_comm, and_left_comm]
    obtain ⟨hnone, hsome⟩ := s.select_spec k fun d => !late.contains d
    unfold State.slots2
    cases h1 : s.select k fun d => !late.contains d with
    | none => exact ⟨⟨fun _ c hc => hnone.1 h1 c ((hfirst c).2 hc), fun _ => rfl⟩, fun a l h => nomatch h⟩
    | some c =>
      obtain ⟨hc, hwait, hprio⟩ := hsome c h1
      simp only [hfirst] at hc hwait hprio
      refine ⟨⟨(fun h => nomatch h), fun h => absurd hc (h c)⟩, ?_⟩
      rintro _ _ ⟨⟩
      obtain ⟨hnone2, hsome2⟩ := s.select_spec k fun d => d != c && !late.contains d
      refine ⟨hc, hwait, hprio, fun h => ?_, fun d hd hne => ?_⟩
      · rw [hnone2.2 fun d hd => ((hsecond c d).1 hd).2 (h d ((hsecond c d).1 hd).1)]; rfl
      · cases h2 : s.select k fun d => d != c && !late.contains d with
        | none => exact absurd ((hsecond c d).2 ⟨hd, hne⟩) (hnone2.1 h2 d)
        | some b =>
          obtain ⟨hb, hbc⟩ := (hsecond c b).1 (hsome2 b h2).1
          exact ⟨b, rfl, hb, hbc⟩
  case cycle => exact fun hi => step_next ha hp (State.cycle_runs hk hi)

end Sys2Proof.Spec

/-! PROOFS. What an access to memory, a register or an object leaves as it was: the contexts, the launches and their bindings. -/
namespace Sys2Proof.Machine

/-- The part of a state that holds tasks, as against memory and what caches it: the contexts and which of them acts, the launches,
the bindings, and the weight images that wait to become current (R238). -/
structure Tasks where
  ctxs     : Vector Context 1536
  cur      : CtxIx
  launches : List Launch
  readySeq : Nat
  binds    : List (CtxIx × Binding)
  images   : QuadIx → Option (WeightImage × CtxIx)

/-- The tasks of a state. -/
def State.tasks (s : State) : Tasks := ⟨s.ctxs, s.cur, s.launches, s.readySeq, s.binds, fun q => (s.quad q).wnext⟩

theorem State.ctxs_of_tasks {s t : State} (h : t.tasks = s.tasks) : t.ctxs = s.ctxs := congrArg Tasks.ctxs h
theorem State.cur_of_tasks {s t : State} (h : t.tasks = s.tasks) : t.cur = s.cur := congrArg Tasks.cur h
theorem State.launches_of_tasks {s t : State} (h : t.tasks = s.tasks) : t.launches = s.launches := congrArg Tasks.launches h
theorem State.binds_of_tasks {s t : State} (h : t.tasks = s.tasks) : t.binds = s.binds := congrArg Tasks.binds h

@[simp] theorem State.setCore_tasks (s : State) (k : CoreIx) (x : Core) : (s.setCore k x).tasks = s.tasks := rfl
@[simp] theorem State.setDie_tasks (s : State) (d : DieIx) (x : Die) : (s.setDie d x).tasks = s.tasks := rfl
theorem State.images_of_tasks {s t : State} (h : t.tasks = s.tasks) (q : QuadIx) : (t.quad q).wnext = (s.quad q).wnext :=
  congrFun (congrArg Tasks.images h) q

theorem State.setQuad_tasks (s : State) (q : QuadIx) {x : Quad} (hx : x.wnext = (s.quad q).wnext) : (s.setQuad q x).tasks = s.tasks := by
  have hq (p : QuadIx) : ((s.setQuad q x).quad p).wnext = (s.quad p).wnext := by
    rw [State.setQuad_eq]; split
    · next h => rw [hx, h]
    · rfl
  simp only [State.tasks, hq]; rfl
@[simp] theorem State.setPort_tasks (s : State) (p : PortIx) (x : Port) : (s.setPort p x).tasks = s.tasks := rfl
@[simp] theorem State.markClean_tasks (s : State) (l : Loc) : (s.markClean l).tasks = s.tasks := rfl
@[simp] theorem State.homeWrite_tasks (s : State) (pa : Nat) (bs : List Byte) : (s.homeWrite pa bs).tasks = s.tasks := rfl
@[simp] theorem State.throughPort_tasks (s : State) (old : List (Nat × Byte)) (pa n : Nat) :
    (s.throughPort old pa n).tasks = s.tasks := rfl
@[simp] theorem State.unpark_tasks (s : State) (c : CtxIx) : (s.unpark c).tasks = s.tasks := rfl

@[simp] theorem State.holmStore_tasks (s : State) (c : Option CoreIx) (pa : Nat) (bs : List Byte) :
    (s.holmStore c pa bs).tasks = s.tasks := by
  unfold State.holmStore; split_ifs <;> rfl

@[simp] theorem State.storePhys_tasks (s : State) (c : Option CoreIx) (pa : Nat) (bs : List Byte) :
    (s.storePhys c pa bs).tasks = s.tasks := by
  cases c <;> exact State.holmStore_tasks _ _ _ _

@[simp] theorem State.storeLoc_tasks (s : State) (c : Option CoreIx) (l : Loc) (bs : List Byte) :
    (s.storeLoc c l bs).tasks = s.tasks := by
  cases l <;> simp [State.storeLoc]

@[simp] theorem State.homeStore_tasks (s : State) (l : Loc) (bs : List Byte) : (s.homeStore l bs).tasks = s.tasks := by
  cases l <;> simp [State.homeStore]

@[simp] theorem State.persist_tasks (s : State) (l : Loc) (n : Nat) : (s.persist l n).tasks = s.tasks := by
  unfold State.persist; split <;> rfl

@[simp] theorem State.putQcb_tasks (s : State) (l : Loc) (q : Qcb) : (s.putQcb l q).tasks = s.tasks := by
  unfold State.putQcb; split_ifs <;> simp

@[simp] theorem State.setWait_tasks (s : State) (l : Loc) : (s.setWait l).tasks = s.tasks := by
  dsimp only [State.setWait]; split_ifs <;> simp

@[simp] theorem State.qTest_tasks (s : State) (l : Loc) (a : QAgent) : (s.qTest l a).1.tasks = s.tasks := by
  dsimp only [State.qTest]; split_ifs <;> simp

@[simp] theorem State.storeChunks_tasks (s : State) (c : Option CoreIx) (ck : Nat) (p : Bool) (ls : List Loc) (bs : List Byte) :
    (s.storeChunks c ck p ls bs).tasks = s.tasks := by
  induction ls generalizing s bs with
  | nil => rfl
  | cons l ls ih => rw [State.storeChunks, ih]; split_ifs <;> simp

theorem ite_tasks {p : Prop} [Decidable p] {s t u : State} (ht : t.tasks = s.tasks) (hu : u.tasks = s.tasks) :
    (if p then t else u).tasks = s.tasks := by
  split_ifs <;> assumption

theorem foldl_tasks {α : Type} (f : State → α → State) (hf : ∀ s x, (f s x).tasks = s.tasks) (xs : List α) (s : State) :
    (xs.foldl f s).tasks = s.tasks := by
  induction xs generalizing s with
  | nil => rfl
  | cons x xs ih => rw [List.foldl_cons, ih, hf]

@[simp] theorem State.qPark_tasks (s : State) (l : Loc) (r : QReq) : (s.qPark l r).tasks = s.tasks := by
  unfold State.qPark
  split
  · rfl
  · split_ifs
    · rfl
    · exact State.setWait_tasks _ _

/-- The state in which a queue operation leaves the machine. -/
def QOut.state : QOut → State
  | .fault s _ | .park s | .grant s _ _ => s

theorem State.qStep_tasks (s : State) (l : Loc) (a : Word64) (r : QReq) (q : Qcb) (sl : List (List Loc)) (bl : List Loc) :
    (s.qStep l a r q sl bl).state.tasks = s.tasks := by
  have hu (c : Option CtxIx) : (match c with | some c => s.unpark c | none => s : State).tasks = s.tasks := by cases c <;> rfl
  obtain ⟨enq, n, blk, form, ctx⟩ := r
  unfold State.qStep
  extract_lets avail limit ahead
  split
  · rfl
  · split
    · rfl
    · split
      · exact State.qPark_tasks _ _ _
      · dsimp only [QOut.state]
        refine (State.putQcb_tasks _ _ _).trans ?_
        refine ite_tasks ((foldl_tasks _ (fun _ _ => State.storeChunks_tasks _ _ _ _ _ _) _ _).trans (hu ctx)) ?_
        cases form with
        | m b g => exact ite_tasks (hu ctx) ((State.storeChunks_tasks _ _ _ _ _ _).trans (hu ctx))
        | x v => exact hu ctx
        | v ew v => exact hu ctx
        | raw bs => exact hu ctx

/-- A queue operation touches no task, however it ends. -/
theorem State.qOp_tasks (s : State) (ag : QAgent) (a : Word64) (r : QReq) : (s.qOp ag a r).state.tasks = s.tasks := by
  unfold State.qOp
  split
  · rfl
  · next l _ =>
    dsimp only
    have hT := s.qTest_tasks l ag
    split
    · exact hT
    · split
      · exact hT
      · split
        · exact hT
        · split
          · exact hT
          · split
            · exact hT
            · exact (State.qStep_tasks _ _ _ _ _ _ _).trans hT

/-! ### Records and signal objects -/

@[simp] theorem State.faultRecord_tasks (s : State) (d : DieIx) (r : FaultRec) : (s.faultRecord d r).tasks = s.tasks := by
  have hend (o : QOut) : o.state.tasks = s.tasks → (match o with
      | .grant s' g _ => if g = 0 then s'.setDie d (s'.die d).lose else s'
      | .fault s' _ | .park s' => s'.setDie d (s'.die d).lose : State).tasks = s.tasks := by
    intro ho
    cases o with
    | fault t _ => exact ho
    | park t => exact ho
    | grant t g _ => dsimp only; split <;> exact ho
  dsimp only [State.faultRecord]
  split
  · rfl
  · exact hend _ (State.qOp_tasks _ _ _ _)

@[simp] theorem State.ctxRecord_tasks (s : State) (c : CtxIx) (r : FaultRec) : (s.ctxRecord c r).tasks = s.tasks :=
  State.faultRecord_tasks _ _ _

@[simp] theorem State.signalSub_tasks (s : State) (l : Loc) (b : Nat) : (s.signalSub l b).tasks = s.tasks :=
  State.homeStore_tasks _ _ _

@[simp] theorem State.signalFail_tasks (s : State) (l : Loc) : (s.signalFail l).tasks = s.tasks := State.homeStore_tasks _ _ _

@[simp] theorem State.signalWrite_tasks (s : State) (d : DieIx) (g : Agent) (va : Word64) (tag : BitVec 16) (f : Bool) :
    (s.signalWrite d g va tag f).tasks = s.tasks := by
  unfold State.signalWrite
  dsimp only
  split
  · rfl
  · split <;> [skip; split_ifs] <;> simp

@[simp] theorem State.reject_tasks (s : State) (d : DieIx) (g : Agent) (va : Word64) (tag : BitVec 16) (n : Nat) :
    (s.reject d g va tag n).tasks = s.tasks := by
  simp [State.reject]

end Sys2Proof.Machine

/-! PROOFS. O39: launch records and dependences (R26, R27, R34, R36, R41). -/
namespace Sys2Proof.Machine

/-- A list of tests answers no defect exactly where no test of it does. -/
theorem ite_some_eq_none_iff {p : Prop} [Decidable p] {n : Nat} {o : Option Nat} :
    (if p then some n else o) = none ↔ ¬ p ∧ o = none := by
  split_ifs with h <;> simp [h]

theorem bits_lt (x l n : Nat) : bits x l n < 2 ^ n := Nat.mod_lt _ (Nat.two_pow_pos n)

/-- The conditions of R27, one for each test, on the fields of a record. -/
theorem State.rejectReason_eq_none_iff (s : State) (d : DieIx) (r : LaunchRec) :
    s.rejectReason d r = none ↔
      (r.ver = 1 ∧ r.rsv = 0) ∧
      ((1 ≤ r.tpc ∧ r.tpc ≤ 8) ∧ (1 ≤ r.cpq ∧ r.cpq ≤ 4) ∧ (1 ≤ r.qpd ∧ r.qpd ≤ 12) ∧ (1 ≤ r.dies ∧ r.dies ≤ 4)) ∧
      r.count ≠ 0 ∧ (r.gang = true → r.count = r.tpc * r.cpq * r.qpd * r.dies) ∧
      (r.image % 64 = 0 ∧ r.entry % 4 = 0 ∧ r.signal % 8 = 0 ∧ r.dep % 32 = 0) ∧
      (r.b0 % 20 = 0 ∧ r.tpc ≤ r.b0 / 20 ∧ r.b0 / 20 ≤ 8 ∧ r.b0 ≤ r.b1 ∧ r.b1 ≤ r.b2 ∧ r.b2 ≤ 1008) ∧
      (s.spaceEntry d r.space).isSome = true := by
  simp only [State.rejectReason, ite_some_eq_none_iff, Bool.or_eq_true, Bool.and_eq_true, Bool.not_eq_true', bne_iff_ne,
    beq_iff_eq, decide_eq_true_eq, not_or, not_and, not_not, not_lt, ne_eq, Bool.and_eq_false_iff, decide_eq_false_iff_not,
    Option.isNone_iff_eq_none, Option.isSome_iff_ne_none]
  constructor <;> intro h
  · obtain ⟨h1, h2, h3, h4, h5, h6, h7, -⟩ := h
    refine ⟨h1, ?_, h3, h4, ?_, ?_, h7⟩
    · omega
    · omega
    · omega
  · obtain ⟨h1, h2, h3, h4, h5, h6, h7⟩ := h
    refine ⟨h1, ?_, h3, h4, ?_, ?_, h7, trivial⟩
    · omega
    · omega
    · omega

/-! ### Dequeuing -/

/-- The launch that an accepted record becomes (R34, R36, R41). -/
def LaunchRec.launch (r : LaunchRec) (d : DieIx) (sp : Word64 × Word64) (seq : Nat) : Launch where
  die := d
  image := BitVec.ofNat 64 r.image
  entry := BitVec.ofNat 32 r.entry
  count := r.count
  tpc := r.tpc
  cpq := r.cpq
  qpd := r.qpd
  dies := r.dies
  gang := r.gang
  prio := r.prio
  tag := BitVec.ofNat 16 r.tag
  pool0 := r.b0
  pool1 := r.b1
  pool2 := r.b2
  arg := BitVec.ofNat 64 r.arg
  signal := BitVec.ofNat 64 r.signal
  dep := BitVec.ofNat 64 r.dep
  token := BitVec.ofNat 32 r.token
  satp := sp.1
  stvec := sp.2
  st := if r.dep = 0 then .ready else .waiting
  readyAt := seq
  next := 0
  ended := []
  failed := false
  favoured := false
  bound := []
  saved := []

theorem State.acceptLaunch_good {s : State} {d : DieIx} {r : LaunchRec} {sp : Word64 × Word64}
    (hr : s.rejectReason d r = none) (hsp : s.spaceEntry d r.space = some sp) :
    s.acceptLaunch d r = { s with launches := s.launches ++ [r.launch d sp s.readySeq], readySeq := s.readySeq + 1 } := by
  simp only [State.acceptLaunch, hr, hsp]; rfl

theorem State.acceptLaunch_bad {s : State} {d : DieIx} {r : LaunchRec} {n : Nat} (hr : s.rejectReason d r = some n) :
    (s.acceptLaunch d r).tasks = s.tasks := by
  simp only [State.acceptLaunch, hr, State.reject_tasks]

/-- When the dispatch unit of a die may dequeue (R34, R36, R354, R359). -/
def State.mayDequeue (s : State) (d : DieIx) : Prop :=
  (s.die d).lqWritten = true ∧ s.skerry.powered = true ∧ (s.die d).lqStopped = false ∧ s.depn d < 64 ∧
    ∀ c, CtxIx.die c = d → (s.ctx c).down = false

/-- The dequeue of one record from the launch queue of a die. -/
def State.dequeueOut (s : State) (d : DieIx) : QOut :=
  s.qOp ⟨s.dieAgent d, some d⟩ (s.die d).lqb ⟨false, 1, false, .raw (List.replicate 64 0), none⟩

theorem State.dequeue_blocked_iff (s : State) (d : DieIx) :
    (!(s.die d).lqWritten || !s.skerry.powered || (s.die d).lqStopped || decide (64 ≤ s.depn d) ||
      (List.finRange 1536).any fun c => CtxIx.die c == d && (s.ctx c).down) = true ↔ ¬ s.mayDequeue d := by
  simp only [State.mayDequeue, Bool.or_eq_true, Bool.not_eq_true', decide_eq_true_eq, List.any_eq_true, List.mem_finRange, true_and,
    Bool.and_eq_true, beq_iff_eq, not_and_or, Bool.not_eq_true, not_lt, not_forall, Bool.not_eq_false, exists_prop]
  tauto

theorem exec_launchDequeue_blocked {s : State} {d : DieIx} (h : ¬ s.mayDequeue d) : exec (.launchDequeue d) s = .next s := by
  show execLaunchDequeue d s = _
  unfold execLaunchDequeue
  exact if_pos ((s.dequeue_blocked_iff d).mpr h)

theorem exec_launchDequeue_may {s : State} {d : DieIx} (h : s.mayDequeue d) :
    exec (.launchDequeue d) s = match s.dequeueOut d with
      | .fault u t =>
        let v := u.faultRecord d { kind := 11, cause := t.cause.code, va := (s.die d).lqb }
        .next (v.setDie d { v.die d with lqStopped := true })
      | .park u => .next u
      | .grant u g els => .next (if g = 0 then u else u.acceptLaunch d (.ofNat (leNat (els.headD [])))) := by
  show execLaunchDequeue d s = _
  unfold execLaunchDequeue
  exact if_neg fun hb => (s.dequeue_blocked_iff d).mp hb h

/-! ### Dependences -/

theorem exec_dependenceReady {s : State} {d : DieIx} {i : Nat} {l : Launch} (hl : s.launches[i]? = some l) (hd : l.die = d)
    (hw : l.st = .waiting) : exec (.dependenceReady d i) s =
      let rej := fun reason => (s.onLaunch i fun l => { l with st := .rejected }).reject d l.agent l.signal l.tag reason
      match s.objLoc l.agent l.dep 32 .read with
      | .error _ => .next (rej 9)
      | .ok loc =>
        let o := s.barAt loc
        if !o.valid then .next (rej 9)
        else
          let k := phaseDist o.phase l.token
          if k = 0 then .next s
          else if k ≤ 2 ^ 31 then
            .next ({ s with readySeq := s.readySeq + 1 }.onLaunch i fun l => { l with st := .ready, readyAt := s.readySeq })
          else .next (rej 7) := by
  show execDependenceReady d i s = _
  unfold execDependenceReady
  simp only [hl]
  exact if_neg (by simp [hd, hw])

end Sys2Proof.Machine

namespace Sys2Proof.Spec
open Sys2Proof.Machine

theorem launchRecordConditions : LaunchRecordConditions := by
  intro s d x _
  rw [s.rejectReason_eq_none_iff]
  simp only [LaunchRec.ofNat, beq_iff_eq]
  simp only [show ∀ l n, bits x l n = bitsAt x l n from fun _ _ => rfl]
  constructor
  · rintro ⟨⟨hver, hrsv⟩, hdims, hcount, hg, ⟨h1, h2, h3, h4⟩, hpool, hsp⟩
    exact ⟨hver, by omega, by omega, by omega, by omega, by omega, by omega, hg, h1, h2, h3, h4, hpool, hsp⟩
  · rintro ⟨hver, hr1, hr2, hr3, hr4, hdims, hcount, hg, h1, h2, h3, h4, hpool, hsp⟩
    exact ⟨⟨hver, by omega⟩, by omega, by omega, hg, ⟨h1, h2, h3, h4⟩, hpool, hsp⟩

theorem launchRecordsAreTaken : LaunchRecordsAreTaken := by
  intro d s may out
  refine ⟨fun h => ⟨s, exec_launchDequeue_blocked h, rfl⟩, fun h => ?_⟩
  have hex := exec_launchDequeue_may (s := s) (d := d) h
  refine ⟨fun u tr ho => ?_, fun u els ho => ?_, fun u e ho => ⟨fun sp hr hsp => ?_, fun n hr => ?_⟩⟩ <;>
    rw [show s.dequeueOut d = _ from ho] at hex
  · exact ⟨_, hex, by simp, by simp [State.launches_of_tasks (State.faultRecord_tasks _ _ _)],
      by simp [State.ctxs_of_tasks (State.faultRecord_tasks _ _ _)]⟩
  · exact ⟨_, hex, rfl⟩
  · refine ⟨_, hex, (LaunchRec.ofNat (leNat e)).launch d sp u.readySeq, ?_⟩
    refine ⟨State.acceptLaunch_good hr hsp, rfl, ?_⟩
    refine ⟨Nat.mod_eq_of_lt (bits_lt _ _ _), Nat.mod_eq_of_lt (bits_lt _ _ _), rfl, rfl, rfl, rfl, rfl, rfl, rfl,
      Nat.mod_eq_of_lt (bits_lt _ _ _), rfl, rfl, rfl, Nat.mod_eq_of_lt (bits_lt _ _ _),
      Nat.mod_eq_of_lt (bits_lt _ _ _), Nat.mod_eq_of_lt (bits_lt _ _ _),
      Nat.mod_eq_of_lt (bits_lt _ _ _), rfl, rfl, rfl, rfl, rfl, rfl, rfl⟩
  · have ht := State.acceptLaunch_bad hr
    exact ⟨_, hex, State.launches_of_tasks ht, State.ctxs_of_tasks ht⟩

theorem dependencesResolve : DependencesResolve := by
  intro d i s l hl hd hw rejected
  have hex := exec_dependenceReady hl hd hw
  have hset (f : Launch → Launch) : s.launches.modify i f = s.launches.set i (f l) := by
    rw [List.modify_eq_set_getElem?, hl]; rfl
  have hrej (n : Nat) : rejected ((s.onLaunch i fun l => { l with st := .rejected }).reject d l.agent l.signal l.tag n) :=
    ⟨(State.launches_of_tasks (State.reject_tasks _ _ _ _ _ _)).trans (hset _),
      (State.ctxs_of_tasks (State.reject_tasks _ _ _ _ _ _)).trans rfl⟩
  refine ⟨fun loc hloc hv => ?_, fun loc hloc hv => ?_, fun tr htr => ?_⟩
  · simp only [hloc, hv, Bool.not_true, Bool.false_eq_true, if_false] at hex
    refine ⟨fun hk => ⟨_, hex.trans (if_pos hk), rfl⟩, fun h0 hk => ?_, fun hk => ?_⟩
    · refine ⟨_, (hex.trans (if_neg (Nat.ne_of_gt h0))).trans (if_pos hk), ?_⟩
      simp only [State.onLaunch, hset]
    · exact ⟨_, (hex.trans (if_neg (Nat.ne_of_gt (lt_trans (by decide) hk)))).trans (if_neg (Nat.not_le_of_gt hk)), hrej 7⟩
  · simp only [hloc, hv, Bool.not_false, if_true] at hex
    exact ⟨_, hex, hrej 9⟩
  · simp only [htr] at hex
    exact ⟨_, hex, hrej 9⟩

end Sys2Proof.Spec

namespace Sys2Proof.Proofs
open Sys2Proof.Machine Sys2Proof.Spec

/-- Settles O39: the conditions on the record, the dequeue, and the dependence, each from the equation of its step. -/
theorem launchRecords : Obligations.LaunchRecords :=
  ⟨launchRecordConditions, launchRecordsAreTaken, dependencesResolve⟩

end Sys2Proof.Proofs

/-! PROOFS. O40: the start of a task (R28 to R32, R35). -/
namespace Sys2Proof.Machine

/-! ### A start on one context -/

@[simp] theorem State.loseScratch_tasks (s : State) (k : CoreIx) : (s.loseScratch k).tasks = s.tasks := rfl
@[simp] theorem State.recut_tasks (s : State) (l : Launch) (k : CoreIx) : (s.recut l k).tasks = s.tasks := by
  unfold State.recut; split_ifs <;> rfl
@[simp] theorem State.recut_mem (s : State) (l : Launch) (k : CoreIx) : (s.recut l k).mem = s.mem := by
  unfold State.recut; split_ifs <;> rfl

theorem State.ctx_of_tasks {s t : State} (h : t.tasks = s.tasks) (c : CtxIx) : t.ctx c = s.ctx c := by
  unfold State.ctx; rw [State.ctxs_of_tasks h]

/-- A core that fits a launch's split has it once it is recut (R30). -/
theorem State.recut_split {s : State} {l : Launch} {k : CoreIx} (h : s.splitFits l k = true) :
    ((s.recut l k).core k).pool0 = l.pool0 ∧ ((s.recut l k).core k).pool1 = l.pool1 ∧ ((s.recut l k).core k).pool2 = l.pool2 := by
  unfold State.recut
  split
  · simp
  · next hi =>
    simp only [State.splitFits, Bool.and_eq_true, Bool.or_eq_true, beq_iff_eq] at h
    obtain ⟨-, h | ⟨⟨h0, h1⟩, h2⟩⟩ := h
    · exact absurd h hi
    · exact ⟨h0, h1, h2⟩

/-- The context that starts a task of a launch (Table 2-3, R40, R306); `n` is the index of its first free value. -/
def Context.started (x : Context) (l : Launch) (t : TaskRef) (n cycle order : Nat) : Context :=
  let r := l.startRegs t.tid n
  { x with
    regs := { r with sc := { r.sc with ivl := x.regs.sc.ivl + 1 } }
    block := none, parked := none, task := some t, startedAt := cycle, sliceOut := false, order := order, waited := 0
    stopReq := .none, down := false, bars := Vector.replicate 4 0, icache := [], bcache := [], holds := [], badRegs := []
    holmA := { x.holmA with state := 0 }, holmB := { x.holmB with state := 0 } }

/-- The launch, once its task `tid` has started on the core `k` (R29). -/
def Launch.startedOn (l : Launch) (tid : Nat) (k : CoreIx) : Launch :=
  { l with
    st := .running, next := tid + 1, favoured := false
    bound := if l.bound.any fun b => b.1 == l.position tid then l.bound else l.bound ++ [(l.position tid, k)] }

theorem State.startTask_ctx_same (s : State) (i : Nat) (l : Launch) (tid : Nat) (c : CtxIx) : ∃ n cycle order,
    (s.startTask i l tid c).ctx c = (s.ctx c).started l ⟨i, tid⟩ n cycle order := by
  have hc := State.ctx_of_tasks (s.recut_tasks l (CtxIx.core c)) c
  refine ⟨(s.recut l (CtxIx.core c)).freeCtr, ((s.recut l (CtxIx.core c)).core (CtxIx.core c)).cycle.toNat,
    (s.recut l (CtxIx.core c)).nextId, ?_⟩
  rw [← hc]
  exact State.setCtx_same _ c _ |>.trans (congrArg Context.clearHolm (State.setCtx_same _ c _))

theorem State.startTask_ctx_ne (s : State) (i : Nat) (l : Launch) (tid : Nat) {c k : CtxIx} (h : k ≠ c) :
    (s.startTask i l tid c).ctx k = s.ctx k :=
  (State.setCtx_ne _ c k _ h).trans ((State.setCtx_ne _ c k _ h).trans (State.ctx_of_tasks (s.recut_tasks l _) k))

theorem State.startTask_launches (s : State) (i : Nat) (l : Launch) (tid : Nat) (c : CtxIx) :
    (s.startTask i l tid c).launches = s.launches.modify i fun l => l.startedOn tid (CtxIx.core c) := by
  rw [← State.launches_of_tasks (s.recut_tasks l (CtxIx.core c))]; rfl

theorem State.startTask_core (s : State) (i : Nat) (l : Launch) (tid : Nat) (c : CtxIx) (k : CoreIx) :
    (s.startTask i l tid c).core k = (s.recut l (CtxIx.core c)).core k := rfl

theorem State.startTask_mem (s : State) (i : Nat) (l : Launch) (tid : Nat) (c : CtxIx) : (s.startTask i l tid c).mem = s.mem :=
  s.recut_mem l _

@[simp] theorem State.passRight_tasks (s : State) (d : DieIx) (i : Nat) (l : Launch) (cs : List CtxIx) :
    (s.passRight d i l cs).tasks = s.tasks := by
  unfold State.passRight; split_ifs <;> rfl
@[simp] theorem State.passRight_core (s : State) (d : DieIx) (i : Nat) (l : Launch) (cs : List CtxIx) (k : CoreIx) :
    (s.passRight d i l cs).core k = s.core k := by
  unfold State.passRight; split_ifs <;> rfl
@[simp] theorem State.passRight_mem (s : State) (d : DieIx) (i : Nat) (l : Launch) (cs : List CtxIx) :
    (s.passRight d i l cs).mem = s.mem := by
  unfold State.passRight; split_ifs <;> rfl

/-! ### The starts of a gang -/

theorem State.startNext_cons {s : State} {i : Nat} {l : Launch} (hl : s.launches[i]? = some l) (c : CtxIx) (cs : List CtxIx) :
    s.startNext i (c :: cs) =
      if decide (l.next < l.count) && s.placeOk i l l.next c then (s.startTask i l l.next c).startNext i cs else (s, false) := by
  rw [State.startNext]; simp only [hl]

/-- A place that fits is a context without a task. -/
theorem State.placeOk_task {s : State} {i : Nat} {l : Launch} {tid : Nat} {c : CtxIx} (h : s.placeOk i l tid c = true) :
    (s.ctx c).task = none := by
  simp only [State.placeOk, Bool.and_eq_true, Context.free, Option.isNone_iff_eq_none] at h
  exact h.1.1.1.1.1

theorem State.placeOk_split {s : State} {i : Nat} {l : Launch} {tid : Nat} {c : CtxIx} (h : s.placeOk i l tid c = true) :
    s.splitFits l (CtxIx.core c) = true := by
  simp only [State.placeOk, Bool.and_eq_true] at h
  exact h.1.2

/-- Where every place of a list fits, the next tasks of the launch start on them in turn, and no context that runs a task already loses
it. -/
theorem State.startNext_tasks (i : Nat) (cs : List CtxIx) : ∀ (s : State) (l : Launch), s.launches[i]? = some l →
    (s.startNext i cs).2 = true →
      (∀ k, (s.ctx k).task ≠ none → ((s.startNext i cs).1.ctx k).task = (s.ctx k).task) ∧
      ∀ (j : Nat) k, cs[j]? = some k → ((s.startNext i cs).1.ctx k).task = some ⟨i, l.next + j⟩ := by
  induction cs with
  | nil => intro s l _ _; exact ⟨fun _ _ => rfl, fun j k h => by simp at h⟩
  | cons c cs ih =>
    intro s l hl hall
    rw [State.startNext_cons hl] at hall ⊢
    by_cases hok : (decide (l.next < l.count) && s.placeOk i l l.next c) = true
    · rw [if_pos hok] at hall ⊢
      have hfree := State.placeOk_task (Bool.and_eq_true_iff.mp hok).2
      have hl' : (s.startTask i l l.next c).launches[i]? = some (l.startedOn l.next (CtxIx.core c)) := by
        rw [State.startTask_launches, List.getElem?_modify_eq, hl]; rfl
      obtain ⟨hkeep, hstart⟩ := ih _ _ hl' hall
      have hc : ((s.startTask i l l.next c).ctx c).task = some ⟨i, l.next⟩ := by
        obtain ⟨n, cycle, order, h⟩ := s.startTask_ctx_same i l l.next c
        rw [h]; rfl
      refine ⟨fun k hk => ?_, fun j k hj => ?_⟩
      · have hne : k ≠ c := fun h => hk (h ▸ hfree)
        rw [hkeep k (by rwa [State.startTask_ctx_ne _ _ _ _ hne]), State.startTask_ctx_ne _ _ _ _ hne]
      · cases j with
        | zero =>
          obtain rfl : c = k := by simpa using hj
          rw [hkeep c (by simp [hc]), hc]; rfl
        | succ j =>
          rw [hstart j k (by simpa using hj)]
          simp [Launch.startedOn, Nat.add_assoc, Nat.add_comm 1 j]
    · rw [if_neg hok] at hall; cases hall

/-! ### The registers of Table 2-3 -/

theorem Launch.startScalar_rx (l : Launch) (tid n : Nat) :
    (l.startScalar tid n).rx 3 = l.arg ∧ ∀ r, r ≠ 3 → (l.startScalar tid n).rx r = 0 := by
  refine ⟨rfl, fun r hr => ?_⟩
  have h3 : 3 ≠ r.val := fun h => hr (Fin.ext h.symm)
  simp [Scalar.rx, Launch.startScalar, Scalar.reset, h3]

/-! ### The event -/

/-- TASK_START where nothing holds it back. -/
theorem exec_taskStart {s : State} {i : Nat} {l : Launch} {cs : List CtxIx} (hl : s.launches[i]? = some l)
    (hw : (s.die l.die).lqWritten = true) (hp : l.placing = true) (hh : s.headOfClass i l = true) (hcs : cs ≠ [])
    (hb : s.heldBack l false cs = false) (hr : l.remote cs = true → s.hasRight l.die = true) (hg : l.gang = true → cs.length = l.count) :
    exec (.taskStart l.die i cs) s = .next (if !(s.startNext i cs).2 && l.gang then s
      else (s.startNext i cs).1.passRight l.die i l cs) := by
  show execTaskStart l.die i cs s = _
  unfold execTaskStart
  simp only [hl]
  have hblock : (l.die != l.die || !(s.die l.die).lqWritten || !l.placing || cs.isEmpty || !s.headOfClass i l || s.heldBack l false cs ||
      (l.remote cs && !s.hasRight l.die) || (l.gang && cs.length != l.count)) = false := by
    cases hrem : l.remote cs <;> cases hgang : l.gang <;> simp_all
  rw [if_neg (by rw [hblock]; exact Bool.false_ne_true)]

end Sys2Proof.Machine

namespace Sys2Proof.Proofs
open Sys2Proof.Machine Sys2Proof.Spec

/-- Settles O40: one start writes the registers of Table 2-3 and one context; the starts of a gang follow by induction on its places. -/
theorem tasksStart : Obligations.TasksStart := by
  rintro d i s l hl rfl hw hp hh
  refine ⟨fun c hg hb hr hok => ?_, fun cs hg hlen hne hb hr => ?_⟩
  · have hex := exec_taskStart hl hw hp hh (List.cons_ne_nil c []) hb hr fun h => absurd h (by simp [hg])
    have hnext : s.startNext i [c] = (s.startTask i l l.next c, true) := by
      have hlt : l.next < l.count := by simp [Launch.placing] at hp; exact hp.2
      rw [State.startNext_cons hl, if_pos (by simp [hlt, hok])]; rfl
    rw [hnext, if_neg (by simp)] at hex
    refine ⟨_, hex, ?_⟩
    have ht := (s.startTask i l l.next c).passRight_tasks l.die i l [c]
    obtain ⟨n, cycle, order, hctx⟩ := s.startTask_ctx_same i l l.next c
    rw [← State.ctx_of_tasks ht] at hctx
    obtain ⟨hp0, hp1, hp2⟩ := State.recut_split (State.placeOk_split hok)
    obtain ⟨hx3, hx⟩ := l.startScalar_rx l.next n
    simp only [State.sc, hctx, State.passRight_core, State.startTask_core]
    refine ⟨rfl, rfl, rfl, rfl, rfl, rfl, hx3, hx, rfl, rfl, rfl, rfl, rfl, rfl, rfl, rfl, rfl, rfl, rfl, rfl, rfl, rfl, rfl, rfl, rfl,
      rfl, rfl, rfl, rfl, rfl, rfl, fun m => Vector.getElem_replicate _, rfl, rfl, rfl, rfl, fun f => Vector.getElem_replicate _,
      hp0, hp1, hp2, ⟨l.startedOn l.next (CtxIx.core c), ?_, rfl, rfl⟩, fun k hk => ?_, ?_⟩
    · rw [State.launches_of_tasks ht, State.startTask_launches, List.modify_eq_set_getElem?, hl]; rfl
    · exact (State.ctx_of_tasks ht k).trans (s.startTask_ctx_ne i l l.next hk)
    · exact (State.passRight_mem _ _ _ _ _).trans (s.startTask_mem _ _ _ _)
  · have hex := exec_taskStart hl hw hp hh hne hb hr fun _ => hlen
    refine ⟨fun hall => ?_, fun hnot => ⟨s, by rw [hex, hnot, hg]; rfl, rfl⟩⟩
    rw [hall, if_neg (by simp)] at hex
    refine ⟨_, hex, fun j k hj => ?_⟩
    rw [State.ctx_of_tasks (State.passRight_tasks _ _ _ _ _)]
    exact (State.startNext_tasks i cs s l hl hall).2 j k hj

end Sys2Proof.Proofs

/-! PROOFS. O41: the end of a task and of a launch (R38, R49, R155). -/
namespace Sys2Proof.Machine

/-! ### What the ferry leaves -/

@[simp] theorem State.fillTlb_tasks (s : State) (g : Agent) (a : Word64) : (s.fillTlb g a).tasks = s.tasks := by
  unfold State.fillTlb
  split
  · rfl
  · split
    · rfl
    · dsimp only; split <;> rfl
@[simp] theorem State.fillAddrs_tasks (s : State) (g : Agent) (as : List Word64) : (s.fillAddrs g as).tasks = s.tasks := by
  unfold State.fillAddrs
  split
  · exact foldl_tasks _ (fun s a => s.fillTlb_tasks g a) _ _
  · rfl
@[simp] theorem State.storeLe_tasks (s : State) (c : Option CoreIx) (l : Loc) (n x : Nat) : (s.storeLe c l n x).tasks = s.tasks :=
  s.storeLoc_tasks c l _
@[simp] theorem State.writeElem_tasks (s : State) (c : CoreIx) (l : Loc) (i w x : Nat) : (s.writeElem c l i w x).tasks = s.tasks := by
  unfold State.writeElem; split <;> exact State.storeLe_tasks _ _ _ _ _
@[simp] theorem State.owe_tasks (s : State) (k n : Nat) : (s.owe k n).tasks = s.tasks := rfl

theorem State.ferryWrite_tasks (g : Agent) (c : CoreIx) (xs : List Word64) : ∀ (s : State) (f : FeedSlot),
    (s.ferryWrite g c f xs).1.tasks = s.tasks := by
  induction xs with
  | nil => intro s f; rfl
  | cons x xs ih =>
    intro s f
    rw [State.ferryWrite]
    split
    · rfl
    · rw [ih]; simp

theorem State.ferryOut_tasks (s : State) (g : Agent) (c : CoreIx) (f : FeedSlot) : (s.ferryOut g c f).1.tasks = s.tasks :=
  State.ferryWrite_tasks g c _ s f

/-! ### The feeds of a task that ends -/

/-- What is left of an output feed as its task ends: its elements are written, with their byte count or the record of the fault (R155,
R179). -/
def State.drainFeed (s : State) (c : CtxIx) (f : FeedIx) : State :=
  let x := s.feed f
  if x.out && x.live then
    let (s, y) := s.ferryOut (agentOf c s.mySc) (CtxIx.core c) { x with fault := none }
    match y.fault with
    | some (cause, a) => s.ctxRecord c { kind := 4, cause := cause.code, va := a, pc := s.mySc.pc, detail := f.val }
    | none =>
      match x.bo with
      | some k => s.owe k.toNat ((x.len * x.w + 7) / 8)
      | none => s
  else s

theorem State.drainFeed_tasks (s : State) (c : CtxIx) (f : FeedIx) : (s.drainFeed c f).tasks = s.tasks := by
  have ho := s.ferryOut_tasks (agentOf c s.mySc) (CtxIx.core c) { s.feed f with fault := none }
  unfold State.drainFeed
  dsimp only
  split
  · split
    · rw [State.ctxRecord_tasks, ho]
    · split
      · exact ho
      · exact ho
  · rfl

theorem State.drainFeed_idle {s : State} (c : CtxIx) {f : FeedIx} (h : s.feed f = FeedSlot.idle) : s.drainFeed c f = s := by
  unfold State.drainFeed; rw [h]; rfl

theorem State.endFeeds_eq (s : State) (c : CtxIx) :
    s.endFeeds c = (List.finRange 4).foldl (fun s f => (s.drainFeed c f).setFeed f FeedSlot.idle) { s with cur := c } := rfl

/-- A context whose feed slots are `fs`. -/
def Context.withFeeds (x : Context) (fs : Vector FeedSlot 4) : Context := { x with regs := { x.regs with feeds := fs } }

theorem State.setCtx_tasks_congr {s t : State} (h : t.tasks = s.tasks) (c : CtxIx) (x : Context) :
    (t.setCtx c x).tasks = (s.setCtx c x).tasks := by
  have hcur := State.cur_of_tasks h
  have hl := State.launches_of_tasks h
  have hb := State.binds_of_tasks h
  have hr : t.readySeq = s.readySeq := congrArg Tasks.readySeq h
  have hi : (fun q => (t.quad q).wnext) = fun q => (s.quad q).wnext := congrArg Tasks.images h
  show Tasks.mk (t.ctxs.set c.val x) t.cur t.launches t.readySeq t.binds (fun q => (t.quad q).wnext) = _
  rw [State.ctxs_of_tasks h, hcur, hl, hb, hr, hi]
  rfl

theorem State.endFeed_tasks {s : State} {c : CtxIx} (hc : s.cur = c) (f : FeedIx) :
    ((s.drainFeed c f).setFeed f FeedSlot.idle).tasks =
      (s.setCtx c ((s.ctx c).withFeeds ((s.ctx c).regs.feeds.set f.val FeedSlot.idle))).tasks := by
  have h := s.drainFeed_tasks c f
  subst hc
  rw [State.setFeed, State.setMe, State.me, State.cur_of_tasks h, State.ctx_of_tasks h]
  exact State.setCtx_tasks_congr h _ _

/-- Every slot of four is idle once each has been set so. -/
theorem feeds_all_idle (fs : Vector FeedSlot 4) :
    (List.finRange 4).foldl (fun fs (f : FeedIx) => fs.set f.val FeedSlot.idle) fs = Vector.replicate 4 FeedSlot.idle := by
  rw [show List.finRange 4 = [0, 1, 2, 3] from rfl]
  ext i hi
  interval_cases i <;> simp

theorem State.endFeeds_fold (s : State) (x : Context) (is : List FeedIx) : ∀ (t : State) (fs : Vector FeedSlot 4),
    t.tasks = (s.setCtx s.cur (x.withFeeds fs)).tasks →
    (is.foldl (fun s f => (s.drainFeed t.cur f).setFeed f FeedSlot.idle) t).tasks =
      (s.setCtx s.cur (x.withFeeds (is.foldl (fun fs f => fs.set f.val FeedSlot.idle) fs))).tasks := by
  induction is with
  | nil => intro t fs h; exact h
  | cons i is ih =>
    intro t fs h
    rw [List.foldl_cons, List.foldl_cons]
    have hcur : t.cur = s.cur := State.cur_of_tasks (s := s.setCtx _ _) h
    have hstep : ((t.drainFeed t.cur i).setFeed i FeedSlot.idle).tasks =
        (s.setCtx s.cur (x.withFeeds (fs.set i.val FeedSlot.idle))).tasks := by
      rw [State.endFeed_tasks rfl, State.setCtx_tasks_congr h, hcur, State.ctx_of_tasks h, State.setCtx_same, State.setCtx_setCtx]
      rfl
    have hcur' : ((t.drainFeed t.cur i).setFeed i FeedSlot.idle).cur = t.cur := (State.cur_of_tasks hstep).trans hcur.symm
    have := ih _ _ hstep
    rwa [hcur'] at this

/-- The end of a task's feeds leaves every task as it was but for its own slots, which are idle (R155). -/
theorem State.endFeeds_tasks (s : State) : (s.endFeeds s.cur).tasks =
    (s.setCtx s.cur (s.me.withFeeds (Vector.replicate 4 FeedSlot.idle))).tasks := by
  have h := s.endFeeds_fold s.me (List.finRange 4) s s.me.regs.feeds (congrArg State.tasks (State.setCtx_self s s.cur).symm)
  rw [feeds_all_idle] at h
  exact h

theorem State.feed_setFeed_idle {s : State} (i : FeedIx) (h : ∀ f, s.feed f = FeedSlot.idle) (f : FeedIx) :
    (s.setFeed i FeedSlot.idle).feed f = FeedSlot.idle := by
  have hf : s.me.regs.feeds[f.val] = FeedSlot.idle := h f
  rw [State.feed, State.setFeed, State.setMe_me, Vector.getElem_set]
  split
  · rfl
  · exact hf

theorem State.endFeeds_fold_idle (c : CtxIx) (is : List FeedIx) : ∀ t : State, (∀ f, t.feed f = FeedSlot.idle) →
    (is.foldl (fun s f => (s.drainFeed c f).setFeed f FeedSlot.idle) t).mem = t.mem := by
  induction is with
  | nil => intro t _; rfl
  | cons i is ih =>
    intro t h
    rw [List.foldl_cons, State.drainFeed_idle c (h i), ih _ (State.feed_setFeed_idle i h)]; rfl

/-- Feeds that are idle have nothing to write. -/
theorem State.endFeeds_mem {s : State} (h : ∀ f : FeedIx, s.me.regs.feeds[f.val] = FeedSlot.idle) : (s.endFeeds s.cur).mem = s.mem :=
  State.endFeeds_fold_idle s.cur _ s h

/-! ### TEXIT -/

/-- The end of the task of the acting context, in the parts of the state that hold tasks (R49, R155). -/
theorem State.endTask_tasks {s : State} {tr : TaskRef} (h : s.me.task = some tr) :
    (s.endTask s.cur).tasks = ⟨s.ctxs.set s.cur.val (s.me.withFeeds (Vector.replicate 4 FeedSlot.idle)).vacate, s.cur,
      s.launches.modify tr.launch fun l => { l with ended := tr.tid :: l.ended }, s.readySeq,
      s.binds.filter fun b => b.1 != s.cur, fun q => (s.quad q).wnext⟩ := by
  have he := s.endFeeds_tasks
  generalize hu : s.endFeeds s.cur = u at he
  have hctxs : u.ctxs = s.ctxs.set s.cur.val (s.me.withFeeds (Vector.replicate 4 FeedSlot.idle)) := congrArg Tasks.ctxs he
  have hcur : u.cur = s.cur := congrArg Tasks.cur he
  have hl : u.launches = s.launches := congrArg Tasks.launches he
  have hr : u.readySeq = s.readySeq := congrArg Tasks.readySeq he
  have hb : u.binds = s.binds := congrArg Tasks.binds he
  have hi : (fun q => (u.quad q).wnext) = fun q => (s.quad q).wnext := congrArg Tasks.images he
  have hx : u.ctx s.cur = s.me.withFeeds (Vector.replicate 4 FeedSlot.idle) := by
    rw [State.ctx_of_tasks he, State.setCtx_same]
  have hend : s.endTask s.cur = (({ u with binds := u.binds.filter fun b => b.1 != s.cur } : State).setCtx s.cur
      (u.ctx s.cur).vacate).onLaunch tr.launch fun l => { l with ended := tr.tid :: l.ended } := by
    unfold State.endTask
    rw [show (s.ctx s.cur).task = some tr from h, hu]
    rfl
  rw [hend, hx]
  show Tasks.mk (u.ctxs.set s.cur.val _) u.cur (u.launches.modify _ _) u.readySeq (u.binds.filter _)
    (fun q => (u.quad q).wnext) = _
  rw [hcur, hl, hr, hb, hi, hctxs, Vector.set_set]

theorem State.endTask_mem {s : State} {tr : TaskRef} (h : s.me.task = some tr) : (s.endTask s.cur).mem = (s.endFeeds s.cur).mem := by
  unfold State.endTask
  rw [show (s.ctx s.cur).task = some tr from h]
  generalize s.endFeeds s.cur = u
  rfl

theorem exec_texit_settled {s : State} (h : s.me.settled = true) : exec .texit s = .next (s.endTask s.cur) :=
  if_pos h

/-! ### LAUNCH_COMPLETE -/

/-- When a launch has ended and has nothing left to drain (R38). -/
def State.launchEnded (s : State) (i : Nat) (l : Launch) : Prop :=
  l.st = .running ∧ l.count ≤ l.next ∧ l.count ≤ l.ended.length ∧
    ∀ c, ∀ e ∈ (s.ctx c).viq, ∀ u, e.task = some u → u.launch ≠ i

theorem State.mem_ctxs_iff {s : State} {x : Context} : x ∈ s.ctxs.toList ↔ ∃ c, s.ctx c = x := by
  rw [Vector.mem_toList_iff, Vector.mem_iff_getElem]
  exact ⟨fun ⟨i, hi, h⟩ => ⟨⟨i, hi⟩, h⟩, fun ⟨c, h⟩ => ⟨c.val, c.isLt, h⟩⟩

theorem State.draining_eq_false_iff (s : State) (i : Nat) :
    s.draining i = false ↔ ∀ c, ∀ e ∈ (s.ctx c).viq, ∀ u, e.task = some u → u.launch ≠ i := by
  simp only [State.draining, List.any_eq_false, Bool.not_eq_true, State.mem_ctxs_iff, Option.any_eq_false, beq_eq_false_iff_ne]
  constructor
  · exact fun h c e he u hu => by simpa [hu] using h _ ⟨c, rfl⟩ e he
  · rintro h _ ⟨c, rfl⟩; exact h c

theorem State.launchComplete_blocked_iff (s : State) (i : Nat) (l : Launch) :
    (l.st != .running || decide (l.next < l.count) || decide (l.ended.length < l.count) || s.draining i) = true ↔
      ¬ s.launchEnded i l := by
  rw [State.launchEnded, ← s.draining_eq_false_iff]
  simp only [Bool.or_eq_true, bne_iff_ne, decide_eq_true_eq, not_and_or, not_le, Bool.not_eq_false, or_assoc]

theorem exec_launchComplete {s : State} {i : Nat} {l : Launch} (hl : s.launches[i]? = some l) (he : s.launchEnded i l) :
    exec (.launchComplete i) s = .next (if l.failed then s.onLaunch i fun l => { l with st := .done }
      else (s.onLaunch i fun l => { l with st := .done }).signalWrite l.die l.agent l.signal l.tag false) := by
  show execLaunchComplete i s = _
  unfold execLaunchComplete
  simp only [hl]
  exact if_neg fun hb => (s.launchComplete_blocked_iff i l).mp hb he

theorem exec_launchComplete_blocked {s : State} {i : Nat} {l : Launch} (hl : s.launches[i]? = some l) (he : ¬ s.launchEnded i l) :
    exec (.launchComplete i) s = .next s := by
  show execLaunchComplete i s = _
  unfold execLaunchComplete
  simp only [hl]
  exact if_pos ((s.launchComplete_blocked_iff i l).mpr he)

/-! ### The decrement of a signal object -/

theorem Except.of_bind_ok {ε α β : Type} {x : Except ε α} {f : α → Except ε β} {b : β} (h : (x >>= f) = .ok b) :
    ∃ a, x = .ok a ∧ f a = .ok b := by
  cases x with
  | error e => cases h
  | ok a => exact ⟨a, rfl, h⟩

/-- An agent without a core has no local window (R81). -/
theorem State.place_not_win {s : State} {g : Agent} {a : Word64} {n i : Nat} {k : Kind} {c : CoreIx} {off : Nat} (hg : g.core = none) :
    s.place g a n k i ≠ .ok (.win c off) := by
  unfold State.place
  intro h
  cases hw : winOff a with
  | some o => simp only [hg, hw] at h; cases h
  | none =>
    simp only [hg, hw] at h
    split at h
    · cases h
    · split at h
      · split at h <;> cases h
      · cases h

theorem State.vecPlace_place {s : State} {g : Agent} {a : Word64} {n al i : Nat} {k : Kind} {l : Loc}
    (h : s.vecPlace g a n al k i = .ok l) : s.place g a n k i = .ok l := by
  cases hp : s.place g a n k i with
  | error t => simp only [State.vecPlace, hp, bind, Except.bind] at h; split at h <;> cases h
  | ok m =>
    simp only [State.vecPlace, hp, bind, Except.bind, pure, Except.pure] at h
    split_ifs at h
    exact h

theorem State.vecLoc_place {s : State} {g : Agent} {a : Word64} {n al i : Nat} {k : Kind} {l : Loc}
    (h : s.vecLoc g a n al k i = .ok l) : s.place g a n k i = .ok l := by
  refine State.vecPlace_place (al := al) ?_
  cases hp : s.vecPlace g a n al k i with
  | error t => simp only [State.vecLoc, hp, bind, Except.bind] at h; cases h
  | ok m =>
    simp only [State.vecLoc, hp, bind, Except.bind, pure, Except.pure] at h
    split_ifs at h
    exact h

theorem State.objLoc_place {s : State} {g : Agent} {a : Word64} {n : Nat} {k : Kind} {l : Loc} (h : s.objLoc g a n k = .ok l) :
    s.place g a n k 0 = .ok l := by
  refine State.vecLoc_place (al := 1) ?_
  cases hp : s.vecLoc g a n 1 k 0 with
  | error t => simp only [State.objLoc, hp, bind, Except.bind] at h; split at h <;> cases h
  | ok m =>
    simp only [State.objLoc, hp, bind, Except.bind, pure, Except.pure] at h
    split_ifs at h
    exact h

/-- Bytes read back as they were written. -/
theorem Memory.bytes_putBytes_same (m : Memory) (a : Nat) (bs : List Byte) (h : m.wf = true) :
    (m.putBytes a bs).bytes a bs.length = bs := by
  rw [Memory.bytes_eq]
  refine List.ext_getElem (by simp) fun k h1 h2 => ?_
  simp [Memory.byte_putBytes _ _ _ _ h, h2]

theorem State.loadLe_homeStore {s : State} {l : Loc} (hc : s.mem.wf = true) (hw : ∀ c off, l ≠ .win c off) (n x : Nat) :
    (s.homeStore l (leBytes n x)).loadLe l n = x % 256 ^ n := by
  have hb (pa : Nat) : (s.mem.putBytes pa (leBytes n x)).bytes pa n = leBytes n x := by
    have := Memory.bytes_putBytes_same s.mem pa (leBytes n x) hc
    rwa [leBytes_length] at this
  cases l with
  | mem pa => exact (congrArg leNat (hb pa)).trans (leNat_leBytes n x)
  | uc pa => exact (congrArg leNat (hb pa)).trans (leNat_leBytes n x)
  | win c off => exact absurd rfl (hw c off)

/-- The value of a signal object after a decrement (R300). -/
theorem State.loadLe_signalSub {s : State} {l : Loc} (hc : s.mem.wf = true) (hw : ∀ c off, l ≠ .win c off) {b : Nat} (hb : b < 2 ^ 64) :
    (s.signalSub l b).loadLe l 8 = (s.loadLe l 8 + 2 ^ 64 - b) % 2 ^ 64 := by
  rw [State.signalSub, State.loadLe_homeStore hc hw, show (256 : Nat) ^ 8 = 2 ^ 64 by norm_num, Nat.mod_mod, Nat.mod_eq_of_lt hb]

/-! Translation looks at memory, the tables' ranges, the TLBs and the losses, and at nothing else. -/

/-- `t` has what translation and the loss of lines look at as `s` has it. -/
structure SameMaps (s t : State) : Prop where
  mem : t.mem = s.mem
  skerry : t.skerry = s.skerry
  ports : t.ports = s.ports
  dies : t.dies = s.dies
  cores : t.cores = s.cores
  retire : t.retire = s.retire
  lpFailed : t.lpFailed = s.lpFailed

section
variable {s t : State} (h : SameMaps s t)
include h

/-- The definition of `State.lost` is opened as a function: on an address the kernel would work the row of Table 16-1 out. -/
theorem SameMaps.lost (pa : Nat) : t.lost pa = s.lost pa := by
  have hline (r : Region) (n : Nat) : t.lineChannel r n = s.lineChannel r n := by simp only [State.lineChannel, h.retire]
  have hdie (d : DieIx) : t.die d = s.die d := by simp only [State.die, h.dies]
  obtain ⟨lost, hlost⟩ : ∃ f, f = State.lost := ⟨_, rfl⟩
  rw [show State.lost = lost from hlost.symm]
  delta State.lost at hlost
  subst hlost
  beta_reduce
  rw [h.skerry, h.lpFailed]
  generalize s.skerry.region pa = row
  match row with
  | none => rfl
  | some (r, lo, hi) => simp only [hline, hdie]

theorem SameMaps.lostRange (pa n : Nat) : t.lostRange pa n = s.lostRange pa n := by
  simp only [State.lostRange, h.lost, h.dies, h.lpFailed]

theorem SameMaps.entry (pa : Nat) : t.entry pa = s.entry pa := by
  simp only [State.entry, h.lostRange, h.mem]

theorem SameMaps.walkFrom (va n : Nat) : ∀ lvl a, t.walkFrom va n lvl a = s.walkFrom va n lvl a := by
  induction n with
  | zero => intro lvl a; simp only [State.walkFrom, State.walk3, h.entry]
  | succ n ih => intro lvl a; simp only [State.walkFrom, h.entry, ih]

theorem SameMaps.leafFor {g : Agent} (hg : g.tables = none) (va : Nat) : t.leafFor g va = s.leafFor g va := by
  simp only [State.leafFor, State.tlbOf, State.core, State.die, State.atPoint, hg, h.walkFrom, h.cores, h.dies]

theorem SameMaps.checkLeaf (l : Leaf) (va : Nat) (k : Kind) (sup : Bool) : t.checkLeaf l va k sup = s.checkLeaf l va k sup := by
  have hext (pa n : Nat) : t.inExtent pa n = s.inExtent pa n := by simp only [State.inExtent, h.skerry]
  unfold State.checkLeaf
  simp only [hext]
  rw [h.skerry]

theorem SameMaps.place {g : Agent} (hg : g.tables = none) (a : Word64) (n : Nat) (k : Kind) (i : Nat) :
    t.place g a n k i = s.place g a n k i := by
  have hcore (c : CoreIx) : t.core c = s.core c := by simp only [State.core, h.cores]
  simp only [State.place, h.leafFor hg, State.atPoint, hg, h.checkLeaf, hcore]

theorem SameMaps.loadErr (l : Loc) (n : Nat) : t.loadErr l n = s.loadErr l n := by
  simp only [State.loadErr, h.lostRange, State.core, h.cores]

theorem SameMaps.loadLe (l : Loc) (n : Nat) : t.loadLe l n = s.loadLe l n := by
  simp only [State.loadLe, State.loadLoc, h.mem, State.core, h.cores]

theorem SameMaps.vecLoc {g : Agent} (hg : g.tables = none) (a : Word64) (n al : Nat) (k : Kind) (i : Nat) :
    t.vecLoc g a n al k i = s.vecLoc g a n al k i := by
  have hrow (l : Loc) : t.locRegion l = s.locRegion l := by
    cases l <;> simp only [State.locRegion, h.skerry]
  have hdev (l : Loc) : t.isDevice l = s.isDevice l := by simp only [State.isDevice, hrow]
  have hpeer (l : Loc) : t.isPeer l = s.isPeer l := by simp only [State.isPeer, hrow]
  simp only [State.vecLoc, State.vecPlace, h.place hg, h.loadErr, hdev, hpeer]

theorem SameMaps.objLoc {g : Agent} (hg : g.tables = none) (a : Word64) (n : Nat) (k : Kind) : t.objLoc g a n k = s.objLoc g a n k := by
  simp only [State.objLoc, h.vecLoc hg]

end

theorem SameMaps.onLaunch (s : State) (i : Nat) (f : Launch → Launch) : SameMaps s (s.onLaunch i f) :=
  ⟨rfl, rfl, rfl, rfl, rfl, rfl, rfl⟩

theorem State.signalWrite_zero (s : State) (d : DieIx) (g : Agent) (tag : BitVec 16) (f : Bool) : s.signalWrite d g 0 tag f = s := by
  simp [State.signalWrite]

theorem State.signalWrite_sub {s : State} {d : DieIx} {g : Agent} {va : Word64} {tag : BitVec 16} {a : Loc} (hva : va ≠ 0)
    (ha : s.objLoc g va 8 .write = .ok a) (he : s.loadErr a 8 = false) : s.signalWrite d g va tag false = s.signalSub a 1 := by
  unfold State.signalWrite
  rw [if_neg hva, ha]
  simp [he]

end Sys2Proof.Machine

namespace Sys2Proof.Proofs
open Sys2Proof.Machine Sys2Proof.Spec

/-- Settles O41: what the end of a task leaves of the parts of the state that hold tasks, and the one decrement at completion. -/
theorem tasksEnd : Obligations.TasksEnd := by
  refine ⟨fun s tr hset htask => ?_, fun i s l hl => ?_⟩
  · refine ⟨_, exec_texit_settled hset, ?_⟩
    have ht := State.endTask_tasks htask
    have hcur : (s.endTask s.cur).cur = s.cur := congrArg Tasks.cur ht
    have hl : (s.endTask s.cur).launches = _ := congrArg Tasks.launches ht
    have hb : (s.endTask s.cur).binds = _ := congrArg Tasks.binds ht
    have hctxs : (s.endTask s.cur).ctxs = s.ctxs.set s.cur.val _ := congrArg Tasks.ctxs ht
    have hctx : (s.endTask s.cur).ctx s.cur = (s.me.withFeeds (Vector.replicate 4 FeedSlot.idle)).vacate := by
      rw [State.ctx]; simp only [hctxs]; exact Vector.getElem_set_self _
    simp only [State.me, State.mySc, State.sc, hcur, hctx]
    refine ⟨rfl, rfl, rfl, rfl, rfl, fun f => Vector.getElem_replicate _, fun b hmem => ?_, hl, fun k hk => ?_, fun hidle => ?_⟩
    · rw [hb] at hmem
      simpa using (List.mem_filter.mp hmem).2
    · rw [State.ctx]; simp only [hctxs]
      exact Vector.getElem_set_ne _ _ fun h => hk (Fin.ext h.symm)
    · exact (State.endTask_mem htask).trans (State.endFeeds_mem hidle)
  · intro done ended
    have hdone : s.onLaunch i (fun l => { l with st := .done }) = done := by
      simp only [State.onLaunch, List.modify_eq_set_getElem?, hl]; rfl
    have hmaps := SameMaps.onLaunch s i fun l => { l with st := .done }
    refine ⟨fun hno => ⟨s, exec_launchComplete_blocked hl hno, rfl⟩, fun he hf => ?_, fun he hf hsig hcan a ha herr => ?_⟩ <;>
      have hex := exec_launchComplete hl he
    · refine ⟨_, hex, ?_⟩
      rw [hdone]
      split
      · rfl
      · next hnf => rw [hf.resolve_left hnf, State.signalWrite_zero]
    · have hwin (c : CoreIx) (off : Nat) : a ≠ .win c off := fun h => State.place_not_win rfl (h ▸ State.objLoc_place ha)
      rw [← hmaps.objLoc rfl] at ha
      rw [← hmaps.loadErr] at herr
      rw [if_neg (by simp [hf]), State.signalWrite_sub hsig ha herr] at hex
      have ht := State.signalSub_tasks (s.onLaunch i fun l => { l with st := .done }) a 1
      refine ⟨_, hex, (State.launches_of_tasks ht).trans (congrArg State.launches hdone), (State.ctxs_of_tasks ht).trans rfl, ?_⟩
      rw [State.loadLe_signalSub (hmaps.mem ▸ hcan.1) hwin (by norm_num), hmaps.loadLe]

end Sys2Proof.Proofs

/-! PROOFS. O43: time slices, pre-emption, TSTOP and resumption (R40, R53, R54, R157, R324, R325). -/
namespace Sys2Proof.Machine

/-! ### What a stop of one context leaves -/

/-- `t` is `s` but for the context `c`, the memories and the wait lists: the other contexts, the launches and the weight images that wait
stay. -/
structure OwnOnly (c : CtxIx) (s t : State) : Prop where
  others : ∀ k, k ≠ c → t.ctx k = s.ctx k
  launches : t.launches = s.launches
  images : ∀ q, (t.quad q).wnext = (s.quad q).wnext

theorem OwnOnly.refl (c : CtxIx) (s : State) : OwnOnly c s s := ⟨fun _ _ => rfl, rfl, fun _ => rfl⟩
theorem OwnOnly.trans {c : CtxIx} {s t u : State} (h : OwnOnly c s t) (k : OwnOnly c t u) : OwnOnly c s u :=
  ⟨fun x hx => (k.others x hx).trans (h.others x hx), k.launches.trans h.launches, fun q => (k.images q).trans (h.images q)⟩
theorem OwnOnly.of_tasks {s t : State} (h : t.tasks = s.tasks) (c : CtxIx) : OwnOnly c s t :=
  ⟨fun k _ => State.ctx_of_tasks h k, State.launches_of_tasks h, State.images_of_tasks h⟩
theorem OwnOnly.setCtx (s : State) (c : CtxIx) (x : Context) : OwnOnly c s (s.setCtx c x) :=
  ⟨fun k hk => s.setCtx_ne c k x hk, rfl, fun _ => rfl⟩
theorem OwnOnly.ofCur (c k : CtxIx) (s : State) : OwnOnly c s { s with cur := k } := ⟨fun _ _ => rfl, rfl, fun _ => rfl⟩

@[simp] theorem State.putBar_tasks (s : State) (l : Loc) (o : BarObj) : (s.putBar l o).tasks = s.tasks := s.homeStore_tasks l _
@[simp] theorem State.setWaiters_tasks (s : State) (k : Nat) : (s.setWaiters k).tasks = s.tasks := s.putBar_tasks _ _
@[simp] theorem State.withdrawBwait_tasks (s : State) (c : CtxIx) : (s.withdrawBwait c).tasks = s.tasks :=
  foldl_tasks (fun s (w : Nat × CtxIx) => s.setWaiters w.1) (fun s w => s.setWaiters_tasks w.1) _ { s with bwaits := _ }
@[simp] theorem State.withdrawQueue_tasks (s : State) (c : CtxIx) : (s.withdrawQueue c).tasks = s.tasks :=
  foldl_tasks (fun s (w : QWait) => s.setWait (keyLoc w.qcb)) (fun s w => s.setWait_tasks (keyLoc w.qcb)) _ (s.unpark c)

theorem Context.unpark_parked (x : Context) : x.unpark.parked = none := by unfold Context.unpark; split <;> rfl
theorem Context.unpark_task (x : Context) : x.unpark.task = x.task := by unfold Context.unpark; split <;> rfl

theorem OwnOnly.setCtx_of_tasks {s u : State} (h : u.tasks = s.tasks) (c : CtxIx) (x : Context) : OwnOnly c s (u.setCtx c x) :=
  (OwnOnly.of_tasks h c).trans (.setCtx u c x)

/-- What the withdrawal of a parked operation leaves: nothing of it stands parked, and no other context has moved (R53). -/
theorem State.withdraw_ownOnly (s : State) (c : CtxIx) : OwnOnly c s (s.withdraw c) ∧ ((s.withdraw c).ctx c).parked = none ∧
    ((s.withdraw c).ctx c).task = (s.ctx c).task := by
  have hend {u : State} (hu : u.tasks = s.tasks) {x : Context} (hp : x.parked = none) (ht : x.task = (s.ctx c).task) :
      OwnOnly c s (u.setCtx c x) ∧ ((u.setCtx c x).ctx c).parked = none ∧ ((u.setCtx c x).ctx c).task = (s.ctx c).task := by
    rw [State.setCtx_same]; exact ⟨.setCtx_of_tasks hu c x, hp, ht⟩
  have hun {u : State} (hu : u.tasks = s.tasks) : (u.ctx c).unpark.parked = none ∧ (u.ctx c).unpark.task = (s.ctx c).task :=
    ⟨Context.unpark_parked _, by rw [Context.unpark_task, State.ctx_of_tasks hu]⟩
  have hb := s.withdrawBwait_tasks c
  have hq := s.withdrawQueue_tasks c
  unfold State.withdraw
  cases hp : (s.ctx c).parked with
  | none => exact ⟨.refl c s, hp, rfl⟩
  | some i =>
    dsimp only
    split
    · split
      · exact hend hb (hun hb).1 (hun hb).2
      · exact hend hq (hun hq).1 (hun hq).2
    · split
      · exact hend hb (hun hb).1 (hun hb).2
      · exact hend hq (hun hq).1 (hun hq).2
    · split
      · exact hend hb (hun hb).1 (hun hb).2
      · exact hend hq (hun hq).1 (hun hq).2

theorem State.withdrawRows_ownOnly (s : State) (c : CtxIx) : OwnOnly c s (s.withdrawRows c) ∧
    ((s.withdrawRows c).ctx c).parked = (s.ctx c).parked ∧ ((s.withdrawRows c).ctx c).task = (s.ctx c).task := by
  unfold State.withdrawRows
  dsimp only
  split
  · rw [State.setCtx_same]
    have hq : (s.setQuad (CtxIx.quad c) { s.quad (CtxIx.quad c) with waiting := (s.quad (CtxIx.quad c)).waiting.filter (· != c) }).tasks =
        s.tasks := State.setQuad_tasks s _ rfl
    exact ⟨.setCtx_of_tasks hq c _, rfl, rfl⟩
  · exact ⟨.refl c s, rfl, rfl⟩

/-! ### Bringing a context to a pre-emption point -/

/-- Nothing of the context has passed its fault point and not completed. -/
def State.nonePassed (s : State) (c : CtxIx) : Prop :=
  (∀ e ∈ (s.ctx c).viq, e.passed = none) ∧ ∀ q w, (s.quad q).wnext = some w → w.2 ≠ c

theorem State.nonePassed_congr {c k : CtxIx} {s t : State} (h : OwnOnly c s t) (hk : k ≠ c) (hn : s.nonePassed k) : t.nonePassed k := by
  refine ⟨fun e he => hn.1 e (by rwa [h.others k hk] at he), fun q w hw => hn.2 q w (by rwa [h.images] at hw)⟩

theorem State.finish_of_head {s : State} (h : ∀ e ∈ s.me.viq, e.passed = none) (n : Nat) : s.finish n = s := by
  cases n with
  | zero => rfl
  | succ n =>
    rw [State.finish]
    split
    · next e _ hv =>
      rw [h e (hv ▸ List.mem_cons_self)]; rfl
    · rfl

/-- Where nothing has passed its fault point, nothing completes (R53). -/
theorem State.completePassed_of_none {s : State} {c : CtxIx} (h : s.nonePassed c) : s.completePassed c = s := by
  obtain ⟨hv, hw⟩ := h
  have hnext : ∀ w, (s.quad (CtxIx.quad c)).wnext = some w → (w.2 == c) = false := fun w hq => by simpa using hw _ w hq
  unfold State.completePassed
  cases hq : (s.quad (CtxIx.quad c)).wnext with
  | none =>
    simp only [State.finishPassed]
    rw [State.finish_of_head (s := { s with cur := c }) hv]
  | some w =>
    obtain ⟨img, k⟩ := w
    have hk : (k == c) = false := hnext _ hq
    simp only [hk, Bool.false_eq_true, if_false, State.finishPassed]
    rw [State.finish_of_head (s := { s with cur := c }) hv]

theorem State.foldl_completePassed {s : State} {cs : List CtxIx} (h : ∀ k ∈ cs, s.nonePassed k) :
    cs.foldl State.completePassed s = s := by
  induction cs with
  | nil => rfl
  | cons c cs ih =>
    rw [List.foldl_cons, State.completePassed_of_none (h c List.mem_cons_self)]
    exact ih fun k hk => h k (List.mem_cons_of_mem c hk)

/-- A context at a pre-emption point: no parked operation, no entry and no block (R53). -/
structure Context.AtRest (x : Context) : Prop where
  parked : x.parked = none
  viq : x.viq = []
  block : x.block = none

theorem Context.withFeeds_task (x : Context) (fs : Vector FeedSlot 4) : (x.withFeeds fs).task = x.task := rfl
theorem Context.AtRest.withFeeds {x : Context} (h : x.AtRest) (fs : Vector FeedSlot 4) : (x.withFeeds fs).AtRest :=
  ⟨h.parked, h.viq, h.block⟩

theorem State.quiesce_ownOnly {s : State} {c : CtxIx} (h : s.nonePassed c) : OwnOnly c s (s.quiesce c) ∧
    ((s.quiesce c).ctx c).AtRest ∧ ((s.quiesce c).ctx c).task = (s.ctx c).task := by
  obtain ⟨hw, hwp, hwt⟩ := s.withdraw_ownOnly c
  obtain ⟨hr, hrp, hrt⟩ := (s.withdraw c).withdrawRows_ownOnly c
  unfold State.quiesce
  rw [State.completePassed_of_none h]
  dsimp only
  rw [State.setCtx_same]
  exact ⟨(hw.trans hr).trans (.setCtx _ c _), ⟨hrp.trans hwp, rfl, rfl⟩, hrt.trans hwt⟩

/-! ### Saving -/

/-- `t` is `s` with the context `c` acting, but for the feed slots of `c` and the memories. -/
structure FeedsOnly (c : CtxIx) (s t : State) : Prop where
  own : OwnOnly c s t
  acts : t.cur = c
  slots : ∃ fs, t.ctx c = (s.ctx c).withFeeds fs

/-- The ferry writes what one output feed of a context still holds (R54). -/
def State.flushFeed (s : State) (c : CtxIx) (f : FeedIx) : State :=
  let x := s.feed f
  if x.out && x.live then
    let (s, y) := s.ferryOut (agentOf c s.mySc) (CtxIx.core c) x
    s.setFeed f y
  else s

theorem State.flushFeeds_eq (s : State) (c : CtxIx) :
    s.flushFeeds c = (List.finRange 4).foldl (fun s f => s.flushFeed c f) { s with cur := c } := rfl

theorem FeedsOnly.flushFeed {c : CtxIx} {s t : State} (h : FeedsOnly c s t) (f : FeedIx) : FeedsOnly c s (t.flushFeed c f) := by
  obtain ⟨ho, hc, fs, hfs⟩ := h
  have hset {u : State} (hu : u.tasks = t.tasks) (x : FeedSlot) : FeedsOnly c s (u.setFeed f x) := by
    have hcur : u.cur = c := (State.cur_of_tasks hu).trans hc
    refine ⟨?_, hcur, ?_⟩
    · rw [State.setFeed, State.setMe, hcur]
      exact ho.trans (.setCtx_of_tasks hu c _)
    · rw [State.setFeed, State.setMe, State.me, hcur, State.setCtx_same, State.ctx_of_tasks hu, hfs]
      exact ⟨_, rfl⟩
  unfold State.flushFeed
  dsimp only
  split
  · exact hset (State.ferryOut_tasks _ _ _ _) _
  · exact ⟨ho, hc, fs, hfs⟩

theorem State.flushFeeds_feedsOnly (s : State) (c : CtxIx) : FeedsOnly c s (s.flushFeeds c) := by
  have hfold (is : List FeedIx) : ∀ t : State, FeedsOnly c s t → FeedsOnly c s (is.foldl (fun s f => s.flushFeed c f) t) := by
    induction is with
    | nil => exact fun t h => h
    | cons i is ih => exact fun t h => ih _ (h.flushFeed i)
  exact hfold _ _ ⟨.ofCur c c s, rfl, (s.ctx c).regs.feeds, rfl⟩

/-- The rows of a saved task stay reserved in its quad (R232). -/
def State.holdRows (s : State) (q : QuadIx) (r : TaskRef) (rows : Nat) : State :=
  if 0 < rows then s.setQuad q { s.quad q with heldRows := (s.quad q).heldRows ++ [(r, rows)] } else s

theorem State.holdRows_tasks (s : State) (q : QuadIx) (r : TaskRef) (rows : Nat) : (s.holdRows q r rows).tasks = s.tasks :=
  ite_tasks (State.setQuad_tasks s q rfl) rfl

/-- The last steps of a save: the launch keeps the task, its slot and its rows are taken, and the context lets it go (R54, R232, R325). -/
def State.depart (s : State) (c : CtxIx) (r : TaskRef) (v : Saved) (rows : Nat) : State :=
  let d := CtxIx.die c
  let s := s.onLaunch r.launch fun l => { l with saved := l.saved ++ [v] }
  let s := (s.setDie d { s.die d with slots := v.slot :: (s.die d).slots }).holdRows (CtxIx.quad c) r rows
  let s := { s with binds := s.binds.filter fun b => b.1 != c }
  s.setCtx c (s.ctx c).vacate

/-- The layout of R79, the band record and the accumulators of a context go to its slot (R325). -/
def State.storeContext (s : State) (c : CtxIx) (slot : Nat) : State :=
  let r := (s.ctx c).regs
  let base := (s.die (CtxIx.die c)).slotBase slot
  let (sh, s) := s.free 114688
  let rows := r.sc.mgrant.toNat
  let s := s.storePhys none base (r.bytes sh)
  let s := s.storePhys none (base + 0x14000)
    (leBytes 1 rows ++ leBytes 1 r.sc.mstate.toNat ++ leBytes 1 ((CtxIx.quad c).val % 12) ++ leBytes 61 0)
  (List.finRange 4).foldl (fun s (k : Fin 4) =>
    s.storePhys none (base + 0x14400 + 0x10000 * k.val)
      (((r.acc[k.val]).toList.take rows).flatMap fun row => leBytes 512 row.toNat)) s

theorem State.storeContext_tasks (s : State) (c : CtxIx) (slot : Nat) : (s.storeContext c slot).tasks = s.tasks :=
  (foldl_tasks _ (fun s _ => s.storePhys_tasks none _ _) _ _).trans
    ((State.storePhys_tasks _ _ _ _).trans ((State.storePhys_tasks _ _ _ _).trans rfl))

/-- What the launch keeps of the task of a context (R54, R325). -/
def Context.saved (x : Context) (r : TaskRef) (slot : Nat) (c : CtxIx) (binds : List (CtxIx × Binding)) : Saved :=
  ⟨r.tid, slot, c, x.bars, (binds.filter fun b => b.1 == c).map (·.2), x.regs.feeds, x.regs.sc.vsq.drop 16, x.holds, x.order, false⟩

theorem State.saveContext_eq {s : State} {c : CtxIx} {r : TaskRef} (slot : Nat) (hr : (s.ctx c).task = some r) :
    s.saveContext c slot = ((s.flushFeeds c).storeContext c slot).depart c r
      (((s.flushFeeds c).ctx c).saved r slot c ((s.flushFeeds c).storeContext c slot).binds)
      ((s.flushFeeds c).ctx c).regs.sc.mgrant.toNat := by
  unfold State.saveContext
  rw [hr]
  generalize s.flushFeeds c = u
  rfl

/-- What a context's departure changes beside its launch. -/
theorem State.depart_spec (s : State) (c : CtxIx) (r : TaskRef) (v : Saved) (rows : Nat) :
    (∀ k, k ≠ c → (s.depart c r v rows).ctx k = s.ctx k) ∧ (s.depart c r v rows).ctx c = (s.ctx c).vacate ∧
      (∀ q, ((s.depart c r v rows).quad q).wnext = (s.quad q).wnext) ∧
      (s.depart c r v rows).launches = s.launches.modify r.launch fun l => { l with saved := l.saved ++ [v] } := by
  unfold State.depart
  dsimp only
  generalize hd : (s.onLaunch r.launch fun l => { l with saved := l.saved ++ [v] }).setDie (CtxIx.die c) _ = d
  have ht : (d.holdRows (CtxIx.quad c) r rows).tasks = (s.onLaunch r.launch fun l => { l with saved := l.saved ++ [v] }).tasks :=
    (State.holdRows_tasks _ _ _ _).trans (hd ▸ rfl)
  have hu (k : CtxIx) : (d.holdRows (CtxIx.quad c) r rows).ctx k = s.ctx k := State.ctx_of_tasks ht k
  refine ⟨fun k hk => (State.setCtx_ne _ c k _ hk).trans (hu k), (State.setCtx_same _ c _).trans (congrArg Context.vacate (hu c)),
    fun q => (State.images_of_tasks ht q).trans rfl, (State.launches_of_tasks ht).trans rfl⟩

/-- The save of a context that is at rest: its task is gone from it and stands among the saved ones of its launch (R54, R325). -/
theorem State.saveContext_spec {s : State} {c : CtxIx} {r : TaskRef} (slot : Nat) (hr : (s.ctx c).task = some r)
    (hx : (s.ctx c).AtRest) :
    (∀ k, k ≠ c → (s.saveContext c slot).ctx k = s.ctx k) ∧ (∀ q, ((s.saveContext c slot).quad q).wnext = (s.quad q).wnext) ∧
      ((s.saveContext c slot).ctx c).AtRest ∧ ((s.saveContext c slot).ctx c).task = none ∧
      ∃ v : Saved, v.tid = r.tid ∧ v.ctx = c ∧
        (s.saveContext c slot).launches = s.launches.modify r.launch fun l => { l with saved := l.saved ++ [v] } := by
  obtain ⟨hf, -, fs, hfs⟩ := s.flushFeeds_feedsOnly c
  rw [State.saveContext_eq slot hr]
  generalize s.flushFeeds c = u at hf hfs ⊢
  have hA := u.storeContext_tasks c slot
  generalize u.storeContext c slot = A at hA ⊢
  obtain ⟨hothers, hown, himages, hl⟩ := A.depart_spec c r ((u.ctx c).saved r slot c A.binds) (u.ctx c).regs.sc.mgrant.toNat
  refine ⟨fun k hk => ?_, fun q => ?_, ?_, ?_, (u.ctx c).saved r slot c A.binds, rfl, rfl, ?_⟩
  · rw [hothers k hk, State.ctx_of_tasks hA, hf.others k hk]
  · rw [himages, State.images_of_tasks hA, hf.images]
  · rw [hown, State.ctx_of_tasks hA, hfs]
    exact ⟨rfl, (congrArg (List.map _) hx.viq).trans rfl, rfl⟩
  · rw [hown]; rfl
  · rw [hl, State.launches_of_tasks hA, hf.launches]

/-! ### A list of contexts, one after the other -/

/-- What a step that stops one context keeps for the others: their contexts, the weight images, and of every launch what it has saved. -/
structure StopKeeps (c : CtxIx) (s t : State) : Prop where
  others : ∀ k, k ≠ c → t.ctx k = s.ctx k
  images : ∀ q, (t.quad q).wnext = (s.quad q).wnext
  saved : ∀ (i : Nat) l, s.launches[i]? = some l → ∃ m, t.launches[i]? = some m ∧ ∀ v ∈ l.saved, v ∈ m.saved

/-- A step that stops one context: it is at rest without its task, which stands among the saved ones of its launch. -/
structure StopsCtx (c : CtxIx) (s t : State) : Prop where
  keeps : StopKeeps c s t
  rest : (t.ctx c).AtRest
  task : (t.ctx c).task = none
  stands : ∀ r l, (s.ctx c).task = some r → s.launches[r.launch]? = some l →
    ∃ m v, t.launches[r.launch]? = some m ∧ v ∈ m.saved ∧ v.tid = r.tid ∧ v.ctx = c

theorem StopKeeps.nonePassed {c k : CtxIx} {s t : State} (h : StopKeeps c s t) (hk : k ≠ c) (hn : s.nonePassed k) : t.nonePassed k :=
  ⟨fun e he => hn.1 e (by rwa [h.others k hk] at he), fun q w hw => hn.2 q w (by rwa [h.images] at hw)⟩

/-- The contexts of a list have been stopped, and nothing else but memory and the wait lists has changed; `P` holds of each with the task
it had. -/
structure StopsAll (cs : List CtxIx) (P : Option TaskRef → Context → Prop) (s t : State) : Prop where
  others : ∀ k, k ∉ cs → t.ctx k = s.ctx k
  saved : ∀ (i : Nat) l, s.launches[i]? = some l → ∃ m, t.launches[i]? = some m ∧ ∀ v ∈ l.saved, v ∈ m.saved
  each : ∀ k ∈ cs, (t.ctx k).AtRest ∧ (t.ctx k).task = none ∧ P (s.ctx k).task (t.ctx k)
  stands : ∀ k ∈ cs, ∀ r l, (s.ctx k).task = some r → s.launches[r.launch]? = some l →
    ∃ m v, t.launches[r.launch]? = some m ∧ v ∈ m.saved ∧ v.tid = r.tid ∧ v.ctx = k

/-- Contexts stopped one after the other, by steps that each stop one of them. -/
theorem foldl_stops (f : State → CtxIx → State) (P : Option TaskRef → Context → Prop)
    (hf : ∀ s c, s.nonePassed c → (s.ctx c).task ≠ none → StopsCtx c s (f s c) ∧ P (s.ctx c).task ((f s c).ctx c)) (cs : List CtxIx) :
    ∀ s : State, cs.Nodup → (∀ k ∈ cs, s.nonePassed k) → (∀ k ∈ cs, (s.ctx k).task ≠ none) → StopsAll cs P s (cs.foldl f s) := by
  induction cs with
  | nil => exact fun s _ _ _ => ⟨fun _ _ => rfl, fun i l h => ⟨l, h, fun _ hv => hv⟩, fun k hk => absurd hk List.not_mem_nil,
      fun k hk => absurd hk List.not_mem_nil⟩
  | cons c cs ih =>
    intro s hnd hnp hts
    obtain ⟨hc, hcs⟩ := List.nodup_cons.mp hnd
    obtain ⟨hstop, hP⟩ := hf s c (hnp c List.mem_cons_self) (hts c List.mem_cons_self)
    have hne : ∀ k ∈ cs, k ≠ c := fun k hk h => hc (h ▸ hk)
    have hkeep := hstop.keeps
    obtain ⟨h1, h2, h3, h4⟩ := ih (f s c) hcs (fun k hk => hkeep.nonePassed (hne k hk) (hnp k (List.mem_cons_of_mem c hk)))
      (fun k hk => by rw [hkeep.others k (hne k hk)]; exact hts k (List.mem_cons_of_mem c hk))
    rw [List.foldl_cons]
    refine ⟨fun k hk => ?_, fun i l hl => ?_, fun k hk => ?_, fun k hk r l hr hl => ?_⟩
    · obtain ⟨hkc, hkcs⟩ := not_or.mp (List.mem_cons.not.mp hk)
      rw [h1 k hkcs, hkeep.others k hkc]
    · obtain ⟨m, hm, hv⟩ := hkeep.saved i l hl
      obtain ⟨n, hn, hw⟩ := h2 i m hm
      exact ⟨n, hn, fun v h => hw v (hv v h)⟩
    · rcases List.mem_cons.mp hk with rfl | hk
      · rw [h1 k hc]; exact ⟨hstop.rest, hstop.task, hP⟩
      · have := h3 k hk
        rwa [hkeep.others k (hne k hk)] at this
    · rcases List.mem_cons.mp hk with rfl | hk
      · obtain ⟨m, v, hm, hv, hvr⟩ := hstop.stands r l hr hl
        obtain ⟨n, hn, hw⟩ := h2 _ m hm
        exact ⟨n, v, hn, hw v hv, hvr⟩
      · obtain ⟨m, hm, -⟩ := hkeep.saved _ l hl
        exact h4 k hk r m (by rwa [hkeep.others k (hne k hk)]) hm

/-- A launch that has kept one more task. -/
theorem modify_saved {ls : List Launch} {j : Nat} {v : Saved} (i : Nat) (l : Launch) (h : ls[i]? = some l) :
    ∃ m, (ls.modify j fun l => { l with saved := l.saved ++ [v] })[i]? = some m ∧ (∀ u ∈ l.saved, u ∈ m.saved) ∧
      (i = j → v ∈ m.saved) := by
  rw [List.getElem?_modify, h]
  by_cases hij : j = i
  · exact ⟨{ l with saved := l.saved ++ [v] }, by simp [hij], fun u hu => List.mem_append_left _ hu, fun _ => List.mem_append_right _ List.mem_cons_self⟩
  · exact ⟨l, by simp [hij], fun _ hu => hu, fun hji => absurd hji.symm hij⟩

/-- The save of a context that has been brought to rest stops it (R53, R54). -/
theorem State.saveContext_stops {s u : State} {c : CtxIx} (slot : Nat) (hu : OwnOnly c s u) (hrest : (u.ctx c).AtRest)
    (htask : (u.ctx c).task = (s.ctx c).task) (ht : (s.ctx c).task ≠ none) : StopsCtx c s (u.saveContext c slot) := by
  obtain ⟨r, hr⟩ := Option.ne_none_iff_exists'.mp ht
  obtain ⟨ho, hi, hx, hnone, v, hvt, hvc, hl⟩ := State.saveContext_spec slot (htask.trans hr) hrest
  rw [hu.launches] at hl
  refine ⟨⟨fun k hk => (ho k hk).trans (hu.others k hk), fun q => (hi q).trans (hu.images q), fun i l h => ?_⟩, hx, hnone,
    fun r' l hr' h => ?_⟩
  · obtain ⟨m, hm, hv, -⟩ := modify_saved (j := r.launch) (v := v) i l h
    exact ⟨m, hl ▸ hm, hv⟩
  · obtain rfl : r = r' := Option.some.inj (hr.symm.trans hr')
    obtain ⟨m, hm, -, hv⟩ := modify_saved (j := r.launch) (v := v) _ l h
    exact ⟨m, v, hl ▸ hm, hv rfl, hvt, hvc⟩

/-! ### A planned stop -/

/-- One step of a planned stop (R157, R308). -/
def State.plannedStopOne (s : State) (c : CtxIx) : State :=
  let t := (s.ctx c).task
  let s := ((s.quiesce c).flushFeeds c).persistOwn c
  let r := (s.ctx c).regs
  (s.saveContext c ((s.freeSlots (CtxIx.die c)).headD 0)).persistPoint c r t 3

theorem State.plannedStop_eq (s : State) (cs : List CtxIx) : s.plannedStop cs = cs.foldl State.plannedStopOne s := rfl

/-- The record of a persist point stands in one of the two slots, and nothing else of the context changes (R306, R307). -/
theorem Context.record_spec (x : Context) (r : Regs) (t : Option TaskRef) (pseq st : Nat) (cy : Word64) (sh : BitVec 114688) :
    (x.record r t pseq st cy sh).viq = x.viq ∧ (x.record r t pseq st cy sh).block = x.block ∧
      (x.record r t pseq st cy sh).parked = x.parked ∧ (x.record r t pseq st cy sh).task = x.task ∧
      ∃ h ∈ [(x.record r t pseq st cy sh).holmA, (x.record r t pseq st cy sh).holmB], h.state = st ∧ h.task = t := by
  unfold Context.record
  dsimp only
  split
  · exact ⟨rfl, rfl, rfl, rfl, _, List.mem_cons_self, rfl, rfl⟩
  · exact ⟨rfl, rfl, rfl, rfl, _, List.mem_cons_of_mem _ List.mem_cons_self, rfl, rfl⟩

/-- A stop that has been written down to a slot with STATE 3. -/
def Context.Planned (t : Option TaskRef) (x : Context) : Prop := ∃ h ∈ [x.holmA, x.holmB], h.state = 3 ∧ h.task = t

@[simp] theorem State.persistOwn_tasks (s : State) (c : CtxIx) : (s.persistOwn c).tasks = s.tasks := rfl

theorem State.persistPoint_eq (s : State) (c : CtxIx) (r : Regs) (t : Option TaskRef) : ∃ u x, State.tasks u = s.tasks ∧
    s.persistPoint c r t 3 = State.setCtx u c x ∧ x.viq = (s.ctx c).viq ∧ x.block = (s.ctx c).block ∧ x.parked = (s.ctx c).parked ∧
      x.task = (s.ctx c).task ∧ x.Planned t :=
  ⟨((s.setCore (CtxIx.core c) (s.core (CtxIx.core c)).persistImage).free 114688).2, _, rfl, rfl, Context.record_spec _ _ _ _ _ _ _⟩

theorem StopsCtx.persistPoint {c : CtxIx} {s t : State} (h : StopsCtx c s t) (r : Regs) (tr : Option TaskRef) :
    StopsCtx c s (t.persistPoint c r tr 3) ∧ ((t.persistPoint c r tr 3).ctx c).Planned tr := by
  obtain ⟨hk, hr, ht, hs⟩ := h
  obtain ⟨u, x, hu, he, hv, hb, hp, htask, hplan⟩ := t.persistPoint_eq c r tr
  have hl : (u.setCtx c x).launches = t.launches := State.launches_of_tasks (t := u) hu
  rw [he]
  refine ⟨⟨⟨fun k hkc => ?_, fun q => ?_, fun i l h => ?_⟩, ?_, ?_, fun r' l hr' h => ?_⟩, ?_⟩
  · rw [State.setCtx_ne _ c k x hkc, State.ctx_of_tasks hu, hk.others k hkc]
  · exact (State.images_of_tasks hu q).trans (hk.images q)
  · rw [hl]; exact hk.saved i l h
  · rw [State.setCtx_same]; exact ⟨hp.trans hr.parked, hv.trans hr.viq, hb.trans hr.block⟩
  · rw [State.setCtx_same]; exact htask.trans ht
  · rw [hl]; exact hs r' l hr' h
  · rw [State.setCtx_same]; exact hplan

theorem State.quiesce_saveContext_stops {s : State} {c : CtxIx} (slot : Nat) (hn : s.nonePassed c) (ht : (s.ctx c).task ≠ none) :
    StopsCtx c s ((s.quiesce c).saveContext c slot) := by
  obtain ⟨hq, hrest, htask⟩ := State.quiesce_ownOnly hn
  exact State.saveContext_stops slot hq hrest htask ht

theorem State.plannedStopOne_stops {s : State} {c : CtxIx} (hn : s.nonePassed c) (ht : (s.ctx c).task ≠ none) :
    StopsCtx c s (s.plannedStopOne c) ∧ ((s.plannedStopOne c).ctx c).Planned (s.ctx c).task := by
  obtain ⟨hq, hrest, htask⟩ := State.quiesce_ownOnly hn
  obtain ⟨hf, -, fs, hfs⟩ := (s.quiesce c).flushFeeds_feedsOnly c
  have hown : OwnOnly c s (((s.quiesce c).flushFeeds c).persistOwn c) := (hq.trans hf).trans (.of_tasks (State.persistOwn_tasks _ c) c)
  have hx : (((s.quiesce c).flushFeeds c).persistOwn c).ctx c = ((s.quiesce c).ctx c).withFeeds fs :=
    (State.ctx_of_tasks (State.persistOwn_tasks _ c) c).trans hfs
  obtain ⟨slot, r, hone⟩ : ∃ slot r, s.plannedStopOne c =
      ((((s.quiesce c).flushFeeds c).persistOwn c).saveContext c slot).persistPoint c r (s.ctx c).task 3 := ⟨_, _, rfl⟩
  rw [hone]
  generalize ((s.quiesce c).flushFeeds c).persistOwn c = u at hown hx
  refine (State.saveContext_stops slot hown ?_ ?_ ht).persistPoint r _
  · rw [hx]; exact hrest.withFeeds fs
  · rw [hx, Context.withFeeds_task]; exact htask

/-! ### The gang of a context -/

theorem State.gangOf_nodup (s : State) (c : CtxIx) : (s.gangOf c).Nodup := by
  unfold State.gangOf
  split
  · exact List.nodup_singleton c
  · exact (List.nodup_finRange 1536).filter _

theorem State.gangOf_task {s : State} {c : CtxIx} (h : (s.ctx c).task ≠ none) : ∀ k ∈ s.gangOf c, (s.ctx k).task ≠ none := by
  unfold State.gangOf
  split
  · intro k hk; rwa [List.mem_singleton.mp hk]
  · intro k hk hnone
    have := (List.mem_filter.mp hk).2
    rw [hnone] at this; exact absurd this (by simp)

/-- What holds of every member of a gang that is saved, none of whose entries has passed its fault point (R53, R54). -/
theorem State.saveAll_stops {s : State} {cs : List CtxIx} (hnd : cs.Nodup) (hn : ∀ k ∈ cs, s.nonePassed k)
    (ht : ∀ k ∈ cs, (s.ctx k).task ≠ none) : StopsAll cs (fun _ _ => True) s (s.saveAll cs) :=
  foldl_stops _ _ (fun _ _ hn ht => ⟨State.quiesce_saveContext_stops _ hn ht, trivial⟩) cs s hnd hn ht

/-- The same of a planned stop, with the record of each (R157, R308). -/
theorem State.plannedStop_stops {s : State} {cs : List CtxIx} (hnd : cs.Nodup) (hn : ∀ k ∈ cs, s.nonePassed k)
    (ht : ∀ k ∈ cs, (s.ctx k).task ≠ none) : StopsAll cs Context.Planned s (s.plannedStop cs) :=
  foldl_stops State.plannedStopOne _ (fun _ _ hn ht => State.plannedStopOne_stops hn ht) cs s hnd hn ht

end Sys2Proof.Machine

/-! PROOFS. O43: the events and the instruction that stop and resume tasks (R40, R157, R324). -/
namespace Sys2Proof.Machine

/-! ### TIME_SLICE_EXPIRY and PREEMPT -/

theorem State.sliceOver_eq {s : State} {c : CtxIx} (h : (s.ctx c).task.isSome = true) : s.sliceOver c =
    decide (max 1 (s.die (CtxIx.die c)).dslice.toNat ≤ (s.core (CtxIx.core c)).cycle.toNat - (s.ctx c).startedAt) := by
  dsimp only [State.sliceOver]
  rw [h]; rfl

/-- When a context has been asked to stop, or is chosen to go (R40). -/
def State.askedToYield (s : State) (c : CtxIx) : Prop := (s.ctx c).stopReq = .preempt ∨ (s.preemptFor c).isSome = true

theorem exec_preempt_not {s : State} {c : CtxIx} (h : ¬ s.askedToYield c ∨ s.slotsFor (s.gangOf c) = false) :
    exec (.preempt c) s = .next s := by
  refine if_pos ?_
  rcases h with h | h
  · have h' : ((s.ctx c).stopReq == .preempt || (s.preemptFor c).isSome) = false := by
      simpa [State.askedToYield] using h
    simp [h']
  · simp [h]

/-- The record for which a task of its own class was pre-empted is favoured (R40). -/
def State.favour (s : State) (w : Option (Nat × Bool × CtxIx)) (same : Bool) : State :=
  match w with
  | some (i, _, _) => if same then s.onLaunch i fun l => { l with favoured := true } else s
  | none => s

theorem State.favour_spec (s : State) (w : Option (Nat × Bool × CtxIx)) (same : Bool) :
    s.favour w same = { s with launches := (s.favour w same).launches } ∧
      ∀ (i : Nat) l, s.launches[i]? = some l → ∃ m, (s.favour w same).launches[i]? = some m ∧ m.saved = l.saved := by
  unfold State.favour
  split
  · next j _ _ =>
    split
    · refine ⟨rfl, fun i l h => ?_⟩
      show ∃ m, (s.launches.modify j _)[i]? = some m ∧ _
      rw [List.getElem?_modify, h]
      by_cases hij : j = i
      · exact ⟨{ l with favoured := true }, by simp [hij], rfl⟩
      · exact ⟨l, by simp [hij], rfl⟩
    · exact ⟨rfl, fun i l h => ⟨l, h, rfl⟩⟩
  · exact ⟨rfl, fun i l h => ⟨l, h, rfl⟩⟩

theorem exec_preempt {s : State} {c : CtxIx} (ht : (s.ctx c).task.isSome = true) (h : s.askedToYield c)
    (hs : s.slotsFor (s.gangOf c) = true) : exec (.preempt c) s =
      if !s.userLevel (s.gangOf c) then .next (s.askStop (s.gangOf c) .preempt)
      else
        let u := (s.gangOf c).foldl State.completePassed s
        if !u.userLevel (s.gangOf c) then .next (u.askStop (s.gangOf c) .preempt)
        else
          .next ((u.saveAll (s.gangOf c)).favour (s.preemptFor c)
            ((s.preemptFor c).any fun w => w.2.1 && u.launches[w.1]?.any fun l => l.prio == u.prioOf c)) := by
  refine if_neg ?_
  have h' : ((s.ctx c).stopReq == .preempt || (s.preemptFor c).isSome) = true := by
    simpa [State.askedToYield] using h
  rw [h', hs, Option.isNone_eq_false_iff.mpr ht]
  exact Bool.false_ne_true

/-- The stops stand where the launches are changed in something else than what they have saved. -/
theorem StopsAll.setLaunches {cs : List CtxIx} {P : Option TaskRef → Context → Prop} {s t : State} {ls : List Launch}
    (h : StopsAll cs P s t) (hl : ∀ (i : Nat) l, t.launches[i]? = some l → ∃ m, ls[i]? = some m ∧ m.saved = l.saved) :
    StopsAll cs P s { t with launches := ls } := by
  refine ⟨h.others, fun i l hi => ?_, h.each, fun k hk r l hr hi => ?_⟩
  · obtain ⟨m, hm, hv⟩ := h.saved i l hi
    obtain ⟨n, hn, hs⟩ := hl i m hm
    exact ⟨n, hn, fun v hvl => hs ▸ hv v hvl⟩
  · obtain ⟨m, v, hm, hv, hvr⟩ := h.stands k hk r l hr hi
    obtain ⟨n, hn, hs⟩ := hl _ m hm
    exact ⟨n, v, hn, hs ▸ hv, hvr⟩

/-! ### TSTOP -/

theorem bits_zero (x n : Nat) : bits x 0 n = x % 2 ^ n := by rw [bits, Nat.pow_zero, Nat.div_one]

/-- TSTOP at S level with lanes at rest, on its number and its target. -/
theorem exec_tstop_ready {s : State} (o : X2) (hd : s.me.drained = true) (hs : s.mySc.sup = true) : exec (.tstop o) s =
    let xa := (s.mySc.rx o.a).toNat
    let k := bits xa 0 8
    if h : k < 192 then
      let c : CtxIx := ⟨k * 8 + bits xa 8 3, by have : bits xa 8 3 < 8 := Nat.mod_lt _ (by decide)
                                                omega⟩
      if 2 ^ 11 ≤ xa || c == s.cur then .next (s.scalarTrap ⟨.illegal, 0, s.mySc.pc⟩)
      else
        let cs := s.gangOf c
        if (s.ctx c).task.isNone then (s.unaskStop s.cur).scalar fun sc => sc.wx o.d 0
        else if !s.slotsFor cs then (s.unaskStop s.cur).scalar fun sc => sc.wx o.d 2
        else if !s.userLevel cs then .next (s.askStop cs (.tstop s.cur))
        else
          let me := s.cur
          let s := { cs.foldl State.completePassed s with cur := me }
          if !s.userLevel cs then .next (s.askStop cs (.tstop me))
          else ({ (s.unaskStop me).plannedStop cs with cur := me } : State).scalar fun sc => sc.wx o.d 1
    else .next (s.scalarTrap ⟨.illegal, 0, s.mySc.pc⟩) :=
  (if_pos hs).trans (if_pos hd)

theorem exec_tstop_illegal {s : State} {o : X2} (hd : s.me.drained = true) (hs : s.mySc.sup = true)
    (h : 2048 ≤ (s.mySc.rx o.a).toNat ∨ 192 ≤ (s.mySc.rx o.a).toNat % 256 ∨
      (s.mySc.rx o.a).toNat % 256 * 8 + (s.mySc.rx o.a).toNat / 256 % 8 = s.cur.val) :
    exec (.tstop o) s = .next (s.scalarTrap ⟨.illegal, 0, s.mySc.pc⟩) := by
  rw [exec_tstop_ready o hd hs]
  dsimp only
  split
  · next hk =>
    refine if_pos ?_
    rw [Bool.or_eq_true, decide_eq_true_eq, beq_iff_eq, Fin.ext_iff]
    rw [bits_zero] at hk
    simp only [bits_zero]
    rcases h with h | h | h
    · exact .inl h
    · exact absurd hk (by omega)
    · exact .inr h
  · rfl

/-- TSTOP on another context. -/
theorem exec_tstop_target {s : State} {o : X2} {c : CtxIx} (hd : s.me.drained = true) (hs : s.mySc.sup = true)
    (hx : (s.mySc.rx o.a).toNat < 2048) (hc : c.val = (s.mySc.rx o.a).toNat % 256 * 8 + (s.mySc.rx o.a).toNat / 256 % 8)
    (hne : c ≠ s.cur) : exec (.tstop o) s =
      let cs := s.gangOf c
      if (s.ctx c).task.isNone then (s.unaskStop s.cur).scalar fun sc => sc.wx o.d 0
      else if !s.slotsFor cs then (s.unaskStop s.cur).scalar fun sc => sc.wx o.d 2
      else if !s.userLevel cs then .next (s.askStop cs (.tstop s.cur))
      else
        let u := { cs.foldl State.completePassed s with cur := s.cur }
        if !u.userLevel cs then .next (u.askStop cs (.tstop s.cur))
        else ({ (u.unaskStop s.cur).plannedStop cs with cur := s.cur } : State).scalar fun sc => sc.wx o.d 1 := by
  have hk : bits (s.mySc.rx o.a).toNat 0 8 < 192 := by rw [bits_zero]; have := c.isLt; omega
  have hcc : (⟨bits (s.mySc.rx o.a).toNat 0 8 * 8 + bits (s.mySc.rx o.a).toNat 8 3, by
      have : bits (s.mySc.rx o.a).toNat 8 3 < 8 := Nat.mod_lt _ (by decide)
      omega⟩ : CtxIx) = c := by
    refine Fin.ext ?_
    show bits (s.mySc.rx o.a).toNat 0 8 * 8 + bits (s.mySc.rx o.a).toNat 8 3 = c.val
    rw [hc, bits_zero]; rfl
  rw [exec_tstop_ready o hd hs]
  dsimp only
  rw [dif_pos hk, hcc, if_neg (by simp [hne]; omega)]

/-- Taking back a request changes what is asked of contexts, and nothing else. -/
theorem State.unaskStop_ctx (s : State) (b c : CtxIx) : ∃ r, (s.unaskStop b).ctx c = { s.ctx c with stopReq := r } := by
  have h : (s.unaskStop b).ctx c = if (s.ctx c).stopReq == .tstop b then { s.ctx c with stopReq := .none } else s.ctx c :=
    Vector.getElem_map _ _
  rw [h]
  split
  · exact ⟨.none, rfl⟩
  · exact ⟨_, rfl⟩

theorem State.unaskStop_sc (s : State) (b c : CtxIx) : (s.unaskStop b).sc c = s.sc c := by
  obtain ⟨r, hr⟩ := s.unaskStop_ctx b c
  rw [State.sc, hr]; rfl

theorem State.unaskStop_task (s : State) (b c : CtxIx) : ((s.unaskStop b).ctx c).task = (s.ctx c).task := by
  obtain ⟨r, hr⟩ := s.unaskStop_ctx b c
  rw [hr]

theorem State.scalar_as (s : State) (b : CtxIx) (f : Scalar → Scalar) : ({ s with cur := b } : State).scalar f =
    .next (State.setCtx { s with cur := b } b ((s.ctx b).setSc (f (s.sc b)).retire)) := rfl

theorem State.unaskStop_scalar (s : State) (b : CtxIx) (f : Scalar → Scalar) :
    (s.unaskStop b).scalar f = .next ((s.unaskStop b).setMySc (f s.mySc).retire) := by
  rw [State.scalar, State.mySc, State.unaskStop_sc]; rfl

theorem State.unaskStop_nonePassed {s : State} {k : CtxIx} (b : CtxIx) (h : s.nonePassed k) : (s.unaskStop b).nonePassed k := by
  obtain ⟨r, hr⟩ := s.unaskStop_ctx b k
  refine ⟨fun e he => h.1 e ?_, h.2⟩
  rw [hr] at he; exact he

/-! ### TASK_RESUME -/

@[simp] theorem State.passRight_die (s : State) (d : DieIx) (i : Nat) (l : Launch) (cs : List CtxIx) (e : DieIx) :
    (s.passRight d i l cs).die e = s.die e := by
  unfold State.passRight; split_ifs <;> rfl

/-- A core that takes a saved task back has its launch's split (R30, R54). -/
def State.fitted (s : State) (l : Launch) (k : CoreIx) : State :=
  let x := s.core k
  if x.pool0 == l.pool0 && x.pool1 == l.pool1 && x.pool2 == l.pool2 then s else s.recut l k

theorem State.fitted_tasks (s : State) (l : Launch) (k : CoreIx) : (s.fitted l k).tasks = s.tasks := ite_tasks rfl (s.recut_tasks l k)
theorem State.fitted_mem (s : State) (l : Launch) (k : CoreIx) : (s.fitted l k).mem = s.mem := by
  unfold State.fitted
  dsimp only
  split
  · rfl
  · exact s.recut_mem l k

theorem State.restoreSaved_eq (s : State) (i : Nat) (l : Launch) (v : Saved) (c : CtxIx) : ∃ r : Regs, r.sc.sup = false ∧ r.sc.pstat = 0 ∧
    s.restoreSaved i l v c =
      let t := ((s.fitted l (CtxIx.core c)).dropSaved i v).occupy c ⟨i, v.tid⟩ r v.bars v.order v.holds
      { t with binds := t.binds ++ v.binds.map fun b => (c, b) } := by
  let u := s.fitted l (CtxIx.core c)
  let r := Regs.ofBytes (fun off n => u.mem.le ((u.die (CtxIx.die c)).slotBase v.slot + off) n) v
  exact ⟨{ r with sc := { r.sc with pstat := 0 } }, rfl, rfl, rfl⟩

theorem State.dropSaved_ctx (s : State) (i : Nat) (v : Saved) (k : CtxIx) : (s.dropSaved i v).ctx k = s.ctx k := rfl
theorem State.dropSaved_mem (s : State) (i : Nat) (v : Saved) : (s.dropSaved i v).mem = s.mem := rfl
theorem State.dropSaved_slots (s : State) (i : Nat) (v : Saved) :
    ((s.dropSaved i v).die (CoreIx.die v.core)).slots = (s.die (CoreIx.die v.core)).slots.filter (· != v.slot) :=
  congrArg Die.slots (State.setDie_same s (CoreIx.die v.core) _)

/-- What a resumed task finds, and what its resumption leaves (R54). -/
theorem State.restoreSaved_spec (s : State) (i : Nat) (l : Launch) (v : Saved) (c : CtxIx) :
    ((s.restoreSaved i l v c).ctx c).task = some ⟨i, v.tid⟩ ∧ ((s.restoreSaved i l v c).sc c).sup = false ∧
      ((s.restoreSaved i l v c).sc c).pstat = 0 ∧ ((s.restoreSaved i l v c).ctx c).parked = none ∧
      ((s.restoreSaved i l v c).ctx c).bars = v.bars ∧ ((s.restoreSaved i l v c).ctx c).order = v.order ∧
      ((s.restoreSaved i l v c).ctx c).holds = v.holds ∧ (∀ k, k ≠ c → (s.restoreSaved i l v c).ctx k = s.ctx k) ∧
      (s.restoreSaved i l v c).mem = s.mem ∧ v.slot ∉ ((s.restoreSaved i l v c).die (CoreIx.die v.core)).slots := by
  obtain ⟨r, hsup, hpstat, he⟩ := s.restoreSaved_eq i l v c
  have hctx := State.ctx_of_tasks (s.fitted_tasks l (CtxIx.core c))
  have hmem := s.fitted_mem l (CtxIx.core c)
  rw [he]
  generalize s.fitted l (CtxIx.core c) = u at hctx hmem
  have hown : (((u.dropSaved i v).occupy c ⟨i, v.tid⟩ r v.bars v.order v.holds).ctx c) = _ := State.setCtx_same _ c _
  refine ⟨congrArg (·.task) hown, (congrArg (·.regs.sc.sup) hown).trans hsup, (congrArg (·.regs.sc.pstat) hown).trans hpstat,
    congrArg (·.parked) hown, congrArg (·.bars) hown, congrArg (·.order) hown, congrArg (·.holds) hown,
    fun k hk => (State.setCtx_ne _ c k _ hk).trans ((u.dropSaved_ctx i v k).trans (hctx k)), (u.dropSaved_mem i v).trans hmem, ?_⟩
  intro hmemb
  have hin : v.slot ∈ ((u.dropSaved i v).die (CoreIx.die v.core)).slots := hmemb
  rw [State.dropSaved_slots] at hin
  simpa using (List.mem_filter.mp hin).2

theorem exec_taskResume_one {s : State} {i : Nat} {c : CtxIx} {l : Launch} {v : Saved} (hl : s.launches[i]? = some l)
    (hg : l.gang = false) (hv : l.saved.find? (fun v => s.resumeOk i l v c) = some v) (hb : s.heldBack l true [c] = false)
    (hr : l.remote [c] = true → s.hasRight l.die = true)
    (hlost : s.lostRange ((s.die (CtxIx.die c)).slotBase v.slot) slotBytes = false) :
    exec (.taskResume i [c]) s = .next ((s.restoreSaved i l v c).passRight l.die i l [c]) := by
  have hnext : s.resumeNext i [c] = (s.restoreSaved i l v c, true) := by
    simp only [State.resumeNext, hl, hv, hlost, Bool.false_eq_true, if_false]
  show execTaskResume i [c] s = _
  unfold execTaskResume
  simp only [hl, hnext]
  have hblock : (s.heldBack l true [c] || (l.remote [c] && !s.hasRight l.die) || (l.gang && ([c].length != l.saved.length ||
        l.saved.any (·.lost) || (s.backPlaces i l).isNone))) = false := by
    cases hrem : l.remote [c] <;> simp_all
  rw [if_neg (by rw [hblock]; exact Bool.false_ne_true)]
  rfl

end Sys2Proof.Machine

namespace Sys2Proof.Spec
open Sys2Proof.Machine

theorem nonePassed_iff {s : State} {cs : List CtxIx} : NonePassed s cs ↔ ∀ k ∈ cs, s.nonePassed k := Iff.rfl

theorem savedAway_of_stopsAll {s t : State} {cs : List CtxIx} {P : Option TaskRef → Context → Prop} (h : StopsAll cs P s t) {k : CtxIx}
    (hk : k ∈ cs) : SavedAway s t k := by
  obtain ⟨hr, ht, -⟩ := h.each k hk
  exact ⟨ht, hr.parked, hr.viq, hr.block, h.stands k hk⟩

theorem timeSliceExpires (c : CtxIx) (s : State) (ht : (s.ctx c).task.isSome = true) :
    let ran := (s.core (CtxIx.core c)).cycle.toNat - (s.ctx c).startedAt
    let slice := max 1 (s.die (CtxIx.die c)).dslice.toNat
    (slice ≤ ran → Completes (.timeSliceExpiry c) s fun t => t = s.setCtx c { s.ctx c with sliceOut := true }) ∧
    (ran < slice → Completes (.timeSliceExpiry c) s fun t => t = s) := by
  intro ran slice
  have hex : exec (.timeSliceExpiry c) s = .next (if s.sliceOver c then s.setCtx c { s.ctx c with sliceOut := true } else s) := rfl
  rw [State.sliceOver_eq ht] at hex
  exact ⟨fun h => ⟨_, hex, if_pos (decide_eq_true h)⟩, fun h => ⟨_, hex, if_neg fun hd => absurd (of_decide_eq_true hd) (Nat.not_le_of_gt h)⟩⟩

theorem preemptTakesPlace (c : CtxIx) (s : State) (ht : (s.ctx c).task.isSome = true) : let cs := s.gangOf c
    let asked := (s.ctx c).stopReq = .preempt ∨ (s.preemptFor c).isSome = true
    (¬ asked ∨ s.slotsFor cs = false → Completes (.preempt c) s fun t => t = s) ∧
    (asked → s.slotsFor cs = true → s.userLevel cs = false → Completes (.preempt c) s fun t => t = s.askStop cs .preempt) ∧
    (asked → s.slotsFor cs = true → s.userLevel cs = true → let u := cs.foldl State.completePassed s
      (u.userLevel cs = false → Completes (.preempt c) s fun t => t = u.askStop cs .preempt) ∧
      (u.userLevel cs = true → Completes (.preempt c) s fun t =>
        t = { u.saveAll cs with launches := t.launches } ∧
          (NonePassed s cs → (∀ k ∈ cs, SavedAway s t k) ∧ OtherContexts (· ∈ cs) s t))) := by
  intro cs asked
  refine ⟨fun h => ⟨s, exec_preempt_not h, rfl⟩, fun ha hs hu => ?_, fun ha hs hu => ?_⟩ <;> have hex := exec_preempt ht ha hs
  · exact ⟨_, hex.trans (if_pos (by rw [show s.userLevel (s.gangOf c) = false from hu]; rfl)), rfl⟩
  · intro u
    rw [if_neg (by rw [show s.userLevel (s.gangOf c) = true from hu]; exact Bool.false_ne_true)] at hex
    refine ⟨fun hu' => ⟨_, hex.trans (if_pos (by rw [show State.userLevel _ _ = false from hu']; rfl)), rfl⟩, fun hu' => ?_⟩
    have hex := hex.trans (if_neg (by rw [show State.userLevel _ _ = true from hu']; exact Bool.false_ne_true))
    obtain ⟨hf, hkeep⟩ := (u.saveAll cs).favour_spec (s.preemptFor c)
      ((s.preemptFor c).any fun w => w.2.1 && u.launches[w.1]?.any fun l => l.prio == u.prioOf c)
    refine ⟨_, hex, hf, fun hn => ?_⟩
    have husame : u = s := State.foldl_completePassed hn
    have hall : StopsAll cs (fun _ _ => True) s (u.saveAll cs) := by
      rw [husame]
      exact State.saveAll_stops (s.gangOf_nodup c) hn (State.gangOf_task (Option.isSome_iff_ne_none.mp ht))
    have hend := hall.setLaunches hkeep
    rw [← hf] at hend
    exact ⟨fun k hk => savedAway_of_stopsAll hend hk, hend.others⟩

theorem savedTaskResumes (i : Nat) (c : CtxIx) (s : State) (l : Launch) (v : Saved) (hl : s.launches[i]? = some l) (hg : l.gang = false)
    (hv : l.saved.find? (fun v => s.resumeOk i l v c) = some v) (hb : s.heldBack l true [c] = false)
    (hr : l.remote [c] = true → s.hasRight l.die = true) (hlost : s.lostRange ((s.die (CtxIx.die c)).slotBase v.slot) 0x58000 = false) :
    Completes (.taskResume i [c]) s fun t => (t.ctx c).task = some ⟨i, v.tid⟩ ∧ (t.sc c).sup = false ∧ (t.sc c).pstat = 0 ∧
      (t.ctx c).parked = none ∧ (t.ctx c).bars = v.bars ∧ (t.ctx c).order = v.order ∧ (t.ctx c).holds = v.holds ∧
      OtherContexts (· = c) s t ∧ t.mem = s.mem ∧ v.slot ∉ (t.die (CoreIx.die v.core)).slots := by
  refine ⟨_, exec_taskResume_one hl hg hv hb hr hlost, ?_⟩
  have hctx := State.ctx_of_tasks ((s.restoreSaved i l v c).passRight_tasks l.die i l [c])
  simp only [State.sc, hctx, State.passRight_mem, State.passRight_die]
  obtain ⟨htask, hsup, hp, hparked, hbars, horder, hholds, hothers, hmem, hslot⟩ := s.restoreSaved_spec i l v c
  exact ⟨htask, hsup, hp, hparked, hbars, horder, hholds, fun k hk => (hctx k).trans (hothers k hk), hmem, hslot⟩

theorem tasksYieldAndResume : TasksYieldAndResume :=
  ⟨timeSliceExpires, preemptTakesPlace, savedTaskResumes⟩

theorem tstopStopsAContext : TstopStopsAContext := by
  intro o s hd hs xa
  refine ⟨fun h => trapsWith_of_scalarTrap .illegal _ hd (exec_tstop_illegal hd hs h), fun c hx hc hne => ?_⟩
  have hex := exec_tstop_target hd hs hx hc hne
  dsimp only at hex
  rw [State.unaskStop_scalar, State.unaskStop_scalar] at hex
  refine ⟨fun ht => ⟨_, hex.trans (if_pos (by rw [ht]; rfl)), rfl⟩, fun r hr => ?_⟩
  rw [if_neg (by rw [hr]; exact Bool.false_ne_true)] at hex
  refine ⟨fun hslots => ⟨_, hex.trans (if_pos (by rw [hslots]; rfl)), rfl⟩, fun hslots hu => ?_, fun hslots hu => ?_,
    fun hslots hu hn => ?_⟩ <;> rw [hslots, Bool.not_true, if_neg Bool.false_ne_true, hu] at hex
  · exact ⟨_, hex, rfl⟩
  · rw [Bool.not_true, if_neg Bool.false_ne_true] at hex
    intro u
    exact ⟨fun hu' => ⟨_, hex.trans (if_pos (by rw [show State.userLevel _ _ = false from hu']; rfl)), rfl⟩,
      fun hu' => ⟨_, hex.trans (if_neg (by rw [show State.userLevel _ _ = true from hu']; exact Bool.false_ne_true)), rfl⟩⟩
  · rw [Bool.not_true, if_neg Bool.false_ne_true, State.foldl_completePassed hn,
      if_neg (by rw [show State.userLevel _ _ = true from hu]; exact Bool.false_ne_true)] at hex
    rw [State.scalar_as] at hex
    refine ⟨_, hex, ?_⟩
    have hgang := State.gangOf_task (s := s) (c := c) (by rw [hr]; exact Option.some_ne_none r)
    have hall := State.plannedStop_stops (s := s.unaskStop s.cur) (s.gangOf_nodup c)
      (fun k hk => State.unaskStop_nonePassed s.cur (hn k hk))
      (fun k hk => by obtain ⟨q, hq⟩ := s.unaskStop_ctx s.cur k; rw [hq]; exact hgang k hk)
    have hme : s.cur ∉ s.gangOf c := by
      intro hmem
      have := List.all_eq_true.mp hu s.cur hmem
      simp [show (s.sc s.cur).sup = true from hs] at this
    generalize (s.unaskStop s.cur).plannedStop (s.gangOf c) = v at hall ⊢
    have hctx (k : CtxIx) (hk : k ≠ s.cur) : (State.setCtx { v with cur := s.cur } s.cur
        ((v.ctx s.cur).setSc ((v.sc s.cur).wx o.d 1).retire)).ctx k = v.ctx k := State.setCtx_ne _ s.cur k _ hk
    have hsc : v.sc s.cur = s.mySc := by
      rw [State.sc, hall.others s.cur hme]; exact s.unaskStop_sc s.cur s.cur
    refine ⟨?_, rfl, fun k hk => ?_, fun k hk => ?_⟩
    · rw [← hsc]; exact State.setCtx_sc_same _ s.cur _
    · obtain ⟨hk1, hk2⟩ := not_or.mp hk
      rw [hctx k hk2, hall.others k hk1]
    · have hk' : k ≠ s.cur := fun h => hme (h ▸ hk)
      have hsaved := savedAway_of_stopsAll hall hk
      obtain ⟨-, -, hplan⟩ := hall.each k hk
      rw [SavedAway, State.unaskStop_task] at hsaved
      rw [State.unaskStop_task] at hplan
      rw [SavedAway, hctx k hk']
      exact ⟨hsaved, hplan⟩

end Sys2Proof.Spec

namespace Sys2Proof.Proofs
open Sys2Proof.Machine Sys2Proof.Spec

/-- Settles O43: each event and TSTOP from the equation of its step; what a stop leaves, by induction on the contexts that stop. -/
theorem tasksStopAndResume : Obligations.TasksStopAndResume := ⟨tasksYieldAndResume, tstopStopsAContext⟩

end Sys2Proof.Proofs

/-! PROOFS. O24, first part: what STOP commits (R189, R221). -/
namespace Sys2Proof.Machine

/-! ### Shadows that are written back -/

/-- Entries of a vector after writes in turn: the last write of each, or what stood before. -/
theorem getElem_foldl_set {α : Type} {n : Nat} (ps : List (Fin n × α)) : ∀ (v : Vector α n) (r : Fin n),
    (ps.foldl (fun v p => v.set p.1.val p.2) v)[r.val] = ((ps.reverse.find? fun p => p.1 == r).map (·.2)).getD v[r.val] := by
  induction ps with
  | nil => intro v r; rfl
  | cons p ps ih =>
    intro v r
    rw [List.foldl_cons, ih, List.reverse_cons, List.find?_append]
    cases hf : ps.reverse.find? fun p => p.1 == r with
    | some q => rfl
    | none =>
      by_cases hp : p.1 = r
      · simp [hp]
      · have hne : p.1.val ≠ r.val := fun h => hp (Fin.ext h)
        simp [hp, hne]

theorem State.setW_me (s : State) (r : WReg) (x : VBits) :
    (s.setW r x).me = { s.me with regs := { s.me.regs with w := s.me.regs.w.set r.val x } } := s.setCtx_same _ _

theorem State.foldl_setV (ps : List (VReg × VBits)) : ∀ s : State, ps.foldl (fun s p => s.setV p.1 p.2) s =
    s.setMe { s.me with regs := { s.me.regs with v := ps.foldl (fun v p => v.set p.1.val p.2) s.me.regs.v } } := by
  induction ps with
  | nil => intro s; exact (State.setCtx_self s s.cur).symm
  | cons p ps ih =>
    intro s
    rw [List.foldl_cons, ih, State.setV_me]
    exact State.setCtx_setCtx s s.cur _ _

theorem State.foldl_setM (ps : List (MReg × MBits)) : ∀ s : State, ps.foldl (fun s p => s.setM p.1 p.2) s =
    s.setMe { s.me with regs := { s.me.regs with m := ps.foldl (fun v p => v.set p.1.val p.2) s.me.regs.m } } := by
  induction ps with
  | nil => intro s; exact (State.setCtx_self s s.cur).symm
  | cons p ps ih =>
    intro s
    rw [List.foldl_cons, ih, State.setM_me]
    exact State.setCtx_setCtx s s.cur _ _

theorem State.foldl_setW (ps : List (WReg × VBits)) : ∀ s : State, ps.foldl (fun s p => s.setW p.1 p.2) s =
    s.setMe { s.me with regs := { s.me.regs with w := ps.foldl (fun v p => v.set p.1.val p.2) s.me.regs.w } } := by
  induction ps with
  | nil => intro s; exact (State.setCtx_self s s.cur).symm
  | cons p ps ih =>
    intro s
    rw [List.foldl_cons, ih, State.setW_me]
    exact State.setCtx_setCtx s s.cur _ _

/-- The acting context once a block has committed its registers (step 2 of R189). -/
def Context.commit (x : Context) (b : Block) : Context :=
  ({ x with
    block := none
    regs := { x.regs with
      v := b.shV.foldl (fun v p => v.set p.1.val p.2) x.regs.v
      m := b.shM.foldl (fun v p => v.set p.1.val p.2) x.regs.m
      w := b.shW.foldl (fun v p => v.set p.1.val p.2) x.regs.w }
    badRegs := if x.badRegs.isEmpty then x.badRegs
      else x.badRegs.filter fun p => !p.res.any (wordsWrite b.words).contains } : Context).every
    fun sc => { sc.setFlags b.flags with vsq := sc.vsq ++ b.pushes }

theorem State.commitRegs_eq (s : State) (b : Block) : (s.setMe { s.me with block := none }).commitRegs b = s.setMe (s.me.commit b) := by
  have hset (t : State) (x y : Context) : ((t.setMe x).setMe y) = t.setMe y := State.setCtx_setCtx t t.cur x y
  unfold State.commitRegs
  dsimp only
  rw [State.foldl_setV, State.setMe_me, hset, State.foldl_setM, State.setMe_me, hset, State.foldl_setW, State.setMe_me, hset]
  unfold State.every
  rw [State.setMe_me]
  split
  · next hb =>
    rw [State.setMe_me, hset]
    refine congrArg s.setMe ?_
    rw [Context.commit, if_pos hb]
  · next hb =>
    rw [hset, State.setMe_me, hset]
    refine congrArg s.setMe ?_
    rw [Context.commit, if_neg hb]

theorem State.setMe_setMySc (s : State) (x : Context) (sc : Scalar) : (s.setMe x).setMySc sc = s.setMe (x.setSc sc) := by
  show (s.setMe x).setCtx s.cur (((s.setMe x).ctx s.cur).setSc sc) = _
  rw [State.setCtx_same, State.setCtx_setCtx]

theorem State.zeroVstart_setMe (s : State) (x : Context) :
    (s.setMe x).zeroVstart = s.setMe (x.setSc { x.regs.sc with vstart := 0 }) := by
  unfold State.zeroVstart
  rw [State.setMe_mySc]
  split
  · next h =>
    refine congrArg s.setMe ?_
    rw [← h]; rfl
  · exact s.setMe_setMySc x _

/-! ### The buffered stores -/

theorem State.drainStores_tasks (s : State) (ss : List (Nat × List Byte)) : (s.drainStores ss).tasks = s.tasks :=
  foldl_tasks _ (fun s _ => s.storeLoc_tasks _ _ _) ss s

/-- Two states with the same bytes everywhere. -/
structure SameBytes (s t : State) : Prop where
  mem : t.mem = s.mem
  cores : t.cores = s.cores
  cur : t.cur = s.cur

theorem SameBytes.loadLoc {s t : State} (h : SameBytes s t) (l : Loc) (n : Nat) : t.loadLoc l n = s.loadLoc l n := by
  simp only [State.loadLoc, State.core, h.mem, h.cores]

theorem State.storePhys_cores (s : State) (c : CoreIx) (pa : Nat) (bs : List Byte) : (s.storePhys (some c) pa bs).cores =
    s.cores.set c.val ((s.core c).seeStore (s.mem.putBytes pa bs) pa bs.length) := by
  unfold State.storePhys State.holmStore
  dsimp only
  split
  · rfl
  · split <;> rfl

/-- The bytes that a store leaves depend on the bytes before it alone. -/
theorem SameBytes.storeLoc {s t : State} (h : SameBytes s t) (c : CoreIx) (l : Loc) (bs : List Byte) :
    SameBytes (s.storeLoc (some c) l bs) (t.storeLoc (some c) l bs) := by
  have hcur : (t.storeLoc (some c) l bs).cur = (s.storeLoc (some c) l bs).cur := by
    rw [State.cur_of_tasks (t.storeLoc_tasks _ _ _), State.cur_of_tasks (s.storeLoc_tasks _ _ _), h.cur]
  have hphys (pa : Nat) : (t.storePhys (some c) pa bs).mem = (s.storePhys (some c) pa bs).mem ∧
      (t.storePhys (some c) pa bs).cores = (s.storePhys (some c) pa bs).cores := by
    simp only [State.storePhys_mem, State.storePhys_cores, State.core, h.mem, h.cores, and_self]
  cases l with
  | mem pa => exact ⟨(hphys pa).1, (hphys pa).2, hcur⟩
  | uc pa => exact ⟨(hphys pa).1, (hphys pa).2, hcur⟩
  | win k off => exact ⟨h.mem, by simp only [State.storeLoc, State.setCore, State.core, h.cores], hcur⟩

theorem SameBytes.drainStores (ss : List (Nat × List Byte)) : ∀ {s t : State}, SameBytes s t →
    SameBytes (s.drainStores ss) (t.drainStores ss) := by
  induction ss with
  | nil => exact fun h => h
  | cons p ss ih =>
    intro s t h
    have hstep := h.storeLoc (CtxIx.core s.cur) (keyLoc p.1) p.2
    rw [State.drainStores, State.drainStores, List.foldl_cons, List.foldl_cons, h.cur]
    exact ih hstep

/-- The stores are made as the core of the acting context. -/
theorem State.drainStores_eq (ss : List (Nat × List Byte)) (c : CoreIx) : ∀ {s : State}, CtxIx.core s.cur = c →
    s.drainStores ss = ss.foldl (fun u p => u.storeLoc (some c) (keyLoc p.1) p.2) s := by
  induction ss with
  | nil => exact fun _ => rfl
  | cons p ss ih =>
    intro s h
    subst h
    have hcur : (s.storeLoc (some (CtxIx.core s.cur)) (keyLoc p.1) p.2).cur = s.cur := State.cur_of_tasks (s.storeLoc_tasks _ _ _)
    exact ih (congrArg CtxIx.core hcur)

/-! ### STOP -/

/-- The acting context after STOP (R189). -/
def Context.stopped (x : Context) (b : Block) : Context := (x.commit b).setSc { (x.commit b).regs.sc with vstart := 0 }

/-- What is left of a block that has passed its STOP: its stores, with the translations they were made with (R189, R211). -/
def State.leftOver (s : State) (b : Block) : Entry := { b.entry with passed := some (s.xlates (b.entry.agent s.cur)), stores := b.stores }

theorem exec_stop {s : State} {b : Block} (h : s.me.block = some b) (ha : b.arms = [])
    (hr : s.mySc.vsq.length + b.pushes.length ≤ 16) : exec .stop s =
      .next (if s.choices.lanesHeld && !b.stores.isEmpty then
          s.setMe { s.me.stopped b with viq := (s.setMe (s.me.stopped b)).leftOver b :: (s.me.stopped b).viq }
        else (s.setMe (s.me.stopped b)).drainStores b.stores) := by
  show execStop s = _
  unfold execStop
  have hcommit : ((s.setMe { s.me with block := none }).commitRegs b).zeroVstart = s.setMe (s.me.stopped b) := by
    rw [State.commitRegs_eq, State.zeroVstart_setMe]; rfl
  simp only [h, ha, hcommit, List.isEmpty_nil, Bool.not_true, Bool.false_eq_true, if_false, if_neg (Nat.not_lt.mpr hr)]
  rw [State.setMe_me]
  split
  · next hl => exact congrArg _ ((State.setCtx_setCtx s s.cur _ _).trans (if_pos hl).symm)
  · next hl => exact congrArg _ (if_neg hl).symm

theorem exec_stop_waits {s : State} {b : Block} (h : s.me.block = some b) (ha : b.arms = [])
    (hr : 16 < s.mySc.vsq.length + b.pushes.length) : exec .stop s = .next s := by
  show execStop s = _
  unfold execStop
  simp only [h, ha]
  exact if_pos hr

theorem exec_stop_open {s : State} {b : Block} (h : s.me.block = some b) (ha : b.arms ≠ []) :
    exec .stop s = .next (s.blockTrap b b.format) := by
  show execStop s = _
  unfold execStop
  simp only [h]
  exact if_pos (by simpa using ha)

end Sys2Proof.Machine

namespace Sys2Proof.Spec
open Sys2Proof.Machine

theorem aborts_of_blockTrap {i : Instr} {s : State} {b : Block} {t : Trap} (h : exec i s = .next (s.blockTrap b t)) : Aborts i s b t := by
  have hregs : s.me.unpark.regs = s.me.regs := by unfold Context.unpark; split <;> rfl
  refine ⟨_, h, ?_⟩
  beta_reduce
  rw [State.blockTrap, s.takeTrap_mySc, s.takeTrap_me, hregs]
  refine ⟨⟨rfl, fun k hk => s.setCtx_ne _ k _ hk⟩, rfl, rfl, rfl, rfl, rfl, rfl, rfl, ?_, rfl, rfl, rfl, rfl⟩
  show (BitVec.ofNat 3 ((if b.sc.sup then 1 else 0) + 4)).getLsbD 2 = true
  split <;> rfl

/-- What the registers read after STOP: the last shadow of each, or what stood before. -/
theorem regs_of_stopped {s t : State} {b : Block} (h : t.me.regs = (s.me.stopped b).regs) :
    (∀ r, t.vreg r = ((b.shV.reverse.find? fun p => p.1 == r).map (·.2)).getD (s.vreg r)) ∧
    (∀ r, t.mreg r = ((b.shM.reverse.find? fun p => p.1 == r).map (·.2)).getD (s.mreg r)) ∧
    ∀ r, t.wreg r = ((b.shW.reverse.find? fun p => p.1 == r).map (·.2)).getD (s.wreg r) := by
  refine ⟨fun r => ?_, fun r => ?_, fun r => ?_⟩
  · rw [State.vreg, h]; exact getElem_foldl_set b.shV s.me.regs.v r
  · rw [State.mreg, h]; exact getElem_foldl_set b.shM s.me.regs.m r
  · rw [State.wreg, h]; exact getElem_foldl_set b.shW s.me.regs.w r

theorem stopCommits : StopCommits := by
  intro s b hb
  refine ⟨fun ha hr => ?_, fun ha hr => ⟨s, exec_stop_waits hb ha hr, rfl⟩, fun ha => aborts_of_blockTrap (exec_stop_open hb ha)⟩
  have hu : (s.setMe (s.me.stopped b)).me = s.me.stopped b := State.setMe_me _ _
  have hothers (k : CtxIx) (hk : k ≠ s.cur) : (s.setMe (s.me.stopped b)).ctx k = s.ctx k := State.setCtx_ne s _ k _ hk
  have hlen : (s.me.stopped b).viq.length = s.me.viq.length := List.length_map _
  by_cases hl : s.choices.lanesHeld = true ∧ b.stores ≠ []
  · have hcond : (s.choices.lanesHeld && !b.stores.isEmpty) = true := by simpa using hl
    have hex := exec_stop hb ha hr
    rw [if_pos hcond] at hex
    refine ⟨_, hex, ?_⟩
    obtain ⟨e, he⟩ : ∃ e, e = (s.setMe (s.me.stopped b)).leftOver b := ⟨_, rfl⟩
    rw [← he]
    have hme := State.setMe_me s { s.me.stopped b with viq := e :: (s.me.stopped b).viq }
    have hread := SameBytes.loadLoc (s := s) (t := s.setMe { s.me.stopped b with viq := e :: (s.me.stopped b).viq }) ⟨rfl, rfl, rfl⟩
    have hothers (k : CtxIx) (hk : k ≠ s.cur) := State.setCtx_ne s s.cur k { s.me.stopped b with viq := e :: (s.me.stopped b).viq } hk
    obtain ⟨hv, hm, hw⟩ := regs_of_stopped (congrArg (·.regs) hme)
    refine ⟨congrArg (·.block) hme, congrArg (·.regs.sc) hme, hv, hm, hw, fun h => absurd hl h,
      fun _ => ⟨(congrArg (·.viq.length) hme).trans (congrArg (· + 1) hlen), hread, e, congrArg (·.viq.head?) hme, ?_, ?_⟩, hothers⟩
    · rw [he]; rfl
    · rw [he]; rfl
  · have hcond : ¬ (s.choices.lanesHeld && !b.stores.isEmpty) = true := by simpa using hl
    have hex := exec_stop hb ha hr
    rw [if_neg hcond] at hex
    refine ⟨_, hex, ?_⟩
    have ht := (s.setMe (s.me.stopped b)).drainStores_tasks b.stores
    have hme : ((s.setMe (s.me.stopped b)).drainStores b.stores).me = s.me.stopped b := by
      rw [State.me, State.cur_of_tasks ht, State.ctx_of_tasks ht]; exact hu
    have hread := (SameBytes.drainStores b.stores (s := s) (t := s.setMe (s.me.stopped b)) ⟨rfl, rfl, rfl⟩).loadLoc
    rw [State.drainStores_eq b.stores (CtxIx.core s.cur) (s := s) rfl] at hread
    generalize (s.setMe (s.me.stopped b)).drainStores b.stores = t at ht hme hread ⊢
    obtain ⟨hv, hm, hw⟩ := regs_of_stopped (congrArg (·.regs) hme)
    refine ⟨congrArg (·.block) hme, congrArg (·.regs.sc) hme, hv, hm, hw,
      fun _ => ⟨(congrArg (·.viq.length) hme).trans hlen, hread⟩, fun h => absurd h hl, fun k hk => ?_⟩
    exact (State.ctx_of_tasks ht k).trans (hothers k hk)

end Sys2Proof.Spec

/-! PROOFS. O24, second part: how VFETCH and VFETCHX start a block (R131, R132, R186, R187). -/
namespace Sys2Proof.Machine

/-! ### What the fetch of a block leaves unchanged -/

/-- What the fetch of a block keeps: memory, and of the contexts all but the fetch cache of the acting one. -/
structure FetchKeeps (s t : State) : Prop where
  mem : t.mem = s.mem
  cur : t.cur = s.cur
  others : ∀ c, c ≠ s.cur → t.ctx c = s.ctx c
  me : ∃ c, t.me = { s.me with bcache := c }

theorem FetchKeeps.refl (s : State) : FetchKeeps s s := ⟨rfl, rfl, fun _ _ => rfl, s.me.bcache, rfl⟩
theorem FetchKeeps.trans {s t u : State} (h : FetchKeeps s t) (k : FetchKeeps t u) : FetchKeeps s u := by
  obtain ⟨c, hc⟩ := h.me
  obtain ⟨d, hd⟩ := k.me
  exact ⟨k.mem.trans h.mem, k.cur.trans h.cur, fun c hc => (k.others c (h.cur ▸ hc)).trans (h.others c hc), d, by rw [hd, hc]⟩
theorem FetchKeeps.mySc {s t : State} (h : FetchKeeps s t) : t.mySc = s.mySc := by
  obtain ⟨c, hc⟩ := h.me
  exact congrArg (·.regs.sc) hc
theorem FetchKeeps.regs {s t : State} (h : FetchKeeps s t) : t.me.regs = s.me.regs := by
  obtain ⟨c, hc⟩ := h.me
  exact congrArg (·.regs) hc

theorem State.fetchBlockWord_keeps {s t : State} {g : Agent} {a : Word64} {w : Nat} (h : s.fetchBlockWord g a = .ok (w, t)) :
    FetchKeeps s t := by
  obtain ⟨pa, -, hpa⟩ := Except.of_bind_ok h
  cases hpa
  have hfill := s.fillTlb_loadKeeps g a
  exact ⟨hfill.mem, hfill.cur, fun c hc => (State.setCtx_ne _ _ _ _ (hfill.cur ▸ hc)).trans (hfill.ctx c), _,
    (State.setMe_me _ _).trans (by rw [hfill.me])⟩

theorem State.fetchBlock_keeps (g : Agent) (n : Nat) : ∀ {s t : State} {a : Word64} {ws : List (BitVec 64)},
    s.fetchBlock g a n = .ok (ws, t) → FetchKeeps s t := by
  induction n with
  | zero => intro s t a ws h; cases h; exact .refl _
  | succ n ih =>
    intro s t a ws h
    obtain ⟨⟨w, s1⟩, hw, h1⟩ := Except.of_bind_ok h
    obtain ⟨⟨ws', s2⟩, hws, h2⟩ := Except.of_bind_ok h1
    cases h2
    exact (State.fetchBlockWord_keeps hw).trans (ih hws)

/-! ### The branches of the start of a block -/

theorem and_seven_ne_zero (a : Word64) : (a &&& 7 != 0) = decide (a.toNat % 8 ≠ 0) := by
  have h : (a &&& 7).toNat = a.toNat % 8 := Nat.and_two_pow_sub_one_eq_mod a.toNat 3
  rw [Bool.eq_iff_iff, bne_iff_ne, decide_eq_true_iff, ← h]
  exact not_congr ⟨fun h => by rw [h]; rfl, fun h => BitVec.eq_of_toNat_eq h⟩

section
variable {s : State} {e : Entry} {a : Word64}

theorem State.startBlock_misaligned (hd : e.draining = false) (ha : a.toNat % 8 ≠ 0) :
    s.startBlock e a = .trap s ⟨.misalign, 0, a⟩ := by
  unfold State.startBlock
  simp only [hd, and_seven_ne_zero, ha, Bool.false_eq_true, if_false, not_false_eq_true, decide_true, if_true, ne_eq]

theorem State.startBlock_waits (hd : e.draining = false) (ha : a.toNat % 8 = 0) (hq : 16 ≤ s.mySc.vsq.length)
    (hp : s.entryPushes e = true) : s.startBlock e a = .wait s := by
  have hal : (a &&& 7 != 0) = false := by rw [and_seven_ne_zero, ha]; rfl
  unfold State.startBlock
  simp only [hd, hal, hp, hq, Bool.false_eq_true, if_false, decide_true, Bool.and_self, if_true]

/-- What is left to check once the target is aligned and the VSQ has room. -/
def State.startChecked (s : State) (e : Entry) (a : Word64) : PerfOut :=
  match s.fetchBlock (e.agent s.cur) a 2 with
  | .error t => .trap s t 0 true
  | .ok (hw, s1) =>
    if headerBad (hw.getD 0 0).toNat (hw.getD 1 0).toNat then .trap s1 ⟨.blockFormat, 0, a⟩ 0 true
    else
      match s1.fetchBlock (e.agent s.cur) (a + 16) (bits (hw.getD 1 0).toNat 0 16) with
      | .error t => .trap s1 t 0 true
      | .ok (ws, s2) =>
        if wordsBad (hw.getD 0 0).toNat ws then .trap s2 ⟨.blockFormat, 0, a⟩ 0 true
        else .done (s2.setMe { s2.me with block := some (s2.openBlock e a (hw.getD 0 0).toNat ws) })

theorem State.startBlock_checked (hd : e.draining = false) (ha : a.toNat % 8 = 0)
    (hq : s.mySc.vsq.length < 16 ∨ s.entryPushes e = false) : s.startBlock e a = s.startChecked e a := by
  have hw : (decide (16 ≤ s.mySc.vsq.length) && s.entryPushes e) = false := by
    rcases hq with hq | hq
    · rw [decide_eq_false (by omega), Bool.false_and]
    · rw [hq, Bool.and_false]
  unfold State.startBlock
  simp only [hd, and_seven_ne_zero, ha, hw, Bool.false_eq_true, if_false, ne_eq, not_true_eq_false, decide_false]
  exact (rfl : s.startChecked e a = _)

section
variable {t : Trap} {s1 s2 : State} {hw ws : List (BitVec 64)}

theorem State.startChecked_noHeader (h : s.fetchBlock (e.agent s.cur) a 2 = .error t) : s.startChecked e a = .trap s t 0 true := by
  rw [State.startChecked, h]

variable (h : s.fetchBlock (e.agent s.cur) a 2 = .ok (hw, s1))
include h

theorem State.startChecked_badHeader (hb : headerBad (hw.getD 0 0).toNat (hw.getD 1 0).toNat = true) :
    s.startChecked e a = .trap s1 ⟨.blockFormat, 0, a⟩ 0 true := by
  rw [State.startChecked, h]; exact if_pos hb

variable (hb : headerBad (hw.getD 0 0).toNat (hw.getD 1 0).toNat = false)
include hb

theorem State.startChecked_noWords
    (hf : s1.fetchBlock (e.agent s.cur) (a + 16) ((hw.getD 1 0).toNat % 2 ^ 16) = .error t) :
    s.startChecked e a = .trap s1 t 0 true := by
  rw [State.startChecked, h]
  dsimp only
  rw [hb, bits_zero, hf]; rfl

variable (hf : s1.fetchBlock (e.agent s.cur) (a + 16) ((hw.getD 1 0).toNat % 2 ^ 16) = .ok (ws, s2))
include hf

theorem State.startChecked_badWords (hbad : wordsBad (hw.getD 0 0).toNat ws = true) :
    s.startChecked e a = .trap s2 ⟨.blockFormat, 0, a⟩ 0 true := by
  rw [State.startChecked, h]
  dsimp only
  rw [hb, bits_zero, hf]; exact if_pos hbad

theorem State.startChecked_starts (hok : wordsBad (hw.getD 0 0).toNat ws = false) :
    s.startChecked e a = .done (s2.setMe { s2.me with block := some (s2.openBlock e a (hw.getD 0 0).toNat ws) }) := by
  rw [State.startChecked, h]
  dsimp only
  rw [hb, bits_zero, hf]; exact if_neg (ne_true_of_eq_false hok)

end
end

/-! ### The shadows of a started block -/

/-- A register of which a copy is kept reads its copy, which is what it held. -/
theorem find_copies {ι κ α : Type} [BEq κ] [LawfulBEq κ] (ks : List ι) (g : ι → κ) (f : κ → α) (p : ι → Bool) (r : κ) :
    (((ks.filterMap fun k => if p k then some (g k, f (g k)) else none).find? fun q => q.1 == r).map (·.2)).getD (f r) = f r := by
  cases h : (ks.filterMap fun k => if p k then some (g k, f (g k)) else none).find? fun q => q.1 == r with
  | none => rfl
  | some q =>
    obtain ⟨k, -, hk⟩ := List.mem_filterMap.mp (List.mem_of_find?_eq_some h)
    have hkey : q.1 = r := eq_of_beq (List.find?_some (p := fun q : κ × α => q.1 == r) h)
    split at hk
    · cases hk; exact congrArg f hkey
    · cases hk

theorem Block.v_eq (b : Block) (s : State) (r : VReg) : b.v s r = ((b.shV.find? fun p => p.1 == r).map (·.2)).getD (s.vreg r) := by
  unfold Block.v; cases b.shV.find? fun p => p.1 == r <;> rfl
theorem Block.m_eq (b : Block) (s : State) (r : MReg) : b.m s r = ((b.shM.find? fun p => p.1 == r).map (·.2)).getD (s.mreg r) := by
  unfold Block.m; cases b.shM.find? fun p => p.1 == r <;> rfl
theorem Block.w_eq (b : Block) (s : State) (r : WReg) : b.w s r = ((b.shW.find? fun p => p.1 == r).map (·.2)).getD (s.wreg r) := by
  unfold Block.w; cases b.shW.find? fun p => p.1 == r <;> rfl

section
variable {s u : State} (h : u.me.regs.v = s.me.regs.v ∧ u.me.regs.m = s.me.regs.m ∧ u.me.regs.w = s.me.regs.w)
    (e : Entry) (a : Word64) (n : Nat) (ws : List (BitVec 64))
include h

theorem State.openBlock_v (r : VReg) : (u.openBlock e a n ws).v s r = s.vreg r := by
  have hv (k : VReg) : u.vreg k = s.vreg k := by rw [State.vreg, h.1]; rfl
  rw [Block.v_eq, ← hv r]
  exact find_copies (List.finRange 48) id u.vreg (fun k => ebit n k.val) r
theorem State.openBlock_m (r : MReg) : (u.openBlock e a n ws).m s r = s.mreg r := by
  have hm (k : MReg) : u.mreg k = s.mreg k := by rw [State.mreg, h.2.1]; rfl
  rw [Block.m_eq, ← hm r]
  exact find_copies (List.finRange 4) mdst u.mreg (fun k => ebit n (56 + k.val)) r
theorem State.openBlock_w (r : WReg) : (u.openBlock e a n ws).w s r = s.wreg r := by
  have hw (k : WReg) : u.wreg k = s.wreg k := by rw [State.wreg, h.2.2]; rfl
  rw [Block.w_eq, ← hw r]
  exact find_copies (List.finRange 8) id u.wreg (fun k => ebit n (48 + k.val)) r

end

end Sys2Proof.Machine

namespace Sys2Proof.Spec
open Sys2Proof.Machine

/-! ### A fetch that faults -/

theorem enterTrap_blk (sc : Scalar) (t : Trap) (epc : Word64) (blk : Bool) : (sc.enterTrap t epc blk).sstatus.getLsbD 2 = blk := by
  show (BitVec.ofNat 3 ((if sc.sup then 1 else 0) + (if blk then 4 else 0))).getLsbD 2 = blk
  cases sc.sup <;> cases blk <;> rfl

/-- The trap of an entry changes no more of the acting context than the trap does, but for what is kept for the replay. -/
theorem entryTrap_me (s : State) (e : Entry) (t : Trap) (f : BitVec 8) (blk : Bool) : ∃ h,
    (s.entryTrap e t f blk).me = { (s.takeTrap s.cur (e.chk.setFlags f) t e.chk.pc blk).me with holds := h } :=
  ⟨_, State.setMe_me _ _⟩

theorem fetchFaults_of_trap {i : Instr} {s u : State} {k : Captured} {t : Trap} {blk : Bool} (hk : FetchKeeps (issued s) u)
    (hx : exec i s = .next (u.entryTrap (s.entryFor i k) t 0 blk)) : FetchFaults i s t blk := by
  obtain ⟨h, hme⟩ := entryTrap_me u (s.entryFor i k) t 0 blk
  have hcur : u.cur = s.cur := hk.cur
  have hsc : (u.entryTrap (s.entryFor i k) t 0 blk).mySc = (s.mySc.replay.setFlags 0).clearVtf.enterTrap t s.mySc.replay.pc blk :=
    (congrArg (·.regs.sc) hme).trans (u.takeTrap_mySc _ t _ blk)
  have hblock : (u.entryTrap (s.entryFor i k) t 0 blk).me.block = none :=
    (congrArg (·.block) hme).trans (congrArg (·.block) (u.takeTrap_me _ t _ blk))
  have hothers (c : CtxIx) (hc : c ≠ s.cur) : (u.entryTrap (s.entryFor i k) t 0 blk).ctx c = s.ctx c := calc
    _ = (u.takeTrap u.cur ((s.entryFor i k).chk.setFlags 0) t (s.entryFor i k).chk.pc blk).ctx c :=
        State.setCtx_ne _ _ _ _ (show c ≠ u.cur from hcur ▸ hc)
    _ = u.ctx c := State.setCtx_ne _ _ _ _ (hcur ▸ hc)
    _ = (issued s).ctx c := hk.others c hc
    _ = s.ctx c := s.issued_ctx_ne id c hc
  refine ⟨_, hx, hothers, fun a => congrArg (·.byte a) hk.mem, hblock, ?_⟩
  rw [hsc]
  exact ⟨rfl, rfl, s.mySc.replay_pc, enterTrap_blk _ _ _ _, s.mySc.replay_x, rfl⟩

/-! ### A block that starts -/

theorem startsAt_of_viq {i : Instr} {s : State} {a : Word64} (p : Perf) (hx : exec i s = s.viq i none id p)
    (hp : ∀ u, p (s.entryFor i Captured.none) u = u.startBlock (s.entryFor i Captured.none) a)
    (hends : (s.entryFor i Captured.none).ends = false) : StartsAt i s a := by
  unfold StartsAt
  intro u g e hnow
  have hd : e.draining = false := rfl
  have hgo : exec i s = .next ((u.startBlock e a).finish e) := by
    rw [hx, State.viq, s.viqWith_now i _ id p hnow]
    exact congrArg (fun o => Host.Outcome.next (PerfOut.finish e o)) (hp u)
  have hu : FetchKeeps (issued s) u := .refl u
  have hg : e.agent u.cur = g := by
    show ({ agentOf s.cur s.mySc.replay with tables := none } : Agent) = agentOf s.cur s.mySc
    rw [s.mySc.replay_eq]; rfl
  have hvsq : u.mySc.vsq = s.mySc.vsq := by
    rw [show u.mySc = s.issuedSc id from s.issued_mySc id]
    show s.mySc.replay.vsq = _
    rw [s.mySc.replay_eq]
  refine ⟨fun ha => ?_, fun ha hq hpush => ?_, fun ha hq => ?_⟩
  · rw [State.startBlock_misaligned hd ha] at hgo
    exact fetchFaults_of_trap hu hgo
  · rw [State.startBlock_waits hd ha (by rwa [hvsq]) hpush] at hgo
    have hdrained : s.me.drained = true := by
      unfold State.performsNow at hnow; simp only [Bool.and_eq_true] at hnow; exact hnow.1.1
    have hq : u.me.viq = [] := (congrArg (·.viq) (s.issued_me id)).trans ((Context.drained_iff _).1 hdrained).1
    exact ⟨_, hgo, congrArg (fun q => u.setMe { u.me with viq := e :: q }) hq⟩
  · rw [State.startBlock_checked hd ha (by rwa [hvsq])] at hgo
    refine ⟨fun t hf => ?_, fun hw u1 hf => ?_⟩
    · rw [State.startChecked_noHeader (hg ▸ hf)] at hgo
      exact fetchFaults_of_trap hu hgo
    · intro h c
      have h1 : FetchKeeps (issued s) u1 := State.fetchBlock_keeps g 2 hf
      rw [← hg] at hf
      refine ⟨fun hb => ?_, fun hb t hf2 => ?_, fun hb ws u2 hf2 => ?_⟩
      · rw [State.startChecked_badHeader hf hb] at hgo
        exact fetchFaults_of_trap h1 hgo
      · rw [State.startChecked_noWords hf hb (hg ▸ hf2)] at hgo
        exact fetchFaults_of_trap h1 hgo
      · have h2 : FetchKeeps (issued s) u2 := h1.trans (State.fetchBlock_keeps g _ hf2)
        refine ⟨fun hbad => ?_, fun hok => ?_⟩
        · rw [State.startChecked_badWords hf hb (hg ▸ hf2) hbad] at hgo
          exact fetchFaults_of_trap h2 hgo
        · rw [State.startChecked_starts hf hb (hg ▸ hf2) hok] at hgo
          have hfin : ∀ v, (PerfOut.done v).finish e = v := fun v => if_neg (ne_true_of_eq_false hends)
          rw [hfin] at hgo
          have hme := State.setMe_me u2 { u2.me with block := some (u2.openBlock e a (hw.getD 0 0).toNat ws) }
          have hregs : u2.me.regs = { s.me.regs with sc := s.issuedSc id } := h2.regs.trans (congrArg (·.regs) (s.issued_me id))
          have hcopy : u2.me.regs.v = s.me.regs.v ∧ u2.me.regs.m = s.me.regs.m ∧ u2.me.regs.w = s.me.regs.w := by
            rw [hregs]; exact ⟨rfl, rfl, rfl⟩
          refine ⟨_, hgo, (congrArg (·.regs.sc) hme).trans (congrArg (·.sc) hregs), fun a => congrArg (·.byte a) h2.mem,
            fun k hk => ?_, _, congrArg (·.block) hme, rfl, rfl, rfl, rfl, rfl, rfl, rfl,
            State.openBlock_v hcopy e a _ ws, State.openBlock_m hcopy e a _ ws, State.openBlock_w hcopy e a _ ws⟩
          exact (State.setCtx_ne _ _ _ _ (show k ≠ u2.cur from h2.cur ▸ hk)).trans ((h2.others k hk).trans (s.issued_ctx_ne id k hk))

theorem blocksStart : BlocksStart := by
  refine ⟨fun off s => ?_, fun a s => startsAt_of_viq (perfVfetchx a) rfl (fun u => ?_) rfl⟩
  · rw [← branchTarget_eq]
    refine startsAt_of_viq (perfVfetch off) rfl (fun u => ?_) rfl
    show u.startBlock (s.entryFor (.vfetch off) Captured.none) (branchTarget s.mySc.replay.pc off) = _
    rw [s.mySc.replay_pc]
  · show u.startBlock (s.entryFor (.vfetchx a) Captured.none) (s.mySc.replay.rx a) = _
    rw [s.mySc.replay_rx]

end Sys2Proof.Spec

namespace Sys2Proof.Proofs
open Sys2Proof.Machine Sys2Proof.Spec

/-- Settles O24: STOP by its three outcomes, the start of a block by the branches of its checks. -/
theorem blocksStartAndCommit : Obligations.BlocksStartAndCommit := ⟨stopCommits, blocksStart⟩

end Sys2Proof.Proofs

/-! PROOFS. O58, first part: every instruction outside a block answers a next state. -/
namespace Sys2Proof.Machine

/-! ### The shared operations go on -/

section
variable (s : State)

theorem State.heldAs_isNext (o : AOrd) (k : Unit → Host.Outcome State Fault Refusal) (h : IsNext (k ())) :
    IsNext (s.heldAs o k) := by
  unfold State.heldAs; split
  · exact s.heldRel_isNext k h
  · exact s.held_isNext k h

theorem State.loadOr_isNext (k : Except Trap State) : IsNext (s.loadOr k) := s.waits_isNext _ _ (s.scalarTry_isNext k)

theorem State.fence_isNext (k : Bool × Bool → Bool) : IsNext (s.fence k) := s.waits_isNext _ _ (s.scalar_isNext _)

theorem State.csr_isNext (n : BitVec 12) (rd : Option XReg) (wr : Option (Word64 → Word64)) : IsNext (s.csr n rd wr) := by
  unfold State.csr
  split
  · exact ⟨_, rfl⟩
  · dsimp only
    repeat' split
    all_goals exact ⟨_, rfl⟩

theorem State.issueRead_isNext (k : Unit → Host.Outcome State Fault Refusal) (h : IsNext (k ())) : IsNext (s.issueRead k) := by
  unfold State.issueRead; split
  · exact ⟨_, rfl⟩
  · exact s.waits_isNext _ k h

theorem State.withRecord_isNext (a : XReg) (k : Captured → State → Host.Outcome State Fault Refusal) (h : ∀ c t, IsNext (k c t)) :
    IsNext (s.withRecord a k) := by
  unfold State.withRecord; dsimp only; split
  · exact h _ _
  · exact s.issueRead_isNext _ (h _ _)

theorem State.setLen_isNext (i : Instr) (d a : XReg) (v : Word64) : IsNext (s.setLen i d a v) := by
  unfold State.setLen; split
  · exact ⟨_, rfl⟩
  · exact s.viq_isNext _ _ _ _

theorem State.heldQ_isNext (enq : Bool) (k : Unit → Host.Outcome State Fault Refusal) (h : IsNext (k ())) :
    IsNext (s.heldQ enq k) := by
  unfold State.heldQ; split
  · exact s.heldRel_isNext k h
  · exact s.waits_isNext _ k h

theorem State.queueOp_isNext (i : Instr) (ag : QAgent) (a : Word64) (r : QReq) (done : Nat → List (List Byte) → Scalar → Scalar) :
    IsNext (s.queueOp i ag a r done) := by
  refine s.heldQ_isNext _ _ ?_
  split
  · exact s.serial_isNext _ ⟨_, rfl⟩
  · exact ⟨_, rfl⟩
  · exact ⟨_, rfl⟩

theorem State.qControl_isNext (a : XReg) (f : State → Loc → Qcb → State) : IsNext (s.qControl a f) := by
  refine s.heldRel_isNext _ ?_
  dsimp only
  split
  · exact ⟨_, rfl⟩
  · split
    · exact s.serial_isNext _ ⟨_, rfl⟩
    · split <;> exact ⟨_, rfl⟩

theorem State.onBar_isNext (r : Bool) (a : XReg) (kd : Kind) (k : State → Loc → BarObj → Host.Outcome State Fault Refusal)
    (h : ∀ l o, IsNext (k s l o)) : IsNext (s.onBar r a kd k) := by
  refine s.waits_isNext _ _ ?_
  dsimp only
  split
  · exact ⟨_, rfl⟩
  · split
    · exact h _ _
    · exact ⟨_, rfl⟩

theorem State.command_isNext (op : CmdOp) (c : Cmd) (f : Except Nat State) : IsNext (s.command op c f) := by
  unfold State.command; split
  · exact ⟨_, rfl⟩
  · split <;> exact ⟨_, rfl⟩

theorem State.runCommand_isNext (op : CmdOp) (c : Cmd) : IsNext (s.runCommand op c) := by
  cases op
  case extentRelease =>
    show IsNext (execExtentRelease c s)
    unfold execExtentRelease; dsimp only; split
    · exact ⟨_, rfl⟩
    · exact s.command_isNext _ _ _
  all_goals exact s.command_isNext _ _ _

end

/-! ### Words of the scalar stream -/

section
variable (s : State)

theorem execSt_isNext (d a : XReg) (off : BitVec 12) (z : StSize) : IsNext (execSt d a off z s) := s.held_isNext _ (s.scalarTry_isNext _)
theorem execStx_isNext (o : X3) (z : StSize) : IsNext (execStx o z s) := s.held_isNext _ (s.scalarTry_isNext _)
theorem execStRel_isNext (o : X3) (c : Scope) (z : StSize) : IsNext (execStRel o c z s) := s.heldRel_isNext _ (s.scalarTry_isNext _)
theorem execTlbinv_isNext (a b : XReg) : IsNext (execTlbinv a b s) := s.privileged_isNext _ (s.serial_isNext _ ⟨_, rfl⟩)
theorem execSrinv_isNext (a : XReg) : IsNext (execSrinv a s) := s.waits_isNext _ _ ⟨_, rfl⟩
theorem execQinit_isNext (a b : XReg) (c : Scope) : IsNext (execQinit a b c s) := s.heldRel_isNext _ (s.scalarTry_isNext _)
theorem execBarr_isNext (a b : XReg) : IsNext (execBarr a b s) := s.onBar_isNext _ _ _ _ fun _ _ => ⟨_, rfl⟩
theorem execBarrRel_isNext (a b : XReg) : IsNext (execBarrRel a b s) := s.onBar_isNext _ _ _ _ fun _ _ => ⟨_, rfl⟩
theorem execBphase_isNext (o : X2) : IsNext (execBphase o s) := s.onBar_isNext _ _ _ _ fun _ _ => ⟨_, rfl⟩
theorem execIfence_isNext : IsNext (execIfence s) := s.serial_isNext _ ⟨_, rfl⟩
theorem execSret_isNext : IsNext (execSret s) := s.privileged_isNext _ (s.serial_isNext _ ⟨_, rfl⟩)
theorem execTexit_isNext : IsNext (execTexit s) := s.waits_isNext _ _ ⟨_, rfl⟩
theorem execPfenceCore_isNext : IsNext (execPfenceCore s) := s.serial_isNext _ ⟨_, rfl⟩
theorem execPfenceDie_isNext : IsNext (execPfenceDie s) := s.heldRel_isNext _ ⟨_, rfl⟩

theorem execJalr_isNext (o : XImm) : IsNext (execJalr o s) := by
  unfold execJalr; dsimp only; split <;> exact ⟨_, rfl⟩

theorem execBar_isNext (c : Scope) : IsNext (execBar c s) := by
  unfold execBar; split
  · exact ⟨_, rfl⟩
  · refine s.heldRel_isNext _ ?_
    dsimp only; split <;> exact ⟨_, rfl⟩

theorem execXpop_isNext (d : XReg) : IsNext (execXpop d s) := by
  unfold execXpop; split <;> exact ⟨_, rfl⟩

theorem execLaunch_isNext (a : XReg) : IsNext (execLaunch a s) := by
  unfold execLaunch; dsimp only; split
  · exact ⟨_, rfl⟩
  · exact s.queueOp_isNext _ _ _ _ _

theorem execTstop_isNext (o : X2) : IsNext (execTstop o s) := by
  refine s.privileged_isNext _ (s.serial_isNext _ ?_)
  dsimp only
  repeat' split
  all_goals exact ⟨_, rfl⟩

theorem execSetfib_isNext (o : X2) (mo : MReg) (t : BitVec 11) : IsNext (execSetfib o mo t s) := by
  unfold execSetfib; split
  · exact ⟨_, rfl⟩
  · refine s.issueRead_isNext _ ?_
    dsimp only; split
    · exact ⟨_, rfl⟩
    · exact State.viqWith_isNext _ _ _ _ _

theorem execFld_isNext (v : VReg) (f : FeedIx) : IsNext (execFld v f s) := by
  unfold execFld; split
  · exact ⟨_, rfl⟩
  · dsimp only; split
    · exact ⟨_, rfl⟩
    · exact State.viqWith_isNext _ _ _ _ _

theorem execBinit_isNext (o : X3) : IsNext (execBinit o s) := by
  refine s.held_isNext _ ?_
  dsimp only
  split
  · exact ⟨_, rfl⟩
  · split <;> exact ⟨_, rfl⟩

theorem execBwait_isNext (o : X3) : IsNext (execBwait o s) := by
  refine s.onBar_isNext _ _ _ _ fun l b => ?_
  dsimp only
  split
  · exact ⟨_, rfl⟩
  · split <;> exact ⟨_, rfl⟩

theorem execSigdec_isNext (a b : XReg) : IsNext (execSigdec a b s) := by
  refine s.privileged_isNext _ (s.heldRel_isNext _ ?_)
  split <;> exact ⟨_, rfl⟩

theorem execSigwait_isNext (a : XReg) : IsNext (execSigwait a s) := by
  refine s.waits_isNext _ _ ?_
  split
  · exact ⟨_, rfl⟩
  · split <;> exact ⟨_, rfl⟩

theorem execUliarm_isNext (o : X3) : IsNext (execUliarm o s) := by
  refine s.held_isNext _ ?_
  dsimp only
  split
  · exact ⟨_, rfl⟩
  · split
    · exact ⟨_, rfl⟩
    · split <;> exact ⟨_, rfl⟩

theorem execUliret_isNext : IsNext (execUliret s) := by
  unfold execUliret; split <;> exact ⟨_, rfl⟩

theorem execWaite_isNext : IsNext (execWaite s) := by
  unfold execWaite; split <;> exact ⟨_, rfl⟩

end

/-! ### Device events -/

section
variable (s : State)

theorem execLaunchDequeue_isNext (d : DieIx) : IsNext (execLaunchDequeue d s) := by
  unfold execLaunchDequeue; dsimp only; split
  · exact ⟨_, rfl⟩
  · split <;> exact ⟨_, rfl⟩

theorem execDependenceReady_isNext (d : DieIx) (i : Nat) : IsNext (execDependenceReady d i s) := by
  unfold execDependenceReady
  dsimp only
  repeat' split
  all_goals exact ⟨_, rfl⟩

theorem execTaskStart_isNext (d : DieIx) (i : Nat) (cs : List CtxIx) : IsNext (execTaskStart d i cs s) := by
  unfold execTaskStart; split
  · exact ⟨_, rfl⟩
  · split <;> exact ⟨_, rfl⟩

theorem execTaskResume_isNext (i : Nat) (cs : List CtxIx) : IsNext (execTaskResume i cs s) := by
  unfold execTaskResume; split
  · exact ⟨_, rfl⟩
  · split <;> exact ⟨_, rfl⟩

theorem execLaunchComplete_isNext (i : Nat) : IsNext (execLaunchComplete i s) := by
  unfold execLaunchComplete; split
  · exact ⟨_, rfl⟩
  · split <;> exact ⟨_, rfl⟩

theorem execQueueWake_isNext (c : CtxIx) : IsNext (execQueueWake c s) := by
  unfold execQueueWake; dsimp only; split
  · exact State.queueOp_isNext _ _ _ _ _ _
  · exact State.queueOp_isNext _ _ _ _ _ _
  · exact State.queueOp_isNext _ _ _ _ _ _
  · exact State.queueOp_isNext _ _ _ _ _ _
  · exact execLaunch_isNext _ _
  all_goals exact ⟨_, rfl⟩

theorem execBwaitWake_isNext (c : CtxIx) : IsNext (execBwaitWake c s) := by
  unfold execBwaitWake; split
  · exact execBwait_isNext _ _
  · exact ⟨_, rfl⟩

theorem execSigwaitWake_isNext (c : CtxIx) : IsNext (execSigwaitWake c s) := by
  unfold execSigwaitWake; split
  · exact execSigwait_isNext _ _
  · exact ⟨_, rfl⟩

theorem execBarComplete_isNext (c : CtxIx) : IsNext (execBarComplete c s) := by
  unfold execBarComplete; dsimp only; split
  · split <;> exact ⟨_, rfl⟩
  · exact ⟨_, rfl⟩

theorem execXpopWake_isNext (c : CtxIx) : IsNext (execXpopWake c s) := by
  unfold execXpopWake; dsimp only; split
  · split <;> exact ⟨_, rfl⟩
  · exact ⟨_, rfl⟩

theorem execFldWake_isNext (c : CtxIx) : IsNext (execFldWake c s) := by
  unfold execFldWake; split
  · exact execFld_isNext _ _ _
  · exact ⟨_, rfl⟩

theorem execWaiteWake_isNext (c : CtxIx) : IsNext (execWaiteWake c s) := by
  unfold execWaiteWake; dsimp only; split
  · split <;> exact ⟨_, rfl⟩
  · exact ⟨_, rfl⟩

theorem execMattBGrant_isNext (q : QuadIx) : IsNext (execMattBGrant q s) := by
  unfold execMattBGrant
  dsimp only
  repeat' split
  all_goals exact ⟨_, rfl⟩

theorem execFeedOutputDone_isNext (c : CtxIx) (f : FeedIx) : IsNext (execFeedOutputDone c f s) := by
  unfold execFeedOutputDone; dsimp only; split
  · split
    · exact ⟨_, rfl⟩
    · split <;> exact ⟨_, rfl⟩
  · exact ⟨_, rfl⟩

theorem execByteCountAdd_isNext (n : Nat) : IsNext (execByteCountAdd n s) := by
  unfold execByteCountAdd; split <;> exact ⟨_, rfl⟩

theorem execVrredApply_isNext (n : Nat) : IsNext (execVrredApply n s) := by
  unfold execVrredApply; split
  · exact ⟨_, rfl⟩
  · split <;> exact ⟨_, rfl⟩

theorem execUliDelivery_isNext (c : CtxIx) : IsNext (execUliDelivery c s) := by
  unfold execUliDelivery; dsimp only; split <;> exact ⟨_, rfl⟩

theorem execMsixMessage_isNext (b : Fin 256) : IsNext (execMsixMessage b s) := by
  unfold execMsixMessage; dsimp only; split <;> exact ⟨_, rfl⟩

theorem execPreempt_isNext (c : CtxIx) : IsNext (execPreempt c s) := by
  unfold execPreempt
  dsimp only
  repeat' split
  all_goals exact ⟨_, rfl⟩

theorem execFeedInputEnded_isNext (c : CtxIx) (f : FeedIx) : IsNext (execFeedInputEnded c f s) := by
  unfold execFeedInputEnded; dsimp only; split <;> exact ⟨_, rfl⟩

theorem execNsendComplete_isNext (id : Nat) : IsNext (execNsendComplete id s) := by
  unfold execNsendComplete; split
  · exact ⟨_, rfl⟩
  · split <;> exact ⟨_, rfl⟩

theorem execFailureCompletion_isNext (p : PortIx) (id : Nat) : IsNext (execFailureCompletion p id s) := by
  unfold execFailureCompletion; split <;> exact ⟨_, rfl⟩

theorem execTransferReceive_isNext (p : PortIx) (t : Transfer) : IsNext (execTransferReceive p t s) := by
  unfold execTransferReceive; dsimp only; split <;> exact ⟨_, rfl⟩

theorem execFlitReceive_isNext (p : PortIx) (f : RxFlit) : IsNext (execFlitReceive p f s) := by
  unfold execFlitReceive; dsimp only; split <;> exact ⟨_, rfl⟩

theorem execLaneShed_isNext (p : PortIx) (n : Nat) : IsNext (execLaneShed p n s) := by
  unfold execLaneShed; dsimp only; split
  · exact ⟨_, rfl⟩
  · split <;> exact ⟨_, rfl⟩

theorem execLinkRetrainDone_isNext (p : PortIx) (ok : Bool) (peer : BitVec 12) : IsNext (execLinkRetrainDone p ok peer s) := by
  unfold execLinkRetrainDone; dsimp only; split
  · exact ⟨_, rfl⟩
  · split <;> exact ⟨_, rfl⟩

theorem execPaceNoticeReceive_isNext (p : PortIx) (n : Notice) : IsNext (execPaceNoticeReceive p n s) := by
  unfold execPaceNoticeReceive; split <;> exact ⟨_, rfl⟩

theorem execHostWindowAccess_isNext (wr : Bool) (off n : Nat) (v : Word64) : IsNext (execHostWindowAccess wr off n v s) := by
  unfold execHostWindowAccess; dsimp only; split
  · exact ⟨_, rfl⟩
  · split <;> exact ⟨_, rfl⟩

theorem execExtentOffer_isNext (o : Offer) : IsNext (execExtentOffer o s) := by
  unfold execExtentOffer; split <;> exact ⟨_, rfl⟩

theorem execGovernorPeriod_isNext (r : List QuadReading) : IsNext (execGovernorPeriod r s) := by
  unfold execGovernorPeriod; split <;> exact ⟨_, rfl⟩

theorem execThermalTrip_isNext (t : Nat) : IsNext (execThermalTrip t s) := by
  unfold execThermalTrip; split <;> exact ⟨_, rfl⟩

theorem execCardPowerOn_isNext (f : Flash) (t : Training) : IsNext (execCardPowerOn f t s) := by
  unfold execCardPowerOn
  dsimp only
  repeat' split
  all_goals exact ⟨_, rfl⟩

theorem execPowerRestore_isNext (k : CoreIx) : IsNext (execPowerRestore k s) := by
  unfold execPowerRestore; dsimp only; split <;> exact ⟨_, rfl⟩

theorem execPlannedStop_isNext (k : CoreIx) : IsNext (execPlannedStop k s) := by
  unfold execPlannedStop
  dsimp only
  repeat' split
  all_goals exact ⟨_, rfl⟩

theorem execChannelFailure_isNext (k : Fin 16) (ch : Fin 32) : IsNext (execChannelFailure k ch s) := by
  unfold execChannelFailure
  dsimp only
  repeat' split
  all_goals exact ⟨_, rfl⟩

theorem execRebuildMove_isNext (r : Fin 5) : IsNext (execRebuildMove r s) := by
  unfold execRebuildMove
  dsimp only
  repeat' split
  all_goals exact ⟨_, rfl⟩

theorem execRegisterWrite_isNext (pa n : Nat) (v : Word64) : IsNext (execRegisterWrite pa n v s) := by
  unfold execRegisterWrite; split
  · exact ⟨_, rfl⟩
  · split <;> exact ⟨_, rfl⟩

theorem execHolmPersist_isNext (pa : Nat) : IsNext (execHolmPersist pa s) := by
  unfold execHolmPersist; dsimp only; split <;> exact ⟨_, rfl⟩

end
end Sys2Proof.Machine

/-! PROOFS. O58, second part: what an instruction answers, by its stream. -/
namespace Sys2Proof.Machine

/-- The words of an element block (R129, R130). -/
def inBlock : Instr → Bool
  | .vfadd _ | .vfsub _ | .vfmul _ | .vfma _ | .vfms _ | .vfnma _ | .vfdiv _ | .vfsqrt _ | .vfmin _ | .vfmax _ | .vfabs _
  | .vfneg _ | .vfsgn _ | .vadd _ | .vsub _ | .vmul _ | .vmulh _ | .vmulhn _ | .vand _ | .vor _ | .vxor _ | .vsll _ | .vsrl _
  | .vsra _ | .vmin _ | .vmax _ | .vminn _ | .vmaxn _ | .vsadd _ | .vssub _ | .vsaddn _ | .vssubn _ | .vdot _ | .vfcmp _
  | .vcmp _ | .mand _ | .mor _ | .mxor _ | .mandn _ | .mset _ _ _ | .mpopc _ _ | .mfirst _ _ | .vcvt _ | .vqmx _ | .vmov _
  | .vbcast _ | .vext _ _ _ | .viota _ _ _ | .vslup _ | .vsldn _ | .vperm _ | .vcomp _ | .vexpd _ | .vmatch _ | .vfredsum _
  | .vfredmax _ | .vfredmin _ | .vredsum _ | .vredmax _ | .vredmin _ | .vfscan _ | .vscan _ | .wramp _ _ _ _ | .wcmp _ _ _
  | .wcomp _ _ _ | .wmul _ _ _ _ | .wmov _ _ _ _ _ | .wbegin _ _ | .wjoin _ | .wgjoin _ | .wgramp _ | .wcont _ _ | .lde _
  | .ste _ | .wsta _ | .stop | .wnext | .wend => true
  | _ => false

/-- What a word of a block answers: a next state where a block is in flight, and the named fault where none is. -/
def BlockAnswer (s : State) (r : Host.Outcome State Fault Refusal) : Prop :=
  (s.me.block.isSome = true → IsNext r) ∧ (s.me.block = none → r = .fault .noBlock)

theorem State.onBlock_answer (s : State) (f : Word) : BlockAnswer s (s.onBlock f) := ⟨s.onBlock_isNext f, s.onBlock_none f⟩

theorem State.onElems_answer (s : State) (a : VReg) (off : BitVec 13) (w : Nat) (k : Kind) (m : MSel) (f : Word) :
    BlockAnswer s (s.onElems a off w k m f) := by
  obtain ⟨hsome, hnone⟩ := s.onBlock_answer f
  unfold State.onElems
  refine ⟨fun h => ?_, fun h => ?_⟩
  · obtain ⟨t, ht⟩ := hsome h
    obtain ⟨b, hb⟩ := Option.isSome_iff_exists.mp h
    rw [ht, hb]; exact ⟨_, rfl⟩
  · rw [hnone h, h]

theorem execStop_answer (s : State) : BlockAnswer s (execStop s) := by
  unfold execStop
  refine ⟨fun h => ?_, fun h => by rw [h]⟩
  obtain ⟨b, hb⟩ := Option.isSome_iff_exists.mp h
  rw [hb]; dsimp only
  split
  · exact ⟨_, rfl⟩
  · split <;> exact ⟨_, rfl⟩

/-- A word of a block works on the block in flight. -/
theorem exec_answer (i : Instr) (h : inBlock i = true) (s : State) : BlockAnswer s (exec i s) := by
  cases i
  case stop => exact execStop_answer s
  case lde | ste | wsta => exact s.onElems_answer _ _ _ _ _ _
  case vfsqrt o => exact (s.onBlock_answer _ : BlockAnswer s (execVfsqrt o s))
  case mand o => exact (s.onBlock_answer _ : BlockAnswer s (execMand o s))
  case mor o => exact (s.onBlock_answer _ : BlockAnswer s (execMor o s))
  case mxor o => exact (s.onBlock_answer _ : BlockAnswer s (execMxor o s))
  case mandn o => exact (s.onBlock_answer _ : BlockAnswer s (execMandn o s))
  case mset d m v => exact (s.onBlock_answer _ : BlockAnswer s (execMset d m v s))
  case mpopc a m => exact (s.onBlock_answer _ : BlockAnswer s (execMpopc a m s))
  case mfirst a m => exact (s.onBlock_answer _ : BlockAnswer s (execMfirst a m s))
  case vfscan o => exact (s.onBlock_answer _ : BlockAnswer s (execVfscan o s))
  case vscan o => exact (s.onBlock_answer _ : BlockAnswer s (execVscan o s))
  case wnext => exact (s.onBlock_answer _ : BlockAnswer s (execWnext s))
  case wend => exact (s.onBlock_answer _ : BlockAnswer s (execWend s))
  case vfadd | vfsub | vfmul | vfma | vfms | vfnma | vfdiv | vfmin | vfmax | vfabs | vfneg | vfsgn | vadd | vsub | vmul
      | vmulh | vmulhn | vand | vor | vxor | vsll | vsrl | vsra | vmin | vmax | vminn | vmaxn | vsadd | vssub | vsaddn
      | vssubn | vdot | vfcmp | vcmp | vcvt | vqmx | vmov | vbcast | vext | viota | vslup | vsldn | vperm | vcomp | vexpd
      | vmatch | vfredsum | vfredmax | vfredmin | vredsum | vredmax | vredmin | wramp | wcmp | wcomp | wmul | wmov | wbegin
      | wjoin | wgjoin | wgramp | wcont =>
    exact s.onBlock_answer _
  all_goals cases h

/-- An instruction of the scalar stream and a device event answer a next state. -/
theorem exec_isNext (i : Instr) (h : inBlock i = false) (s : State) : IsNext (exec i s) := by
  cases i
  case vfadd | vfsub | vfmul | vfma | vfms | vfnma | vfdiv | vfsqrt | vfmin | vfmax | vfabs | vfneg | vfsgn | vadd | vsub
      | vmul | vmulh | vmulhn | vand | vor | vxor | vsll | vsrl | vsra | vmin | vmax | vminn | vmaxn | vsadd | vssub | vsaddn
      | vssubn | vdot | vfcmp | vcmp | mand | mor | mxor | mandn | mset | mpopc | mfirst | vcvt | vqmx | vmov | vbcast | vext
      | viota | vslup | vsldn | vperm | vcomp | vexpd | vmatch | vfredsum | vfredmax | vfredmin | vredsum | vredmax | vredmin
      | vfscan | vscan | wramp | wcmp | wcomp | wmul | wmov | wbegin | wjoin | wgjoin | wgramp | wcont | lde | ste | wsta
      | stop | wnext | wend =>
    cases h
  case ld | ldx | ldAcq => exact s.loadOr_isNext _
  case st d a off z => exact execSt_isNext s d a off z
  case stx o z => exact execStx_isNext s o z
  case stRel o c z => exact execStRel_isNext s o c z
  case amo | cas => exact s.heldAs_isNext _ _ (s.scalarTry_isNext _)
  case jalr o => exact execJalr_isNext s o
  case csrr | csrw | csrs | csrc => exact s.csr_isNext _ _ _
  case fenceLd | fenceSt | fenceAll => exact s.fence_isNext _
  case bar c => exact execBar_isNext s c
  case xpop d => exact execXpop_isNext s d
  case tlbinv a b => exact execTlbinv_isNext s a b
  case srinv a => exact execSrinv_isNext s a
  case launch a => exact execLaunch_isNext s a
  case tstop o => exact execTstop_isNext s o
  case vfetch | vfetchx | vldxAcq | vstsNtf | strip | vsplat | vprf | vld | vlds | vldg | vst | vsts | vstg | vldx | vstx
      | vldw | vstb | vstbNtf | vamo | vsred | vrred | fcfg | fst | fend | apush | apop | nsend | matt | mattB | mdet | mten
      | mtdis | mzero | mopa | mopav | mrds | mwrs | qenqV | qdeqV =>
    exact s.viq_isNext _ _ _ _
  case vsetl | vsetlx => exact s.setLen_isNext _ _ _ _
  case setfib o mo t => exact execSetfib_isNext s o mo t
  case vld2 | vst2 | mstt | mgacc | mgst => exact s.withRecord_isNext _ _ fun _ t => t.viqWith_isNext _ _ _ _
  case vldb | mwld => exact s.issueRead_isNext _ (s.viq_isNext _ _ _ _)
  case fld v f => exact execFld_isNext s v f
  case qinit a b c => exact execQinit_isNext s a b c
  case qcnt o c => exact (s.qControl_isNext _ _ : IsNext (execQcnt o c s))
  case qclose a c => exact (s.qControl_isNext _ _ : IsNext (execQclose a c s))
  case qenqX o => exact (s.queueOp_isNext _ _ _ _ _ : IsNext (execQenqX o s))
  case qdeqX o => exact (s.queueOp_isNext _ _ _ _ _ : IsNext (execQdeqX o s))
  case qenqM o => exact (s.queueOp_isNext _ _ _ _ _ : IsNext (execQenqM o s))
  case qdeqM o => exact (s.queueOp_isNext _ _ _ _ _ : IsNext (execQdeqM o s))
  case binit o => exact execBinit_isNext s o
  case barr a b => exact execBarr_isNext s a b
  case barrRel a b => exact execBarrRel_isNext s a b
  case bphase o => exact execBphase_isNext s o
  case bwait o => exact execBwait_isNext s o
  case sigdec a b => exact execSigdec_isNext s a b
  case sigwait a => exact execSigwait_isNext s a
  case uliarm o => exact execUliarm_isNext s o
  case launchDequeue d => exact execLaunchDequeue_isNext s d
  case dependenceReady d l => exact execDependenceReady_isNext s d l
  case taskStart d l cs => exact execTaskStart_isNext s d l cs
  case taskResume l cs => exact execTaskResume_isNext s l cs
  case launchComplete l => exact execLaunchComplete_isNext s l
  case queueWake c => exact execQueueWake_isNext s c
  case bwaitWake c => exact execBwaitWake_isNext s c
  case sigwaitWake c => exact execSigwaitWake_isNext s c
  case barComplete c => exact execBarComplete_isNext s c
  case xpopWake c => exact execXpopWake_isNext s c
  case fldWake c => exact execFldWake_isNext s c
  case waiteWake c => exact execWaiteWake_isNext s c
  case mattBGrant q => exact execMattBGrant_isNext s q
  case feedOutputDone c f => exact execFeedOutputDone_isNext s c f
  case byteCountAdd n => exact execByteCountAdd_isNext s n
  case vrredApply n => exact execVrredApply_isNext s n
  case uliDelivery c => exact execUliDelivery_isNext s c
  case msixMessage b => exact execMsixMessage_isNext s b
  case preempt c => exact execPreempt_isNext s c
  case feedInputEnded c f => exact execFeedInputEnded_isNext s c f
  case nsendComplete id => exact execNsendComplete_isNext s id
  case failureCompletion p id => exact execFailureCompletion_isNext s p id
  case transferReceive p t => exact execTransferReceive_isNext s p t
  case flitReceive p f => exact execFlitReceive_isNext s p f
  case laneShed p n => exact execLaneShed_isNext s p n
  case linkRetrainDone p ok peer => exact execLinkRetrainDone_isNext s p ok peer
  case paceNoticeReceive p n => exact execPaceNoticeReceive_isNext s p n
  case hostWindowAccess wr off n v => exact execHostWindowAccess_isNext s wr off n v
  case deviceQuery c => exact s.runCommand_isNext .deviceQuery c
  case driverAccept c => exact s.runCommand_isNext .driverAccept c
  case copy c => exact s.runCommand_isNext .copy c
  case fill c => exact s.runCommand_isNext .fill c
  case extentAdd c => exact s.runCommand_isNext .extentAdd c
  case extentRelease c => exact s.runCommand_isNext .extentRelease c
  case linkState c => exact s.runCommand_isNext .linkState c
  case paceList c => exact s.runCommand_isNext .paceList c
  case paceSend c => exact s.runCommand_isNext .paceSend c
  case extentOffer o => exact execExtentOffer_isNext s o
  case governorPeriod r => exact execGovernorPeriod_isNext s r
  case thermalTrip t => exact execThermalTrip_isNext s t
  case cardPowerOn f t => exact execCardPowerOn_isNext s f t
  case powerRestore k => exact execPowerRestore_isNext s k
  case plannedStop k => exact execPlannedStop_isNext s k
  case channelFailure k ch => exact execChannelFailure_isNext s k ch
  case rebuildMove r => exact execRebuildMove_isNext s r
  case registerWrite pa n v => exact execRegisterWrite_isNext s pa n v
  case holmPersist pa => exact execHolmPersist_isNext s pa
  case ifence => exact execIfence_isNext s
  case sret => exact execSret_isNext s
  case uliret => exact execUliret_isNext s
  case waite => exact execWaite_isNext s
  case texit => exact execTexit_isNext s
  case pfenceCore => exact execPfenceCore_isNext s
  case pfenceDie => exact execPfenceDie_isNext s
  all_goals exact ⟨_, rfl⟩

end Sys2Proof.Machine

/-! PROOFS. O58, third part: which instructions the two decoders yield, and that a step goes on. -/
namespace Sys2Proof.Machine

/-! ### What a decoder yields -/

/-- Every instruction that a decoder can yield has a property. -/
def Yields (P : Instr → Prop) (r : Except Defect Instr) : Prop := ∀ i, r = .ok i → P i

section
variable {P : Instr → Prop}

theorem Yields.ok {i : Instr} (h : P i) : Yields P (.ok i) := fun _ hi => by cases hi; exact h
theorem Yields.error (d : Defect) : Yields P (.error d) := fun _ hi => by cases hi
theorem Yields.bind {α : Type} {x : Except Defect α} {f : α → Except Defect Instr} (h : ∀ a, Yields P (f a)) : Yields P (x >>= f) :=
  fun i hi => by
    obtain ⟨a, -, ha⟩ := Except.of_bind_ok hi
    exact h a i ha

end

/-- The words of the S format are none of a block: along every branch of the decoder, one rule for each form it is written in. -/
theorem decodeS_yields (w : Nat) : Yields (fun i => inBlock i = false) (decodeS w) := by
  unfold decodeS decOp01 decOp07 decOp08 decOp09 decOp10 decOp11 decOp12 decOp13 decOp14 decOp15 decOp16 decOp18 decOp19 decOp1A
    decOp1B decOp1C decOp1D decOp1E decOp1F decOp20 decOp21 decOp22 decOp23 decOp24 decOp25 decOp26 decOp27 decOp28 decOp29 decOp2A
    decOp2B decOp2C decOp2D decOp30 decOp31 decOp32 decOp33 decOp34 decOp35
  dsimp only
  repeat' first
    | exact .ok rfl
    | exact .error _
    | refine .bind fun _ => ?_
    | split

/-- The words of the E format are those of a block, in the same way. -/
theorem decodeE_yields (w : Nat) : Yields (fun i => inBlock i = true) (decodeE w) := by
  unfold decodeE
  dsimp only
  repeat' first
    | exact .ok rfl
    | exact .error _
    | refine .bind fun _ => ?_
    | split

theorem inBlock_of_isEvent (i : Instr) (h : isEvent i = true) : inBlock i = false := by
  cases i
  case vfadd | vfsub | vfmul | vfma | vfms | vfnma | vfdiv | vfsqrt | vfmin | vfmax | vfabs | vfneg | vfsgn | vadd | vsub
      | vmul | vmulh | vmulhn | vand | vor | vxor | vsll | vsrl | vsra | vmin | vmax | vminn | vmaxn | vsadd | vssub | vsaddn
      | vssubn | vdot | vfcmp | vcmp | mand | mor | mxor | mandn | mset | mpopc | mfirst | vcvt | vqmx | vmov | vbcast | vext
      | viota | vslup | vsldn | vperm | vcomp | vexpd | vmatch | vfredsum | vfredmax | vfredmin | vredsum | vredmax | vredmin
      | vfscan | vscan | wramp | wcmp | wcomp | wmul | wmov | wbegin | wjoin | wgjoin | wgramp | wcont | lde | ste | wsta
      | stop | wnext | wend =>
    cases h
  all_goals rfl

/-! ### The scalar pipe -/

theorem State.runInstr_isNext (s : State) (i : Instr) (h : inBlock i = false) : IsNext (s.runInstr i) := by
  unfold State.runInstr
  split
  · exact ⟨_, rfl⟩
  · split
    · exact ⟨_, rfl⟩
    · obtain ⟨t, ht⟩ := exec_isNext i h s
      rw [ht]; exact ⟨_, rfl⟩

theorem State.runWord_isNext (s : State) : IsNext s.runWord := by
  unfold State.runWord
  split
  · exact ⟨_, rfl⟩
  · split
    · exact ⟨_, rfl⟩
    · next i hi =>
      split
      · exact State.runInstr_isNext _ i (decodeS_yields _ i hi)
      · exact ⟨_, rfl⟩

theorem State.issue_isNext (s : State) (c : CtxIx) : IsNext (s.issue c) := by
  unfold State.issue
  split
  · obtain ⟨t, ht⟩ := (s.fetching c).runWord_isNext
    rw [ht]; exact ⟨_, rfl⟩
  · exact ⟨_, rfl⟩

theorem State.issueAll_isNext (cs : List CtxIx) : ∀ s : State, IsNext (s.issueAll cs) := by
  induction cs with
  | nil => exact fun s => ⟨s, rfl⟩
  | cons c cs ih =>
    intro s
    obtain ⟨t, ht⟩ := s.issue_isNext c
    rw [State.issueAll, ht]; exact ih t

theorem State.cycleOf_isNext (s : State) (k : CoreIx) (cs : List CtxIx) : IsNext (s.cycleOf k cs) := by
  unfold State.cycleOf
  split
  · exact ⟨_, rfl⟩
  · obtain ⟨t, ht⟩ := State.issueAll_isNext cs s
    rw [ht]; exact ⟨_, rfl⟩

/-! ### The lanes -/

theorem State.wordStruck_isNext (s : State) (b : Block) (run : State → Host.Outcome State Fault Refusal) (h : IsNext (run s))
    (bad : List (Nat × Bool)) : IsNext (s.wordStruck b run bad) := by
  induction bad with
  | nil => exact h
  | cons p bad ih =>
    unfold State.wordStruck
    dsimp only
    split
    · split
      · exact ⟨_, rfl⟩
      · split
        · exact ⟨_, rfl⟩
        · split
          · exact ⟨_, rfl⟩
          · split
            · split <;> exact ⟨_, rfl⟩
            · split
              · exact ⟨_, rfl⟩
              · exact ih
    · exact ⟨_, rfl⟩

theorem State.blockWord_isNext (s : State) (b : Block) (w : BitVec 64) (h : s.me.block.isSome = true) :
    IsNext (s.blockWord b w) := by
  unfold State.blockWord
  cases hd : decodeE w.toNat with
  | error d => cases d <;> exact ⟨_, rfl⟩
  | ok i =>
    obtain ⟨t, ht⟩ := s.wordStruck_isNext b _ ((exec_answer i (decodeE_yields _ i hd) s).1 h) (s.wordBad b i)
    dsimp only
    rw [ht]; exact ⟨_, rfl⟩

theorem State.lanes_isNext (s : State) (c : CtxIx) : IsNext (s.lanes c) := by
  unfold State.lanes
  dsimp only
  split
  · exact ⟨_, rfl⟩
  · next b hb =>
    split
    · exact ⟨_, rfl⟩
    · exact State.blockWord_isNext _ b _ (by rw [hb]; rfl)

/-! ### Acts and steps -/

theorem State.evict_isNext (s : State) (line : Nat) : IsNext (s.evict line) := by
  unfold State.evict
  split
  · exact ⟨_, rfl⟩
  · split <;> exact ⟨_, rfl⟩

theorem State.event_isNext (s : State) (i : Instr) : IsNext (s.event i) := by
  unfold State.event
  split
  · next h => exact exec_isNext i (inBlock_of_isEvent i h) s
  · exact ⟨_, rfl⟩

theorem State.perform1_isNext (s : State) (a : Act) : IsNext (s.perform1 a) := by
  cases a
  case issue c =>
    unfold State.perform1
    dsimp only
    split
    · exact s.cycleOf_isNext _ _
    · exact ⟨_, rfl⟩
  case cycle k late => exact s.cycleOf_isNext k _
  case lanes c => exact State.lanes_isNext _ c
  case event i => exact s.event_isNext i
  case writeback l => exact s.evict_isNext l
  case perform op c => exact s.runCommand_isNext op c
  all_goals exact ⟨_, rfl⟩

theorem State.act_isNext (s : State) (a : Act) : IsNext (s.act a) := by
  unfold State.act
  split
  · obtain ⟨t, ht⟩ := s.perform1_isNext a
    rw [ht]; exact ⟨_, rfl⟩
  · exact ⟨_, rfl⟩

theorem step_isNext (s : State) : IsNext (step s) := by
  unfold step
  split
  · exact ⟨_, rfl⟩
  · exact State.act_isNext _ _

end Sys2Proof.Machine

namespace Sys2Proof.Proofs
open Sys2Proof.Machine Sys2Proof.Spec

/-- Settles O58: an instruction answers by its stream, a decoder yields instructions of one stream, and each act is made of those. -/
theorem everyStepGoesOn : Obligations.EveryStepGoesOn := by
  refine ⟨step_isNext, fun i s hi => ?_, fun i s hi => ?_⟩
  · rcases hi with ⟨w, hw⟩ | hev
    · exact exec_isNext i (decodeS_yields w i hw) s
    · exact exec_isNext i (inBlock_of_isEvent i hev) s
  · obtain ⟨w, hw⟩ := hi
    exact exec_answer i (decodeE_yields w i hw) s

end Sys2Proof.Proofs

/-! PROOFS. O59, third part: what an entry does leaves which context acts as it is. -/
namespace Sys2Proof.Machine

/-! ### The operations of the lanes -/

section
variable (s : State)

@[simp] theorem State.setMe_cur (x : Context) : (s.setMe x).cur = s.cur := rfl
@[simp] theorem State.setMySc_cur (sc : Scalar) : (s.setMySc sc).cur = s.cur := rfl
@[simp] theorem State.setV_cur (r : VReg) (x : VBits) : (s.setV r x).cur = s.cur := rfl
@[simp] theorem State.setM_cur (r : MReg) (x : MBits) : (s.setM r x).cur = s.cur := rfl
@[simp] theorem State.setAcc_cur (a : AccIx) (x : Vector (BitVec 4096) 128) : (s.setAcc a x).cur = s.cur := rfl
@[simp] theorem State.setFeed_cur (f : FeedIx) (x : FeedSlot) : (s.setFeed f x).cur = s.cur := rfl
@[simp] theorem State.setWaiting_cur (q : QuadIx) (ws : List CtxIx) : (s.setWaiting q ws).cur = s.cur := rfl
@[simp] theorem State.every_cur (f : Scalar → Scalar) : (s.every f).cur = s.cur := rfl
@[simp] theorem State.entryFlags_cur (f : BitVec 8) : (s.entryFlags f).cur = s.cur := rfl
@[simp] theorem State.keepDone_cur (e : Entry) (n : Nat) : (s.keepDone e n).cur = s.cur := rfl
@[simp] theorem State.freeAcc_cur : s.freeAcc.cur = s.cur := rfl

theorem ite_cur {p : Prop} [Decidable p] {s t u : State} (ht : t.cur = s.cur) (hu : u.cur = s.cur) : (if p then t else u).cur = s.cur := by
  split_ifs <;> assumption
theorem foldl_cur {α : Type} (f : State → α → State) (hf : ∀ s x, (f s x).cur = s.cur) (xs : List α) (s : State) :
    (xs.foldl f s).cur = s.cur := by
  induction xs generalizing s with
  | nil => rfl
  | cons x xs ih => rw [List.foldl_cons, ih, hf]
/-- The same where something else is carried along. -/
theorem foldl_fst_cur {α β : Type} (f : State × β → α → State × β) (hf : ∀ y x, (f y x).1.cur = y.1.cur) (xs : List α) (y : State × β) :
    (xs.foldl f y).1.cur = y.1.cur := by
  induction xs generalizing y with
  | nil => rfl
  | cons x xs ih => rw [List.foldl_cons, ih, hf]

@[simp] theorem State.grantRows_cur (inh : Bool) (d : XReg) (g : Nat) : (s.grantRows inh d g).cur = s.cur :=
  ite_cur s.freeAcc_cur rfl

@[simp] theorem State.storeLoc_cur (c : Option CoreIx) (l : Loc) (bs : List Byte) : (s.storeLoc c l bs).cur = s.cur :=
  State.cur_of_tasks (s.storeLoc_tasks c l bs)
@[simp] theorem State.storeLe_cur (c : Option CoreIx) (l : Loc) (n x : Nat) : (s.storeLe c l n x).cur = s.cur := s.storeLoc_cur c l _
@[simp] theorem State.writeElem_cur (c : CoreIx) (l : Loc) (i w x : Nat) : (s.writeElem c l i w x).cur = s.cur :=
  State.cur_of_tasks (s.writeElem_tasks c l i w x)
@[simp] theorem State.storeSpan_cur (c : Option CoreIx) (ps : List (Loc × Nat)) (bs : List Byte) : (s.storeSpan c ps bs).cur = s.cur := by
  induction ps generalizing s bs with
  | nil => rfl
  | cons p ps ih => rw [State.storeSpan, ih, State.storeLoc_cur]
@[simp] theorem State.drainStores_cur (ss : List (Nat × List Byte)) : (s.drainStores ss).cur = s.cur :=
  State.cur_of_tasks (s.drainStores_tasks ss)
@[simp] theorem State.partialBytes_cur (c : CoreIx) (g : Agent) (a : Word64) (bs : List Byte) : (s.partialBytes c g a bs).cur = s.cur := by
  induction bs generalizing s a with
  | nil => rfl
  | cons b bs ih =>
    rw [State.partialBytes, ih]
    split
    · exact ite_cur (State.storeLoc_cur _ _ _ _) rfl
    · rfl

@[simp] theorem State.fillTlb_cur (g : Agent) (a : Word64) : (s.fillTlb g a).cur = s.cur := (s.fillTlb_loadKeeps g a).cur
@[simp] theorem State.fillAddrs_cur (g : Agent) (as : List Word64) : (s.fillAddrs g as).cur = s.cur := (s.fillAddrs_loadKeeps g as).cur
@[simp] theorem State.fillSpan_cur (g : Agent) (a : Word64) (n : Nat) : (s.fillSpan g a n).cur = s.cur :=
  ite_cur rfl (s.fillAddrs_cur _ _)
@[simp] theorem State.readAt_cur (k : Option CoreIx) (l : Loc) (n : Nat) : (s.readAt k l n).cur = s.cur := (s.readAt_loadKeeps k l n).cur
@[simp] theorem State.accessAt_cur (g : Agent) (as : List Word64) : (s.accessAt g as).cur = s.cur := by
  refine ite_cur (s.fillAddrs_cur g as) ((foldl_cur _ (fun s a => ?_) _ _).trans (s.fillAddrs_cur g as))
  split
  · exact s.readAt_cur _ _ _
  · rfl
@[simp] theorem State.fillTlbs_cur (g : Agent) (addrs : Nat → List Word64) (ls : Located) : (s.fillTlbs g addrs ls).cur = s.cur :=
  s.accessAt_cur g _
@[simp] theorem State.bitmapFill_cur (g : Agent) (a : Word64) (levels w base : Nat) (is : List Nat) :
    (s.bitmapFill g a levels w base is).cur = s.cur := ite_cur (s.fillAddrs_cur g _) rfl

@[simp] theorem State.ferryRun_cur (g : Agent) (i : FeedIx) (f : FeedSlot) : (s.ferryRun g i f).cur = s.cur := State.accessAt_cur _ _ _
@[simp] theorem State.feedFlush_cur (g : Agent) (f : FeedIx) (force : Bool) : (s.feedFlush g f force).cur = s.cur := by
  have hout : (s.ferryOut g (CtxIx.core s.cur) (s.feed f)).1.cur = s.cur := State.cur_of_tasks (s.ferryOut_tasks g _ _)
  exact ite_cur rfl hout
theorem State.feedFault_cur {f : FeedIx} {t : State} {x : Trap} (h : s.feedFault f = some (t, x)) : t.cur = s.cur := by
  unfold State.feedFault at h
  split at h
  · cases h; rfl
  · cases h

@[simp] theorem State.owe_cur (k n : Nat) : (s.owe k n).cur = s.cur := rfl
@[simp] theorem State.oweRecord_cur (g : Agent) (r : BitVec 512) (bo : Option Loc) (n : Nat) : (s.oweRecord g r bo n).cur = s.cur := by
  cases bo with
  | none => rfl
  | some l => exact State.fillAddrs_cur _ _ _
@[simp] theorem State.complete_cur (c : Completion) (x : CountAdd) : (s.complete c x).cur = s.cur := by
  cases c with
  | signal k => exact State.cur_of_tasks (s.signalSub_tasks _ _)
  | none => rfl
  | barrier k => rfl
@[simp] theorem State.nsendFill_cur (g : Agent) (o : NsendArgs) (sc : Scalar) (n len : Nat) : (s.nsendFill g o sc n len).cur = s.cur := by
  unfold State.nsendFill
  dsimp only
  split <;> split <;> simp
@[simp] theorem State.pushFlits_cur (p : PortIx) (vc id : Nat) (fs : List (List Byte)) : (s.pushFlits p vc id fs).cur = s.cur := rfl
@[simp] theorem State.transmit_cur (p : PortIx) (vc id : Nat) (h : BitVec 512) (bs : List Byte) : (s.transmit p vc id h bs).cur = s.cur := rfl

theorem State.failSend_cur (x : Nsend) : (s.failSend x).cur = s.cur := by
  refine (State.cur_of_tasks (State.faultRecord_tasks _ _ _)).trans ?_
  split
  · exact State.cur_of_tasks (State.signalFail_tasks _ _)
  · rfl
@[simp] theorem State.quantError_cur (j : QuantJob) : (s.quantError j).cur = s.cur := by
  unfold State.quantError
  split
  · rfl
  · rw [State.failSend_cur, State.cur_of_tasks (State.faultRecord_tasks _ _ _)]
theorem State.readBlock_cur (j : QuantJob) : (s.readBlock j).1.cur = s.cur := by
  unfold State.readBlock
  extract_lets k ss rs sp rp raw j' xs
  split
  · exact s.quantError_cur j
  · split
    · rfl
    · exact ite_cur (s.storeSpan_cur _ _ _) rfl
theorem State.jobStep_cur (j : QuantJob) : (s.jobStep j).1.cur = s.cur := by
  unfold State.jobStep
  split
  · rfl
  · split
    · exact s.readBlock_cur j
    · split <;> rfl
theorem State.runJob_cur (n : Nat) : ∀ (s : State) (j : QuantJob), (State.runJob n s j).1.cur = s.cur := by
  induction n with
  | zero => exact fun _ _ => rfl
  | succ n ih =>
    intro s j
    have hstep := s.jobStep_cur j
    unfold State.runJob
    split
    · rfl
    · split
      · next h => rw [h] at hstep; exact hstep
      · next h => rw [h] at hstep; exact (ih _ _).trans hstep
theorem State.runJobs_cur (js : List QuantJob) : ∀ s : State, (s.runJobs js).1.cur = s.cur := by
  induction js with
  | nil => exact fun _ => rfl
  | cons j js ih =>
    intro s
    have hrun := State.runJob_cur (j.n + 8) s j
    unfold State.runJobs
    split
    · next h => rw [h] at hrun; exact hrun
    · next h => rw [h] at hrun; exact (ih _).trans hrun
@[simp] theorem State.pump_cur (p : PortIx) : (s.pump p).cur = s.cur := State.runJobs_cur _ _

theorem State.storeRows_cur (g : Agent) (r : BitVec 512) (size : Nat) (cols : List Nat) (cell : State → Nat → Nat → Nat × Flags)
    (rows : List Nat) : (s.storeRows g r size cols cell rows).1.cur = s.cur := by
  induction rows generalizing s with
  | nil => rfl
  | cons row rows ih =>
    unfold State.storeRows
    split
    · rfl
    · exact (ih _).trans (foldl_fst_cur _ (fun y p => by simp) _ _)

end

/-! ### Entries -/

/-- The state in which performing an entry leaves the machine. -/
def PerfOut.state : PerfOut → State
  | .done s | .trap s _ _ _ | .wait s => s

@[simp] theorem PerfOut.state_done (s : State) : (PerfOut.done s).state = s := rfl
@[simp] theorem PerfOut.state_wait (s : State) : (PerfOut.wait s).state = s := rfl
@[simp] theorem PerfOut.state_trap (s : State) (t : Trap) (f : BitVec 8) (b : Bool) : (PerfOut.trap s t f b).state = s := rfl
@[simp] theorem PerfOut.state_of (s : State) (t : Option Trap) : (PerfOut.of s t).state = s := by cases t <;> rfl
@[simp] theorem PerfOut.state_flagged_cur (s : State) (f : BitVec 8) (t : Option Trap) : (PerfOut.flagged s f t).state.cur = s.cur := by
  cases t <;> rfl
/-- A check that comes first. -/
theorem PerfOut.ite_cur {p : Prop} [Decidable p] {s : State} {a b : PerfOut} (ha : a.state.cur = s.cur) (hb : b.state.cur = s.cur) :
    (if p then a else b).state.cur = s.cur := by
  split_ifs <;> assumption

/-- An entry that leaves which context acts as it is. -/
def Stays (p : Perf) : Prop := ∀ e s, (p e s).state.cur = s.cur

section
variable (s : State) (e : Entry)

theorem State.vload_cur (w : Nat) (m : MSel) (regs : List VReg) (addrs : Nat → List Word64) :
    (s.vload e w m regs addrs).state.cur = s.cur := by
  unfold State.vload
  dsimp only
  rw [PerfOut.state_of]
  refine (foldl_cur _ (fun s r => ?_) _ _).trans (s.fillTlbs_cur _ _ _)
  exact s.setV_cur _ _

theorem State.vstore_cur (w : Nat) (m : MSel) (regs : List VReg) (addrs : Nat → List Word64) (ntf : Bool) :
    (s.vstore e w m regs addrs ntf).state.cur = s.cur := by
  unfold State.vstore
  dsimp only
  split
  · rfl
  · rw [PerfOut.state_of]
    split
    · rw [State.fillAddrs_cur, State.storeLe_cur, foldl_cur _ fun s p => foldl_cur _ (fun _ _ => State.writeElem_cur _ _ _ _ _ _) _ _,
        State.fillTlbs_cur]
    · rw [foldl_cur _ fun s p => foldl_cur _ (fun _ _ => State.writeElem_cur _ _ _ _ _ _) _ _, State.fillTlbs_cur]

theorem Entry.needTile_cur (k : Unit → PerfOut) (h : (k ()).state.cur = s.cur) : (e.needTile s k).state.cur = s.cur :=
  PerfOut.ite_cur h rfl

end

theorem stays_perfLoad (v : VReg) (m : MSel) (w : Scalar → Nat) (unit idx : Bool) (addr : State → Scalar → Nat → Word64) :
    Stays (perfLoad v m w unit idx addr) := fun e s => PerfOut.ite_cur rfl (s.vload_cur e _ _ _ _)
theorem stays_perfStore (v : VReg) (m : MSel) (w : Scalar → Nat) (unit idx ntf : Bool) (addr : State → Scalar → Nat → Word64) :
    Stays (perfStore v m w unit idx ntf addr) := fun e s => PerfOut.ite_cur rfl (s.vstore_cur e _ _ _ _ _)
theorem stays_perfVldg (o : VMem) (n : Fin 9) : Stays (perfVldg o n) := fun e s => PerfOut.ite_cur rfl (s.vload_cur e _ _ _ _)
theorem stays_perfVstg (o : VStore) (n : Fin 9) (ntf : Bool) : Stays (perfVstg o n ntf) := fun e s =>
  PerfOut.ite_cur rfl (s.vstore_cur e _ _ _ _ _)
theorem stays_perfVld2 (o : VMem) : Stays (perfVld2 o) := fun e s => by
  refine PerfOut.ite_cur rfl ?_
  split
  · rfl
  · exact PerfOut.ite_cur rfl (s.vload_cur e _ _ _ _)
theorem stays_perfVst2 (o : VStore) (ntf : Bool) : Stays (perfVst2 o ntf) := fun e s => by
  refine PerfOut.ite_cur rfl ?_
  split
  · rfl
  · exact PerfOut.ite_cur rfl (s.vstore_cur e _ _ _ _ _)

theorem stays_perfVsplat (o : VMem) : Stays (perfVsplat o) := fun e s => by
  refine PerfOut.ite_cur rfl ?_
  split <;> rfl

theorem stays_perfVldb (v : VReg) (a b : XReg) (mo : MReg) (ew : EwSel) : Stays (perfVldb v a b mo ew) := fun e s => by
  refine PerfOut.ite_cur rfl ?_
  split
  · rfl
  · refine PerfOut.ite_cur rfl ?_
    dsimp only
    rw [PerfOut.state_of, State.setM_cur, State.setV_cur, State.bitmapFill_cur]

theorem stays_perfVldw (v : VReg) (a : XReg) (x : VReg) (mo : MReg) (ew : EwSel) : Stays (perfVldw v a x mo ew) := fun e s => by
  unfold perfVldw
  dsimp only
  split
  · rfl
  · refine PerfOut.ite_cur rfl (PerfOut.ite_cur rfl ?_)
    rw [PerfOut.state_of, State.setM_cur, State.setV_cur, State.setV_cur, State.accessAt_cur]

theorem stays_perfVldxAcq (v : VReg) (a : XReg) (x : VReg) (m : MSel) (c : Scope) : Stays (perfVldxAcq v a x m c) := fun e s => by
  unfold perfVldxAcq
  dsimp only
  refine PerfOut.ite_cur rfl ?_
  rw [PerfOut.state_of, State.setM_cur, State.setV_cur, State.fillTlbs_cur]

/-- What an entry comes to acts in context `c`. Kept folded, so that the kernel compares no block of bytes with another. -/
def PerfOut.ActsIn (c : CtxIx) (r : PerfOut) : Prop := r.state.cur = c

theorem PerfOut.ActsIn.trap {c : CtxIx} {t : State} (h : t.cur = c) (x : Trap) (f : BitVec 8) (b : Bool) : (PerfOut.trap t x f b).ActsIn c := h
theorem PerfOut.ActsIn.done {c : CtxIx} {t : State} (h : t.cur = c) : (PerfOut.done t).ActsIn c := h
theorem PerfOut.ActsIn.ite {p : Prop} [Decidable p] {c : CtxIx} {a b : PerfOut} (ha : a.ActsIn c) (hb : b.ActsIn c) :
    (if p then a else b).ActsIn c := by
  split
  · exact ha
  · exact hb

theorem perfVstb_actsIn (o : VStore) (b : XReg) (ntf : Bool) (e : Entry) (s : State) : (perfVstb o b ntf e s).ActsIn s.cur := by
  unfold perfVstb
  refine .ite (.trap rfl _ _ _) (.ite (.trap rfl _ _ _) ?_)
  split
  · exact .trap rfl _ _ _
  · extract_lets -underBinder g src val block
    clear_value block val src g
    split
    · exact .trap (s.partialBytes_cur _ _ _ _) _ _ _
    · apply PerfOut.ActsIn.done
      split
      · rw [State.fillAddrs_cur, State.storeLe_cur, State.fillSpan_cur, State.storeSpan_cur]
      · rw [State.fillSpan_cur, State.storeSpan_cur]

theorem stays_perfVstb (o : VStore) (b : XReg) (ntf : Bool) : Stays (perfVstb o b ntf) := fun e s => perfVstb_actsIn o b ntf e s

theorem stays_perfVamo (o : VamoArgs) : Stays (perfVamo o) := fun e s => by
  unfold perfVamo
  dsimp only
  split
  · rfl
  · refine PerfOut.ite_cur rfl ?_
    rw [PerfOut.state_of]
    refine (foldl_cur _ (fun s p => ?_) _ _).trans (s.fillTlbs_cur _ _ _)
    split
    · rw [State.setV_cur, State.storeLe_cur]
    · rfl

theorem stays_perfVsred (o : VStore) (op : SredOp) : Stays (perfVsred o op) := fun e s => by
  unfold perfVsred
  dsimp only
  split
  · rfl
  · refine PerfOut.ite_cur rfl ?_
    rw [PerfOut.state_flagged_cur]
    refine (foldl_fst_cur _ (fun y p => ?_) _ _).trans (s.fillTlbs_cur _ _ _)
    split
    · exact State.storeLe_cur _ _ _ _ _
    · rfl

theorem stays_perfVrred (o : VStore) (t : RredT) (ntf ord : Bool) : Stays (perfVrred o t ntf ord) := fun e s => by
  unfold perfVrred
  dsimp only
  split
  · rfl
  · refine PerfOut.ite_cur rfl ?_
    split
    · rfl
    · split
      · rfl
      · refine PerfOut.ite_cur ?_ (PerfOut.ite_cur ?_ ?_)
        · split
          · exact s.fillAddrs_cur _ _
          · exact s.fillAddrs_cur _ _
          · split
            · exact s.fillAddrs_cur _ _
            · refine PerfOut.ite_cur (s.fillAddrs_cur _ _) (PerfOut.ite_cur ?_ (PerfOut.ite_cur (s.fillAddrs_cur _ _) ?_))
              · rw [PerfOut.state_of, State.fillAddrs_cur]
              · rw [PerfOut.state_of, State.transmit_cur]
                exact s.fillAddrs_cur _ _
        · rw [PerfOut.state_of, State.fillAddrs_cur]
        · rw [PerfOut.state_of]
          exact s.fillAddrs_cur _ _

theorem stays_perfFcfg (f : FeedIx) (a b : XReg) (k : Fin 16) (out : Bool) (ew : EwSel) : Stays (perfFcfg f a b k out ew) := fun e s => by
  refine PerfOut.ite_cur rfl (PerfOut.ite_cur rfl (PerfOut.ite_cur rfl (PerfOut.ite_cur rfl ?_)))
  exact ite_cur (s.setFeed_cur _ _) (s.ferryRun_cur _ _ _)

theorem stays_perfFld (v : VReg) (f : FeedIx) : Stays (perfFld v f) := fun e s => by
  refine PerfOut.ite_cur rfl (PerfOut.ite_cur rfl ?_)
  split
  · rfl
  · refine PerfOut.ite_cur rfl ?_
    exact ite_cur rfl (State.ferryRun_cur _ _ _ _)

theorem stays_perfFst (v : VReg) (f : FeedIx) : Stays (perfFst v f) := fun e s => by
  refine PerfOut.ite_cur rfl (PerfOut.ite_cur rfl (PerfOut.ite_cur rfl ?_))
  split
  · next h => exact s.feedFault_cur h
  · dsimp only
    split
    · next h => exact (State.feedFault_cur _ h).trans (s.feedFlush_cur _ _ _)
    · exact (State.feedFlush_cur _ _ _ _).trans (s.feedFlush_cur _ _ _)

theorem stays_perfFend (f : FeedIx) (a : XReg) : Stays (perfFend f a) := fun e s => by
  unfold perfFend
  dsimp only
  refine PerfOut.ite_cur (PerfOut.ite_cur rfl rfl) (PerfOut.ite_cur rfl ?_)
  split
  · next h => exact s.feedFault_cur h
  · split
    · next h => exact (State.feedFault_cur _ h).trans (s.feedFlush_cur _ _ _)
    · refine PerfOut.ite_cur ?_ (s.feedFlush_cur _ _ _)
      split
      · exact s.feedFlush_cur _ _ _
      · exact (State.fillAddrs_cur _ _ _).trans (s.feedFlush_cur _ _ _)

theorem stays_perfApush (a b : XReg) (tag : Byte) : Stays (perfApush a b tag) := fun e s => by
  unfold perfApush
  dsimp only
  refine PerfOut.ite_cur rfl ?_
  split
  · rfl
  · split
    · rfl
    · rw [PerfOut.state_done]
      rw [State.fillSpan_cur, State.fillSpan_cur, State.storeSpan_cur]

theorem stays_perfApop (o : X3) (tag : Byte) : Stays (perfApop o tag) := fun e s => by
  unfold perfApop
  dsimp only
  refine PerfOut.ite_cur rfl ?_
  split
  · rfl
  · refine PerfOut.ite_cur rfl ?_
    split
    · rfl
    · split
      · rfl
      · rw [PerfOut.state_done]
        rw [State.every_cur, State.fillSpan_cur, State.fillSpan_cur, State.fillSpan_cur, State.storeSpan_cur]

theorem stays_perfNsend (o : NsendArgs) : Stays (perfNsend o) := fun e s => by
  unfold perfNsend
  split
  · rfl
  · dsimp only
    split
    · exact (State.complete_cur _ _ _).trans (s.nsendFill_cur _ _ _ _ _)
    · exact (State.pump_cur _ _).trans (s.nsendFill_cur _ _ _ _ _)

theorem stays_perfMatt (o : X2) : Stays (perfMatt o) := fun _ s => PerfOut.ite_cur rfl (s.grantRows_cur _ _ _)
theorem stays_perfMattB (o : X2) : Stays (perfMattB o) := fun e s => by
  refine PerfOut.ite_cur rfl (PerfOut.ite_cur (s.grantRows_cur _ _ _) (PerfOut.ite_cur ?_ (State.grantRows_cur _ _ _ _)))
  exact ite_cur rfl rfl
theorem stays_perfMten : Stays perfMten := fun _ _ => PerfOut.ite_cur rfl rfl
theorem stays_perfMtdis : Stays perfMtdis := fun _ _ => PerfOut.ite_cur rfl rfl
theorem stays_perfMzero (a : AccIx) : Stays (perfMzero a) := fun e s => e.needTile_cur s _ rfl
theorem stays_perfMopa (a : AccIx) (v : VSrc) (k : Fin 512) (mr mc : MSel) : Stays (perfMopa a v k mr mc) := fun e s =>
  e.needTile_cur s _ (PerfOut.ite_cur rfl rfl)
theorem stays_perfMopav (a : AccIx) (v : VSrc) (b : VReg) (mr mc : MSel) (t : MatT) : Stays (perfMopav a v b mr mc t) := fun e s =>
  e.needTile_cur s _ rfl
theorem stays_perfMrds (a : AccIx) (v : VReg) (i : Fin 128) (col : Bool) : Stays (perfMrds a v i col) := fun e s =>
  e.needTile_cur s _ (PerfOut.ite_cur rfl (PerfOut.ite_cur rfl rfl))
theorem stays_perfMwrs (a : AccIx) (v : VSrc) (i : Fin 128) (col : Bool) : Stays (perfMwrs a v i col) := fun e s =>
  e.needTile_cur s _ (PerfOut.ite_cur rfl (PerfOut.ite_cur rfl rfl))

theorem stays_perfMstt (o : MsArgs) : Stays (perfMstt o) := fun e s => by
  refine e.needTile_cur s _ ?_
  split
  · rfl
  · dsimp only
    split
    · split
      · rfl
      · split
        · exact s.storeRows_cur _ _ _ _ _ _
        · exact (State.oweRecord_cur _ _ _ _ _).trans (s.storeRows_cur _ _ _ _ _ _)
    · rfl

theorem stays_perfMgacc (o : MsArgs) : Stays (perfMgacc o) := fun e s => by
  refine e.needTile_cur s _ ?_
  split
  · rfl
  · dsimp only
    split <;> rfl

theorem stays_perfMgst (a : XReg) : Stays (perfMgst a) := fun e s => by
  unfold perfMgst
  refine PerfOut.ite_cur rfl ?_
  split
  · rfl
  · dsimp only
    split
    · refine PerfOut.ite_cur rfl ?_
      split
      · rfl
      · split
        · rfl
        · have hrows := s.storeRows_cur (e.unitAgent s.cur)
          split
          · exact hrows _ _ _ _ _
          · rw [PerfOut.state_done]
            rw [State.entryFlags_cur, State.fillAddrs_cur, State.oweRecord_cur, State.setQuad_cur, State.storeLe_cur, State.storeLe_cur]
            exact hrows _ _ _ _ _
    · rfl

theorem stays_perfMwld (a : XReg) (l : Option (Fin 16)) : Stays (perfMwld a l) := fun e s => by
  unfold perfMwld
  dsimp only
  refine PerfOut.ite_cur rfl (PerfOut.ite_cur rfl ?_)
  split
  · rfl
  · split
    · rfl
    · refine PerfOut.ite_cur rfl (PerfOut.ite_cur rfl ?_)
      split
      · rfl
      · exact PerfOut.ite_cur (s.fillSpan_cur _ _ _) (s.fillSpan_cur _ _ _)

theorem State.startBlock_cur (s : State) (e : Entry) (a : Word64) : (s.startBlock e a).state.cur = s.cur := by
  refine PerfOut.ite_cur (s.drainStores_cur _) (PerfOut.ite_cur rfl (PerfOut.ite_cur rfl ?_))
  split
  · rfl
  · next h1 =>
    have h1 := (State.fetchBlock_keeps _ _ h1).cur
    refine PerfOut.ite_cur h1 ?_
    split
    · exact h1
    · next h2 =>
      have h2 := (State.fetchBlock_keeps _ _ h2).cur.trans h1
      exact PerfOut.ite_cur h2 h2

theorem stays_perfQv (enq : Bool) (o : QvArgs) (i : Instr) : Stays (perfQv enq o i) := fun e s => by
  have hq := State.cur_of_tasks (s.qOp_tasks (ctxQAgent s.cur (e.agent s.cur)) (e.chk.rx o.a)
    ⟨enq, e.chk.vl, o.blk, .v e.chk.ew (s.vreg o.v), some s.cur⟩)
  have hseen (t : State) (ht : t.cur = s.cur) : (if s.choices.fill then t.fillAddrs (e.agent s.cur)
      (s.queueAddrs (e.agent s.cur) (e.chk.rx o.a) enq e.chk.vl none) else t).cur = s.cur := by
    split
    · rw [State.fillAddrs_cur, ht]
    · exact ht
  unfold perfQv
  dsimp only
  split
  · next h => rw [h] at hq; exact (State.cur_of_tasks (State.withdrawQueue_tasks _ _)).trans hq
  · next t h =>
    rw [h] at hq
    exact hseen (t.setMe { t.me with parked := some i }) hq
  · next t n els h =>
    rw [h] at hq
    have ht := hseen (t.setMe { t.me with parked := none }) hq
    exact ite_cur ht ht

end Sys2Proof.Machine

/-! PROOFS. O59, fourth part: the lanes take the oldest entry of a context (R42, R45, R49). -/
namespace Sys2Proof.Machine

/-! ### What an entry does leaves which context acts -/

theorem stays_perfNone : Stays perfNone := fun _ _ => rfl
theorem stays_perfMdet : Stays perfMdet := fun _ _ => rfl

theorem stays_of_perfOf {i : Instr} {p : Perf} (h : perfOf i = some p) : Stays p := by
  cases i
  case vsetl => cases h; exact stays_perfNone
  case vsetlx => cases h; exact stays_perfNone
  case strip => cases h; exact stays_perfNone
  case setfib => cases h; exact stays_perfNone
  case vprf => cases h; exact stays_perfNone
  case vsplat => cases h; exact stays_perfVsplat _
  case vldxAcq => cases h; exact stays_perfVldxAcq _ _ _ _ _
  case vstsNtf => cases h; exact stays_perfStore _ _ _ _ _ _ _
  case vld => cases h; exact stays_perfLoad _ _ _ _ _ _
  case vlds => cases h; exact stays_perfLoad _ _ _ _ _ _
  case vldg => cases h; exact stays_perfVldg _ _
  case vld2 => cases h; exact stays_perfVld2 _
  case vst => cases h; exact stays_perfStore _ _ _ _ _ _ _
  case vsts => cases h; exact stays_perfStore _ _ _ _ _ _ _
  case vstg => cases h; exact stays_perfVstg _ _ _
  case vst2 => cases h; exact stays_perfVst2 _ _
  case vldx => cases h; exact stays_perfLoad _ _ _ _ _ _
  case vstx => cases h; exact stays_perfStore _ _ _ _ _ _ _
  case vldw => cases h; exact stays_perfVldw _ _ _ _ _
  case vldb => cases h; exact stays_perfVldb _ _ _ _ _
  case vstb => cases h; exact stays_perfVstb _ _ _
  case vstbNtf => cases h; exact stays_perfVstb _ _ _
  case vamo => cases h; exact stays_perfVamo _
  case vsred => cases h; exact stays_perfVsred _ _
  case vrred => cases h; exact stays_perfVrred _ _ _ _
  case fcfg => cases h; exact stays_perfFcfg _ _ _ _ _ _
  case fld => cases h; exact stays_perfFld _ _
  case fst => cases h; exact stays_perfFst _ _
  case fend => cases h; exact stays_perfFend _ _
  case apush => cases h; exact stays_perfApush _ _ _
  case apop => cases h; exact stays_perfApop _ _
  case nsend => cases h; exact stays_perfNsend _
  case matt => cases h; exact stays_perfMatt _
  case mattB => cases h; exact stays_perfMattB _
  case mdet => cases h; exact stays_perfMdet
  case mten => cases h; exact stays_perfMten
  case mtdis => cases h; exact stays_perfMtdis
  case mzero => cases h; exact stays_perfMzero _
  case mopa => cases h; exact stays_perfMopa _ _ _ _ _
  case mopav => cases h; exact stays_perfMopav _ _ _ _ _ _
  case mrds => cases h; exact stays_perfMrds _ _ _ _
  case mwrs => cases h; exact stays_perfMwrs _ _ _ _
  case mstt => cases h; exact stays_perfMstt _
  case mgacc => cases h; exact stays_perfMgacc _
  case mgst => cases h; exact stays_perfMgst _
  case mwld => cases h; exact stays_perfMwld _ _
  case vfetch => cases h; exact fun e s => s.startBlock_cur e _
  case vfetchx => cases h; exact fun e s => s.startBlock_cur e _
  case qenqV => cases h; exact stays_perfQv _ _ _
  case qdeqV => cases h; exact stays_perfQv _ _ _
  all_goals cases h

@[simp] theorem State.clearBad_cur (s : State) (i : Instr) : (s.clearBad i).cur = s.cur := ite_cur rfl rfl

theorem State.performSound_cur (s : State) (e : Entry) {p : Perf} (hp : Stays p) : (s.performSound e p).state.cur = s.cur := by
  have h := hp e s
  unfold State.performSound
  split
  · next t ht =>
    rw [ht] at h
    exact PerfOut.ite_cur rfl ((t.clearBad_cur _).trans h)
  · exact h

/-! ### Entries of a task that has ended -/

theorem State.failLaunch_ctxs (s : State) (i : Nat) : (s.failLaunch i).ctxs = s.ctxs := by
  unfold State.failLaunch
  split
  · rfl
  · split
    · rfl
    · next l _ _ =>
      have h := State.ctxs_of_tasks (s.signalWrite_tasks l.die l.agent l.signal l.tag true)
      exact h

theorem State.lateError_ctxs (s : State) (e : Entry) (t : Trap) : (s.lateError e t).ctxs = s.ctxs := by
  unfold State.lateError
  dsimp only
  split
  · exact (State.failLaunch_ctxs _ _).trans (State.ctxs_of_tasks (s.faultRecord_tasks _ _))
  · exact State.ctxs_of_tasks (s.faultRecord_tasks _ _)

/-- What an entry of a task that has ended leaves of its context `x`: the scalar side and the task as they were, and the entry in
the queue or, without it, the registers that it leaves to the younger entries of its task. -/
def Context.AfterStale (x y : Context) (e : Entry) (rest : List Entry) : Prop :=
  y.regs.sc = x.regs.sc ∧ y.task = x.task ∧ (y.viq = x.viq ∨ ∃ r : Past, y.viq =
    rest.map fun o => if o.task = e.task ∧ o.past.isSome = true then { o with past := some r } else o)

theorem Context.afterStale_back (x : Context) (e : Entry) (rest : List Entry) (r : Past) :
    x.AfterStale { x with viq := rest.map fun o =>
      if o.task == e.task && o.past.isSome then { o with past := some r } else o } e rest := by
  refine ⟨rfl, rfl, .inr ⟨r, List.map_congr_left fun o _ => ?_⟩⟩
  simp only [Bool.and_eq_true, beq_iff_eq]

theorem State.performStale_afterStale (s : State) (e : Entry) (rest : List Entry) {p : Perf} (hp : Stays p) :
    s.me.AfterStale ((s.performStale e rest p).ctx s.cur) e rest := by
  have hback (t : State) (ht : t.cur = s.cur) (x : Context) : (t.setMe x).ctx s.cur = x := by
    rw [← ht]; exact t.setCtx_same _ _
  unfold State.performStale
  dsimp only
  split
  · next t h =>
    rw [hback t ((congrArg (·.state.cur) h).symm.trans (State.performSound_cur _ e hp))]
    exact Context.afterStale_back _ _ _ _
  · next t f _ _ h =>
    have ht : t.cur = s.cur := (congrArg (·.state.cur) h).symm.trans (State.performSound_cur _ e hp)
    have hl := State.lateError_ctxs (t.setMe { s.me with viq := rest.map fun o =>
      if o.task == e.task && o.past.isSome then { o with past := some ⟨t.me.regs, t.me.badRegs⟩ } else o }) e f
    have hc := (congrArg (·[s.cur]) hl).trans (hback t ht _)
    exact (congrArg (s.me.AfterStale · e rest) hc).mpr (Context.afterStale_back _ _ _ _)
  · next t h =>
    rw [hback t ((congrArg (·.state.cur) h).symm.trans (State.performSound_cur _ e hp))]
    exact ⟨rfl, rfl, .inl rfl⟩

/-! ### The oldest entry -/

theorem Context.entryParked_of_scalar {x : Context} (h : x.parked = none ∨ (∃ d, x.parked = some (.xpop d)) ∨ x.parked = some .waite) :
    x.entryParked = false := by
  unfold Context.entryParked
  obtain h | ⟨d, h⟩ | h := h <;> rw [h]

theorem Context.passedLen_eq_zero_iff {x : Context} {e : Entry} {rest : List Entry} (h : x.viq = e :: rest) :
    x.passedLen = 0 ↔ e.passed = none := by
  rw [Context.passedLen, h, List.takeWhile_cons]
  cases hp : e.passed <;> simp

theorem State.perform_of_empty {s : State} (h : s.me.viq = []) (n : Nat) : s.perform n = s := by
  rw [State.perform, h]; rfl

theorem State.startEntry_of_empty {s : State} (h : s.me.viq = []) : s.startEntry = s := by
  rw [State.startEntry, State.perform_of_empty h, ite_self]

/-- An entry that has not passed its fault point stays while the context is parked in it or a block is in flight. -/
theorem State.startEntry_held {s : State} (h : ∀ e rest, s.me.viq = e :: rest → e.passed = none)
    (hb : s.me.entryParked = true ∨ s.me.block.isSome = true) : s.startEntry = s := by
  cases hv : s.me.viq with
  | nil => exact State.startEntry_of_empty hv
  | cons e rest =>
    have hp := (Context.passedLen_eq_zero_iff hv).mpr (h e rest hv)
    unfold State.startEntry
    rw [if_pos]
    simpa [hp] using hb

theorem State.startEntry_free {s : State} {e : Entry} {rest : List Entry} (hv : s.me.viq = e :: rest)
    (h : e.passed ≠ none ∨ (s.me.entryParked = false ∧ s.me.block = none)) : s.startEntry = s.perform 0 := by
  unfold State.startEntry
  rw [if_neg]
  obtain h | ⟨hp, hb⟩ := h
  · simp [Context.passedLen_eq_zero_iff hv, h]
  · simp [hp, hb]

/-- The state that what the oldest entry `e` of `s` comes to leaves, with `rest` behind it in the queue. -/
def PerfOut.leaves (s : State) (e : Entry) (rest : List Entry) : PerfOut → State
  | .done v => v.completed e
  | .trap v x f blk => (v.entryTrap e x f blk).recordStarted (s.startedOn e rest)
  | .wait v => v.setMe { v.me with viq := v.waiting e :: v.me.viq }

/-- The oldest entry is performed: as the task of the context, or, where its own task has ended, on the registers of that task. -/
theorem State.perform_zero {s : State} {e : Entry} {rest : List Entry} {p : Perf} (hv : s.me.viq = e :: rest)
    (hp : perfOf e.instr = some p) : s.perform 0 = if e.task = s.me.task then
      ((s.setMe { s.me with viq := rest }).performSound e p).leaves s e rest else s.performStale e rest p := by
  have h0 : s.me.viq[0]? = some e := by rw [hv]; rfl
  have hr : s.me.viq.eraseIdx 0 = rest := by rw [hv]; rfl
  have hd : s.me.viq.drop (0 + 1) = rest := by rw [hv]; rfl
  unfold State.perform
  simp only [h0, hp, hr, hd, bne_iff_ne, ite_not, List.insertIdx_zero]
  split
  · cases (s.setMe { s.me with viq := rest }).performSound e p <;> rfl
  · rfl

theorem State.perform_zero_of_none {s : State} {e : Entry} {rest : List Entry} (hv : s.me.viq = e :: rest)
    (hp : perfOf e.instr = none) : s.perform 0 = s := by
  have h0 : s.me.viq[0]? = some e := by rw [hv]; rfl
  unfold State.perform
  simp only [h0, hp]

/-- An entry that reads no register as a whole and writes none leaves the errors in the registers as they are. -/
theorem State.clearBad_of_writes_none (s : State) {i : Instr} (hr : (resOf i).2 = []) (ha : accWrites i = []) : s.clearBad i = s := by
  have hkeep : (s.me.badRegs.filter fun p =>
      match p with
      | .acc a _ _ => !(accWrites i).contains a
      | p => !p.res.any (resOf i).2.contains) = s.me.badRegs := by
    refine List.filter_eq_self.mpr fun p _ => ?_
    rw [hr, ha]
    cases p <;> rfl
  unfold State.clearBad
  split
  · rfl
  · exact (congrArg (fun l => s.setMe { s.me with badRegs := l }) hkeep).trans (s.setCtx_self s.cur)

theorem State.performSound_vsetl (s : State) {e : Entry} {o : X2} {tv : BitVec 11} (hi : e.instr = .vsetl o tv) :
    s.performSound e perfNone = .done s := by
  have hw : s.wholeBad e = false := by unfold State.wholeBad; rw [hi]
  unfold State.performSound perfNone
  dsimp only
  rw [hw, hi, s.clearBad_of_writes_none rfl rfl, Bool.and_false, if_neg Bool.false_ne_true]

/-- The mark of VSETL completes as every entry does: VSTART becomes 0. -/
theorem State.completed_vsetl (s : State) (x : Context) {e : Entry} {o : X2} {tv : BitVec 11} (hi : e.instr = .vsetl o tv) :
    (s.setMe x).completed e = (s.setMe x).setMySc { (s.setMe x).mySc with vstart := 0 } := by
  have he : e.ends = true := by unfold Entry.ends; rw [hi]
  rw [State.completed, he, if_pos rfl, State.zeroVstart_setMe, State.setMe_setMySc, State.setMe_mySc]

end Sys2Proof.Machine

namespace Sys2Proof.Proofs
open Sys2Proof.Machine Sys2Proof.Spec

theorem lanesTakeTheOldestEntry : LanesTakeTheOldestEntry := by
  intro c s u
  refine ⟨fun h => ⟨_, rfl, ?_⟩, Context.entryParked_of_scalar, fun e rest hv hf => ?_⟩
  · obtain hv | ⟨hp, hb⟩ := h
    · exact State.startEntry_of_empty (s := u) hv
    · exact State.startEntry_held (s := u) hp hb
  · have hstart : exec (.viqEntryStart c) s = .next (u.perform 0) :=
      congrArg Host.Outcome.next (State.startEntry_free (s := u) hv hf)
    have hzero (p : Perf) (hp : perfOf e.instr = some p) := State.perform_zero (s := u) hv hp
    refine ⟨fun p ht hp => ⟨_, hstart, ?_⟩, fun ht => ⟨_, hstart, ?_⟩, fun o tv ht hi => ⟨_, hstart, ?_⟩⟩
    · rw [hzero p hp, if_pos (show e.task = u.me.task from ht)]
      cases (u.setMe { u.me with viq := rest }).performSound e p <;> rfl
    · cases hp : perfOf e.instr with
      | none =>
        rw [State.perform_zero_of_none (s := u) hv hp]
        exact ⟨rfl, rfl, .inl hv⟩
      | some p =>
        rw [hzero p hp, if_neg (show e.task ≠ u.me.task from ht)]
        obtain ⟨hsc, htask, hq⟩ := u.performStale_afterStale e rest (stays_of_perfOf hp)
        exact ⟨hsc, htask, hq.imp_left fun h => h.trans hv⟩
    · rw [hzero perfNone (by rw [hi]; rfl), if_pos (show e.task = u.me.task from ht), State.performSound_vsetl _ hi]
      exact State.completed_vsetl u _ hi

/-- Settles O59: what a step runs, how the selector fills its two slots, and how the lanes take an entry are proved apart. -/
theorem stepRuns : Obligations.StepRuns :=
  ⟨stepRunsTheDecodedInstruction, selectorFillsTheSlots, lanesTakeTheOldestEntry⟩

end Sys2Proof.Proofs

/-! PROOFS. O54: x0 and the scalar registers (R70). -/
namespace Sys2Proof.Proofs
open Sys2Proof.Machine Sys2Proof.Spec

/-- Settles O54: the register rules of the scalar side. -/
theorem zeroRegister : Obligations.ZeroRegister := by
  unfold Obligations.ZeroRegister
  refine fun z r v => ⟨z.rx_zero, if_pos rfl, fun hr => ?_, fun k hk => z.rx_wx_ne v hk, z.wx_eq r v⟩
  rw [z.rx_wx_same, if_neg hr]

end Sys2Proof.Proofs

/-! PROOFS. CSRs, first part: an access goes on, waits or traps, and what CSRR gives (R83, R143). -/
namespace Sys2Proof.Machine

/-! ### The arms of the CSR instructions -/

theorem exec_csrr (d : XReg) (n : BitVec 12) (s : State) : exec (.csrr d n) s = s.csr n (some d) none := rfl
theorem exec_csrw (a : XReg) (n : BitVec 12) (s : State) : exec (.csrw a n) s = s.csr n none (some fun _ => s.mySc.rx a) := rfl
theorem exec_csrs {o : X2} (h : o.a ≠ 0) (n : BitVec 12) (s : State) :
    exec (.csrs o n) s = s.csr n (some o.d) (some fun v => v ||| s.mySc.rx o.a) :=
  congrArg (s.csr n (some o.d)) (if_neg h)
theorem exec_csrs_x0 {o : X2} (h : o.a = 0) (n : BitVec 12) (s : State) : exec (.csrs o n) s = s.csr n (some o.d) none :=
  congrArg (s.csr n (some o.d)) (if_pos h)
theorem exec_csrc {o : X2} (h : o.a ≠ 0) (n : BitVec 12) (s : State) :
    exec (.csrc o n) s = s.csr n (some o.d) (some fun v => v &&& ~~~(s.mySc.rx o.a)) :=
  congrArg (s.csr n (some o.d)) (if_neg h)
theorem exec_csrc_x0 {o : X2} (h : o.a = 0) (n : BitVec 12) (s : State) : exec (.csrc o n) s = s.csr n (some o.d) none :=
  congrArg (s.csr n (some o.d)) (if_pos h)

/-! ### Traps with the lanes at rest -/

/-- With no entry left there is none for the trap at the fault point to keep. -/
theorem State.pointTrap_drained (s : State) (t : Trap) (h : s.me.drained = true) : s.pointTrap t = s.scalarTrap t := by
  obtain ⟨hq, -⟩ := (Context.drained_iff _).1 h
  have hk : s.me.unpark.viq = s.me.viq ∧ s.me.unpark.holds = s.me.holds := by
    unfold Context.unpark; split <;> exact ⟨rfl, rfl⟩
  rw [State.pointTrap, if_pos (Context.settled_of_drained _ h), s.scalarTrap_drained t h]
  dsimp only
  rw [s.takeTrap_me, hk.1, hk.2, hq, State.setMe, s.takeTrap_eq, State.setCtx_cur, State.setCtx_setCtx]
  simp [hk.1, hk.2, hq]

/-! ### An access by its number -/

/-- The scalar side past a CSR instruction that takes the value read before to `rd`. -/
def Scalar.csrTakes (sc : Scalar) (rd : Option XReg) (old : Word64) : Scalar :=
  match rd with
  | some d => (sc.wx d old).retire
  | none => sc.retire

/-- What only the supervisor may touch does not bar the supervisor. -/
theorem not_barred {a b : Bool} (h : a = true → b = true) : (a && !b) = false := by
  cases a with
  | false => rfl
  | true => rw [h rfl]; rfl

section
variable {s : State} {n : BitVec 12} {rd : Option XReg} {wr : Option (Word64 → Word64)}

theorem State.csr_unassigned (h : csrOf n = none) : s.csr n rd wr = .next (s.pointTrap ⟨.illegal, 0, s.mySc.pc⟩) := by
  simp only [State.csr, h]

variable {r : Csr} (hn : csrOf n = some r)
include hn

theorem State.csr_of_user (hsup : r.supOnly = true) (hu : s.mySc.sup = false) :
    s.csr n rd wr = .next (s.pointTrap ⟨.priv, 0, s.mySc.pc⟩) := by
  simp only [State.csr, hn, hsup, hu, Bool.not_false, Bool.and_self, if_true]

theorem State.csr_of_ro (hsup : r.supOnly = false) (hw : wr.isSome = true) (hro : r.ro = true) :
    s.csr n rd wr = .next (s.pointTrap ⟨.illegal, 0, s.mySc.pc⟩) := by
  simp only [State.csr, hn, hsup, hw, hro, Bool.false_and, Bool.and_self, if_true, Bool.false_eq_true, if_false]

variable (hp : r.supOnly = true → s.mySc.sup = true)
include hp

/-- An access that its level allows and that need not wait reads the register. -/
theorem State.csr_reads (hr : s.me.csrReady r rd.isSome false = true) :
    s.csr n rd none = .next (s.setMySc (s.mySc.csrTakes rd (s.csrRead r))) := by
  simp only [State.csr, hn, not_barred hp, hr, Option.isSome_none, Bool.false_and, Bool.not_true, Bool.false_eq_true, if_false]
  rfl

variable {f : Word64 → Word64} (hro : r.ro = false) (hr : s.me.csrReady r rd.isSome true = true)
include hro hr

/-- It writes the register, -/
theorem State.csr_writes {u : State} (hw : s.csrWrite r (f (s.csrRead r)) = some u) :
    s.csr n rd (some f) = .next (u.setMySc (u.mySc.csrTakes rd (s.csrRead r))) := by
  simp only [State.csr, hn, not_barred hp, hro, hr, hw, Option.isSome_some, Bool.and_false, Bool.not_true, Bool.false_eq_true, if_false]
  rfl

/-- or traps on a forbidden value. -/
theorem State.csr_forbidden (hw : s.csrWrite r (f (s.csrRead r)) = none) :
    s.csr n rd (some f) = .next (s.scalarTrap ⟨.illegal, 0, s.mySc.pc⟩) := by
  simp only [State.csr, hn, not_barred hp, hro, hr, hw, Option.isSome_some, Bool.and_false, Bool.not_true, Bool.false_eq_true, if_false]

end

theorem Csr.readWaits_iff (r : Csr) : r.readWaits = true ↔ r ∈ [Csr.fflags, .vstart, .mgrant, .mstate] := by
  cases r <;> simp [Csr.readWaits]
theorem Csr.writeHeld_iff (r : Csr) : r.writeHeld = true ↔ r ∈ [Csr.satp, .sstatus, .stvec, .lqb, .pspb, .ulien] := by
  cases r <;> simp [Csr.writeHeld]

end Sys2Proof.Machine

namespace Sys2Proof.Spec
open Sys2Proof.Machine

/-- An access that is open need not wait (R46, R48, R84). -/
theorem csrReady_of_open {s : State} {r : Csr} {rd wr : Bool} (h : CsrOpen s r rd wr) : s.me.csrReady r rd wr = true := by
  obtain ⟨-, hread, hflags, hheld⟩ := h
  rw [← r.readWaits_iff] at hread
  rw [← r.writeHeld_iff] at hheld
  have hd : ((rd && r.readWaits) || (wr && r == .fflags)) = true → s.me.drained = true := by
    simp only [Bool.or_eq_true, Bool.and_eq_true, beq_iff_eq]
    rintro (⟨h1, h2⟩ | ⟨h1, h2⟩)
    · exact hread h1 h2
    · exact hflags h1 h2
  have hs : (wr && r.writeHeld) = true → s.me.settled = true := by
    simp only [Bool.and_eq_true]
    exact fun ⟨h1, h2⟩ => hheld h1 h2
  unfold Context.csrReady
  cases h1 : ((rd && r.readWaits) || (wr && r == .fflags)) <;> cases h2 : (wr && r.writeHeld) <;> simp_all

/-- The scalar side that a read of a CSR leaves is one with no new flag. -/
theorem result_of_csr_read {i : Instr} {s : State} {d : XReg} {n : BitVec 12} {r : Csr} (he : exec i s = s.csr n (some d) none)
    (hn : csrOf n = some r) (ho : CsrOpen s r true false) : Result i s d (fun v => v = s.csrRead r) 0 := by
  have hp := ho.1
  refine ⟨s.setMySc (s.mySc.wx d (s.csrRead r)).retire,
    he.trans (State.csr_reads hn hp (csrReady_of_open ho)), s.csrRead r, rfl, ?_, ?_⟩
  · rw [Scalar.setFlags, show ∀ f : BitVec 8, f ||| 0 = f from fun f => BitVec.or_zero]
  · exact (congrArg (Scalar.rx · d) (s.setSc_sc s.cur _)).trans ((Scalar.rx_retire _ d).trans (Scalar.rx_wx_same _ d _))

theorem csrReadsGiveTheRegister : CsrReadsGiveTheRegister := fun d n _ s hn ho =>
  result_of_csr_read (exec_csrr d n s) hn ho

theorem trapsWith_of_pointTrap {i : Instr} {s : State} (c : Cause) (a : Word64) (hd : s.me.drained = true)
    (he : exec i s = .next (s.pointTrap ⟨c, 0, a⟩)) : TrapsWith i s c.code a :=
  trapsWith_of_scalarTrap c a hd (he.trans (congrArg _ (s.pointTrap_drained _ hd)))

theorem csrFaults : CsrFaults := by
  refine fun n s hd => ⟨fun hn => ⟨fun d => ?_, fun a => ?_⟩, fun r hn hsup hu => ⟨fun d => ?_, fun a => ?_⟩, fun r hn hsup hro a => ?_⟩
  · exact trapsWith_of_pointTrap .illegal _ hd ((exec_csrr d n s).trans (State.csr_unassigned hn))
  · exact trapsWith_of_pointTrap .illegal _ hd ((exec_csrw a n s).trans (State.csr_unassigned hn))
  · exact trapsWith_of_pointTrap .priv _ hd ((exec_csrr d n s).trans (State.csr_of_user hn hsup hu))
  · exact trapsWith_of_pointTrap .priv _ hd ((exec_csrw a n s).trans (State.csr_of_user hn hsup hu))
  · exact trapsWith_of_pointTrap .illegal _ hd ((exec_csrw a n s).trans (State.csr_of_ro hn hsup rfl hro))

end Sys2Proof.Spec

namespace Sys2Proof.Proofs
open Sys2Proof.Machine Sys2Proof.Spec

/-- Settles O11: what CSRR gives, and the accesses that the number of a CSR refuses. -/
theorem csrReadsAndFaults : Obligations.CsrReadsAndFaults := ⟨csrReadsGiveTheRegister, csrFaults⟩

end Sys2Proof.Proofs

/-! PROOFS. CSRs, second part: what each write of a CSR leaves (R82 to R84). -/
namespace Sys2Proof.Machine

/-! ### Fields of a word as numbers -/

/-- A word with its low `k` bits cleared. -/
theorem and_not_low (v : Word64) (k : Nat) :
    v &&& ~~~(BitVec.ofNat 64 (2 ^ k - 1)) = BitVec.ofNat 64 (v.toNat / 2 ^ k * 2 ^ k) := by
  apply BitVec.eq_of_getLsbD_eq
  intro i hi
  simp only [BitVec.getLsbD_and, BitVec.getLsbD_not, BitVec.getLsbD_ofNat, Nat.testBit_two_pow_sub_one, Nat.testBit_mul_two_pow,
    Nat.testBit_div_two_pow, hi, decide_true, Bool.true_and]
  by_cases h : i < k
  · simp [h, Nat.not_le.2 h]
  · simp [h, Nat.not_lt.1 h, BitVec.getLsbD]

/-- A field of `k` bits, as a word reads it. -/
theorem setWidth_field (v : Word64) (k : Nat) : (v.setWidth k).setWidth 64 = BitVec.ofNat 64 (v.toNat % 2 ^ k) :=
  BitVec.eq_of_toNat_eq (by simp)
theorem setWidth_field_of_lt {v : Word64} {k : Nat} (h : v.toNat < 2 ^ k) : (v.setWidth k).setWidth 64 = v := by
  rw [setWidth_field, Nat.mod_eq_of_lt h, BitVec.ofNat_toNat, BitVec.setWidth_eq]
theorem ofNat_field_of_lt {k x : Nat} (h : x < 2 ^ k) : (BitVec.ofNat k x).setWidth 64 = BitVec.ofNat 64 x := by
  apply BitVec.eq_of_toNat_eq
  rw [BitVec.toNat_setWidth, BitVec.toNat_ofNat, BitVec.toNat_ofNat, Nat.mod_eq_of_lt h]
/-- Bits of a field that a one clears. -/
theorem cleared_field (x : BitVec 16) (v : Word64) : (x &&& ~~~(v.setWidth 16)).setWidth 64 =
    x.setWidth 64 &&& ~~~(BitVec.ofNat 64 (v.toNat % 2 ^ 16)) := by
  rw [← setWidth_field]
  apply BitVec.eq_of_getLsbD_eq
  intro i hi
  by_cases h : i < 16
  · simp [h, hi]
  · simp [x.getLsbD_of_ge i (Nat.not_lt.1 h)]
/-- ULIEN with its read-only bit beside it. -/
theorem ulien_field (v : Word64) (a b : Bool) : BitVec.ofNat 64 ((v.getLsbD 0).toNat + 2 * b.toNat) =
    BitVec.ofNat 64 (v.toNat % 2 + (BitVec.ofNat 64 (a.toNat + 2 * b.toNat)).toNat / 2 * 2) := by
  have h0 : (v.getLsbD 0).toNat = v.toNat % 2 := by
    rw [BitVec.getLsbD, Nat.testBit_zero]
    obtain h | h := Nat.mod_two_eq_zero_or_one v.toNat <;> rw [h] <;> rfl
  have h1 : (BitVec.ofNat 64 (a.toNat + 2 * b.toNat)).toNat / 2 = b.toNat := by
    cases a <;> cases b <;> rfl
  rw [h0, h1, Nat.mul_comm 2]

/-! ### The scalar side past a CSR instruction -/

theorem State.setMySc_mySc (s : State) (z : Scalar) : (s.setMySc z).mySc = z := s.setSc_sc s.cur z

theorem Scalar.csrTakes_eq (sc : Scalar) (rd : Option XReg) (old : Word64) : sc.csrTakes rd old =
    { sc with x := (sc.csrTakes rd old).x, pc := sc.pc + 4, instret := sc.instret + 1 } := by
  cases rd with
  | none => rfl
  | some d => unfold Scalar.csrTakes; dsimp only; rw [Scalar.wx_eq]; rfl
theorem Scalar.csrTakes_rx_ne (sc : Scalar) {rd : Option XReg} (old : Word64) {k : XReg} (h : rd ≠ some k) :
    (sc.csrTakes rd old).rx k = sc.rx k := by
  cases rd with
  | none => rfl
  | some d => exact sc.rx_wx_ne old fun e => h (congrArg some e.symm)
theorem Scalar.csrTakes_rx_same (sc : Scalar) (d : XReg) (old : Word64) :
    (sc.csrTakes (some d) old).rx d = if d = 0 then 0 else old := sc.rx_wx_same d old

/-- A write to PSPB changes that of its core, and one to LQB that of its die with what says that it was written. -/
theorem State.writePspb_core (s : State) (v : Word64) : let t := s.writePspb (CtxIx.core s.cur) v
    t.core (CtxIx.core s.cur) = { s.core (CtxIx.core s.cur) with pspb := (t.core (CtxIx.core s.cur)).pspb } := by
  unfold State.writePspb
  dsimp only
  rw [State.setCore_same]
theorem State.setLqb_die (s : State) (v : Word64) : let t := s.setLqb (CtxIx.die s.cur) v
    t.die (CtxIx.die s.cur) = { s.die (CtxIx.die s.cur) with
      lqb := (t.die (CtxIx.die s.cur)).lqb, lqStopped := false, lqWritten := true } := by
  unfold State.setLqb
  dsimp only
  rw [State.setDie_same]

/-- A CSR other than INSTRET reads as before where the scalar side changes in its registers, the pc and INSTRET. -/
theorem State.csrRead_setMySc_takes (s : State) (rd : Option XReg) (old : Word64) {q : Csr} (hq : q ≠ .instret) :
    (s.setMySc (s.mySc.csrTakes rd old)).csrRead q = s.csrRead q := by
  have ht : (s.setMySc (s.mySc.csrTakes rd old)).mySc = s.mySc.csrTakes rd old := s.setSc_sc s.cur _
  unfold State.csrRead
  rw [ht, Scalar.csrTakes_eq]
  cases q
  case instret => exact absurd rfl hq
  all_goals rfl

end Sys2Proof.Machine

namespace Sys2Proof.Spec
open Sys2Proof.Machine

/-! ### What a write leaves -/

/-- The CSR `r` written, before the instruction retires: it reads `w`, and nothing else has changed. -/
structure CsrWritten (s u : State) (r : Csr) (w : Word64) : Prop where
  reads : u.csrRead r = w
  frame : CsrFrame s u r
  cur : u.cur = s.cur
  x : u.mySc.x = s.mySc.x
  pc : u.mySc.pc = s.mySc.pc
  instret : u.mySc.instret = s.mySc.instret

/-- What a scalar side may have other than before, where a CSR of a context is written. -/
def CsrFields (a z : Scalar) : Prop := z = { a with
  x := z.x, pc := z.pc, instret := z.instret, vt := z.vt, vstart := z.vstart, theta := z.theta, wlim := z.wlim
  fflags := z.fflags, frm := z.frm, fiboff := z.fiboff, sstr := z.sstr, pwaddr := z.pwaddr, ulivec := z.ulivec
  ulien := z.ulien, ulipend := z.ulipend, asb := z.asb, asl := z.asl, asp := z.asp, rvec := z.rvec, stvec := z.stvec
  sepc := z.sepc, scause := z.scause, saddr := z.saddr, selem := z.selem, sstatus := z.sstatus, satp := z.satp, vtf := z.vtf }

/-- A CSR other than PSPB and LQB stands on the scalar side of the context. -/
theorem csrWrite_side {s u : State} {r : Csr} {v : Word64} (hp : r ≠ .pspb) (hl : r ≠ .lqb) (hw : s.csrWrite r v = some u) :
    ∃ z, u = s.setMySc z ∧ CsrFields s.mySc z ∧ z.x = s.mySc.x ∧ z.pc = s.mySc.pc ∧ z.instret = s.mySc.instret := by
  unfold State.csrWrite at hw
  cases r
  case pspb => exact absurd rfl hp
  case lqb => exact absurd rfl hl
  case vl | vcap | lratio | cycle | instret | tid | tcore | tquad | tdie | mgrant | mstate | poolb0 | poolb1 | poolb2 | pstat =>
    cases hw
  case vt | frm =>
    obtain ⟨-, hu⟩ := Option.ite_none_right_eq_some.1 hw
    exact ⟨_, (Option.some.inj hu).symm, rfl, rfl, rfl, rfl⟩
  all_goals exact ⟨_, (Option.some.inj hw).symm, rfl, rfl, rfl, rfl⟩

/-- A write leaves every other CSR as it reads. -/
theorem csrWrite_others {s u : State} {r q : Csr} {v : Word64} (hq : q ≠ r) (hw : s.csrWrite r v = some u) :
    u.csrRead q = s.csrRead q := by
  unfold State.csrWrite at hw
  cases r
  case vl | vcap | lratio | cycle | instret | tid | tcore | tquad | tdie | mgrant | mstate | poolb0 | poolb1 | poolb2 | pstat =>
    cases hw
  case pspb =>
    have hk : u.myCore = { s.myCore with pspb := s.myCore.pspbOf v } := by
      rw [← Option.some.inj hw]; exact State.setCore_same _ _ _
    have hsc : u.mySc = s.mySc := by rw [← Option.some.inj hw]; rfl
    have hd : u.die (CtxIx.die u.cur) = s.die (CtxIx.die s.cur) := by rw [← Option.some.inj hw]; rfl
    unfold State.csrRead
    rw [hk, hsc, hd]
    cases q
    case pspb => exact absurd rfl hq
    all_goals rfl
  case lqb =>
    have hk : u.myCore = s.myCore := by rw [← Option.some.inj hw]; rfl
    have hsc : u.mySc = s.mySc := by rw [← Option.some.inj hw]; rfl
    unfold State.csrRead
    rw [hk, hsc]
    cases q
    case lqb => exact absurd rfl hq
    all_goals rfl
  case vt | frm =>
    obtain ⟨-, hu⟩ := Option.ite_none_right_eq_some.1 hw
    rw [← Option.some.inj hu]
    unfold State.csrRead
    rw [s.setMySc_mySc]
    cases q <;> first | rfl | exact absurd rfl hq
  case vtf n =>
    rw [← Option.some.inj hw]
    unfold State.csrRead
    rw [s.setMySc_mySc]
    cases q
    case vtf m => exact Vector.getElem_set_ne n.isLt m.isLt fun h => hq (congrArg Csr.vtf (Fin.ext h.symm))
    all_goals rfl
  all_goals
    rw [← Option.some.inj hw]
    unfold State.csrRead
    rw [s.setMySc_mySc]
    cases q <;> first | rfl | exact absurd rfl hq

/-- A write leaves the rest of the machine, and of the context. -/
theorem csrWrite_written {s u : State} {r : Csr} {v w : Word64} (hw : s.csrWrite r v = some u) (hr : u.csrRead r = w) :
    CsrWritten s u r w := by
  have hq : ∀ q, q ≠ r → q ≠ .instret → u.csrRead q = s.csrRead q := fun q h _ => csrWrite_others h hw
  by_cases hp : r = .pspb
  · subst hp
    obtain rfl := Option.some.inj hw
    refine ⟨hr, ⟨hq, rfl, fun _ _ => rfl, fun k => ?_, fun d => ?_, rfl, rfl⟩, rfl, rfl, rfl, rfl⟩
    · split
      · next h => rw [h.2]; exact s.writePspb_core v
      · next h => exact s.setCore_ne _ _ _ fun e => h ⟨rfl, e⟩
    · rw [if_neg fun h => Csr.noConfusion h.1]; rfl
  · by_cases hl : r = .lqb
    · subst hl
      obtain rfl := Option.some.inj hw
      refine ⟨hr, ⟨hq, rfl, fun _ _ => rfl, fun k => ?_, fun d => ?_, rfl, rfl⟩, rfl, rfl, rfl, rfl⟩
      · rw [if_neg fun h => Csr.noConfusion h.1]; rfl
      · split
        · next h => rw [h.2]; exact s.setLqb_die v
        · next h => exact s.setDie_ne _ _ _ fun e => h ⟨rfl, e⟩
    · obtain ⟨z, rfl, hz, hx, hpc, hi⟩ := csrWrite_side hp hl hw
      have hsc : (s.setMySc z).mySc = z := s.setMySc_mySc z
      refine ⟨hr, ⟨hq, rfl, fun c hc => s.setSc_ctx_ne _ _ _ hc, fun k => ?_, fun d => ?_, ?_, ?_⟩, rfl, ?_, ?_, ?_⟩
      · rw [if_neg fun h => hp h.1]; rfl
      · rw [if_neg fun h => hl h.1]; rfl
      · rw [hsc]; exact s.setSc_ctx s.cur z
      · rw [hsc]; exact hz
      · rw [hsc]; exact hx
      · rw [hsc]; exact hpc
      · rw [hsc]; exact hi

/-- Past the instruction the write stands. -/
theorem CsrWritten.takes {s u : State} {r : Csr} {w : Word64} (h : CsrWritten s u r w) (hr : r ≠ .instret) (rd : Option XReg)
    (old : Word64) : let t := u.setMySc (u.mySc.csrTakes rd old)
    t.csrRead r = w ∧ Retired s t ∧ CsrFrame s t r ∧ (∀ k, rd ≠ some k → t.mySc.rx k = s.mySc.rx k) ∧
      ∀ k, rd = some k → t.mySc.rx k = if k = 0 then 0 else old := by
  intro t
  obtain ⟨hq, ht, hc, hk, hd, hme, hsc⟩ := h.frame
  have hz : t.mySc = u.mySc.csrTakes rd old := u.setSc_sc u.cur _
  have hf := u.mySc.csrTakes_eq rd old
  refine ⟨(u.csrRead_setMySc_takes rd old hr).trans h.reads, ⟨?_, ?_⟩, ⟨fun q h1 h2 => ?_, ?_, fun c hne => ?_, hk, hd, ?_, ?_⟩,
    fun k hk => ?_, fun k hk => ?_⟩
  · rw [hz, hf, h.pc]
  · rw [hz, hf, h.instret]
  · exact (u.csrRead_setMySc_takes rd old h2).trans (hq q h1 h2)
  · exact congrArg (fun a : State => { a with ctxs := t.ctxs }) ht
  · exact (u.setSc_ctx_ne _ _ _ (by rw [h.cur]; exact hne)).trans (hc c hne)
  · have : t.me = u.me.setSc t.mySc := by rw [hz]; exact u.setSc_ctx u.cur _
    rw [this, hme]; rfl
  · rw [hz, hf, hsc]
  · rw [hz, u.mySc.csrTakes_rx_ne old hk]; exact Scalar.rx_congr h.x k
  · rw [hz, hk]; exact u.mySc.csrTakes_rx_same k old


theorem read_side {s : State} {r : Csr} {w : Word64} {z : Scalar} (get : Scalar → Word64)
    (hget : ∀ u : State, u.csrRead r = get u.mySc) (hv : get z = w) : (s.setMySc z).csrRead r = w := by
  rw [hget, ← hv]; exact congrArg get (s.setSc_sc s.cur z)

/-- A write leaves its CSR with the value of the tables, or is refused. -/
theorem csrWrite_reads (s : State) {r : Csr} (hro : r.ro = false) (v : Word64) :
    let after := CsrAfter ((s.myCore.pool1 - s.myCore.pool0) * 4096) r (s.csrRead r) v
    (∀ w, after = some w → ∃ u, s.csrWrite r v = some u ∧ u.csrRead r = w) ∧ (after = none → s.csrWrite r v = none) := by
  have hsome {u : State} {w : Word64} (hw : s.csrWrite r v = some u) (hr : u.csrRead r = w) :
      (∀ x, some w = some x → ∃ u, s.csrWrite r v = some u ∧ u.csrRead r = x) ∧ (some w = none → s.csrWrite r v = none) :=
    ⟨fun x hx => ⟨u, hw, hr.trans (Option.some.inj hx)⟩, nofun⟩
  cases r
  case vl | vcap | lratio | cycle | instret | tid | tcore | tquad | tdie | mgrant | mstate | poolb0 | poolb1 | poolb2 | pstat =>
    cases hro
  case vstart => exact hsome rfl (read_side (·.vstart.setWidth 64) (fun _ => rfl) (setWidth_field v 12))
  case selem => exact hsome rfl (read_side (·.selem.setWidth 64) (fun _ => rfl) (setWidth_field v 12))
  case fflags => exact hsome rfl (read_side (·.fflags.setWidth 64) (fun _ => rfl) (setWidth_field v 8))
  case scause => exact hsome rfl (read_side (·.scause.setWidth 64) (fun _ => rfl) (setWidth_field v 8))
  case fiboff => exact hsome rfl (read_side (·.fiboff.setWidth 64) (fun _ => rfl) (setWidth_field v 32))
  case sstatus => exact hsome rfl (read_side (·.sstatus.setWidth 64) (fun _ => rfl) (setWidth_field v 3))
  case sstr => exact hsome rfl (read_side (·.sstr) (fun _ => rfl) rfl)
  case sepc => exact hsome rfl (read_side (·.sepc) (fun _ => rfl) rfl)
  case saddr => exact hsome rfl (read_side (·.saddr) (fun _ => rfl) rfl)
  case satp => exact hsome rfl (read_side (·.satp) (fun _ => rfl) rfl)
  case pwaddr => exact hsome rfl (read_side (·.pwaddr) (fun _ => rfl) (and_not_low v 3))
  case ulivec => exact hsome rfl (read_side (·.ulivec) (fun _ => rfl) (and_not_low v 2))
  case rvec => exact hsome rfl (read_side (·.rvec) (fun _ => rfl) (and_not_low v 2))
  case stvec => exact hsome rfl (read_side (·.stvec) (fun _ => rfl) (and_not_low v 2))
  case asb => exact hsome rfl (read_side (·.asb) (fun _ => rfl) (and_not_low v 4))
  case asl => exact hsome rfl (read_side (·.asl) (fun _ => rfl) (and_not_low v 4))
  case asp => exact hsome rfl (read_side (·.asp) (fun _ => rfl) (and_not_low v 4))
  case theta =>
    have h : min v.toNat 0x8000 < 2 ^ 16 := by omega
    exact hsome rfl (read_side (·.theta.setWidth 64) (fun _ => rfl) (ofNat_field_of_lt h))
  case wlim =>
    have h : max 1 (min v.toNat 4096) < 2 ^ 13 := by omega
    exact hsome rfl (read_side (·.wlim.setWidth 64) (fun _ => rfl) (ofNat_field_of_lt h))
  case ulien =>
    exact hsome rfl (read_side (fun z => BitVec.ofNat 64 (z.ulien.toNat + 2 * z.ulinh.toNat)) (fun _ => rfl) (ulien_field v _ _))
  case ulipend => exact hsome rfl (read_side (·.ulipend.setWidth 64) (fun _ => rfl) (cleared_field _ v))
  case vtf n => exact hsome rfl (read_side (·.vtf[n.val]) (fun _ => rfl) (Vector.getElem_set_self _))
  case pspb => exact hsome rfl (congrArg (fun k : Core => BitVec.ofNat 64 k.pspb) (s.setCore_same _ _))
  case lqb => exact hsome rfl (congrArg (fun d : Die => d.lqb) (s.setDie_same _ _))
  case frm =>
    by_cases h : v.toNat ≤ 4
    · simp only [CsrAfter, if_pos h]
      exact hsome (if_pos h) (read_side (·.frm.setWidth 64) (fun _ => rfl) (setWidth_field_of_lt (k := 3) (by omega)))
    · simp only [CsrAfter, if_neg h]
      exact ⟨nofun, fun _ => if_neg h⟩
  case vt =>
    have hok : vtOk v = true ↔ v.toNat < 2048 ∧ v.toNat % 8 < 6 ∧ (v.toNat / 32 < 48 ∨ v.toNat / 32 = 63) := by
      simp only [vtOk, Bool.and_eq_true, Bool.or_eq_true, decide_eq_true_eq, beq_iff_eq, and_assoc]
      omega
    by_cases h : vtOk v = true
    · simp only [CsrAfter, if_pos (hok.1 h)]
      exact hsome (if_pos h) (read_side (·.vt.setWidth 64) (fun _ => rfl) (setWidth_field_of_lt (k := 11) (hok.1 h).1))
    · simp only [CsrAfter, if_neg fun hv => h (hok.2 hv)]
      exact ⟨nofun, fun _ => if_neg h⟩

/-- A CSR instruction that writes: what it leaves, or its trap. -/
theorem csrWrites_of_csr {i : Instr} {s : State} {n : BitVec 12} {r : Csr} {rd : Option XReg} {f : Word64 → Word64}
    (he : exec i s = s.csr n rd (some f)) (hn : csrOf n = some r) (hro : r.ro = false) :
    CsrWrites i s r rd (f (s.csrRead r)) := by
  intro ho
  obtain ⟨hok, hbad⟩ := csrWrite_reads s hro (f (s.csrRead r))
  have hi : r ≠ .instret := fun h => by subst h; cases hro
  cases hw : CsrAfter ((s.myCore.pool1 - s.myCore.pool0) * 4096) r (s.csrRead r) (f (s.csrRead r)) with
  | some w =>
    obtain ⟨u, hu, hr⟩ := hok w hw
    exact ⟨_, he.trans (State.csr_writes hn ho.1 hro (csrReady_of_open ho) hu), (csrWrite_written hu hr).takes hi rd _⟩
  | none =>
    exact fun hd => trapsWith_of_scalarTrap .illegal _ hd
      (he.trans (State.csr_forbidden hn ho.1 hro (csrReady_of_open ho) (hbad hw)))

end Sys2Proof.Spec

namespace Sys2Proof.Proofs
open Sys2Proof.Machine Sys2Proof.Spec

/-- Settles O10: each of the three instructions is one access, which writes what the tables say or traps. -/
theorem csrWritesKeepTheFields : Obligations.CsrWritesKeepTheFields := by
  refine fun n r s hn hro => ⟨fun a => ?_, fun o ho => ?_, fun o ho => ?_, fun o ho hop => ⟨?_, ?_⟩⟩
  · exact csrWrites_of_csr (f := fun _ => s.mySc.rx a) (exec_csrw a n s) hn hro
  · exact csrWrites_of_csr (f := fun v => v ||| s.mySc.rx o.a) (exec_csrs ho n s) hn hro
  · exact csrWrites_of_csr (f := fun v => v &&& ~~~(s.mySc.rx o.a)) (exec_csrc ho n s) hn hro
  · exact result_of_csr_read (exec_csrs_x0 ho n s) hn hop
  · exact result_of_csr_read (exec_csrc_x0 ho n s) hn hop

end Sys2Proof.Proofs

/-! PROOFS. O23: what aborts a block (R77, R118, R190, R194, R195, R213, R222). -/
namespace Sys2Proof.Machine

/-! ### The checks of a word -/

section
variable {s : State} {b : Block}

theorem Block.fits_error {w : Nat} (h : b.sc.ew < w) : b.fits w = .error (b.bad .illegal) := if_pos h
theorem Block.fits_ok {w : Nat} (h : w ≤ b.sc.ew) : b.fits w = .ok () := if_neg (Nat.not_lt.2 h)
theorem Block.illIf_true : b.illIf true = .error (b.bad .illegal) := rfl
theorem Block.illIf_false : b.illIf false = .ok () := rfl
theorem Block.weighted_error (h : b.sc.ew < 16) : b.weighted = .error (b.bad .weightEw) := if_pos h
theorem Block.push_error (x : Nat) (h : 16 ≤ b.pushes.length) : b.push x = .error (b.bad .blockLimit) := if_pos h

/-- What comes after a check that fails is not reached. -/
theorem error_bind {α β : Type} {x : Except Trap α} {t : Trap} (f : α → Except Trap β) (h : x = .error t) :
    (x >>= f) = .error t := by rw [h]; rfl
/-- What comes after a check that passes. -/
theorem ok_bind {α β : Type} {x : Except Trap α} {a : α} (f : α → Except Trap β) (h : x = .ok a) : (x >>= f) = f a := by
  rw [h]; rfl

/-! ### The words that a check ends -/

/-- An integer word of another type, or of a width above EW. -/
theorem wordInt_error (o : VE2) (f : Nat → Nat → Nat → Nat × Flags) (h : o.t.isInt = false ∨ b.sc.ew < o.t.width) :
    wordInt o f s b = .error (b.bad .illegal) := by
  unfold wordInt
  cases ht : o.t.isInt with
  | false => exact error_bind _ Block.illIf_true
  | true =>
    have hw := h.resolve_left (by rw [ht]; exact Bool.noConfusion)
    exact (ok_bind _ Block.illIf_false).trans (error_bind _ (Block.fits_error hw))

/-- A floating-point word of another type, or of a width above EW. -/
theorem Block.fp_error (d : VReg) (m : MSel) {t : EType} (f : Fmt → Nat → Nat × Flags) (h : t.isFp = false ∨ b.sc.ew < t.width) :
    b.fp s d m t f = .error (b.bad .illegal) := by
  unfold Block.fp
  cases ht : t.isFp with
  | false => exact error_bind _ Block.illIf_true
  | true =>
    have hw := h.resolve_left (by rw [ht]; exact Bool.noConfusion)
    exact (ok_bind _ Block.illIf_false).trans (error_bind _ (Block.fits_error hw))

theorem wordWjoin_type {o : WJoinArgs} (h : o.t.isFp = false) : wordWjoin o s b = .error (b.bad .illegal) :=
  error_bind _ (by rw [h]; rfl)
theorem wordWjoin_ew {o : WJoinArgs} (h : o.t.isFp = true) (hew : b.sc.ew < 16) : wordWjoin o s b = .error (b.bad .weightEw) :=
  (ok_bind _ (by rw [h]; rfl)).trans (error_bind _ (Block.weighted_error hew))

theorem wordWsta_type {o : WstaArgs} (h : o.t.isFp = false) : wordWsta o s b = .error (b.bad .illegal) :=
  error_bind _ (by rw [h]; rfl)
theorem wordWsta_regs {o : WstaArgs} (h : o.t.isFp = true) (ha : b.addrBad o.a.r = true) :
    wordWsta o s b = .error (b.bad .reservedReg) :=
  (ok_bind _ (by rw [h]; rfl)).trans (by rw [ha]; rfl)
theorem wordWsta_ew {o : WstaArgs} (h : o.t.isFp = true) (ha : b.addrBad o.a.r = false) (hew : b.sc.ew < 16) :
    wordWsta o s b = .error (b.bad .weightEw) :=
  (ok_bind _ (by rw [h]; rfl)).trans (by rw [ha]; exact error_bind _ (Block.weighted_error hew))

/-! ### A memory fault of an element -/

/-- Without a region that prunes no arm is pruned (R222). -/
theorem pruneArms_none (i : Nat) : ∀ {arms : List ArmEntry},
    (∀ ws runs prns pf cur site, ArmEntry.region ws runs prns pf cur site ∈ arms → pf = false) → pruneArms i arms = none
  | [], _ => rfl
  | .loop site live trips :: r, h => by
    rw [pruneArms, pruneArms_none i fun _ _ _ _ _ _ hr => h _ _ _ _ _ _ (List.mem_cons_of_mem _ hr)]; rfl
  | .region ws runs prns pf cur site :: r, h => by
    have hpf := h ws runs prns pf cur site (List.mem_cons_self ..)
    subst hpf
    rfl

/-- The first element of a load that faults ends it, where no region prunes. -/
theorem Block.eachElem_load_error {a : VReg} {off : BitVec 13} {w i : Nat} {k : Kind} {t : Trap}
    (hp : ∀ ws runs prns pf cur site, ArmEntry.region ws runs prns pf cur site ∈ b.arms → pf = false)
    (hi : b.elemLoc b s a off w k i = .error t) : ∀ {is : List Nat}, i ∈ is → is.Pairwise (· < ·) →
      (∀ j ∈ is, j < i → ∃ l, b.elemLoc b s a off w k j = .ok l) →
      b.eachElem s a off w k false (fun c _ _ => c) is b = .error t
  | j :: is, hmem, hord, hbefore => by
    obtain ⟨hlt, hord⟩ := List.pairwise_cons.1 hord
    unfold Block.eachElem
    rcases List.mem_cons.1 hmem with rfl | hmem
    · simp only [hi]
      exact error_bind _ (by rw [Block.prune, pruneArms_none i hp])
    · obtain ⟨l, hl⟩ := hbefore j (List.mem_cons_self ..) (hlt i hmem)
      simp only [hl]
      exact Block.eachElem_load_error hp hi hmem hord fun k hk => hbefore k (List.mem_cons_of_mem _ hk)

theorem Block.actives_ordered (m : MSel) : (b.actives s m).Pairwise (· < ·) := List.pairwise_lt_range.filter _

/-- LDE ends with the fault of its first element that has one (R210, R222). -/
theorem wordLde_fault {o : LdeArgs} {i : Nat} {t : Trap} (hw8 : 8 ≤ o.t.width) (hw : o.t.width ≤ b.sc.ew) (ha : b.addrBad o.a.r = false)
    (hmem : i ∈ b.actives s o.m) (hi : b.elemLoc b s o.a.r o.off o.t.width .read i = .error t)
    (hbefore : ∀ j ∈ b.actives s o.m, j < i → ∃ l, b.elemLoc b s o.a.r o.off o.t.width .read j = .ok l)
    (hp : ∀ ws runs prns pf cur site, ArmEntry.region ws runs prns pf cur site ∈ b.arms → pf = false) :
    wordLde o s b = .error t := by
  have h8 : b.illIf (decide (o.t.width < 8)) = .ok () := by rw [decide_eq_false (Nat.not_lt.2 hw8)]; rfl
  refine (ok_bind _ h8).trans ?_
  rw [ha]
  exact (ok_bind _ (Block.fits_ok hw)).trans (error_bind _ (Block.eachElem_load_error hp hi hmem (Block.actives_ordered o.m) hbefore))

/-! ### The word on the block in flight -/

theorem State.onElems_error {a : VReg} {off : BitVec 13} {w : Nat} {k : Kind} {m : MSel} {f : Word} {t : Trap} (hb : s.me.block = some b)
    (hf : f s b = .error t) : s.onElems a off w k m f = .next (s.blockTrap b t) := by
  have hnone : (s.blockTrap b t).me.block = none := congrArg (·.block) (s.takeTrap_me _ _ _ _)
  unfold State.onElems
  simp only [hb, s.onBlock_error f b t hb hf, hnone, Option.isNone_none, Bool.true_or, if_true]

end

end Sys2Proof.Machine

namespace Sys2Proof.Spec
open Sys2Proof.Machine

section
variable {i : Instr} {s : State} {b : Block} {t : Trap} {f : Word} (hb : s.me.block = some b) (hf : f s b = .error t)
include hb hf

/-- A word that faults aborts its block. -/
theorem aborts_of_word (he : exec i s = s.onBlock f) : Aborts i s b t := aborts_of_blockTrap (he.trans (s.onBlock_error f b t hb hf))
theorem aborts_of_elems {a : VReg} {off : BitVec 13} {w : Nat} {k : Kind} {m : MSel} (he : exec i s = s.onElems a off w k m f) :
    Aborts i s b t := aborts_of_blockTrap (he.trans (State.onElems_error hb hf))

end

end Sys2Proof.Spec

namespace Sys2Proof.Proofs
open Sys2Proof.Machine Sys2Proof.Spec

/-- Settles O23: each word by the check that ends it. -/
theorem blockAborts : Obligations.BlockAborts := by
  intro s b hb
  refine ⟨fun o h => ⟨?_, ?_, ?_⟩, fun o h => ⟨?_, ?_⟩, fun hew => ⟨fun a m w => ?_, fun m d r => ?_, fun o h => ?_, fun a p => ?_, fun o h ha => ?_⟩,
    fun o h => ?_, fun o => ⟨fun h => ?_, fun h ha => ?_⟩, fun h a m => ⟨?_, ?_⟩, fun o i t hw8 hw ha hmem hi hbefore hp => ?_⟩
  · exact aborts_of_word hb (wordInt_error o _ h) rfl
  · exact aborts_of_word hb (wordInt_error o _ h) rfl
  · exact aborts_of_word hb (wordInt_error o _ h) rfl
  · exact aborts_of_word hb (Block.fp_error o.d o.m _ h) rfl
  · exact aborts_of_word hb (Block.fp_error o.d o.m _ h) rfl
  · exact aborts_of_word hb (f := wordWcmp a m w) (error_bind _ (Block.weighted_error hew)) rfl
  · exact aborts_of_word hb (f := wordWcomp m d r) (error_bind _ (Block.weighted_error hew)) rfl
  · exact aborts_of_word hb (wordWjoin_ew h hew) rfl
  · exact aborts_of_word hb (f := wordWbegin a p) (error_bind _ (Block.weighted_error hew)) rfl
  · exact aborts_of_elems hb (wordWsta_ew h ha hew) rfl
  · exact aborts_of_word hb (wordWjoin_type h) rfl
  · exact aborts_of_elems hb (wordWsta_type h) rfl
  · exact aborts_of_elems hb (wordWsta_regs h ha) rfl
  · exact aborts_of_word hb (f := fun s b => (b.push (b.hits s a m).length).map Block.advance) (by rw [Block.push_error _ h]; rfl) rfl
  · exact aborts_of_word hb (f := fun s b => (b.push ((b.hits s a m).headD (2 ^ 64 - 1))).map Block.advance)
      (by rw [Block.push_error _ h]; rfl) rfl
  · exact aborts_of_elems hb (wordLde_fault hw8 hw ha hmem hi hbefore hp) rfl

end Sys2Proof.Proofs

/-! PROOFS. O42, first part: fields of a byte image that is a row of parts (R79). -/
namespace Sys2Proof.Machine

/-- The `n`-byte value at an offset of a byte image (R4). -/
def field (bs : List Byte) (off n : Nat) : Nat := leNat ((bs.drop off).take n)

theorem field_append_left {a : List Byte} (b : List Byte) {off n : Nat} (h : off + n ≤ a.length) :
    field (a ++ b) off n = field a off n := by
  rw [field, List.drop_append_of_le_length (by omega), List.take_append_of_le_length (by rw [List.length_drop]; omega), field]
theorem field_append_right (a b : List Byte) (off n : Nat) : field (a ++ b) (a.length + off) n = field b off n := by
  rw [field, List.drop_append, List.drop_of_length_le (by omega), Nat.add_sub_cancel_left, List.nil_append, field]

/-- A field of one part, found behind the parts before it. -/
theorem field_flatten : ∀ {ps : List (List Byte)} {k : Nat} {p : List Byte} {j n : Nat}, ps[k]? = some p → j + n ≤ p.length →
    field ps.flatten (((ps.map List.length).take k).sum + j) n = field p j n
  | [], _, _, _, _, h, _ => by simp at h
  | q :: ps, 0, p, j, n, h, hn => by
    obtain rfl : q = p := by simpa using h
    simp only [List.take_zero, List.sum_nil, Nat.zero_add, List.flatten_cons]
    exact field_append_left _ hn
  | q :: ps, k + 1, p, j, n, h, hn => by
    have ih := field_flatten (ps := ps) (k := k) (by simpa using h) hn
    simp only [List.map_cons, List.take_succ_cons, List.sum_cons, List.flatten_cons, Nat.add_assoc]
    rw [field_append_right, ih]

theorem flatten_map_length {α : Type} (g : α → List Byte) {w : Nat} (hw : ∀ x, (g x).length = w) (l : List α) :
    (l.flatMap g).length = l.length * w := by
  induction l with
  | nil => simp
  | cons x l ih => rw [List.flatMap_cons, List.length_append, hw, ih, List.length_cons, Nat.succ_mul, Nat.add_comm]

/-- A field inside one of equally wide items. -/
theorem field_flatMap {α : Type} (g : α → List Byte) {w : Nat} (hw : ∀ x, (g x).length = w) {l : List α} {k : Nat} {x : α}
    {j n : Nat} (hk : l[k]? = some x) (hn : j + n ≤ w) : field (l.flatMap g) (w * k + j) n = field (g x) j n := by
  have hlt : k < l.length := (List.getElem?_eq_some_iff.1 hk).1
  have hlen : ((l.map g).map List.length).take k = List.replicate k w := by
    rw [List.map_map, List.eq_replicate_iff]
    refine ⟨by simp; omega, fun y hy => ?_⟩
    obtain ⟨x, -, rfl⟩ := List.mem_map.1 (List.mem_of_mem_take hy)
    exact hw x
  have hp : (l.map g)[k]? = some (g x) := by rw [List.getElem?_map, hk]; rfl
  have h := field_flatten hp (j := j) (n := n) (by rw [hw]; exact hn)
  rwa [hlen, List.sum_replicate, smul_eq_mul, Nat.mul_comm k w, ← List.flatMap_def] at h

/-- A number that fits is read back from its bytes. -/
theorem field_leBytes {n x : Nat} (h : x < 256 ^ n) : field (leBytes n x) 0 n = x := by
  rw [field, List.drop_zero, List.take_of_length_le (by rw [leBytes_length]), leNat_leBytes, Nat.mod_eq_of_lt h]

theorem field_flatMap_leBytes {α : Type} (g : α → Nat) {w : Nat} {l : List α} {k : Nat} {x : α} (hk : l[k]? = some x)
    (hx : g x < 256 ^ w) : field (l.flatMap fun x => leBytes w (g x)) (w * k) w = g x := by
  have h := field_flatMap (fun x => leBytes w (g x)) (fun x => leBytes_length w (g x)) hk (j := 0) (n := w) (by omega)
  rw [Nat.add_zero] at h
  rw [h, field_leBytes hx]

end Sys2Proof.Machine

/-! PROOFS. O42, second part: the parts of the 80 KiB of a context, and what is read back of them (R74, R79). -/
namespace Sys2Proof.Machine

/-! ### The parts of the layout -/

/-- The VSQ values in their 16 places. -/
def Scalar.vsqBytes (sc : Scalar) : List Byte :=
  ((sc.vsq.take 16).flatMap fun x => leBytes 8 x.toNat) ++ List.replicate (8 * (16 - (sc.vsq.take 16).length)) 0
/-- What is kept of the VSQ beside its values. -/
def Scalar.vsqHead (sc : Scalar) : List Byte :=
  leBytes 1 0 ++ leBytes 1 (sc.vsq.take 16).length ++ leBytes 8 sc.vsqPops.toNat ++ leBytes 54 0

/-- The fields of Table 5-4 in order. -/
def Regs.parts (r : Regs) (shadow : BitVec 114688) : List (List Byte) :=
  [r.v.toList.flatMap (fun x => leBytes 1024 x.toNat), r.m.toList.flatMap (fun x => leBytes 512 x.toNat),
    r.w.toList.flatMap (fun x => leBytes 1024 x.toNat), leBytes 14336 shadow.toNat,
    leBytes 8 0 ++ (r.sc.x.toList.drop 1).flatMap fun x => leBytes 8 x.toNat,
    r.sc.shadow.toList.flatMap (fun x => leBytes 8 x.toNat), r.sc.vsqBytes, r.sc.vsqHead,
    (List.range 96).flatMap (fun n => leBytes 8 (r.sc.csrSlot n)), r.feeds.toList.flatMap FeedSlot.bytes, leBytes 8 r.sc.pc.toNat,
    (List.range 12).flatMap (fun n => leBytes 8 (r.sc.supSlot n)), List.replicate 2456 0]

theorem Regs.bytes_eq (r : Regs) (shadow : BitVec 114688) : r.bytes shadow = (r.parts shadow).flatten := by
  have hc (n : Nat) : ({ r.sc with vsq := r.sc.vsq.take 16 } : Scalar).csrSlot n = r.sc.csrSlot n := rfl
  have hs (n : Nat) : ({ r.sc with vsq := r.sc.vsq.take 16 } : Scalar).supSlot n = r.sc.supSlot n := rfl
  unfold Regs.bytes Regs.parts Scalar.vsqBytes Scalar.vsqHead
  simp only [hc, hs, List.flatten_cons, List.flatten_nil, List.append_nil, List.append_assoc]

theorem FeedSlot.bytes_length (f : FeedSlot) : f.bytes.length = 64 := by
  simp only [FeedSlot.bytes, List.length_append, leBytes_length]
theorem Scalar.vsqBytes_length (sc : Scalar) : sc.vsqBytes.length = 128 := by
  have h : (sc.vsq.take 16).length ≤ 16 := List.length_take_le _ _
  rw [vsqBytes, List.length_append, flatten_map_length _ (fun x : Word64 => leBytes_length 8 x.toNat), List.length_replicate]
  omega
theorem Scalar.vsqHead_length (sc : Scalar) : sc.vsqHead.length = 64 := by
  simp only [Scalar.vsqHead, List.length_append, leBytes_length]

/-- Where the parts begin and end: 0xC000, 0xD800, 0xF800, 0x13000, 0x13100, 0x13140, 0x131C0, 0x13200, 0x13500, 0x13600, 0x13608,
0x13668 and 0x14000. -/
theorem Regs.parts_lengths (r : Regs) (shadow : BitVec 114688) : (r.parts shadow).map List.length =
    [0xC000, 0x1800, 0x2000, 0x3800, 0x100, 0x40, 0x80, 0x40, 0x300, 0x100, 8, 0x60, 2456] := by
  have hx : (leBytes 8 0 ++ (r.sc.x.toList.drop 1).flatMap fun x => leBytes 8 x.toNat).length = 0x100 := by
    rw [List.length_append, leBytes_length, flatten_map_length _ (fun x : Word64 => leBytes_length 8 x.toNat), List.length_drop,
      Vector.length_toList]
  simp only [Regs.parts, List.map_cons, List.map_nil, hx, r.sc.vsqBytes_length, r.sc.vsqHead_length, leBytes_length,
    flatten_map_length _ (fun x : VBits => leBytes_length 1024 x.toNat), flatten_map_length _ (fun x : MBits => leBytes_length 512 x.toNat),
    flatten_map_length _ (fun x : Word64 => leBytes_length 8 x.toNat), flatten_map_length _ FeedSlot.bytes_length,
    flatten_map_length _ (fun n => leBytes_length 8 (r.sc.csrSlot n)), flatten_map_length _ (fun n => leBytes_length 8 (r.sc.supSlot n)),
    Vector.length_toList, List.length_range, List.length_replicate]

theorem Regs.bytes_length (r : Regs) (shadow : BitVec 114688) : (r.bytes shadow).length = 0x14000 := by
  rw [r.bytes_eq, List.length_flatten, r.parts_lengths]; rfl

/-- A field of the layout is one of the part it stands in. -/
theorem Regs.field_part (r : Regs) (shadow : BitVec 114688) {k : Nat} {p : List Byte} {base j n : Nat}
    (hp : (r.parts shadow)[k]? = some p)
    (hb : base = ([0xC000, 0x1800, 0x2000, 0x3800, 0x100, 0x40, 0x80, 0x40, 0x300, 0x100, 8, 0x60, 2456].take k).sum)
    (hn : j + n ≤ p.length) : field (r.bytes shadow) (base + j) n = field p j n := by
  have h := field_flatten hp hn
  rwa [r.parts_lengths, ← hb, ← r.bytes_eq] at h

end Sys2Proof.Machine

/-! PROOFS. O42, third part: the scalar side, the feed slots and the registers read back (R74, R79, R325). -/
namespace Sys2Proof.Machine

/-- A register fits the bytes of its width. -/
theorem toNat_lt_bytes {n : Nat} (x : BitVec n) {w : Nat} (h : n ≤ 8 * w) : x.toNat < 256 ^ w := by
  rw [show 256 = 2 ^ 8 from rfl, ← Nat.pow_mul]
  exact lt_of_lt_of_le x.isLt (Nat.pow_le_pow_right (by decide) h)
theorem ofNat_of_eq_toNat {n : Nat} {x : Nat} {v : BitVec n} (h : x = v.toNat) : BitVec.ofNat n x = v := by
  rw [h, BitVec.ofNat_toNat, BitVec.setWidth_eq]

/-! ### What stands in each part -/

section
variable (r : Regs) (shadow : BitVec 114688)

theorem Regs.field_v (k : Fin 48) : field (r.bytes shadow) (1024 * k.val) 1024 = r.v[k.val].toNat := by
  have h := r.field_part shadow (k := 0) (base := 0) (j := 1024 * k.val) (n := 1024) rfl rfl
    (by rw [flatten_map_length _ (fun x : VBits => leBytes_length 1024 x.toNat), Vector.length_toList]; omega)
  rw [Nat.zero_add] at h
  exact h.trans (field_flatMap_leBytes (fun x : VBits => x.toNat) (by simp) (toNat_lt_bytes _ (by decide)))

theorem Regs.field_m (k : Fin 12) : field (r.bytes shadow) (0xC000 + 512 * k.val) 512 = r.m[k.val].toNat :=
  (r.field_part shadow (k := 1) rfl rfl
    (by rw [flatten_map_length _ (fun x : MBits => leBytes_length 512 x.toNat), Vector.length_toList]; omega)).trans
    (field_flatMap_leBytes (fun x : MBits => x.toNat) (by simp) (toNat_lt_bytes _ (by decide)))

theorem Regs.field_w (k : Fin 8) : field (r.bytes shadow) (0xD800 + 1024 * k.val) 1024 = r.w[k.val].toNat :=
  (r.field_part shadow (k := 2) rfl rfl
    (by rw [flatten_map_length _ (fun x : VBits => leBytes_length 1024 x.toNat), Vector.length_toList]; omega)).trans
    (field_flatMap_leBytes (fun x : VBits => x.toNat) (by simp) (toNat_lt_bytes _ (by decide)))

theorem Regs.field_x {k : Nat} (h0 : k ≠ 0) (hk : k < 32) : field (r.bytes shadow) (0x13000 + 8 * k) 8 = r.sc.x[k].toNat := by
  have hl := flatten_map_length _ (fun x : Word64 => leBytes_length 8 x.toNat) (r.sc.x.toList.drop 1)
  rw [r.field_part shadow (k := 4) (base := 0x13000) rfl rfl (by rw [List.length_append, hl, leBytes_length, List.length_drop, Vector.length_toList]; omega)]
  have hoff : 8 * k = (leBytes 8 0).length + 8 * (k - 1) := by rw [leBytes_length]; omega
  rw [hoff, field_append_right]
  have hget : (r.sc.x.toList.drop 1)[k - 1]? = some r.sc.x[k] := by
    rw [List.getElem?_drop, show 1 + (k - 1) = k by omega]; simp [hk]
  exact field_flatMap_leBytes (fun x : Word64 => x.toNat) hget (toNat_lt_bytes _ (by decide))

theorem Regs.field_shadow (k : Fin 8) : field (r.bytes shadow) (0x13100 + 8 * k.val) 8 = r.sc.shadow[k.val].toNat :=
  (r.field_part shadow (k := 5) rfl rfl
    (by rw [flatten_map_length _ (fun x : Word64 => leBytes_length 8 x.toNat), Vector.length_toList]; omega)).trans
    (field_flatMap_leBytes (fun x : Word64 => x.toNat) (by simp) (toNat_lt_bytes _ (by decide)))

theorem Regs.field_vsq {k : Nat} (hk : k < (r.sc.vsq.take 16).length) :
    field (r.bytes shadow) (0x13140 + 8 * k) 8 = (r.sc.vsq.take 16)[k].toNat := by
  have h16 : (r.sc.vsq.take 16).length ≤ 16 := List.length_take_le _ _
  have hl := flatten_map_length _ (fun x : Word64 => leBytes_length 8 x.toNat) (r.sc.vsq.take 16)
  rw [r.field_part shadow (k := 6) (base := 0x13140) rfl rfl (by rw [r.sc.vsqBytes_length]; omega), Scalar.vsqBytes,
    field_append_left _ (by rw [hl]; omega)]
  exact field_flatMap_leBytes (fun x : Word64 => x.toNat) (List.getElem?_eq_getElem hk) (toNat_lt_bytes _ (by decide))

/-- The first value, the number of values and the pops of the VSQ. -/
theorem Regs.field_vsqHead : field (r.bytes shadow) 0x131C0 1 = 0 ∧ field (r.bytes shadow) 0x131C1 1 = (r.sc.vsq.take 16).length ∧
    field (r.bytes shadow) 0x131C2 8 = r.sc.vsqPops.toNat := by
  have hp (j n : Nat) (h : j + n ≤ 64) : field (r.bytes shadow) (0x131C0 + j) n = field r.sc.vsqHead j n :=
    r.field_part shadow (k := 7) rfl rfl (by rw [r.sc.vsqHead_length]; exact h)
  have hq : r.sc.vsqHead =
      [leBytes 1 0, leBytes 1 (r.sc.vsq.take 16).length, leBytes 8 r.sc.vsqPops.toNat, leBytes 54 0].flatten := by
    simp [Scalar.vsqHead]
  have h16 : (r.sc.vsq.take 16).length ≤ 16 := List.length_take_le _ _
  refine ⟨?_, ?_, ?_⟩
  · rw [hp 0 1 (by omega), hq]
    exact (field_flatten (k := 0) (j := 0) rfl (by simp)).trans (field_leBytes (by decide))
  · rw [hp 1 1 (by omega), hq]
    exact (field_flatten (k := 1) (j := 0) rfl (by simp)).trans (field_leBytes (by omega))
  · rw [hp 2 8 (by omega), hq]
    exact (field_flatten (k := 2) (j := 0) rfl (by simp)).trans (field_leBytes (toNat_lt_bytes _ (by decide)))

theorem Scalar.csrSlot_lt {sc : Scalar} (h : sc.vl < 2 ^ 64) (n : Nat) : sc.csrSlot n < 256 ^ 8 := by
  unfold Scalar.csrSlot
  split
  · exact h
  case h_12 =>
    have h1 := sc.ulien.toNat_le
    have h2 := sc.ulinh.toNat_le
    omega
  case h_26 => exact Nat.pow_pos (by decide)
  all_goals exact toNat_lt_bytes _ (by decide)
theorem Scalar.supSlot_lt (sc : Scalar) (n : Nat) : sc.supSlot n < 256 ^ 8 := by
  unfold Scalar.supSlot
  split
  case h_12 => exact Nat.pow_pos (by decide)
  all_goals exact toNat_lt_bytes _ (by decide)

theorem Regs.field_csrSlot (h : r.sc.vl < 2 ^ 64) {n : Nat} (hn : n < 96) :
    field (r.bytes shadow) (0x13200 + 8 * n) 8 = r.sc.csrSlot n :=
  (r.field_part shadow (k := 8) rfl rfl
    (by rw [flatten_map_length _ (fun n => leBytes_length 8 (r.sc.csrSlot n)), List.length_range]; omega)).trans
    (field_flatMap_leBytes r.sc.csrSlot (by simp [hn]) (Scalar.csrSlot_lt h n))
theorem Regs.field_supSlot {n : Nat} (hn : n < 12) : field (r.bytes shadow) (0x13608 + 8 * n) 8 = r.sc.supSlot n :=
  (r.field_part shadow (k := 11) rfl rfl
    (by rw [flatten_map_length _ (fun n => leBytes_length 8 (r.sc.supSlot n)), List.length_range]; omega)).trans
    (field_flatMap_leBytes r.sc.supSlot (by simp [hn]) (r.sc.supSlot_lt n))
theorem Regs.field_pc : field (r.bytes shadow) 0x13600 8 = r.sc.pc.toNat :=
  (r.field_part shadow (k := 10) (base := 0x13600) (j := 0) rfl rfl (by rw [leBytes_length])).trans
    (field_leBytes (toNat_lt_bytes _ (by decide)))

theorem Regs.field_feed (k : FeedIx) {j n : Nat} (hn : j + n ≤ 64) :
    field (r.bytes shadow) (0x13500 + 64 * k.val + j) n = field r.feeds[k.val].bytes j n := by
  rw [Nat.add_assoc, r.field_part shadow (k := 9) (base := 0x13500) rfl rfl
    (by rw [flatten_map_length _ FeedSlot.bytes_length, Vector.length_toList]; omega)]
  exact field_flatMap FeedSlot.bytes FeedSlot.bytes_length (by simp) hn

end

/-! ### What is read back -/

/-- The VSQ read back from its places, and what was kept beside the layout. -/
theorem Regs.vsq_read_back (r : Regs) (shadow : BitVec 114688) :
    ((List.range (field (r.bytes shadow) 0x131C1 1)).map fun k =>
      BitVec.ofNat 64 (field (r.bytes shadow) (0x13140 + 8 * ((field (r.bytes shadow) 0x131C0 1 + k) % 16)) 8)) ++ r.sc.vsq.drop 16 =
      r.sc.vsq := by
  obtain ⟨hfirst, hlen, -⟩ := r.field_vsqHead shadow
  have h16 : (r.sc.vsq.take 16).length ≤ 16 := List.length_take_le _ _
  rw [hfirst, hlen]
  have htake : ((List.range (r.sc.vsq.take 16).length).map fun k =>
      BitVec.ofNat 64 (field (r.bytes shadow) (0x13140 + 8 * ((0 + k) % 16)) 8)) = r.sc.vsq.take 16 := by
    refine List.ext_getElem (by simp) fun k h1 h2 => ?_
    rw [List.getElem_map, List.getElem_range, Nat.zero_add, Nat.mod_eq_of_lt (by omega)]
    exact ofNat_of_eq_toNat (r.field_vsq shadow h2)
  rw [htake, List.take_append_drop]

/-- The two bits of ULIEN. -/
theorem ulien_read_back (a b : Bool) : ((a.toNat + 2 * b.toNat) % 2 == 1) = a ∧ ((a.toNat + 2 * b.toNat) / 2 % 2 == 1) = b := by
  cases a <;> cases b <;> exact ⟨rfl, rfl⟩

theorem Vector.ofFn_eq_of {α : Type} {n : Nat} {f : Fin n → α} {v : Vector α n} (h : ∀ k : Fin n, f k = v[k.val]) : Vector.ofFn f = v := by
  ext i hi
  rw [Vector.getElem_ofFn, h]

/-- The scalar side read back, field by field (R79). -/
theorem Regs.scalar_read_back (r : Regs) (shadow : BitVec 114688) (h : r.sc.vl < 2 ^ 64) :
    Scalar.ofBytes (field (r.bytes shadow)) (r.sc.vsq.drop 16) = { r.sc with sup := false, ivl := 0, x := r.sc.x.set 0 0 } := by
  have hc (n : Nat) (hn : n < 96) : field (r.bytes shadow) (0x13200 + 8 * n) 8 = r.sc.csrSlot n := r.field_csrSlot shadow h hn
  have hs (n : Nat) (hn : n < 12) : field (r.bytes shadow) (0x13608 + 8 * n) 8 = r.sc.supSlot n := r.field_supSlot shadow hn
  have hx : (Vector.ofFn fun k : Fin 32 => if k.val = 0 then 0 else BitVec.ofNat 64 (field (r.bytes shadow) (0x13000 + 8 * k.val) 8)) =
      r.sc.x.set 0 0 := by
    refine Vector.ofFn_eq_of fun k => ?_
    by_cases hk : k.val = 0
    · simp [hk]
    · rw [if_neg hk, Vector.getElem_set_ne _ _ (Ne.symm hk)]
      exact ofNat_of_eq_toNat (r.field_x shadow hk k.isLt)
  have hvtf : (Vector.ofFn fun k : Fin 4 => BitVec.ofNat 64 (field (r.bytes shadow) (0x13608 + 8 * (8 + k.val)) 8)) = r.sc.vtf := by
    refine Vector.ofFn_eq_of fun k => ofNat_of_eq_toNat ((hs _ (by omega)).trans ?_)
    match k with
    | 0 | 1 | 2 | 3 => rfl
  have hulien := ulien_read_back r.sc.ulien r.sc.ulinh
  rw [show r.sc.ulien.toNat + 2 * r.sc.ulinh.toNat = field (r.bytes shadow) (0x13200 + 8 * 0x19) 8 from (hc 0x19 (by decide)).symm] at hulien
  unfold Scalar.ofBytes
  exact (Scalar.mk.injEq ..).mpr
    ⟨hx, ofNat_of_eq_toNat (r.field_pc shadow), rfl, hc 0x00 (by decide), ofNat_of_eq_toNat (hc 0x01 (by decide)), ofNat_of_eq_toNat (hc 0x02 (by decide)),
      ofNat_of_eq_toNat (hc 0x08 (by decide)), ofNat_of_eq_toNat (hc 0x09 (by decide)), ofNat_of_eq_toNat (hc 0x10 (by decide)), ofNat_of_eq_toNat (hc 0x11 (by decide)), ofNat_of_eq_toNat (hc 0x12 (by decide)),
      ofNat_of_eq_toNat (hc 0x13 (by decide)), ofNat_of_eq_toNat (hc 0x14 (by decide)), ofNat_of_eq_toNat (hc 0x18 (by decide)), hulien.1, hulien.2, ofNat_of_eq_toNat (hc 0x1A (by decide)),
      ofNat_of_eq_toNat (hc 0x21 (by decide)), ofNat_of_eq_toNat (hc 0x28 (by decide)), ofNat_of_eq_toNat (hc 0x29 (by decide)), ofNat_of_eq_toNat (hc 0x2A (by decide)), ofNat_of_eq_toNat (hc 0x2B (by decide)),
      ofNat_of_eq_toNat (hc 0x30 (by decide)), ofNat_of_eq_toNat (hc 0x31 (by decide)), ofNat_of_eq_toNat (hc 0x38 (by decide)), ofNat_of_eq_toNat (hc 0x39 (by decide)), ofNat_of_eq_toNat (hc 0x3A (by decide)),
      ofNat_of_eq_toNat (hc 0x49 (by decide)), ofNat_of_eq_toNat (hc 0x4A (by decide)), ofNat_of_eq_toNat (hs 0 (by decide)), ofNat_of_eq_toNat (hs 1 (by decide)), ofNat_of_eq_toNat (hs 2 (by decide)),
      ofNat_of_eq_toNat (hs 3 (by decide)), ofNat_of_eq_toNat (hs 4 (by decide)), ofNat_of_eq_toNat (hs 5 (by decide)), ofNat_of_eq_toNat (hs 6 (by decide)), hvtf,
      Vector.ofFn_eq_of fun k => ofNat_of_eq_toNat (r.field_shadow shadow k), r.vsq_read_back shadow,
      ofNat_of_eq_toNat (r.field_vsqHead shadow).2.2, rfl⟩

/-! ### The feed slots -/

/-- The first word of a saved slot. -/
def FeedSlot.head (x : FeedSlot) : Nat :=
  x.st.code + x.out.toNat * 2 ^ 8 + x.w * 2 ^ 16 + x.stride * 2 ^ 24 + x.bo.isSome.toNat * 2 ^ 32

theorem FeedState.code_le (st : FeedState) : st.code ≤ 3 := by cases st <;> decide

/-- The fields of the first word (log entry 16). -/
theorem FeedSlot.head_fields {x : FeedSlot} (hw : x.w < 256) (hs : x.stride < 256) : x.head < 256 ^ 8 ∧
    bits x.head 0 8 = x.st.code ∧ (bits x.head 8 1 == 1) = x.out ∧ bits x.head 16 8 = x.w ∧ bits x.head 24 8 = x.stride ∧
    bits x.head 32 1 = x.bo.isSome.toNat := by
  have hst := x.st.code_le
  have hout := x.out.toNat_le
  have hbo := x.bo.isSome.toNat_le
  have h8 : bits x.head 8 1 = x.out.toNat := by unfold bits FeedSlot.head; omega
  refine ⟨?_, ?_, ?_, ?_, ?_, ?_⟩
  case refine_3 => rw [h8]; cases x.out <;> rfl
  all_goals unfold FeedSlot.head
  · omega
  all_goals unfold bits; omega

/-- The words of a saved slot. -/
theorem FeedSlot.words (x : FeedSlot) (hw : x.w < 256) (hs : x.stride < 256) (hl : x.len < 2 ^ 64) (hp : x.pos < 2 ^ 64)
    (hf : x.ferry < 2 ^ 64) : field x.bytes 0 8 = x.head ∧ field x.bytes 8 8 = (x.bo.getD 0).toNat ∧
    field x.bytes 16 8 = x.base.toNat ∧ field x.bytes 24 8 = x.len ∧ field x.bytes 32 8 = x.pos ∧ field x.bytes 40 8 = x.ferry := by
  have hb : x.bytes = [leBytes 8 x.head, leBytes 8 (x.bo.getD 0).toNat, leBytes 8 x.base.toNat, leBytes 8 x.len, leBytes 8 x.pos,
      leBytes 8 x.ferry, leBytes 16 0].flatten := by
    simp [FeedSlot.bytes, FeedSlot.head]
  rw [hb]
  refine ⟨?_, ?_, ?_, ?_, ?_, ?_⟩
  · exact (field_flatten (k := 0) (j := 0) rfl (by simp)).trans (field_leBytes (FeedSlot.head_fields hw hs).1)
  · exact (field_flatten (k := 1) (j := 0) rfl (by simp)).trans (field_leBytes (toNat_lt_bytes _ (by decide)))
  · exact (field_flatten (k := 2) (j := 0) rfl (by simp)).trans (field_leBytes (toNat_lt_bytes _ (by decide)))
  · exact (field_flatten (k := 3) (j := 0) rfl (by simp)).trans (field_leBytes hl)
  · exact (field_flatten (k := 4) (j := 0) rfl (by simp)).trans (field_leBytes hp)
  · exact (field_flatten (k := 5) (j := 0) rfl (by simp)).trans (field_leBytes hf)

/-- The state of a slot read back: an ended input feed has its strips in flight again. -/
theorem FeedState.read_back (st : FeedState) (out : Bool) : (match st.code with
      | 1 => .open
      | 2 => if out then .ended else .open
      | 3 => .drained
      | _ => .idle : FeedState) = if out then st else if st = .ended then .open else st := by
  cases st <;> cases out <;> rfl

theorem FeedSlot.bo_read_back (o : Option Word64) :
    (if o.isSome.toNat = 1 then some (BitVec.ofNat 64 (o.getD 0).toNat) else none) = o := by
  cases o with
  | none => rfl
  | some v => exact congrArg some (ofNat_of_eq_toNat rfl)

/-- A slot whose words are `x`'s reads back (R74): an output feed whole, an input feed with its strips in flight to be fetched again. -/
theorem FeedSlot.ofBytes_eq {f : Nat → Nat → Nat} {off : Nat} {x : FeedSlot} (hw : x.w < 256) (hs : x.stride < 256)
    (hhead : f off 8 = x.head) (hbo : f (off + 8) 8 = (x.bo.getD 0).toNat) (hbase : f (off + 16) 8 = x.base.toNat)
    (hlen : f (off + 24) 8 = x.len) (hpos : f (off + 32) 8 = x.pos) (hferry : f (off + 40) 8 = x.ferry) :
    FeedSlot.ofBytes f off x = if x.out then x
      else { x with st := if x.st = .ended then .open else x.st, ferry := x.pos, buf := [], fault := none } := by
  obtain ⟨-, hst, hout, hwid, hstr, hsome⟩ := FeedSlot.head_fields hw hs
  have hread : FeedSlot.ofBytes f off x =
      { st := if x.out then x.st else if x.st = .ended then .open else x.st, out := x.out, base := x.base, len := x.len, w := x.w
        stride := x.stride, pos := x.pos, ferry := if x.out then x.ferry else x.pos, buf := if x.out then x.buf else []
        fault := if x.out then x.fault else none, bo := x.bo } := by
    unfold FeedSlot.ofBytes
    simp only [hhead, hst, hout, hwid, hstr, hsome, hbo, hbase, hlen, hpos, hferry]
    exact (FeedSlot.mk.injEq ..).mpr ⟨x.st.read_back x.out, rfl, ofNat_of_eq_toNat rfl, rfl, rfl, rfl, rfl, rfl, rfl, rfl,
      FeedSlot.bo_read_back x.bo⟩
  rw [hread]
  by_cases hx : x.out = true
  · simp only [if_pos hx]
  · simp only [if_neg hx]

theorem Regs.feed_read_back (r : Regs) (shadow : BitVec 114688) (k : FeedIx) (hw : r.feeds[k.val].w < 256)
    (hs : r.feeds[k.val].stride < 256) (hl : r.feeds[k.val].len < 2 ^ 64) (hp : r.feeds[k.val].pos < 2 ^ 64)
    (hf : r.feeds[k.val].ferry < 2 ^ 64) :
    FeedSlot.ofBytes (field (r.bytes shadow)) (0x13500 + 64 * k.val) r.feeds[k.val] =
      if r.feeds[k.val].out then r.feeds[k.val]
      else { r.feeds[k.val] with
        st := if r.feeds[k.val].st = .ended then .open else r.feeds[k.val].st, ferry := r.feeds[k.val].pos, buf := [], fault := none } := by
  obtain ⟨hhead, hbo, hbase, hlen, hpos, hferry⟩ := r.feeds[k.val].words hw hs hl hp hf
  have hin (j : Nat) (hn : j + 8 ≤ 64) := r.field_feed shadow k hn
  exact FeedSlot.ofBytes_eq hw hs ((hin 0 (by omega)).trans hhead) ((hin 8 (by omega)).trans hbo) ((hin 16 (by omega)).trans hbase)
    ((hin 24 (by omega)).trans hlen) ((hin 32 (by omega)).trans hpos) ((hin 40 (by omega)).trans hferry)

end Sys2Proof.Machine

namespace Sys2Proof.Proofs
open Sys2Proof.Machine Sys2Proof.Spec

/-- Settles O42: the layout is a row of parts, and each field is read back of its own. -/
theorem savedLayoutIsWhole : Obligations.SavedLayoutIsWhole := by
  intro r sh hvl
  exact ⟨r.bytes_length sh, fun k hw hs hl hp hf => r.feed_read_back sh k hw hs hl hp hf, r.scalar_read_back sh hvl,
    r.field_v sh, r.field_m sh, r.field_w sh⟩

end Sys2Proof.Proofs

/-! PROOFS. Registers outside the cores, first part: what an 8-byte write leaves in a device register (R248). -/
namespace Sys2Proof.Machine

/-- An aligned write of 8 bytes replaces the whole register. -/
theorem State.devStore_word (s : State) {pa v : Nat} (hpa : pa % 8 = 0) (hv : v < 2 ^ 64) :
    s.devStore pa 8 v = s.devWrite (devReg pa) (BitVec.ofNat 64 v) (BitVec.ofNat 64 v) := by
  unfold State.devStore
  dsimp only
  rw [show pa / 8 * 8 = pa by omega, hpa, Nat.mod_eq_of_lt (show v < 2 ^ (8 * 8) from hv)]
  simp only [Nat.mul_zero, Nat.pow_zero, Nat.mul_one]
  rw [show (~~~(BitVec.ofNat 64 (2 ^ (8 * 8) - 1)) : Word64) = 0#64 from rfl, BitVec.and_zero, BitVec.zero_or]

/-- A field of 60 bits with its low `k` bits cleared, as a word reads it. -/
theorem setWidth60_and_not_low (v : Word64) (k : Nat) :
    (v.setWidth 60 &&& ~~~(BitVec.ofNat 60 (2 ^ k - 1))).setWidth 64 = BitVec.ofNat 64 (v.toNat % 2 ^ 60 / 2 ^ k * 2 ^ k) := by
  apply BitVec.eq_of_getLsbD_eq
  intro i hi
  simp only [BitVec.getLsbD_setWidth, BitVec.getLsbD_and, BitVec.getLsbD_not, BitVec.getLsbD_ofNat, Nat.testBit_two_pow_sub_one,
    Nat.testBit_mul_two_pow, Nat.testBit_div_two_pow, Nat.testBit_mod_two_pow, hi, decide_true, Bool.true_and]
  by_cases h : i < k
  · simp [h, Nat.not_le.2 h]
  · by_cases h60 : i < 60
    · simp [h, h60, Nat.not_lt.1 h, BitVec.getLsbD]
    · simp [h60, Nat.not_lt.1 h]

/-- Bits of a 32-bit register that a one clears. -/
theorem cleared_register (x : BitVec 32) (v : Word64) : (x &&& ~~~(v.setWidth 32)).setWidth 64 = x.setWidth 64 &&& ~~~v := by
  apply BitVec.eq_of_getLsbD_eq
  intro i hi
  by_cases h : i < 32
  · simp [h, hi]
  · simp [x.getLsbD_of_ge i (Nat.not_lt.1 h)]

/-- The enable bit, as a word reads it. -/
theorem enable_field (v : Word64) : (if v.getLsbD 0 then 1 else 0 : Word64) = BitVec.ofNat 64 (v.toNat % 2) := by
  rw [BitVec.getLsbD, Nat.testBit_zero]
  obtain h | h := Nat.mod_two_eq_zero_or_one v.toNat <;> rw [h] <;> rfl

/-- The length of a descriptor area: more than 4,096 entries are ignored. -/
theorem dasn_field (v : Word64) (x : BitVec 13) : (if v.toNat % 8192 ≤ 4096 then v.setWidth 13 else x).setWidth 64 =
    if v.toNat % 8192 ≤ 4096 then BitVec.ofNat 64 (v.toNat % 8192) else x.setWidth 64 := by
  split
  · exact setWidth_field v 13
  · rfl

/-- A write of a device register touches no memory, context or core. -/
theorem State.devWrite_frame (s : State) (r : DevReg) (v w : Word64) :
    (s.devWrite r v w).mem = s.mem ∧ (s.devWrite r v w).ctxs = s.ctxs ∧ (s.devWrite r v w).cores = s.cores := by
  cases r <;> exact ⟨rfl, rfl, rfl⟩

section
variable (s : State) (v w : Word64)

/-- A register of a die, read back. -/
theorem State.devRead_die {r : DevReg} {d : DieIx} {x : Die} (get : Die → Word64) (hw : s.devWrite r v w = s.setDie d x)
    (hr : ∀ u : State, (u.devRead r).1 = get (u.die d)) : ((s.devWrite r v w).devRead r).1 = get x := by
  rw [hw, hr, State.setDie_same]
/-- A register of a port, read back. -/
theorem State.devRead_port {r : DevReg} {p : PortIx} {x : Port} (get : Port → Word64) (hw : s.devWrite r v w = s.setPort p x)
    (hr : ∀ u : State, (u.devRead r).1 = get (u.port p)) : ((s.devWrite r v w).devRead r).1 = get x := by
  rw [hw, hr, State.setPort_same]

end

end Sys2Proof.Machine

namespace Sys2Proof.Spec
open Sys2Proof.Machine

/-- Tables 2-4, 21-3, 23-5: what a register reads after a write of the whole word. -/
theorem devRead_devWrite (s : State) (r : DevReg) (v w : Word64) (h : DevAfter r (s.devRead r).1 v = some w) :
    ((s.devWrite r v v).devRead r).1 = w := by
  cases r
  case thermal | none => cases h
  all_goals rw [← Option.some.inj h]
  case dslice d => exact (s.devRead_die v v (·.dslice.setWidth 64) rfl fun _ => rfl).trans (setWidth_field v 32)
  case dfqb d => exact (s.devRead_die v v (·.dfqb) rfl fun _ => rfl).trans (and_not_low v 6)
  case dfqlost d => exact (s.devRead_die v v (·.dfqlost.setWidth 64) rfl fun _ => rfl).trans (cleared_register _ v)
  case dcsa d => exact (s.devRead_die v v (·.dcsa.setWidth 64) rfl fun _ => rfl).trans (setWidth60_and_not_low v 19)
  case dcsn d => exact (s.devRead_die v v (·.dcsn.setWidth 64) rfl fun _ => rfl).trans (setWidth_field v 16)
  case dasb d => exact (s.devRead_die v v (·.dasb.setWidth 64) rfl fun _ => rfl).trans (setWidth60_and_not_low v 12)
  case dasn d => exact (s.devRead_die v v (·.dasn.setWidth 64) rfl fun _ => rfl).trans (dasn_field v _)
  case dsatp d => exact (s.devRead_die v v (·.dsatp) rfl fun _ => rfl).trans rfl
  case dlqb d => exact (s.devRead_die v v (·.lqb) rfl fun _ => rfl).trans rfl
  case nrsatp p => exact (s.devRead_port v v (·.nrsatp) rfl fun _ => rfl).trans rfl
  case out0 p e =>
    exact (s.devRead_port v v (·.outW[e.val].1) rfl fun _ => rfl).trans (congrArg Prod.fst (Vector.getElem_set_self _))
  case out1 p e =>
    exact (s.devRead_port v v (·.outW[e.val].2) rfl fun _ => rfl).trans (congrArg Prod.snd (Vector.getElem_set_self _))
  case ibase p e =>
    exact (s.devRead_port v v (·.inW[e.val].base) rfl fun _ => rfl).trans (congrArg InEntry.base (Vector.getElem_set_self _))
  case isize p e =>
    exact (s.devRead_port v v (·.inW[e.val].size) rfl fun _ => rfl).trans (congrArg InEntry.size (Vector.getElem_set_self _))
  case ibob p e =>
    exact (s.devRead_port v v (·.inW[e.val].bo) rfl fun _ => rfl).trans (congrArg InEntry.bo (Vector.getElem_set_self _))
  case ien p e =>
    exact (s.devRead_port v v (fun x => if x.inW[e.val].en then 1 else 0) rfl fun _ => rfl).trans
      ((congrArg (fun x : InEntry => if x.en then 1 else 0) (Vector.getElem_set_self _)).trans (enable_field v))
  case ddepn | lanes | npeer => rfl

end Sys2Proof.Spec

/-! PROOFS. Registers outside the cores, second part: plain and ordered accesses, the host page and the registers of events. -/
namespace Sys2Proof.Machine

/-! ### Accesses of the scalar pipe -/

theorem exec_ld (d a : XReg) (off : BitVec 12) (z : LdSize) (s : State) : exec (.ld d a off z) s =
    s.loadOr (s.scalarLoad d (s.mySc.rx a + off.signExtend 64) (ldBytes z).1 (ldBytes z).2 none) := rfl
theorem exec_st (d a : XReg) (off : BitVec 12) (z : StSize) (s : State) : exec (.st d a off z) s =
    s.held fun _ => s.scalarTry (s.scalarStore d (s.mySc.rx a + off.signExtend 64) (stBytes z) none) := rfl
theorem exec_ldAcq (o : X3) (c : Scope) (z : LdSize) (s : State) : exec (.ldAcq o c z) s =
    s.loadOr (s.scalarLoad o.d (s.mySc.rx o.a + s.mySc.rx o.b) (ldBytes z).1 (ldBytes z).2 (some c)) := rfl
theorem exec_stRel (o : X3) (c : Scope) (z : StSize) (s : State) : exec (.stRel o c z) s =
    s.heldRel fun _ => s.scalarTry (s.scalarStore o.d (s.mySc.rx o.a + s.mySc.rx o.b) (stBytes z) (some c)) := rfl

theorem State.held_ready (s : State) (k : Unit → Host.Outcome State Fault Refusal) (h : s.me.settled = true)
    (hi : s.intervalReady = true) : s.held k = k () := s.waits_ready _ k (by rw [h, hi]; rfl)
theorem State.loadOr_drained (s : State) (k : Except Trap State) (h : s.me.drained = true) : s.loadOr k = s.scalarTry k :=
  s.waits_ready _ _ (by rw [State.intervalReady, s.pendingAccess_drained _ _ h]; rfl)

/-- A scalar access whose address is in order: an ordered one of a device register is refused, any other performed (R248). -/
theorem State.scalarLoad_of_loc {s : State} {a : Word64} {n : Nat} {l : Loc} (hl : s.scalarLoc s.scalarAgent a n .read = .ok l)
    (d : XReg) (sg : Bool) (acq : Option Scope) : s.scalarLoad d a n sg acq =
      if acq.isSome && s.isDevice l then .error ⟨.xlatePerm, 0, a⟩ else
        let r := (s.fillTlb s.scalarAgent a).scalarRead l n acq
        let sc := r.2.mySc.wx d (extend n sg r.1)
        .ok (r.2.setMySc (if acq.isSome then sc.endInterval else sc).retire) := by
  unfold State.scalarLoad
  rw [hl]
  change ite ((acq.isSome && s.isDevice l) = true) _ _ = _
  split <;> rfl
theorem State.scalarStore_of_loc {s : State} {a : Word64} {n : Nat} {l : Loc} (hl : s.scalarLoc s.scalarAgent a n .write = .ok l)
    (d : XReg) (rel : Option Scope) : s.scalarStore d a n rel =
      if rel.isSome && s.isDevice l then .error ⟨.xlatePerm, 0, a⟩ else
        let u := s.fillTlb s.scalarAgent a
        let t := u.scalarWrite l n ((u.mySc.rx d).toNat % 2 ^ (8 * n)) rel
        .ok (t.setMySc (if rel.isSome then t.mySc.endInterval else t.mySc).retire) := by
  unfold State.scalarStore
  rw [hl]
  change ite ((rel.isSome && s.isDevice l) = true) _ _ = _
  split <;> rfl

theorem State.scalarRead_device {s : State} {pa : Nat} (hd : s.isDevice (.mem pa) = true) (n : Nat) (c : Option Scope) :
    s.scalarRead (.mem pa) n c = s.devLoad pa n := if_pos hd
theorem State.scalarWrite_device {s : State} {pa : Nat} (hd : s.isDevice (.mem pa) = true) (n x : Nat) (c : Option Scope) :
    s.scalarWrite (.mem pa) n x c = s.devStore pa n x := if_pos hd

section
variable {s : State} {a : Word64} {n pa : Nat} (hd : s.isDevice (.mem pa) = true)
include hd

/-- A plain load of a device register reads it at its port. -/
theorem State.scalarLoad_device (hf : s.choices.fill = false) (hl : s.scalarLoc s.scalarAgent a n .read = .ok (.mem pa))
    (d : XReg) (sg : Bool) : s.scalarLoad d a n sg none = .ok ((s.devLoad pa n).2.setMySc
      ((s.devLoad pa n).2.mySc.wx d (extend n sg (s.devLoad pa n).1)).retire) := by
  rw [State.scalarLoad_of_loc hl, if_neg (by simp), s.fillTlb_of_not_fill _ _ hf, State.scalarRead_device hd]
  rfl

/-- A plain store to a device register writes it there. -/
theorem State.scalarStore_device (hf : s.choices.fill = false) (hl : s.scalarLoc s.scalarAgent a n .write = .ok (.mem pa))
    (d : XReg) : s.scalarStore d a n none =
      .ok ((s.devStore pa n ((s.mySc.rx d).toNat % 2 ^ (8 * n))).setMySc
        (s.devStore pa n ((s.mySc.rx d).toNat % 2 ^ (8 * n))).mySc.retire) := by
  rw [State.scalarStore_of_loc hl, if_neg (by simp), s.fillTlb_of_not_fill _ _ hf]
  dsimp only
  rw [State.scalarWrite_device hd]
  rfl

/-- An ordered access to a device register is refused. -/
theorem State.scalarLoad_device_ordered (hl : s.scalarLoc s.scalarAgent a n .read = .ok (.mem pa)) (d : XReg) (sg : Bool)
    (c : Scope) : s.scalarLoad d a n sg (some c) = .error ⟨.xlatePerm, 0, a⟩ := by
  rw [State.scalarLoad_of_loc hl, if_pos (by simp [hd])]
theorem State.scalarStore_device_ordered (hl : s.scalarLoc s.scalarAgent a n .write = .ok (.mem pa)) (d : XReg) (c : Scope) :
    s.scalarStore d a n (some c) = .error ⟨.xlatePerm, 0, a⟩ := by
  rw [State.scalarStore_of_loc hl, if_pos (by simp [hd])]

end

/-- A write of a device register leaves the context that acts, and which one it is. -/
theorem State.devStore_mySc (s : State) (pa n x : Nat) : (s.devStore pa n x).mySc = s.mySc := by
  unfold State.devStore
  dsimp only
  cases devReg (pa / 8 * 8) <;> rfl

/-! ### The host page -/

/-- A size that a register access may have. -/
theorem size_known {n : Nat} : (n == 1 || n == 2 || n == 4 || n == 8) = true ↔ n ∈ [1, 2, 4, 8] := by
  simp [or_assoc]

/-- A write of 8 bytes at an aligned offset replaces the word. -/
theorem merge_word (old v : Word64) {off : Nat} (h : off % 8 = 0) : merge old v off 8 = v := by
  unfold merge
  dsimp only
  rw [h]
  simp only [Nat.mul_zero, Nat.pow_zero, Nat.mul_one]
  rw [show (~~~(BitVec.ofNat 64 (2 ^ (8 * 8) - 1)) : Word64) = 0#64 from rfl, BitVec.and_zero, BitVec.zero_or,
    Nat.mod_eq_of_lt (show v.toNat < 2 ^ (8 * 8) from v.isLt), BitVec.ofNat_toNat, BitVec.setWidth_eq]

theorem execRegisterWrite_device {pa n : Nat} (hn : n ∈ [1, 2, 4, 8]) (ha : pa % n = 0) (hp : 0x1000000 ≤ pa) (v : Word64)
    (s : State) : execRegisterWrite pa n v s = .next (s.devStore pa n v.toNat) := by
  simp [execRegisterWrite, size_known.2 hn, ha, Nat.not_lt.2 hp]
theorem execRegisterWrite_misaligned {pa n : Nat} (h : n ∉ [1, 2, 4, 8] ∨ pa % n ≠ 0) (v : Word64) (s : State) :
    execRegisterWrite pa n v s = .next s := by
  refine if_pos ?_
  obtain h | h := h
  · rw [← size_known, Bool.not_eq_true] at h; rw [h]; rfl
  · rw [bne_iff_ne.2 h, Bool.or_true]

/-- What a host read of a register of its page returns. -/
theorem State.hostRead_reg (s : State) {off n : Nat} {v : Word64} (hn : n ∈ [1, 2, 4, 8]) (ha : off % n = 0)
    (ho : off / 8 * 8 < 0x1000) (hv : s.host.reg (off / 8 * 8) = some v) :
    (s.hostRead off n).host.hostData = BitVec.ofNat 64 (v.toNat / 2 ^ (8 * (off % 8)) % 2 ^ (8 * n)) := by
  have hr : s.bar0Reg (off / 8 * 8) = (v, s) := by simp [State.bar0Reg, ho, hv]
  simp [State.hostRead, size_known.2 hn, ha, show ¬ 0x1000000 ≤ off by omega, hr]
/-- A read of the whole word. -/
theorem State.hostRead_word (s : State) {off : Nat} {v : Word64} (ha : off % 8 = 0) (ho : off < 0x1000)
    (hv : s.host.reg off = some v) : (s.hostRead off 8).host.hostData = v := by
  have h8 : off / 8 * 8 = off := by omega
  rw [s.hostRead_reg (by simp) ha (h8.symm ▸ ho) (h8.symm ▸ hv), ha, Nat.mul_zero, Nat.pow_zero, Nat.div_one,
    Nat.mod_eq_of_lt (show v.toNat < 2 ^ (8 * 8) from v.isLt), BitVec.ofNat_toNat, BitVec.setWidth_eq]

/-- The two words of a queue in the host page: its block, then its control word. -/
theorem HostPage.reg_qcb (h : HostPage) (a : Fin 8) : h.reg (0x020 + 16 * a.val) = some h.queues[a.val].qcb := by
  have ha := a.isLt
  have hi : (0x020 + 16 * a.val - 0x020) / 16 = a.val := by omega
  simp only [HostPage.reg, hi]
  rw [if_neg (by omega), if_neg (by omega), if_neg (by omega), if_neg (by omega), dif_pos (by omega), if_pos (by omega)]
theorem HostPage.reg_control (h : HostPage) (a : Fin 8) : h.reg (0x028 + 16 * a.val) =
    some (BitVec.ofNat 64 (h.queues[a.val].pop.toNat * 2 ^ 16 + h.queues[a.val].err.toNat * 2 ^ 17)) := by
  have ha := a.isLt
  have hi : (0x028 + 16 * a.val - 0x020) / 16 = a.val := by omega
  simp only [HostPage.reg, hi]
  rw [if_neg (by omega), if_neg (by omega), if_neg (by omega), if_neg (by omega), dif_pos (by omega), if_neg (by omega)]

/-- The control word has ACOUNT 0 and AERR in bit 17. -/
theorem control_acount (p e : Bool) : BitVec.ofNat 64 ((BitVec.ofNat 64 (p.toNat * 2 ^ 16 + e.toNat * 2 ^ 17)).toNat / 2 ^ (8 * 0) %
    2 ^ (8 * 2)) = 0 := by cases p <;> cases e <;> rfl
theorem control_err (p e : Bool) : (BitVec.ofNat 64 ((BitVec.ofNat 64 (p.toNat * 2 ^ 16 + e.toNat * 2 ^ 17)).toNat / 2 ^ (8 * 0) %
    2 ^ (8 * 4))).getLsbD 17 = e := by cases p <;> cases e <;> rfl

/-- HCRESET with no command under way takes back the acceptance at once. -/
theorem State.hcreset_idle (s : State) (h : s.host.started = []) : s.hcreset.host.accepted = none := by
  simp [State.hcreset, h]

theorem inHolm_iff (pa : Nat) : inHolm pa = true ↔ 0x30000000000 ≤ pa ∧ pa < 0x30020000000 := by simp [inHolm]

/-- Eight aligned bytes taken over from another memory. -/
theorem Memory.byte_putBytes_word {m : Memory} (h : m.wf = true) (n : Memory) (pa a : Nat) :
    (m.putBytes (pa / 8 * 8) (n.bytes (pa / 8 * 8) 8)).byte a = if pa / 8 = a / 8 then n.byte a else m.byte a := by
  rw [Memory.byte_putBytes _ m _ a h, n.bytes_eq, List.length_map, List.length_range]
  by_cases hk : pa / 8 = a / 8
  · have hlt : a - pa / 8 * 8 < 8 := by omega
    rw [if_pos (by omega), if_pos hk, List.getD_eq_getElem?_getD, List.getElem?_map, List.getElem?_range hlt]
    exact congrArg n.byte (by omega)
  · rw [if_neg (by omega), if_neg hk]

end Sys2Proof.Machine

namespace Sys2Proof.Spec
open Sys2Proof.Machine

/-- The offset that an access adds to its base. -/
theorem offset_eq (off : BitVec 12) : BitVec.ofInt 64 off.toInt = off.signExtend 64 := rfl

theorem deviceRegisters : DeviceRegisters := by
  intro pa s
  refine ⟨fun ha v w hv hw => ?_, fun d a off z hi hf hd hl => ?_, fun d a off z ⟨hs, hi⟩ hf hd hl => ?_,
    fun o c hdr hd => ⟨fun z hl => ?_, fun z hl => ?_⟩, fun n v hn ha hp => ?_, fun n v h => ?_,
    fun v => ⟨?_, ?_, ?_, fun hst => ?_⟩, ?_, ?_, ?_, ?_, fun a => ⟨?_, ?_, ?_⟩⟩
  · rw [s.devStore_word ha hv]
    exact ⟨devRead_devWrite s _ _ w hw, s.devWrite_frame _ _ _⟩
  · refine ⟨_, ?_, rfl⟩
    rw [exec_ld, State.loadOr, s.waits_ready _ _ hi, ← offset_eq, State.scalarLoad_device hd hf hl, State.scalarTry_ok]
    rfl
  · refine ⟨_, ?_, rfl⟩
    rw [exec_st, s.held_ready _ hs hi, ← offset_eq, State.scalarStore_device hd hf hl, State.scalarTry_ok, State.devStore_mySc]
  · exact trapsWith_of_scalarTrap .xlatePerm _ hdr
      (by rw [exec_ldAcq, s.loadOr_drained _ hdr, State.scalarLoad_device_ordered hd hl, State.scalarTry_error])
  · exact trapsWith_of_scalarTrap .xlatePerm _ hdr
      (by rw [exec_stRel, s.heldRel_drained _ hdr, State.scalarStore_device_ordered hd hl, State.scalarTry_error])
  · exact ⟨_, execRegisterWrite_device hn ha hp v s, rfl⟩
  · exact ⟨_, execRegisterWrite_misaligned h v s, rfl⟩
  · exact ⟨_, rfl, congrArg (· &&& ~~~0x3FFFFFFF#64) (merge_word _ v rfl)⟩
  · exact ⟨_, rfl, merge_word _ v rfl⟩
  · exact ⟨_, rfl, congrArg (BitVec.setWidth 12) (merge_word _ v rfl)⟩
  · exact ⟨_, rfl, s.hcreset_idle hst⟩
  · exact (s.hostRead_reg (by simp) rfl (by decide) rfl).trans rfl
  · exact (s.hostRead_reg (by simp) rfl (by decide) rfl).trans rfl
  · exact s.hostRead_word rfl (by decide) rfl
  · exact s.hostRead_word rfl (by decide) rfl
  · exact s.hostRead_word (by omega) (by omega) (s.host.reg_qcb a)
  · have h8 : (0x028 + 16 * a.val) / 8 * 8 = 0x028 + 16 * a.val := by omega
    rw [s.hostRead_reg (by simp) (by omega) (by omega) (h8.symm ▸ s.host.reg_control a),
      show (0x028 + 16 * a.val) % 8 = 0 by omega]
    exact control_acount _ _
  · have h8 : (0x028 + 16 * a.val) / 8 * 8 = 0x028 + 16 * a.val := by omega
    rw [s.hostRead_reg (by simp) (by omega) (by omega) (h8.symm ▸ s.host.reg_control a),
      show (0x028 + 16 * a.val) % 8 = 0 by omega]
    exact control_err _ _

theorem registerEvents : RegisterEvents := by
  refine ⟨fun k v s => ⟨_, rfl, ?_⟩, fun c v s => ⟨_, rfl, rfl⟩, fun d v s => ⟨_, rfl, rfl⟩, fun d v s => ⟨_, rfl, rfl⟩,
    fun pa s hc => ⟨fun h1 h2 => ?_, fun h => ?_⟩⟩
  · rfl
  · exact ⟨_, if_pos ((inHolm_iff pa).2 ⟨h1, h2⟩), rfl, fun a => Memory.byte_putBytes_word hc.2.1 s.mem pa a⟩
  · exact ⟨_, if_neg fun hh => by have := (inHolm_iff pa).1 hh; omega, rfl⟩

end Sys2Proof.Spec

namespace Sys2Proof.Proofs
open Sys2Proof.Machine Sys2Proof.Spec

/-- Settles O50: the registers as accesses reach them, and those that events write. -/
theorem registersOutsideTheCores : Obligations.RegistersOutsideTheCores := ⟨deviceRegisters, registerEvents⟩

end Sys2Proof.Proofs

/-! PROOFS. O60, first part: what an operation leaves of the other contexts and of the privilege of the one that acts. -/
namespace Sys2Proof.Machine

/-! ### The seat of a context -/

/-- What decides how privileged a scalar side is: its level, and where a trap of it goes. -/
def Scalar.level (sc : Scalar) : Bool × Word64 := (sc.sup, sc.stvec)

/-- What no instruction but a trap may touch: which context acts, every other context, and the privilege of the one that acts. -/
structure Seat where
  cur    : CtxIx
  others : CtxIx → Option Context
  level  : Bool × Word64

/-- The seat of a state. -/
def State.seat (s : State) : Seat := ⟨s.cur, fun c => if c = s.cur then none else some (s.ctx c), s.mySc.level⟩

theorem State.cur_of_seat {s t : State} (h : t.seat = s.seat) : t.cur = s.cur := congrArg Seat.cur h
theorem State.level_of_seat {s t : State} (h : t.seat = s.seat) : t.mySc.level = s.mySc.level := congrArg Seat.level h
theorem State.ctx_of_seat {s t : State} (h : t.seat = s.seat) {c : CtxIx} (hc : c ≠ s.cur) : t.ctx c = s.ctx c := by
  have ho : (if c = t.cur then none else some (t.ctx c)) = if c = s.cur then none else some (s.ctx c) :=
    congrFun (congrArg Seat.others h) c
  rw [State.cur_of_seat h, if_neg hc, if_neg hc] at ho
  exact Option.some.inj ho

theorem State.seat_of_ctxs {s t : State} (hx : t.ctxs = s.ctxs) (hc : t.cur = s.cur) : t.seat = s.seat := by
  simp only [State.seat, State.mySc, State.sc, State.ctx, hx, hc]
theorem State.seat_of_tasks {s t : State} (h : t.tasks = s.tasks) : t.seat = s.seat :=
  State.seat_of_ctxs (State.ctxs_of_tasks h) (State.cur_of_tasks h)
theorem LoadKeeps.seat {s t : State} (h : LoadKeeps s t) : t.seat = s.seat := State.seat_of_ctxs h.ctxs h.cur

/-- A change of the context that acts keeps the seat where it keeps the privilege. -/
theorem State.setMe_seat {s : State} {x : Context} (h : x.regs.sc.level = s.mySc.level) : (s.setMe x).seat = s.seat := by
  have hme : (s.setMe x).mySc = x.regs.sc := congrArg (·.regs.sc) (s.setCtx_same s.cur x)
  have ho (c : CtxIx) : (if c = s.cur then none else some ((s.setMe x).ctx c)) = if c = s.cur then none else some (s.ctx c) := by
    split
    · rfl
    · next hc => rw [s.setCtx_ne _ _ _ hc]
  simp only [State.seat, hme, h, Seat.mk.injEq, and_true]
  exact ⟨rfl, funext ho⟩
theorem State.setCtx_seat {s : State} {c : CtxIx} (hc : c = s.cur) {x : Context} (h : x.regs.sc.level = s.mySc.level) :
    (s.setCtx c x).seat = s.seat := by
  subst hc
  exact State.setMe_seat h
theorem State.setMySc_seat {s : State} {sc : Scalar} (h : sc.level = s.mySc.level) : (s.setMySc sc).seat = s.seat :=
  State.setMe_seat h

@[simp] theorem Scalar.wx_level (sc : Scalar) (d : XReg) (v : Word64) : (sc.wx d v).level = sc.level := by rw [Scalar.wx_eq]; rfl
@[simp] theorem Scalar.wxAs_level (sc : Scalar) (inh : Bool) (d : XReg) (v : Word64) : (sc.wxAs inh d v).level = sc.level := by
  unfold Scalar.wxAs; split
  · rfl
  · exact sc.wx_level d v
@[simp] theorem Scalar.retire_level (sc : Scalar) : sc.retire.level = sc.level := rfl
@[simp] theorem Scalar.replay_level (sc : Scalar) : sc.replay.level = sc.level := by unfold Scalar.replay; split <;> rfl
@[simp] theorem Scalar.pop_level (sc : Scalar) (d : XReg) : (sc.pop d).level = sc.level := by
  unfold Scalar.pop; split
  · rfl
  · exact Scalar.wx_level _ d _
theorem Scalar.advance_level (p : XReg) (vl n : Nat) : ∀ (sc : Scalar) (k : Nat), (sc.advance p vl k n).level = sc.level := by
  induction n with
  | zero => exact fun _ _ => rfl
  | succ n ih => exact fun sc k => (ih _ _).trans (sc.wx_level _ _)

/-! ### The operations of the lanes -/

section
variable (s : State)

@[simp] theorem State.setV_seat (r : VReg) (x : VBits) : (s.setV r x).seat = s.seat := State.setMe_seat rfl
@[simp] theorem State.setM_seat (r : MReg) (x : MBits) : (s.setM r x).seat = s.seat := State.setMe_seat rfl
@[simp] theorem State.setW_seat (r : WReg) (x : VBits) : (s.setW r x).seat = s.seat := State.setMe_seat rfl
@[simp] theorem State.setAcc_seat (a : AccIx) (x : Vector (BitVec 4096) 128) : (s.setAcc a x).seat = s.seat := State.setMe_seat rfl
@[simp] theorem State.setFeed_seat (f : FeedIx) (x : FeedSlot) : (s.setFeed f x).seat = s.seat := State.setMe_seat rfl
@[simp] theorem State.setCore_seat (k : CoreIx) (x : Core) : (s.setCore k x).seat = s.seat := rfl
@[simp] theorem State.setQuad_seat (q : QuadIx) (x : Quad) : (s.setQuad q x).seat = s.seat := rfl
@[simp] theorem State.setMe_parked_seat (p : Option Instr) : (s.setMe { s.me with parked := p }).seat = s.seat := State.setMe_seat rfl
@[simp] theorem State.setMe_block_seat (b : Option Block) : (s.setMe { s.me with block := b }).seat = s.seat := State.setMe_seat rfl
@[simp] theorem State.setMe_viq_seat (q : List Entry) : (s.setMe { s.me with viq := q }).seat = s.seat := State.setMe_seat rfl
/-- An effect on the scalar side and every checkpoint. -/
theorem State.every_seat {f : Scalar → Scalar} (h : ∀ sc, (f sc).level = sc.level) : (s.every f).seat = s.seat :=
  State.setMe_seat (h _)
@[simp] theorem State.entryFlags_seat (f : BitVec 8) : (s.entryFlags f).seat = s.seat := s.every_seat fun _ => rfl
@[simp] theorem State.keepDone_seat (e : Entry) (n : Nat) : (s.keepDone e n).seat = s.seat := State.setMe_seat rfl
@[simp] theorem State.freeAcc_seat : s.freeAcc.seat = s.seat := State.setMe_seat rfl
@[simp] theorem State.zeroVstart_seat : s.zeroVstart.seat = s.seat := by
  unfold State.zeroVstart; split
  · rfl
  · exact State.setMySc_seat rfl

theorem ite_seat {p : Prop} [Decidable p] {s t u : State} (ht : t.seat = s.seat) (hu : u.seat = s.seat) :
    (if p then t else u).seat = s.seat := by
  split_ifs <;> assumption
theorem foldl_seat {α : Type} (f : State → α → State) (hf : ∀ s x, (f s x).seat = s.seat) (xs : List α) (s : State) :
    (xs.foldl f s).seat = s.seat := by
  induction xs generalizing s with
  | nil => rfl
  | cons x xs ih => rw [List.foldl_cons, ih, hf]
/-- The same where something else is carried along. -/
theorem foldl_fst_seat {α β : Type} (f : State × β → α → State × β) (hf : ∀ y x, (f y x).1.seat = y.1.seat) (xs : List α)
    (y : State × β) : (xs.foldl f y).1.seat = y.1.seat := by
  induction xs generalizing y with
  | nil => rfl
  | cons x xs ih => rw [List.foldl_cons, ih, hf]

@[simp] theorem State.grantRows_seat (inh : Bool) (d : XReg) (g : Nat) : (s.grantRows inh d g).seat = s.seat := by
  unfold State.grantRows
  dsimp only
  rw [State.every_seat _ fun sc => by rw [Scalar.wxAs_level]; rfl]
  exact ite_seat s.freeAcc_seat rfl

@[simp] theorem State.storeLoc_seat (c : Option CoreIx) (l : Loc) (bs : List Byte) : (s.storeLoc c l bs).seat = s.seat :=
  State.seat_of_tasks (s.storeLoc_tasks c l bs)
@[simp] theorem State.storeLe_seat (c : Option CoreIx) (l : Loc) (n x : Nat) : (s.storeLe c l n x).seat = s.seat :=
  s.storeLoc_seat c l _
@[simp] theorem State.writeElem_seat (c : CoreIx) (l : Loc) (i w x : Nat) : (s.writeElem c l i w x).seat = s.seat :=
  State.seat_of_tasks (s.writeElem_tasks c l i w x)
@[simp] theorem State.storeSpan_seat (c : Option CoreIx) (ps : List (Loc × Nat)) (bs : List Byte) :
    (s.storeSpan c ps bs).seat = s.seat := by
  induction ps generalizing s bs with
  | nil => rfl
  | cons p ps ih => rw [State.storeSpan, ih, State.storeLoc_seat]
@[simp] theorem State.drainStores_seat (ss : List (Nat × List Byte)) : (s.drainStores ss).seat = s.seat :=
  State.seat_of_tasks (s.drainStores_tasks ss)
@[simp] theorem State.partialBytes_seat (c : CoreIx) (g : Agent) (a : Word64) (bs : List Byte) :
    (s.partialBytes c g a bs).seat = s.seat := by
  induction bs generalizing s a with
  | nil => rfl
  | cons b bs ih =>
    rw [State.partialBytes, ih]
    split
    · exact ite_seat (State.storeLoc_seat _ _ _ _) rfl
    · rfl

@[simp] theorem State.fillTlb_seat (g : Agent) (a : Word64) : (s.fillTlb g a).seat = s.seat := (s.fillTlb_loadKeeps g a).seat
@[simp] theorem State.fillAddrs_seat (g : Agent) (as : List Word64) : (s.fillAddrs g as).seat = s.seat :=
  (s.fillAddrs_loadKeeps g as).seat
@[simp] theorem State.fillSpan_seat (g : Agent) (a : Word64) (n : Nat) : (s.fillSpan g a n).seat = s.seat :=
  ite_seat rfl (s.fillAddrs_seat _ _)
@[simp] theorem State.readAt_seat (k : Option CoreIx) (l : Loc) (n : Nat) : (s.readAt k l n).seat = s.seat :=
  (s.readAt_loadKeeps k l n).seat
@[simp] theorem State.accessAt_seat (g : Agent) (as : List Word64) : (s.accessAt g as).seat = s.seat := by
  refine ite_seat (s.fillAddrs_seat g as) ((foldl_seat _ (fun s a => ?_) _ _).trans (s.fillAddrs_seat g as))
  split
  · exact s.readAt_seat _ _ _
  · rfl
@[simp] theorem State.fillTlbs_seat (g : Agent) (addrs : Nat → List Word64) (ls : Located) : (s.fillTlbs g addrs ls).seat = s.seat :=
  s.accessAt_seat g _
@[simp] theorem State.bitmapFill_seat (g : Agent) (a : Word64) (levels w base : Nat) (is : List Nat) :
    (s.bitmapFill g a levels w base is).seat = s.seat := ite_seat (s.fillAddrs_seat g _) rfl

@[simp] theorem State.ferryRun_seat (g : Agent) (i : FeedIx) (f : FeedSlot) : (s.ferryRun g i f).seat = s.seat :=
  (State.accessAt_seat _ _ _).trans (s.setFeed_seat _ _)
@[simp] theorem State.feedFlush_seat (g : Agent) (f : FeedIx) (force : Bool) : (s.feedFlush g f force).seat = s.seat := by
  have hout : (s.ferryOut g (CtxIx.core s.cur) (s.feed f)).1.seat = s.seat := State.seat_of_tasks (s.ferryOut_tasks g _ _)
  exact ite_seat rfl ((State.setFeed_seat _ _ _).trans hout)
theorem State.feedFault_seat {f : FeedIx} {t : State} {x : Trap} (h : s.feedFault f = some (t, x)) : t.seat = s.seat := by
  unfold State.feedFault at h
  split at h
  · cases h; exact s.setFeed_seat _ _
  · cases h

@[simp] theorem State.owe_seat (k n : Nat) : (s.owe k n).seat = s.seat := rfl
@[simp] theorem State.oweRecord_seat (g : Agent) (r : BitVec 512) (bo : Option Loc) (n : Nat) :
    (s.oweRecord g r bo n).seat = s.seat := by
  cases bo with
  | none => rfl
  | some l => exact (State.fillAddrs_seat _ _ _).trans (s.owe_seat _ _)
@[simp] theorem State.complete_seat (c : Completion) (x : CountAdd) : (s.complete c x).seat = s.seat := by
  cases c with
  | signal k => exact State.seat_of_tasks (s.signalSub_tasks _ _)
  | none => rfl
  | barrier k => rfl
@[simp] theorem State.nsendFill_seat (g : Agent) (o : NsendArgs) (sc : Scalar) (n len : Nat) :
    (s.nsendFill g o sc n len).seat = s.seat := by
  unfold State.nsendFill
  dsimp only
  split <;> split <;> simp
@[simp] theorem State.transmit_seat (p : PortIx) (vc id : Nat) (h : BitVec 512) (bs : List Byte) :
    (s.transmit p vc id h bs).seat = s.seat := rfl

theorem State.failSend_seat (x : Nsend) : (s.failSend x).seat = s.seat := by
  refine (State.seat_of_tasks (State.faultRecord_tasks _ _ _)).trans ?_
  split
  · exact State.seat_of_tasks (State.signalFail_tasks _ _)
  · rfl
@[simp] theorem State.quantError_seat (j : QuantJob) : (s.quantError j).seat = s.seat := by
  unfold State.quantError
  split
  · rfl
  · rw [State.failSend_seat, State.seat_of_tasks (State.faultRecord_tasks _ _ _)]
theorem State.readBlock_seat (j : QuantJob) : (s.readBlock j).1.seat = s.seat := by
  unfold State.readBlock
  extract_lets k ss rs sp rp raw j' xs
  split
  · exact s.quantError_seat j
  · split
    · rfl
    · exact ite_seat (s.storeSpan_seat _ _ _) rfl
theorem State.jobStep_seat (j : QuantJob) : (s.jobStep j).1.seat = s.seat := by
  unfold State.jobStep
  split
  · rfl
  · split
    · exact s.readBlock_seat j
    · split <;> rfl
theorem State.runJob_seat (n : Nat) : ∀ (s : State) (j : QuantJob), (State.runJob n s j).1.seat = s.seat := by
  induction n with
  | zero => exact fun _ _ => rfl
  | succ n ih =>
    intro s j
    have hstep := s.jobStep_seat j
    unfold State.runJob
    split
    · rfl
    · split
      · next h => rw [h] at hstep; exact hstep
      · next h => rw [h] at hstep; exact (ih _ _).trans hstep
theorem State.runJobs_seat (js : List QuantJob) : ∀ s : State, (s.runJobs js).1.seat = s.seat := by
  induction js with
  | nil => exact fun _ => rfl
  | cons j js ih =>
    intro s
    have hrun := State.runJob_seat (j.n + 8) s j
    unfold State.runJobs
    split
    · next h => rw [h] at hrun; exact hrun
    · next h => rw [h] at hrun; exact (ih _).trans hrun
@[simp] theorem State.pump_seat (p : PortIx) : (s.pump p).seat = s.seat := State.runJobs_seat _ _

theorem State.storeRows_seat (g : Agent) (r : BitVec 512) (size : Nat) (cols : List Nat) (cell : State → Nat → Nat → Nat × Flags)
    (rows : List Nat) : (s.storeRows g r size cols cell rows).1.seat = s.seat := by
  induction rows generalizing s with
  | nil => rfl
  | cons row rows ih =>
    unfold State.storeRows
    split
    · rfl
    · exact (ih _).trans (foldl_fst_seat _ (fun y p => by simp) _ _)

/-- Nor does the fetch of a block change it. -/
theorem FetchKeeps.seat {s t : State} (h : FetchKeeps s t) : t.seat = s.seat := by
  simp only [State.seat, h.cur, h.mySc, Seat.mk.injEq, true_and, and_true]
  refine funext fun c => ?_
  split
  · rfl
  · next hc => rw [h.others c hc]

end
end Sys2Proof.Machine

/-! PROOFS. O60, second part: an entry works in the seat of its context. -/
namespace Sys2Proof.Machine

/-! ### Entries -/

/-- What an entry comes to is in seat `c`. Kept folded, so that the kernel compares no block of bytes with another. -/
def PerfOut.In (c : Seat) (r : PerfOut) : Prop := r.state.seat = c

section
variable {c : Seat} {t : State}

theorem PerfOut.In.trap (h : t.seat = c) (x : Trap) (f : BitVec 8) (b : Bool) : (PerfOut.trap t x f b).In c := h
theorem PerfOut.In.done (h : t.seat = c) : (PerfOut.done t).In c := h
theorem PerfOut.In.wait (h : t.seat = c) : (PerfOut.wait t).In c := h
theorem PerfOut.In.of (h : t.seat = c) (x : Option Trap) : (PerfOut.of t x).In c := by cases x <;> exact h
theorem PerfOut.In.flagged (h : t.seat = c) (f : BitVec 8) (x : Option Trap) : (PerfOut.flagged t f x).In c := by
  cases x with
  | none => exact (t.entryFlags_seat f).trans h
  | some x => exact h
theorem PerfOut.In.ite {p : Prop} [Decidable p] {a b : PerfOut} (ha : a.In c) (hb : b.In c) : (if p then a else b).In c := by
  split
  · exact ha
  · exact hb

end

/-- An entry that traps before it has done anything. -/
theorem PerfOut.In.trapped {s : State} {x : Trap} {f : BitVec 8} {b : Bool} : (PerfOut.trap s x f b).In s.seat := rfl
theorem PerfOut.In.waits {s : State} : (PerfOut.wait s).In s.seat := rfl

/-- An entry that works in the seat of its context. -/
def Sits (p : Perf) : Prop := ∀ e s, (p e s).In s.seat

section
variable (s : State) (e : Entry)

theorem State.vload_seat (w : Nat) (m : MSel) (regs : List VReg) (addrs : Nat → List Word64) :
    (s.vload e w m regs addrs).In s.seat := by
  unfold State.vload
  dsimp only
  refine .of ((foldl_seat _ (fun s r => ?_) _ _).trans (s.fillTlbs_seat _ _ _)) _
  exact s.setV_seat _ _

theorem State.vstore_seat (w : Nat) (m : MSel) (regs : List VReg) (addrs : Nat → List Word64) (ntf : Bool) :
    (s.vstore e w m regs addrs ntf).In s.seat := by
  unfold State.vstore
  dsimp only
  split
  · exact .trapped
  · refine .of ?_ _
    split
    · rw [State.fillAddrs_seat, State.storeLe_seat, foldl_seat _ fun s p => foldl_seat _ (fun _ _ => State.writeElem_seat _ _ _ _ _ _) _ _,
        State.fillTlbs_seat]
    · rw [foldl_seat _ fun s p => foldl_seat _ (fun _ _ => State.writeElem_seat _ _ _ _ _ _) _ _, State.fillTlbs_seat]

theorem Entry.needTile_seat (k : Unit → PerfOut) (h : (k ()).In s.seat) : (e.needTile s k).In s.seat := .ite h .trapped

end

theorem sits_perfNone : Sits perfNone := fun _ _ => .done rfl
theorem sits_perfMdet : Sits perfMdet := fun _ s => .done (s.every_seat fun _ => rfl)

theorem sits_perfLoad (v : VReg) (m : MSel) (w : Scalar → Nat) (unit idx : Bool) (addr : State → Scalar → Nat → Word64) :
    Sits (perfLoad v m w unit idx addr) := fun e s => .ite .trapped (s.vload_seat e _ _ _ _)
theorem sits_perfStore (v : VReg) (m : MSel) (w : Scalar → Nat) (unit idx ntf : Bool) (addr : State → Scalar → Nat → Word64) :
    Sits (perfStore v m w unit idx ntf addr) := fun e s => .ite .trapped (s.vstore_seat e _ _ _ _ _)
theorem sits_perfVldg (o : VMem) (n : Fin 9) : Sits (perfVldg o n) := fun e s => .ite .trapped (s.vload_seat e _ _ _ _)
theorem sits_perfVstg (o : VStore) (n : Fin 9) (ntf : Bool) : Sits (perfVstg o n ntf) := fun e s =>
  .ite .trapped (s.vstore_seat e _ _ _ _ _)
theorem sits_perfVld2 (o : VMem) : Sits (perfVld2 o) := fun e s => by
  refine .ite .trapped ?_
  split
  · exact .trapped
  · exact .ite .trapped (s.vload_seat e _ _ _ _)
theorem sits_perfVst2 (o : VStore) (ntf : Bool) : Sits (perfVst2 o ntf) := fun e s => by
  refine .ite .trapped ?_
  split
  · exact .trapped
  · exact .ite .trapped (s.vstore_seat e _ _ _ _ _)

theorem sits_perfVsplat (o : VMem) : Sits (perfVsplat o) := fun e s => by
  refine .ite .trapped ?_
  split
  · exact .done (s.setV_seat _ _)
  · exact .trap (s.setV_seat _ _) _ _ _

theorem sits_perfSetfib (mo : MReg) : Sits (perfSetfib mo) := fun _ s => .done (s.setM_seat _ _)

theorem sits_perfVldb (v : VReg) (a b : XReg) (mo : MReg) (ew : EwSel) : Sits (perfVldb v a b mo ew) := fun e s => by
  refine .ite .trapped ?_
  split
  · exact .trapped
  · refine .ite .trapped (.of ?_ _)
    rw [State.setM_seat, State.setV_seat, State.bitmapFill_seat]

theorem sits_perfVldw (v : VReg) (a : XReg) (x : VReg) (mo : MReg) (ew : EwSel) : Sits (perfVldw v a x mo ew) := fun e s => by
  unfold perfVldw
  dsimp only
  split
  · exact .trapped
  · refine .ite .trapped (.ite .trapped (.of ?_ _))
    rw [State.setM_seat, State.setV_seat, State.setV_seat, State.accessAt_seat]

theorem sits_perfVldxAcq (v : VReg) (a : XReg) (x : VReg) (m : MSel) (c : Scope) : Sits (perfVldxAcq v a x m c) := fun e s => by
  unfold perfVldxAcq
  dsimp only
  refine .ite .trapped (.of ?_ _)
  rw [State.setM_seat, State.setV_seat, State.fillTlbs_seat]

theorem sits_perfVstb (o : VStore) (b : XReg) (ntf : Bool) : Sits (perfVstb o b ntf) := fun e s => by
  unfold perfVstb
  refine .ite .trapped (.ite .trapped ?_)
  split
  · exact .trapped
  · extract_lets -underBinder g src val block
    clear_value block val src g
    split
    · exact .trap (s.partialBytes_seat _ _ _ _) _ _ _
    · apply PerfOut.In.done
      split
      · rw [State.fillAddrs_seat, State.storeLe_seat, State.fillSpan_seat, State.storeSpan_seat]
      · rw [State.fillSpan_seat, State.storeSpan_seat]

theorem sits_perfVamo (o : VamoArgs) : Sits (perfVamo o) := fun e s => by
  unfold perfVamo
  dsimp only
  split
  · exact .trapped
  · refine .ite .trapped (.of ((foldl_seat _ (fun s p => ?_) _ _).trans (s.fillTlbs_seat _ _ _)) _)
    split
    · rw [State.setV_seat, State.storeLe_seat]
    · rfl

theorem sits_perfVsred (o : VStore) (op : SredOp) : Sits (perfVsred o op) := fun e s => by
  unfold perfVsred
  dsimp only
  split
  · exact .trapped
  · refine .ite .trapped (.flagged ((foldl_fst_seat _ (fun y p => ?_) _ _).trans (s.fillTlbs_seat _ _ _)) _ _)
    split
    · exact State.storeLe_seat _ _ _ _ _
    · rfl

theorem sits_perfVrred (o : VStore) (t : RredT) (ntf ord : Bool) : Sits (perfVrred o t ntf ord) := fun e s => by
  unfold perfVrred
  dsimp only
  split
  · exact .trapped
  · refine .ite .trapped ?_
    split
    · exact .trapped
    · split
      · exact .trapped
      · refine .ite ?_ (.ite ?_ ?_)
        · split
          · exact .trap (s.fillAddrs_seat _ _) _ _ _
          · exact .trap (s.fillAddrs_seat _ _) _ _ _
          · split
            · exact .trap (s.fillAddrs_seat _ _) _ _ _
            · refine .ite (.trap (s.fillAddrs_seat _ _) _ _ _) (.ite (.of ?_ _) (.ite (.wait (s.fillAddrs_seat _ _)) (.of ?_ _)))
              · rw [State.fillAddrs_seat]
              · rw [State.transmit_seat]
                exact s.fillAddrs_seat _ _
        · refine .of ?_ _
          rw [State.fillAddrs_seat]
        · refine .of ?_ _
          exact s.fillAddrs_seat _ _

theorem sits_perfFcfg (f : FeedIx) (a b : XReg) (k : Fin 16) (out : Bool) (ew : EwSel) : Sits (perfFcfg f a b k out ew) := fun e s => by
  refine .ite .trapped (.ite .trapped (.ite .trapped (.ite .trapped (.done ?_))))
  exact ite_seat (s.setFeed_seat _ _) (s.ferryRun_seat _ _ _)

theorem sits_perfFld (v : VReg) (f : FeedIx) : Sits (perfFld v f) := fun e s => by
  refine .ite .trapped (.ite .trapped ?_)
  split
  · exact .trap (s.setFeed_seat _ _) _ _ _
  · refine .ite (.done rfl) (.done ?_)
    exact ite_seat ((State.setFeed_seat _ _ _).trans (s.setV_seat _ _)) ((State.ferryRun_seat _ _ _ _).trans (s.setV_seat _ _))

theorem sits_perfFst (v : VReg) (f : FeedIx) : Sits (perfFst v f) := fun e s => by
  refine .ite .trapped (.ite .trapped (.ite .trapped ?_))
  split
  · next h => exact .trap (s.feedFault_seat h) _ _ _
  · dsimp only
    split
    · next h => exact .trap ((State.feedFault_seat _ h).trans (s.feedFlush_seat _ _ _)) _ _ _
    · exact .done ((State.feedFlush_seat _ _ _ _).trans ((State.setFeed_seat _ _ _).trans (s.feedFlush_seat _ _ _)))

theorem sits_perfFend (f : FeedIx) (a : XReg) : Sits (perfFend f a) := fun e s => by
  unfold perfFend
  dsimp only
  refine .ite (.ite .trapped (.done (s.setFeed_seat _ _))) (.ite .trapped ?_)
  split
  · next h => exact .trap (s.feedFault_seat h) _ _ _
  · split
    · next h => exact .trap ((State.feedFault_seat _ h).trans (s.feedFlush_seat _ _ _)) _ _ _
    · have hfeed (x : FeedSlot) : ((s.feedFlush (e.agent s.cur) f false).setFeed f x).seat = s.seat :=
        (State.setFeed_seat _ _ _).trans (s.feedFlush_seat _ _ _)
      refine .ite ?_ (.done (hfeed _))
      split
      · exact .trap (s.feedFlush_seat _ _ _) _ _ _
      · exact .done ((State.fillAddrs_seat _ _ _).trans (hfeed _))

theorem sits_perfApush (a b : XReg) (tag : Byte) : Sits (perfApush a b tag) := fun e s => by
  unfold perfApush
  dsimp only
  refine .ite .trapped ?_
  split
  · exact .trapped
  · split
    · exact .trapped
    · apply PerfOut.In.done
      rw [State.fillSpan_seat, State.fillSpan_seat, State.storeSpan_seat]

theorem sits_perfApop (o : X3) (tag : Byte) : Sits (perfApop o tag) := fun e s => by
  unfold perfApop
  dsimp only
  refine .ite .trapped ?_
  split
  · exact .trapped
  · refine .ite .trapped ?_
    split
    · exact .trapped
    · split
      · exact .trapped
      · apply PerfOut.In.done
        rw [State.every_seat _ fun sc => ?_, State.fillSpan_seat, State.fillSpan_seat, State.fillSpan_seat, State.storeSpan_seat]
        exact Scalar.wxAs_level _ _ _ _

theorem sits_perfNsend (o : NsendArgs) : Sits (perfNsend o) := fun e s => by
  unfold perfNsend
  split
  · exact .trapped
  · dsimp only
    split
    · exact .done ((State.complete_seat _ _ _).trans (s.nsendFill_seat _ _ _ _ _))
    · exact .done ((State.pump_seat _ _).trans (s.nsendFill_seat _ _ _ _ _))

theorem sits_perfMatt (o : X2) : Sits (perfMatt o) := fun _ s => .ite .trapped (.done (s.grantRows_seat _ _ _))
theorem sits_perfMattB (o : X2) : Sits (perfMattB o) := fun e s => by
  refine .ite .trapped (.ite (.done (s.grantRows_seat _ _ _)) (.ite (.wait ?_) (.done (State.grantRows_seat _ _ _ _))))
  exact ite_seat rfl rfl
theorem sits_perfMten : Sits perfMten := fun _ s => .ite (.done (s.every_seat fun _ => rfl)) .trapped
theorem sits_perfMtdis : Sits perfMtdis := fun _ s => by
  refine .ite (.done (Eq.trans (State.every_seat _ ?_) s.freeAcc_seat)) (.done rfl)
  exact fun _ => rfl
theorem sits_perfMzero (a : AccIx) : Sits (perfMzero a) := fun e s => e.needTile_seat s _ (.done (s.setAcc_seat _ _))
theorem sits_perfMopa (a : AccIx) (v : VSrc) (k : Fin 512) (mr mc : MSel) : Sits (perfMopa a v k mr mc) := fun e s =>
  e.needTile_seat s _ (.ite .trapped (.done ((State.entryFlags_seat _ _).trans (s.setAcc_seat _ _))))
theorem sits_perfMopav (a : AccIx) (v : VSrc) (b : VReg) (mr mc : MSel) (t : MatT) : Sits (perfMopav a v b mr mc t) := fun e s =>
  e.needTile_seat s _ (.done ((State.entryFlags_seat _ _).trans (s.setAcc_seat _ _)))
theorem sits_perfMrds (a : AccIx) (v : VReg) (i : Fin 128) (col : Bool) : Sits (perfMrds a v i col) := fun e s =>
  e.needTile_seat s _ (.ite (.done (s.setV_seat _ _)) (.ite .trapped (.done (s.setV_seat _ _))))
theorem sits_perfMwrs (a : AccIx) (v : VSrc) (i : Fin 128) (col : Bool) : Sits (perfMwrs a v i col) := fun e s =>
  e.needTile_seat s _ (.ite (.done (s.setAcc_seat _ _)) (.ite .trapped (.done (s.setAcc_seat _ _))))

theorem sits_perfMstt (o : MsArgs) : Sits (perfMstt o) := fun e s => by
  refine e.needTile_seat s _ ?_
  split
  · exact .trapped
  · dsimp only
    split
    · split
      · exact .trapped
      · split
        · exact .trap ((State.keepDone_seat _ _ _).trans (s.storeRows_seat _ _ _ _ _ _)) _ _ _
        · exact .done ((State.entryFlags_seat _ _).trans ((State.oweRecord_seat _ _ _ _ _).trans (s.storeRows_seat _ _ _ _ _ _)))
    · exact .trapped

theorem sits_perfMgacc (o : MsArgs) : Sits (perfMgacc o) := fun e s => by
  refine e.needTile_seat s _ ?_
  split
  · exact .trapped
  · dsimp only
    split
    · exact .done (State.entryFlags_seat _ _)
    · exact .trapped

theorem sits_perfMgst (a : XReg) : Sits (perfMgst a) := fun e s => by
  unfold perfMgst
  refine .ite .trapped ?_
  split
  · exact .trapped
  · dsimp only
    split
    · refine .ite .waits ?_
      split
      · exact .trapped
      · split
        · exact .trapped
        · have hrows := s.storeRows_seat (e.unitAgent s.cur)
          split
          · exact .trap ((State.keepDone_seat _ _ _).trans (hrows _ _ _ _ _)) _ _ _
          · apply PerfOut.In.done
            rw [State.entryFlags_seat, State.fillAddrs_seat, State.oweRecord_seat, State.setQuad_seat, State.storeLe_seat, State.storeLe_seat]
            exact hrows _ _ _ _ _
    · exact .trapped

theorem sits_perfMwld (a : XReg) (l : Option (Fin 16)) : Sits (perfMwld a l) := fun e s => by
  unfold perfMwld
  dsimp only
  refine .ite .trapped (.ite .waits ?_)
  split
  · exact .trapped
  · split
    · exact .trapped
    · refine .ite .trapped (.ite .trapped ?_)
      split
      · exact .trapped
      · exact .ite (.wait (s.fillSpan_seat _ _ _)) (.done (s.fillSpan_seat _ _ _))

theorem State.startBlock_seat (s : State) (e : Entry) (a : Word64) : (s.startBlock e a).In s.seat := by
  refine .ite (.done (s.drainStores_seat _)) (.ite .trapped (.ite .waits ?_))
  split
  · exact .trapped
  · next h1 =>
    have h1 := (State.fetchBlock_keeps _ _ h1).seat
    refine .ite (.trap h1 _ _ _) ?_
    split
    · exact .trap h1 _ _ _
    · next h2 =>
      have h2 := (State.fetchBlock_keeps _ _ h2).seat.trans h1
      exact .ite (.trap h2 _ _ _) (.done ((State.setMe_block_seat _ _).trans h2))

theorem sits_perfQv (enq : Bool) (o : QvArgs) (i : Instr) : Sits (perfQv enq o i) := fun e s => by
  have hq := State.seat_of_tasks (s.qOp_tasks (ctxQAgent s.cur (e.agent s.cur)) (e.chk.rx o.a)
    ⟨enq, e.chk.vl, o.blk, .v e.chk.ew (s.vreg o.v), some s.cur⟩)
  have hseen (t : State) (ht : t.seat = s.seat) : (if s.choices.fill then t.fillAddrs (e.agent s.cur)
      (s.queueAddrs (e.agent s.cur) (e.chk.rx o.a) enq e.chk.vl none) else t).seat = s.seat := by
    split
    · rw [State.fillAddrs_seat, ht]
    · exact ht
  unfold perfQv
  dsimp only
  split
  · next h => rw [h] at hq; exact .trap ((State.seat_of_tasks (State.withdrawQueue_tasks _ _)).trans hq) _ _ _
  · next t h =>
    rw [h] at hq
    exact .wait (hseen _ ((State.setMe_parked_seat _ _).trans hq))
  · next t n els h =>
    rw [h] at hq
    have ht := hseen (t.setMe { t.me with parked := none }) ((State.setMe_parked_seat _ _).trans hq)
    refine .done ((State.every_seat _ fun sc => ?_).trans (ite_seat ht ((State.setV_seat _ _ _).trans ht)))
    split
    · exact sc.wx_level _ _
    · exact sc.wx_level o.d _

/-- Every instruction that enters the VIQ works in the seat of its context. -/
theorem sits_of_perfOf {i : Instr} {p : Perf} (h : perfOf i = some p) : Sits p := by
  cases i
  case vsetl => cases h; exact sits_perfNone
  case vsetlx => cases h; exact sits_perfNone
  case strip => cases h; exact sits_perfNone
  case setfib => cases h; exact sits_perfNone
  case vprf => cases h; exact sits_perfNone
  case vsplat => cases h; exact sits_perfVsplat _
  case vldxAcq => cases h; exact sits_perfVldxAcq _ _ _ _ _
  case vstsNtf => cases h; exact sits_perfStore _ _ _ _ _ _ _
  case vld => cases h; exact sits_perfLoad _ _ _ _ _ _
  case vlds => cases h; exact sits_perfLoad _ _ _ _ _ _
  case vldg => cases h; exact sits_perfVldg _ _
  case vld2 => cases h; exact sits_perfVld2 _
  case vst => cases h; exact sits_perfStore _ _ _ _ _ _ _
  case vsts => cases h; exact sits_perfStore _ _ _ _ _ _ _
  case vstg => cases h; exact sits_perfVstg _ _ _
  case vst2 => cases h; exact sits_perfVst2 _ _
  case vldx => cases h; exact sits_perfLoad _ _ _ _ _ _
  case vstx => cases h; exact sits_perfStore _ _ _ _ _ _ _
  case vldw => cases h; exact sits_perfVldw _ _ _ _ _
  case vldb => cases h; exact sits_perfVldb _ _ _ _ _
  case vstb => cases h; exact sits_perfVstb _ _ _
  case vstbNtf => cases h; exact sits_perfVstb _ _ _
  case vamo => cases h; exact sits_perfVamo _
  case vsred => cases h; exact sits_perfVsred _ _
  case vrred => cases h; exact sits_perfVrred _ _ _ _
  case fcfg => cases h; exact sits_perfFcfg _ _ _ _ _ _
  case fld => cases h; exact sits_perfFld _ _
  case fst => cases h; exact sits_perfFst _ _
  case fend => cases h; exact sits_perfFend _ _
  case apush => cases h; exact sits_perfApush _ _ _
  case apop => cases h; exact sits_perfApop _ _
  case nsend => cases h; exact sits_perfNsend _
  case matt => cases h; exact sits_perfMatt _
  case mattB => cases h; exact sits_perfMattB _
  case mdet => cases h; exact sits_perfMdet
  case mten => cases h; exact sits_perfMten
  case mtdis => cases h; exact sits_perfMtdis
  case mzero => cases h; exact sits_perfMzero _
  case mopa => cases h; exact sits_perfMopa _ _ _ _ _
  case mopav => cases h; exact sits_perfMopav _ _ _ _ _ _
  case mrds => cases h; exact sits_perfMrds _ _ _ _
  case mwrs => cases h; exact sits_perfMwrs _ _ _ _
  case mstt => cases h; exact sits_perfMstt _
  case mgacc => cases h; exact sits_perfMgacc _
  case mgst => cases h; exact sits_perfMgst _
  case mwld => cases h; exact sits_perfMwld _ _
  case vfetch => cases h; exact fun e s => s.startBlock_seat e _
  case vfetchx => cases h; exact fun e s => s.startBlock_seat e _
  case qenqV => cases h; exact sits_perfQv _ _ _
  case qdeqV => cases h; exact sits_perfQv _ _ _
  all_goals cases h

end Sys2Proof.Machine

/-! PROOFS. O60, third part: what an instruction of the scalar stream leaves to the other contexts, and what it makes of the privilege. -/
namespace Sys2Proof.Machine

/-! ### Staying in the seat, or trapping in it -/

/-- Another context neither acts nor changes. -/
def Confined (s t : State) : Prop := t.cur = s.cur ∧ ∀ c, c ≠ s.cur → t.ctx c = s.ctx c

/-- At user level the privilege rises by a trap alone (R313). -/
def RaisedByTrap (s t : State) : Prop := s.mySc.sup = false → t.mySc.sup = true →
  t.mySc.pc = s.mySc.stvec &&& ~~~3#64 ∧ t.mySc.sstatus.getLsbD 0 = false

/-- What an instruction of the scalar stream makes of the seat it runs in. -/
structure InSeat (s t : State) : Prop where
  confined : Confined s t
  raised   : RaisedByTrap s t

theorem Confined.refl (s : State) : Confined s s := ⟨rfl, fun _ _ => rfl⟩
theorem Confined.of_seat {s t : State} (h : t.seat = s.seat) : Confined s t := ⟨State.cur_of_seat h, fun _ hc => State.ctx_of_seat h hc⟩
theorem Confined.trans {s t u : State} (h : Confined s t) (k : Confined t u) : Confined s u :=
  ⟨k.1.trans h.1, fun c hc => (k.2 c (h.1 ▸ hc)).trans (h.2 c hc)⟩
theorem Confined.setMe (s : State) (x : Context) : Confined s (s.setMe x) := ⟨rfl, fun _ hc => s.setCtx_ne _ _ _ hc⟩

theorem RaisedByTrap.of_sup {s t : State} (h : t.mySc.sup = s.mySc.sup) : RaisedByTrap s t := fun hu ht => by rw [h, hu] at ht; cases ht

theorem InSeat.of_seat {s t : State} (h : t.seat = s.seat) : InSeat s t :=
  ⟨.of_seat h, .of_sup (congrArg Prod.fst (State.level_of_seat h))⟩
theorem InSeat.refl (s : State) : InSeat s s := .of_seat rfl
/-- What comes after a change that keeps the seat. -/
theorem InSeat.after {s u t : State} (h : u.seat = s.seat) (k : InSeat u t) : InSeat s t := by
  have hl : u.mySc.sup = s.mySc.sup ∧ u.mySc.stvec = s.mySc.stvec := Prod.mk.inj (State.level_of_seat h)
  refine ⟨(Confined.of_seat h).trans k.confined, fun hu ht => ?_⟩
  rw [← hl.2]
  exact k.raised (hl.1.trans hu) ht

/-- A trap from a scalar side of the level of the context. -/
theorem InSeat.enterTrap {s : State} {x : Context} {back : Scalar} {t : Trap} {epc : Word64} {blk : Bool}
    (hx : x.regs.sc = back.clearVtf.enterTrap t epc blk) (hb : back.level = s.mySc.level) : InSeat s (s.setMe x) := by
  have hl : back.sup = s.mySc.sup ∧ back.stvec = s.mySc.stvec := Prod.mk.inj hb
  have hsc : (s.setMe x).mySc = back.clearVtf.enterTrap t epc blk := (congrArg (·.regs.sc) (s.setMe_me x)).trans hx
  refine ⟨.setMe s x, fun hu _ => ?_⟩
  rw [hsc]
  refine ⟨congrArg (· &&& ~~~3#64) hl.2, ?_⟩
  change (BitVec.ofNat 3 ((if back.sup then 1 else 0) + (if blk then 4 else 0))).getLsbD 0 = false
  rw [hl.1, hu]
  cases blk <;> rfl

section
variable (s : State)

theorem State.takeTrap_setMe (back : Scalar) (t : Trap) (epc : Word64) (blk : Bool) (x : Context) :
    (s.takeTrap s.cur back t epc blk).setMe x = s.setMe x := by
  rw [State.takeTrap_eq]
  exact s.setCtx_setCtx _ _ _

theorem State.takeTrap_inSeat {back : Scalar} (t : Trap) (epc : Word64) (blk : Bool) (hb : back.level = s.mySc.level) :
    InSeat s (s.takeTrap s.cur back t epc blk) := by
  rw [State.takeTrap_eq]
  exact .enterTrap rfl hb
/-- The same where the context is set aside from its scalar side afterwards. -/
theorem State.takeTrap_setMe_inSeat {back : Scalar} {t : Trap} {epc : Word64} {blk : Bool} {x : Context} (hb : back.level = s.mySc.level)
    (hx : x.regs.sc = (s.takeTrap s.cur back t epc blk).mySc) : InSeat s ((s.takeTrap s.cur back t epc blk).setMe x) := by
  rw [s.takeTrap_setMe]
  exact .enterTrap (hx.trans (s.takeTrap_mySc _ _ _ _)) hb
theorem State.scalarTrap_inSeat (t : Trap) : InSeat s (s.scalarTrap t) := by
  unfold State.scalarTrap
  split
  · exact s.takeTrap_inSeat _ _ _ rfl
  · exact .refl s
theorem State.pointTrap_inSeat (t : Trap) : InSeat s (s.pointTrap t) := by
  unfold State.pointTrap
  split
  · exact s.takeTrap_setMe_inSeat rfl rfl
  · exact .refl s
theorem State.entryTrap_inSeat {e : Entry} (t : Trap) (f : BitVec 8) (blk : Bool) (he : e.chk.level = s.mySc.level) :
    InSeat s (s.entryTrap e t f blk) := s.takeTrap_setMe_inSeat (back := e.chk.setFlags f) he rfl

/-- What performing an entry of the level of the context comes to. -/
theorem PerfOut.finish_inSeat {e : Entry} {r : PerfOut} (hr : r.In s.seat) (he : e.chk.level = s.mySc.level) : InSeat s (r.finish e) := by
  cases r with
  | done t =>
    refine .of_seat (Eq.trans ?_ hr)
    exact ite_seat t.zeroVstart_seat rfl
  | trap t x f blk => exact .after hr (t.entryTrap_inSeat _ _ _ (he.trans (State.level_of_seat hr).symm))
  | wait t => exact .of_seat ((t.setMe_viq_seat _).trans hr)

end

/-! ### Answers -/

/-- An answer that leaves the seat. -/
def Within (s : State) (r : Host.Outcome State Fault Refusal) : Prop := ∀ t, r = .next t → InSeat s t

section
variable {s : State}

theorem Within.next {t : State} (h : InSeat s t) : Within s (.next t) := by
  rintro _ ⟨⟩
  exact h
theorem Within.seat {t : State} (h : t.seat = s.seat) : Within s (.next t) := .next (.of_seat h)
theorem Within.after {u : State} {r : Host.Outcome State Fault Refusal} (h : u.seat = s.seat) (k : Within u r) : Within s r :=
  fun t ht => .after h (k t ht)
theorem Within.ite {p : Prop} [Decidable p] {a b : Host.Outcome State Fault Refusal} (ha : Within s a) (hb : Within s b) :
    Within s (if p then a else b) := by split_ifs <;> assumption

variable {k : Unit → Host.Outcome State Fault Refusal}

theorem Within.scalarTrap (t : Trap) : Within s (.next (s.scalarTrap t)) := .next (s.scalarTrap_inSeat t)
theorem Within.pointTrap (t : Trap) : Within s (.next (s.pointTrap t)) := .next (s.pointTrap_inSeat t)
theorem Within.waits (r : Bool) (h : Within s (k ())) : Within s (s.waits r k) := .ite h (.seat rfl)
theorem Within.held (h : Within s (k ())) : Within s (s.held k) := .waits _ h
theorem Within.heldRel (h : Within s (k ())) : Within s (s.heldRel k) := .waits _ h
theorem Within.heldAs (o : AOrd) (h : Within s (k ())) : Within s (s.heldAs o k) := .ite (.heldRel h) (.held h)
theorem Within.heldQ (enq : Bool) (h : Within s (k ())) : Within s (s.heldQ enq k) := .ite (.heldRel h) (.held h)
theorem Within.serial (h : Within s (k ())) : Within s (s.serial k) := .waits _ h

/-- A privileged instruction traps at user level; from the supervisor's nothing rises. -/
theorem Within.privileged (h : ∀ t, k () = .next t → Confined s t) : Within s (s.privileged k) := by
  unfold State.privileged
  split
  · next hs => exact fun t ht => ⟨h t ht, fun hu => by rw [hs] at hu; cases hu⟩
  · exact .pointTrap _

theorem Within.scalar {f : Scalar → Scalar} (h : (f s.mySc).level = s.mySc.level) : Within s (s.scalar f) :=
  .seat (State.setMySc_seat h)
/-- The same after a change that keeps the seat. -/
theorem Within.scalarAfter {u : State} {f : Scalar → Scalar} (h : u.seat = s.seat) (hf : (f u.mySc).level = u.mySc.level) :
    Within s (u.scalar f) := .seat (Eq.trans (State.setMySc_seat ((Scalar.retire_level _).trans hf)) h)
theorem Within.scalarTry {r : Except Trap State} (h : ∀ t, r = .ok t → t.seat = s.seat) : Within s (s.scalarTry r) := by
  cases r with
  | error t => exact .scalarTrap t
  | ok t => exact .seat (h t rfl)

theorem Within.deadlockTrap : Within s s.deadlockTrap := .next (.enterTrap (back := s.mySc) rfl rfl)
theorem Within.issueRead (h : Within s (k ())) : Within s (s.issueRead k) := .ite .deadlockTrap (.waits _ h)

end

/-! ### Entering the VIQ -/

section
variable (s : State)

theorem State.entryFor_level (i : Instr) (k : Captured) : (s.entryFor i k).chk.level = s.mySc.level := s.mySc.replay_level
theorem State.issuedSc_level {post : Scalar → Scalar} (h : ∀ sc, (post sc).level = sc.level) : (s.issuedSc post).level = s.mySc.level :=
  (h _).trans s.mySc.replay_level

/-- The state in which an entry is performed as it issues. -/
theorem State.issuedWith_seat {post : Scalar → Scalar} (h : ∀ sc, (post sc).level = sc.level) (q : List Entry) :
    (s.issuedWith post q).seat = s.seat := State.setMe_seat (s.issuedSc_level h)

/-- An instruction whose entry works in its seat, and which leaves the privilege as it issues. -/
theorem Within.viqWith (i : Instr) (k : Captured) {post : Scalar → Scalar} {p : Perf} (hp : Sits p)
    (hpost : ∀ sc, (post sc).level = sc.level) : Within s (s.viqWith i k post p) := by
  cases hn : s.performsNow i with
  | true =>
    rw [s.viqWith_now i k post p hn]
    have hi : (s.issued post).seat = s.seat := State.setMe_seat (s.issuedSc_level hpost)
    exact .next (.after hi (PerfOut.finish_inSeat _ (hp _ _) ((s.entryFor_level i k).trans (State.level_of_seat hi).symm)))
  | false =>
    have hi (q : List Entry) := s.issuedWith_seat hpost q
    unfold State.viqWith
    refine .ite (.ite .deadlockTrap (.seat rfl)) ?_
    dsimp only
    rw [hn, if_neg Bool.false_ne_true]
    refine .ite (.ite (.seat rfl) ?_) (.seat (hi _))
    generalize hr : p _ _ = r
    have hin : r.In s.seat := by
      rw [← hr]
      exact Eq.trans (hp _ _) ((State.setMe_viq_seat _ _).trans (hi _))
    cases r with
    | done u => exact .seat ((u.setMe_viq_seat _).trans hin)
    | wait u => exact .seat ((u.setMe_viq_seat _).trans hin)
    | trap u x f b => exact .seat rfl
theorem Within.viq (i : Instr) (rcd : Option (BitVec 512)) {post : Scalar → Scalar} {p : Perf} (hp : Sits p)
    (hpost : ∀ sc, (post sc).level = sc.level) : Within s (s.viq i rcd post p) := .viqWith s i _ hp hpost
/-- An instruction of the lanes, with the entry that it becomes. -/
theorem Within.viqWithOf {i : Instr} (k : Captured) {post : Scalar → Scalar} {p : Perf} (hp : perfOf i = some p)
    (hpost : ∀ sc, (post sc).level = sc.level) : Within s (s.viqWith i k post p) := .viqWith s i k (sits_of_perfOf hp) hpost
theorem Within.viqOf {i : Instr} (rcd : Option (BitVec 512)) {post : Scalar → Scalar} {p : Perf} (hp : perfOf i = some p)
    (hpost : ∀ sc, (post sc).level = sc.level) : Within s (s.viq i rcd post p) := .viqWithOf s _ hp hpost

end

end Sys2Proof.Machine

/-! PROOFS. O60, fourth part: the shared operations and the instructions of the scalar stream. -/
namespace Sys2Proof.Machine

/-! ### What accesses and objects leave -/

section
variable {s : State}

@[simp] theorem State.devStore_seat (s : State) (pa n x : Nat) : (s.devStore pa n x).seat = s.seat := by
  unfold State.devStore
  dsimp only
  cases devReg (pa / 8 * 8) <;> rfl
theorem State.scalarWrite_seat (s : State) (l : Loc) (n x : Nat) (c : Option Scope) : (s.scalarWrite l n x c).seat = s.seat := by
  cases l with
  | mem pa => exact ite_seat (s.devStore_seat _ _ _) (ite_seat (s.storeLe_seat _ _ _ _) (s.storeLe_seat _ _ _ _))
  | win k off => exact s.storeLe_seat _ _ _ _
  | uc pa => exact s.storeLe_seat _ _ _ _

theorem State.scalarLoad_seat {t : State} {d : XReg} {a : Word64} {n : Nat} {sg : Bool} {acq : Option Scope}
    (h : s.scalarLoad d a n sg acq = .ok t) : t.seat = s.seat := by
  obtain ⟨l, hl, -⟩ := Except.of_bind_ok h
  rw [State.scalarLoad_of_loc hl] at h
  split at h
  · cases h
  · rw [← Except.ok.inj h]
    have hr := (State.scalarRead_loadKeeps (s.fillTlb s.scalarAgent a) l n acq).seat.trans (s.fillTlb_seat _ _)
    refine (State.setMySc_seat ?_).trans hr
    split <;> exact Scalar.wx_level _ _ _
theorem State.scalarStore_seat {t : State} {d : XReg} {a : Word64} {n : Nat} {rel : Option Scope}
    (h : s.scalarStore d a n rel = .ok t) : t.seat = s.seat := by
  obtain ⟨l, hl, -⟩ := Except.of_bind_ok h
  rw [State.scalarStore_of_loc hl] at h
  split at h
  · cases h
  · rw [← Except.ok.inj h]
    refine (State.setMySc_seat ?_).trans ((State.scalarWrite_seat _ _ _ _ _).trans (s.fillTlb_seat _ _))
    split <;> rfl
/-- An atomic whose address is in order is refused at a device register, and performed elsewhere. -/
theorem State.scalarAtomic_of_loc {a : Word64} {n : Nat} {l : Loc} (hl : s.scalarLoc s.scalarAgent a n .rw = .ok l) (d : XReg)
    (ordered : Bool) (f : Nat → Option Nat) : s.scalarAtomic d a n ordered f =
      if s.isDevice l then .error ⟨.xlatePerm, 0, a⟩ else
        let u := s.fillTlb s.scalarAgent a
        let old := u.loadLe l n
        let t := match f old with
          | some x => (u.readAt none l n).storeLe (some (CtxIx.core (u.readAt none l n).cur)) l n x
          | none => u.readAt none l n
        let sc := t.mySc.wx d (extend n true old)
        .ok (t.setMySc (if ordered then sc.endInterval else sc).retire) := by
  unfold State.scalarAtomic
  rw [hl]
  change ite (s.isDevice l = true) _ _ = _
  split <;> rfl
theorem State.scalarAtomic_seat {t : State} {d : XReg} {a : Word64} {n : Nat} {ordered : Bool} {f : Nat → Option Nat}
    (h : s.scalarAtomic d a n ordered f = .ok t) : t.seat = s.seat := by
  obtain ⟨l, hl, -⟩ := Except.of_bind_ok h
  rw [State.scalarAtomic_of_loc hl] at h
  split at h
  · cases h
  · rw [← Except.ok.inj h]
    have hr : (State.readAt (s.fillTlb s.scalarAgent a) none l n).seat = s.seat := (State.readAt_seat _ _ _ _).trans (s.fillTlb_seat _ _)
    refine (State.setMySc_seat ?_).trans (Eq.trans ?_ hr)
    · rw [Scalar.retire_level]
      split <;> exact Scalar.wx_level _ _ _
    · split
      · exact State.storeLe_seat _ _ _ _ _
      · rfl

theorem State.readRecord_seat {t : State} {g : Agent} {a : Word64} {r : BitVec 512} (h : s.readRecord g a = .ok (r, t)) :
    t.seat = s.seat := by
  obtain ⟨l, -, h⟩ := Except.of_bind_ok h
  split at h
  · dsimp only at h
    split at h
    · cases h; exact s.fillTlb_seat _ _
    · rw [show t = _ from (congrArg Prod.snd (Except.ok.inj h)).symm]
      exact ite_seat ((State.setCore_seat _ _ _).trans (s.fillTlb_seat _ _)) (s.fillTlb_seat _ _)
  · cases h; exact s.fillTlb_seat _ _
theorem State.issueRecord_seat (s : State) (a : XReg) : (s.issueRecord a).2.seat = s.seat := by
  unfold State.issueRecord
  dsimp only
  split
  · rfl
  · split
    · next h => exact State.readRecord_seat h
    · rfl

theorem Within.withRecord (a : XReg) {k : Captured → State → Host.Outcome State Fault Refusal} (h : ∀ c t, Within t (k c t)) :
    Within s (s.withRecord a k) := by
  have hk := Within.after (s.issueRecord_seat a) (h (s.issueRecord a).1 (s.issueRecord a).2)
  exact .ite hk (.issueRead hk)

theorem Within.setLen (i : Instr) (d a : XReg) (v : Word64) : Within s (s.setLen i d a v) :=
  .ite (.scalarTrap _) (.viq s _ _ sits_perfNone fun _ => Scalar.wx_level _ _ _)

theorem Within.queueOp (i : Instr) (ag : QAgent) (a : Word64) (r : QReq) {done : Nat → List (List Byte) → Scalar → Scalar}
    (h : ∀ g els sc, (done g els sc).level = sc.level) : Within s (s.queueOp i ag a r done) := by
  have hq := State.seat_of_tasks (s.qOp_tasks ag a r)
  refine .heldQ _ ?_
  split
  · next hr =>
    rw [hr] at hq
    exact .serial (.next (.after ((State.seat_of_tasks (State.withdrawQueue_tasks _ _)).trans hq) (State.scalarTrap_inSeat _ _)))
  · next hr =>
    rw [hr] at hq
    exact .seat ((State.setMe_parked_seat _ _).trans hq)
  · next hr =>
    rw [hr] at hq
    exact .after ((State.setMe_parked_seat _ none).trans hq) (.scalar (h _ _ _))

theorem Within.qControl (a : XReg) {f : State → Loc → Qcb → State} (h : ∀ t l q, (f t l q).seat = t.seat) :
    Within s (s.qControl a f) := by
  refine .heldRel ?_
  dsimp only
  split
  · exact .scalarTrap _
  · next l _ =>
    have ht := State.seat_of_tasks (s.qTest_tasks l (ctxQAgent s.cur s.scalarAgent))
    split
    · exact .serial (.next (.after ht (State.scalarTrap_inSeat _ _)))
    · split
      · exact .scalarTrap _
      · exact .seat (Eq.trans (State.setMySc_seat (Scalar.retire_level _)) ((h _ _ _).trans ht))

theorem Within.onBar (r : Bool) (a : XReg) (kd : Kind) {k : State → Loc → BarObj → Host.Outcome State Fault Refusal}
    (h : ∀ l o, Within s (k s l o)) : Within s (s.onBar r a kd k) := by
  refine .waits _ ?_
  dsimp only
  split
  · exact .scalarTrap _
  · exact .ite (h _ _) (.scalarTrap _)

@[simp] theorem State.putBar_seat (s : State) (l : Loc) (o : BarObj) : (s.putBar l o).seat = s.seat := State.seat_of_tasks (s.putBar_tasks l o)
@[simp] theorem State.setWaiters_seat (s : State) (k : Nat) : (s.setWaiters k).seat = s.seat := State.seat_of_tasks (s.setWaiters_tasks k)
@[simp] theorem State.putQcb_seat (s : State) (l : Loc) (q : Qcb) : (s.putQcb l q).seat = s.seat := State.seat_of_tasks (s.putQcb_tasks l q)

/-- A CSR instruction: a register of the privilege is the supervisor's. -/
theorem csrWrite_inSeat {s u : State} {r : Csr} {v : Word64} (hw : s.csrWrite r v = some u) :
    Confined s u ∧ u.mySc.sup = s.mySc.sup := by
  by_cases hp : r = .pspb
  · subst hp
    cases hw
    exact ⟨.refl s, rfl⟩
  · by_cases hl : r = .lqb
    · subst hl
      cases hw
      exact ⟨.refl s, rfl⟩
    · obtain ⟨z, rfl, hz, -⟩ := Spec.csrWrite_side hp hl hw
      refine ⟨.setMe s _, ?_⟩
      rw [s.setMySc_mySc, hz]
theorem Within.csr (n : BitVec 12) (rd : Option XReg) (wr : Option (Word64 → Word64)) : Within s (s.csr n rd wr) := by
  unfold State.csr
  split
  · exact .pointTrap _
  · dsimp only
    refine .ite (.pointTrap _) (.ite (.pointTrap _) (.ite (.seat rfl) ?_))
    have htake (u : State) (old : Word64) : (u.mySc.csrTakes rd old).level = u.mySc.level := by
      cases rd with
      | none => rfl
      | some d => exact Scalar.wx_level _ _ _
    split
    · exact .scalarTrap _
    · next r _ _ u hu =>
      have hu' : Confined s u ∧ u.mySc.sup = s.mySc.sup := by
        cases wr with
        | none => cases hu; exact ⟨.refl s, rfl⟩
        | some f => exact csrWrite_inSeat hu
      have hfin : (u.setMySc (u.mySc.csrTakes rd (s.csrRead r))).seat = u.seat := State.setMySc_seat (htake u _)
      exact .next ⟨hu'.1.trans (.of_seat hfin), .of_sup ((congrArg Prod.fst (State.level_of_seat hfin)).trans hu'.2)⟩

end

/-! ### Instructions -/

section
variable (s : State)

theorem execJalr_within (o : XImm) : Within s (execJalr o s) :=
  .ite (.seat (State.setMySc_seat (Scalar.wx_level _ _ _))) (.scalarTrap _)
theorem State.branch_within (o : Br) (c : Word64 → Word64 → Bool) : Within s (s.branch o c) :=
  .seat (State.setMySc_seat (by split <;> rfl))
theorem State.alu3_within (o : X3) (f : Word64 → Word64 → Word64) : Within s (s.alu3 o f) := .scalar (Scalar.wx_level _ _ _)
theorem State.alu2_within (d a : XReg) (f : Word64 → Word64) : Within s (s.alu2 d a f) := .scalar (Scalar.wx_level _ _ _)
theorem State.aluDiv_within (o : X3) (f : Word64 → Word64 → Word64) : Within s (s.aluDiv o f) := by
  refine .scalar ?_
  dsimp only
  split <;> exact Scalar.wx_level _ _ _
theorem Scalar.fpWrite_level (sc : Scalar) (d : XReg) (r : Nat × Flags) : (sc.fpWrite d r).level = sc.level := sc.wx_level _ _
theorem State.fp3_within (o : Fp3) (op : Mode → FV → FV → FV × Flags) : Within s (s.fp3 o op) := .scalar (Scalar.fpWrite_level _ _ _)
theorem State.fcvt_within (d a : XReg) (td ts : EType) (r : Rnd) : Within s (s.fcvt d a td ts r) := .scalar (Scalar.fpWrite_level _ _ _)

theorem execFfma_within (o : Fp3) : Within s (execFfma o s) := .scalar (Scalar.fpWrite_level _ _ _)
theorem execFsqrt_within (o : X2) (t : FpT) (r : Rnd) : Within s (execFsqrt o t r s) := .scalar (Scalar.fpWrite_level _ _ _)
theorem execFmin_within (o : Fp3n) : Within s (execFmin o s) := .scalar (Scalar.fpWrite_level _ _ _)
theorem execFmax_within (o : Fp3n) : Within s (execFmax o s) := .scalar (Scalar.fpWrite_level _ _ _)
theorem execFcmp_within (o : X3) (t : FpT) (c : Cond) : Within s (execFcmp o t c s) := .scalar (Scalar.fpWrite_level _ _ _)
theorem execFclass_within (o : X2) (t : FpT) : Within s (execFclass o t s) := .scalar (Scalar.wx_level _ _ _)
theorem execLih_within (d : XReg) (i : BitVec 16) : Within s (execLih d i s) := .scalar (Scalar.wx_level _ _ _)
theorem execFeat_within (d : XReg) (n : Fin 32) : Within s (execFeat d n s) := .scalar (Scalar.wx_level _ _ _)
theorem execJal_within (d : XReg) (i : BitVec 16) : Within s (execJal d i s) := .seat (State.setMySc_seat (Scalar.wx_level _ _ _))

theorem State.loadOr_within {k : Except Trap State} (h : ∀ t, k = .ok t → t.seat = s.seat) : Within s (s.loadOr k) :=
  .waits _ (.scalarTry h)
theorem State.fence_within (k : Bool × Bool → Bool) : Within s (s.fence k) := .waits _ (.scalar rfl)

/-- A store or an atomic, once it may act. -/
theorem execSt_within (d a : XReg) (off : BitVec 12) (z : StSize) : Within s (execSt d a off z s) :=
  .held (k := fun _ => s.scalarTry _) (.scalarTry fun _ h => State.scalarStore_seat h)
theorem execStx_within (o : X3) (z : StSize) : Within s (execStx o z s) :=
  .held (k := fun _ => s.scalarTry _) (.scalarTry fun _ h => State.scalarStore_seat h)
theorem execStRel_within (o : X3) (c : Scope) (z : StSize) : Within s (execStRel o c z s) :=
  .heldRel (k := fun _ => s.scalarTry _) (.scalarTry fun _ h => State.scalarStore_seat h)
theorem execAmo_within (o : AmoArgs) : Within s (execAmo o s) :=
  .heldAs _ (k := fun _ => s.scalarTry _) (.scalarTry fun _ h => State.scalarAtomic_seat h)
theorem execCas_within (o : CasArgs) : Within s (execCas o s) :=
  .heldAs _ (k := fun _ => s.scalarTry _) (.scalarTry fun _ h => State.scalarAtomic_seat h)

theorem execBar_within (c : Scope) : Within s (execBar c s) := by
  unfold execBar
  split
  · exact .scalarTrap _
  · have harr : (s.setMe (s.me.arrive c (· + 1))).seat = s.seat := State.setMe_seat rfl
    exact .heldRel (.ite (.scalarAfter harr rfl) (.seat ((State.setMe_parked_seat _ _).trans harr)))

theorem execXpop_within (d : XReg) : Within s (execXpop d s) := .ite (.seat (s.setMe_parked_seat _)) (.scalar (Scalar.pop_level _ _))
theorem execWaite_within : Within s (execWaite s) := .ite (.seat (s.setMe_parked_seat _)) (.scalar rfl)
theorem execUliret_within : Within s (execUliret s) := .ite (.seat (State.setMySc_seat rfl)) (.scalarTrap _)
theorem execSret_within : Within s (execSret s) := .privileged fun t ht => by
  unfold State.serial State.waits at ht
  split at ht <;> cases ht
  · exact .setMe s _
  · exact .refl s
theorem execTlbinv_within (a b : XReg) : Within s (execTlbinv a b s) := .privileged fun t ht => by
  have h : Within s (s.serial fun _ => (s.dropTlb (if a = 0 then none else some (va57 (s.mySc.rx a)))
      (if b = 0 then none else some ((s.mySc.rx b).setWidth 16))).scalar id) := .serial (.scalarAfter rfl rfl)
  exact (h t ht).confined
theorem execSrinv_within (a : XReg) : Within s (execSrinv a s) := .waits _ (.scalarAfter rfl rfl)
theorem execIfence_within : Within s (execIfence s) := .serial (.scalarAfter (State.setMe_seat rfl) rfl)

theorem execLaunch_within (a : XReg) : Within s (execLaunch a s) := .ite (.scalarTrap _) (.queueOp _ _ _ _ fun _ _ _ => rfl)

theorem execQdeqX_within (o : QArgs) : Within s (execQdeqX o s) := by
  refine .queueOp _ _ _ _ fun g els sc => ?_
  have hx : (if g = 0 then sc else sc.wx o.d (elemVal els)).level = sc.level := by
    split
    · rfl
    · exact Scalar.wx_level _ _ _
  dsimp only
  split
  · exact hx
  · rw [Scalar.wx_level, hx]

theorem execSetfib_within (o : X2) (mo : MReg) (t : BitVec 11) : Within s (execSetfib o mo t s) := by
  refine .ite (.scalarTrap _) (.issueRead ?_)
  dsimp only
  split
  · exact .scalarTrap _
  · next h => exact .after (State.fibLoop_loadKeeps h).seat (.viqWith _ _ _ (sits_perfSetfib mo) fun _ => Scalar.wx_level _ _ _)

theorem execStrip_within (c p : XReg) (n : Fin 4) (o : BitVec 14) : Within s (execStrip c p n o s) := by
  refine .viq s _ _ sits_perfNone fun sc => ?_
  have hadv := (Scalar.advance_level p sc.vl (n.val + 1) (sc.wx c (sc.rx c - BitVec.ofNat 64 sc.vl)) 0).trans (sc.wx_level _ _)
  dsimp only
  split <;> exact hadv

theorem ntfEnds_level (ntf : Bool) (sc : Scalar) : (ntfEnds ntf sc).level = sc.level := by
  unfold ntfEnds
  split <;> rfl
theorem execVamo_within (o : VamoArgs) : Within s (execVamo o s) := by
  refine .viqOf s _ rfl fun sc => ?_
  split <;> rfl

theorem execFld_within (v : VReg) (f : FeedIx) : Within s (execFld v f s) := by
  refine .ite .deadlockTrap ?_
  dsimp only
  generalize ht : (if (s.choices.ferryHeld || (s.feed f).st != .open || (s.feed f).out) = true then s
    else s.ferryRun (agentOf s.cur s.mySc) f (s.feed f)) = t
  have hs : t.seat = s.seat := by
    rw [← ht]
    exact ite_seat rfl (s.ferryRun_seat _ _ _)
  split
  · exact .seat ((t.setMe_parked_seat _).trans hs)
  · exact .after hs (.viqWith _ _ _ (sits_perfFld v f) fun _ => rfl)

theorem execBinit_within (o : X3) : Within s (execBinit o s) := by
  refine .held ?_
  dsimp only
  split
  · exact .scalarTrap _
  · exact .ite (.scalarTrap _) (.scalarAfter ((State.setWaiters_seat _ _).trans (s.putBar_seat _ _)) rfl)
theorem execBarr_within (a b : XReg) : Within s (execBarr a b s) := .onBar _ _ _ fun _ _ => .scalarAfter (s.putBar_seat _ _) rfl
theorem execBarrRel_within (a b : XReg) : Within s (execBarrRel a b s) :=
  .onBar _ _ _ fun _ _ => .scalarAfter (s.putBar_seat _ _) rfl
theorem execBphase_within (o : X2) : Within s (execBphase o s) := .onBar _ _ _ fun _ _ => .scalar (Scalar.wx_level _ _ _)
theorem execBwait_within (o : X3) : Within s (execBwait o s) := .onBar _ _ _ fun _ _ =>
  .ite (.seat ((State.setWaiters_seat _ _).trans (s.setMe_parked_seat (some (.bwait o)))))
    (.ite (.scalar (Scalar.wx_level _ _ _)) (.scalarTrap _))
theorem execSigdec_within (a b : XReg) : Within s (execSigdec a b s) := .privileged fun t ht => by
  have h : Within s (s.heldRel fun _ => match s.objLoc s.scalarAgent (s.mySc.rx a) 8 .rw with
      | .error t => .next (s.scalarTrap t)
      | .ok l => (s.signalSub l (s.mySc.rx b).toNat).scalar Scalar.endInterval) := by
    refine .heldRel ?_
    split
    · exact .scalarTrap _
    · exact .scalarAfter (State.seat_of_tasks (s.signalSub_tasks _ _)) rfl
  exact (h t ht).confined
theorem execSigwait_within (a : XReg) : Within s (execSigwait a s) := by
  refine .waits _ ?_
  split
  · exact .scalarTrap _
  · exact .ite (.scalar rfl) (.seat (s.setMe_parked_seat _))
theorem execUliarm_within (o : X3) : Within s (execUliarm o s) := by
  refine .held ?_
  dsimp only
  refine .ite (.scalarTrap _) (.ite ?_ ?_)
  · exact .scalarAfter rfl (Scalar.wx_level _ _ _)
  · split
    · exact .scalarTrap _
    · exact .scalarAfter rfl (Scalar.wx_level _ _ _)

theorem execPfenceDie_within : Within s (execPfenceDie s) := .heldRel (.scalarAfter rfl rfl)
theorem Context.record_regs (x : Context) (r : Regs) (t : Option TaskRef) (p st : Nat) (cy : Word64) (sh : BitVec 114688) :
    (x.record r t p st cy sh).regs = x.regs := by
  unfold Context.record
  dsimp only
  split <;> rfl
theorem State.persistPoint_seat (r : Regs) (t : Option TaskRef) (st : Nat) : (s.persistPoint s.cur r t st).seat = s.seat := by
  unfold State.persistPoint
  dsimp only
  have hfree : ((s.setCore (CtxIx.core s.cur) (s.core (CtxIx.core s.cur)).persistImage).free 114688).2.seat = s.seat := rfl
  generalize (s.setCore (CtxIx.core s.cur) (s.core (CtxIx.core s.cur)).persistImage).free 114688 = y at hfree ⊢
  have hcur := State.cur_of_seat hfree
  refine Eq.trans (State.setCtx_seat hcur.symm ?_) hfree
  rw [Context.record_regs, State.mySc, hcur]
  rfl
theorem execPfenceCore_within : Within s (execPfenceCore s) := by
  refine .serial (.seat ?_)
  generalize hu : ((s.persistOwn s.cur).setMySc (s.persistOwn s.cur).mySc.endInterval.retire) = u
  have hseat : u.seat = s.seat := by
    rw [← hu]
    exact Eq.trans (State.setMySc_seat rfl) rfl
  exact (u.persistPoint_seat _ _ _).trans hseat

theorem State.endFeeds_seat : (s.endFeeds s.cur).seat = s.seat := by
  rw [State.endFeeds_eq]
  exact foldl_seat _ (fun t f => (State.setFeed_seat _ _ _).trans (State.seat_of_tasks (t.drainFeed_tasks s.cur f))) _ _
theorem State.onLaunch_seat (i : Nat) (f : Launch → Launch) : (s.onLaunch i f).seat = s.seat := rfl
theorem State.withBinds_seat (b : List (CtxIx × Binding)) : ({ s with binds := b } : State).seat = s.seat := rfl
/-- A context that lets its task go keeps its privilege. -/
theorem State.vacate_seat {c : CtxIx} (hc : s.cur = c) : (s.setCtx c (s.ctx c).vacate).seat = s.seat := by
  subst hc
  exact State.setCtx_seat rfl rfl
theorem State.endTask_seat : (s.endTask s.cur).seat = s.seat := by
  have hcur : (s.endFeeds s.cur).cur = s.cur := State.cur_of_seat s.endFeeds_seat
  unfold State.endTask
  split
  · rfl
  · dsimp only
    rw [State.onLaunch_seat, State.vacate_seat, State.withBinds_seat, State.endFeeds_seat]
    dsimp only
    exact hcur
theorem execTexit_within : Within s (execTexit s) := .waits _ (.seat s.endTask_seat)

end

end Sys2Proof.Machine

/-! PROOFS. O60, fifth part: every instruction, and the exceptions. -/
namespace Sys2Proof.Machine

/-! ### The words of an element block -/

section
variable (s : State)

theorem State.commitRegs_seat (b : Block) : (s.commitRegs b).seat = s.seat := by
  unfold State.commitRegs
  dsimp only
  refine Eq.trans (State.every_seat _ fun _ => rfl) (ite_seat ?_ (Eq.trans (State.setMe_seat rfl) ?_)) <;>
    exact (foldl_seat _ (fun _ _ => State.setW_seat _ _ _) _ _).trans
      ((foldl_seat _ (fun _ _ => State.setM_seat _ _ _) _ _).trans (foldl_seat _ (fun _ _ => State.setV_seat _ _ _) _ _))

/-- What a word of a block leaves, if it leaves a state. -/
def Confines (r : Host.Outcome State Fault Refusal) : Prop := ∀ t, r = .next t → Confined s t

theorem State.blockTrap_confined (b : Block) (t : Trap) : Confined s (s.blockTrap b t) := by
  unfold State.blockTrap
  rw [State.takeTrap_eq]
  exact .setMe s _
theorem State.onBlock_confines (f : Word) : Confines s (s.onBlock f) := by
  intro t ht
  unfold State.onBlock at ht
  split at ht
  · cases ht
  · split at ht <;> cases ht
    · exact .setMe s _
    · exact s.blockTrap_confined _ _
theorem State.onElems_confines (a : VReg) (off : BitVec 13) (w : Nat) (k : Kind) (m : MSel) (f : Word) :
    Confines s (s.onElems a off w k m f) := by
  intro t ht
  have hb := s.onBlock_confines f
  unfold State.onElems at ht
  split at ht
  · next u _ hu =>
    cases ht
    exact (hb u hu).trans (.of_seat (ite_seat rfl (u.fillAddrs_seat _ _)))
  · exact hb t ht
theorem execStop_confines : Confines s (execStop s) := by
  intro t ht
  unfold execStop at ht
  split at ht
  · cases ht
  · next b _ =>
    have hc : (((s.setMe { s.me with block := none }).commitRegs b).zeroVstart).seat = s.seat :=
      (State.zeroVstart_seat _).trans ((State.commitRegs_seat _ b).trans (s.setMe_block_seat none))
    split at ht
    · cases ht; exact s.blockTrap_confined _ _
    · split at ht <;> cases ht
      · exact .refl s
      · exact .of_seat (ite_seat ((State.setMe_viq_seat _ _).trans hc) ((State.drainStores_seat _ _).trans hc))

end

/-- A word of a block changes the context that acts alone. -/
theorem exec_confines {i : Instr} (h : inBlock i = true) (s : State) : Confines s (exec i s) := by
  cases i
  case stop => exact execStop_confines s
  case lde | ste | wsta => exact s.onElems_confines _ _ _ _ _ _
  case vfsqrt o => exact (s.onBlock_confines _ : Confines s (execVfsqrt o s))
  case mand o => exact (s.onBlock_confines _ : Confines s (execMand o s))
  case mor o => exact (s.onBlock_confines _ : Confines s (execMor o s))
  case mxor o => exact (s.onBlock_confines _ : Confines s (execMxor o s))
  case mandn o => exact (s.onBlock_confines _ : Confines s (execMandn o s))
  case mset d m v => exact (s.onBlock_confines _ : Confines s (execMset d m v s))
  case mpopc a m => exact (s.onBlock_confines _ : Confines s (execMpopc a m s))
  case mfirst a m => exact (s.onBlock_confines _ : Confines s (execMfirst a m s))
  case vfscan o => exact (s.onBlock_confines _ : Confines s (execVfscan o s))
  case vscan o => exact (s.onBlock_confines _ : Confines s (execVscan o s))
  case wnext => exact (s.onBlock_confines _ : Confines s (execWnext s))
  case wend => exact (s.onBlock_confines _ : Confines s (execWend s))
  case vfadd | vfsub | vfmul | vfma | vfms | vfnma | vfdiv | vfmin | vfmax | vfabs | vfneg | vfsgn | vadd | vsub | vmul
      | vmulh | vmulhn | vand | vor | vxor | vsll | vsrl | vsra | vmin | vmax | vminn | vmaxn | vsadd | vssub | vsaddn
      | vssubn | vdot | vfcmp | vcmp | vcvt | vqmx | vmov | vbcast | vext | viota | vslup | vsldn | vperm | vcomp | vexpd
      | vmatch | vfredsum | vfredmax | vfredmin | vredsum | vredmax | vredmin | wramp | wcmp | wcomp | wmul | wmov | wbegin
      | wjoin | wgjoin | wgramp | wcont =>
    exact s.onBlock_confines _
  all_goals cases h

/-! ### The scalar stream -/

/-- The instructions of the scalar stream that may touch another context: TSTOP stops one, QINIT ends what is parked on the block. -/
def Reaches : Instr → Prop
  | .tstop _ | .qinit _ _ _ => True
  | _ => False

theorem exec_within {i : Instr} (hb : inBlock i = false) (he : isEvent i = false) (hr : ¬ Reaches i) (s : State) : Within s (exec i s) := by
  cases i
  case tstop | qinit => exact absurd trivial hr
  case ld | ldx | ldAcq => exact s.loadOr_within fun _ h => State.scalarLoad_seat h
  case st d a off z => exact execSt_within s d a off z
  case stx o z => exact execStx_within s o z
  case stRel o c z => exact execStRel_within s o c z
  case amo o => exact execAmo_within s o
  case cas o => exact execCas_within s o
  case beq | bne | blt | bge | bltn | bgen =>
    dsimp only [exec, execBeq, execBne, execBlt, execBge, execBltn, execBgen]
    exact s.branch_within _ _
  case jal d i => exact execJal_within s d i
  case jalr o => exact execJalr_within s o
  case fadd | fsub | fmul | fdiv =>
    dsimp only [exec, execFadd, execFsub, execFmul, execFdiv]
    exact s.fp3_within _ _
  case ffma o => exact execFfma_within s o
  case fsqrt o t r => exact execFsqrt_within s o t r
  case fmin o => exact execFmin_within s o
  case fmax o => exact execFmax_within s o
  case fcmp o t c => exact execFcmp_within s o t c
  case fclass o t => exact execFclass_within s o t
  case lih d i => exact execLih_within s d i
  case feat d n => exact execFeat_within s d n
  case fcvtToFp | fcvtFromFp =>
    dsimp only [exec, execFcvtToFp, execFcvtFromFp]
    exact s.fcvt_within _ _ _ _ _
  case add | sub | and | or | xor | andn | orn | sll | srl | sra | slt | sltn | min | max | minn | maxn | mul
      | mulh | mulhn =>
    dsimp only [exec, execAdd, execSub, execAnd, execOr, execXor, execAndn, execOrn, execSll, execSrl, execSra, execSlt, execSltn,
      execMin, execMax, execMinn, execMaxn, execMul, execMulh, execMulhn]
    exact s.alu3_within _ _
  case div | divn | rem | remn =>
    dsimp only [exec, execDiv, execDivn, execRem, execRemn]
    exact s.aluDiv_within _ _
  case clz | ctz | popc | sext | zext | slli | srli | srai | addi | andi | ori | xori | slti | shori =>
    dsimp only [exec, execClz, execCtz, execPopc, execSext, execZext, execSlli, execSrli, execSrai, execAddi, execAndi, execOri,
      execXori, execSlti, execShori]
    exact s.alu2_within _ _ _
  case csrr | csrw | csrs | csrc => exact .csr _ _ _
  case fenceLd | fenceSt | fenceAll => exact s.fence_within _
  case bar c => exact execBar_within s c
  case xpop d => exact execXpop_within s d
  case tlbinv a b => exact execTlbinv_within s a b
  case srinv a => exact execSrinv_within s a
  case launch a => exact execLaunch_within s a
  case vsetl | vsetlx => exact .setLen _ _ _ _
  case setfib o mo t => exact execSetfib_within s o mo t
  case strip c p n o => exact execStrip_within s c p n o
  case vld2 | mstt | mgacc | mgst =>
    dsimp only [exec, execVld2, execMstt, execMgacc, execMgst]
    exact .withRecord _ fun _ t => .viqWithOf t _ rfl fun _ => rfl
  case vst2 =>
    dsimp only [exec, execVst2]
    exact .withRecord _ fun _ t => .viqWithOf t _ rfl (ntfEnds_level _)
  case vldb | mwld =>
    dsimp only [exec, execVldb, execMwld]
    exact .issueRead (.viqOf s _ rfl fun _ => rfl)
  case fld v f => exact execFld_within s v f
  case vldxAcq | vstsNtf | vsplat | vprf | vld | vlds | vldg | vsts | vldx | vldw | vstb | vstbNtf | vsred | fcfg
      | fst | fend | apush | apop | nsend | matt | mattB | mdet | mten | mtdis | mzero | mopa | mopav | mrds | mwrs
      | vfetch | vfetchx | qenqV | qdeqV =>
    dsimp only [exec, execVldxAcq, execVstsNtf, execVsplat, execVprf, execVld, execVlds, execVldg, execVsts, execVldx, execVldw,
      execVstb, execVstbNtf, execVsred, execFcfg, execFst, execFend, execApush, execApop, execNsend, execMatt, execMattB,
      execMdet, execMten, execMtdis, execMzero, execMopa, execMopav, execMrds, execMwrs, execVfetch, execVfetchx, execQenqV,
      execQdeqV]
    exact .viqOf s _ rfl fun _ => rfl
  case vst | vstg | vstx | vrred =>
    dsimp only [exec, execVst, execVstg, execVstx, execVrred]
    exact .viqOf s _ rfl (ntfEnds_level _)
  case vamo o => exact execVamo_within s o
  case qcnt o c => exact (.qControl _ fun _ _ _ => State.setMySc_seat (Scalar.wx_level _ _ _) : Within s (execQcnt o c s))
  case qclose a c => exact (.qControl _ fun _ _ _ => ite_seat rfl (State.putQcb_seat _ _ _) : Within s (execQclose a c s))
  case qenqX o => exact (.queueOp _ _ _ _ fun _ _ _ => Scalar.wx_level _ _ _ : Within s (execQenqX o s))
  case qenqM o => exact (.queueOp _ _ _ _ fun _ _ _ => Scalar.wx_level _ _ _ : Within s (execQenqM o s))
  case qdeqM o => exact (.queueOp _ _ _ _ fun _ _ _ => Scalar.wx_level _ _ _ : Within s (execQdeqM o s))
  case qdeqX o => exact execQdeqX_within s o
  case binit o => exact execBinit_within s o
  case barr a b => exact execBarr_within s a b
  case barrRel a b => exact execBarrRel_within s a b
  case bphase o => exact execBphase_within s o
  case bwait o => exact execBwait_within s o
  case sigdec a b => exact execSigdec_within s a b
  case sigwait a => exact execSigwait_within s a
  case uliarm o => exact execUliarm_within s o
  case ifence => exact execIfence_within s
  case syscall | brk => exact .pointTrap _
  case sret => exact execSret_within s
  case uliret => exact execUliret_within s
  case waite => exact execWaite_within s
  case texit => exact execTexit_within s
  case pfenceCore => exact execPfenceCore_within s
  case pfenceDie => exact execPfenceDie_within s
  case vfadd | vfsub | vfmul | vfma | vfms | vfnma | vfdiv | vfsqrt | vfmin | vfmax | vfabs | vfneg | vfsgn | vadd | vsub
      | vmul | vmulh | vmulhn | vand | vor | vxor | vsll | vsrl | vsra | vmin | vmax | vminn | vmaxn | vsadd | vssub | vsaddn
      | vssubn | vdot | vfcmp | vcmp | mand | mor | mxor | mandn | mset | mpopc | mfirst | vcvt | vqmx | vmov | vbcast | vext
      | viota | vslup | vsldn | vperm | vcomp | vexpd | vmatch | vfredsum | vfredmax | vfredmin | vredsum | vredmax | vredmin
      | vfscan | vscan | wramp | wcmp | wcomp | wmul | wmov | wbegin | wjoin | wgjoin | wgramp | wcont | lde | ste | wsta
      | stop | wnext | wend =>
    cases hb
  all_goals cases he

/-! ### QINIT -/

/-- The context that acts stands, whatever happens to others. -/
def KeepsMe (s t : State) : Prop := t.cur = s.cur ∧ t.me = s.me

theorem KeepsMe.mySc {s t : State} (h : KeepsMe s t) : t.mySc = s.mySc := congrArg (·.regs.sc) h.2
theorem KeepsMe.of_tasks {s t : State} (h : t.tasks = s.tasks) : KeepsMe s t :=
  ⟨State.cur_of_tasks h, by rw [State.me, State.cur_of_tasks h, State.ctx_of_tasks h]⟩
theorem KeepsMe.trans {s t u : State} (h : KeepsMe s t) (k : KeepsMe t u) : KeepsMe s u := ⟨k.1.trans h.1, k.2.trans h.2⟩
theorem KeepsMe.foldl {α : Type} {c : CtxIx} (f : State → α → State) (xs : List α)
    (hf : ∀ x ∈ xs, ∀ s : State, s.cur = c → KeepsMe s (f s x)) : ∀ s : State, s.cur = c → KeepsMe s (xs.foldl f s) := by
  induction xs with
  | nil => exact fun s _ => ⟨rfl, rfl⟩
  | cons x xs ih =>
    intro s hc
    have h := hf x (.head _) s hc
    exact h.trans (ih (fun y hy => hf y (.tail _ hy)) _ (h.1.trans hc))

theorem State.trapParked_keepsMe {s : State} {c : CtxIx} (h : c ≠ s.cur) (k : Cause) (va : Scalar → Word64) :
    KeepsMe s (s.trapParked c k va) := by
  have hset (t : State) (x : Context) (ht : t.cur = s.cur) : KeepsMe t (t.setCtx c x) :=
    ⟨rfl, t.setCtx_ne _ _ _ (ht ▸ h.symm)⟩
  unfold State.trapParked
  dsimp only
  rw [State.takeTrap_eq]
  exact (hset s _ rfl).trans (hset _ _ rfl)

/-- What waits in a context other than the one that acts faults there. -/
theorem State.breakParked_keepsMe {s : State} (h : ∀ q ∈ s.qwaits, q.ctx ≠ s.cur) (key : Nat) : KeepsMe s (s.breakParked key) := by
  refine KeepsMe.foldl (c := s.cur) _ _ (fun w hw t ht => ?_) s rfl
  have hne : w.ctx ≠ t.cur := ht ▸ h w (List.mem_filter.1 hw).1
  exact (State.trapParked_keepsMe hne _ _).trans (.of_tasks (State.unpark_tasks _ _))

/-- What follows a check that did not refuse. -/
theorem Except.of_check_ok {ε β : Type} {c : Prop} [Decidable c] {e : ε} {f : Unit → Except ε β} {b : β}
    (h : (if c then Except.error e >>= f else f ()) = .ok b) : f () = .ok b := by
  split at h
  · cases h
  · exact h
theorem State.qinit_ok {s u : State} {a b : Word64} (h : s.qinit a b = .ok u) :
    ∃ l q, u = ((s.breakParked l.key).putQcb l q).markClean l := by
  obtain ⟨l, -, h⟩ := Except.of_bind_ok h
  obtain ⟨tl, -, h⟩ := Except.of_bind_ok (Except.of_check_ok h)
  replace h := Except.of_check_ok (Except.of_check_ok (Except.of_check_ok (Except.of_check_ok h)))
  dsimp only at h
  generalize s.ringTrap s.scalarAgent (Qcb.ofNat (leNat (s.loadChunks 8 tl))) = o at h
  cases o with
  | some t => cases h
  | none =>
    have hu := Except.of_check_ok h
    exact ⟨l, _, (Except.ok.inj hu).symm⟩

/-- QINIT raises the privilege of the context that runs it no more than another instruction. -/
theorem exec_qinit_raised {s t : State} {a b : XReg} {c : Scope} (hq : ∀ q ∈ s.qwaits, q.ctx ≠ s.cur)
    (h : exec (.qinit a b c) s = .next t) : RaisedByTrap s t := by
  dsimp only [exec, execQinit, State.heldRel, State.waits] at h
  split at h
  · cases hr : s.qinit (s.mySc.rx a) (s.mySc.rx b) with
    | error x =>
      rw [hr] at h
      cases h
      exact (s.scalarTrap_inSeat x).raised
    | ok u =>
      rw [hr] at h
      cases h
      obtain ⟨l, q, rfl⟩ := State.qinit_ok hr
      refine .of_sup ?_
      rw [State.setMySc_mySc]
      have hk := (State.breakParked_keepsMe hq l.key).trans
        (.of_tasks ((State.markClean_tasks _ l).trans (State.putQcb_tasks _ l q)))
      exact congrArg (fun sc : Scalar => sc.retire.sup) hk.mySc
  · cases h
    exact .of_sup rfl

/-- TSTOP is the supervisor's. -/
theorem exec_tstop_raised {s t : State} {o : X2} (h : exec (.tstop o) s = .next t) : RaisedByTrap s t := by
  intro hu
  have hp : exec (.tstop o) s = .next (s.pointTrap ⟨.priv, 0, s.mySc.pc⟩) := if_neg (by rw [hu]; exact Bool.false_ne_true)
  rw [hp] at h
  cases h
  exact (s.pointTrap_inSeat _).raised hu

/-- The words of the S format are no device events: along every branch of the decoder, as for the blocks. -/
theorem decodeS_yields_word (w : Nat) : Yields (fun i => isEvent i = false) (decodeS w) := by
  unfold decodeS decOp01 decOp07 decOp08 decOp09 decOp10 decOp11 decOp12 decOp13 decOp14 decOp15 decOp16 decOp18 decOp19 decOp1A
    decOp1B decOp1C decOp1D decOp1E decOp1F decOp20 decOp21 decOp22 decOp23 decOp24 decOp25 decOp26 decOp27 decOp28 decOp29 decOp2A
    decOp2B decOp2C decOp2D decOp30 decOp31 decOp32 decOp33 decOp34 decOp35
  dsimp only
  repeat' first
    | exact .ok rfl
    | exact .error _
    | refine .bind fun _ => ?_
    | split

end Sys2Proof.Machine

namespace Sys2Proof.Spec
open Sys2Proof.Machine

theorem instructionsKeepToTheirContext : InstructionsKeepToTheirContext := by
  intro i s t he hts hqi h
  have hr : ¬ Reaches i := fun hr => by
    cases i
    case tstop o => exact hts o rfl
    case qinit a b c => exact hqi a b c rfl
    all_goals cases hr
  cases hb : inBlock i with
  | true => exact exec_confines hb s t h
  | false => exact (exec_within hb he hr s t h).confined

theorem privilegeRisesOnlyByTraps : PrivilegeRisesOnlyByTraps := by
  intro w i s t hw hu hq h
  have hraised : RaisedByTrap s t := by
    by_cases hr : Reaches i
    · cases i
      case tstop o => exact exec_tstop_raised h
      case qinit a b c => exact exec_qinit_raised hq h
      all_goals cases hr
    · exact (exec_within (decodeS_yields w i hw) (decodeS_yields_word w i hw) hr s t h).raised
  exact hraised hu

end Sys2Proof.Spec

namespace Sys2Proof.Proofs
open Sys2Proof.Machine Sys2Proof.Spec

/-- Settles O60: each instruction stays in the seat of its context or traps in it. -/
theorem instructionsKeepTheirPlace : Obligations.InstructionsKeepTheirPlace :=
  ⟨instructionsKeepToTheirContext, privilegeRisesOnlyByTraps⟩

end Sys2Proof.Proofs

/-! PROOFS. O9: scalar floating point (R96 to R105, R138). -/
namespace Sys2Proof.Machine

/-! ### Rounding a value that its format holds -/

section
variable {f : Fmt}

/-- A value at or above its quantum leaves no remainder, so every mode keeps it. -/
theorem roundInt_exact (md : Mode) (neg : Bool) (m : Nat) (e : Int) : roundInt md neg m e false e = (m, false) := by
  cases md <;> simp [roundInt, atQuantum]

/-- A finite value whose last bit is the quantum of its format rounds to its own code (R98). -/
theorem Fmt.round_at_quantum (md : Mode) {neg : Bool} {m : Nat} {e : Int} (hm : m ≠ 0)
    (hq : max ((Nat.log2 m : Int) + e) (1 - (f.bias : Int)) - f.mbits = e)
    (hmax : (e - (1 - (f.bias : Int) - f.mbits)).toNat * 2 ^ f.mbits + m ≤ f.maxMag) :
    f.round (.fin neg m e false) md = (f.sign neg + ((e - (1 - (f.bias : Int) - f.mbits)).toNat * 2 ^ f.mbits + m), fNone) := by
  simp only [Fmt.round, hm, false_and, if_false, hq, roundInt_exact, if_neg (Nat.not_lt.2 hmax)]
  simp [fIf, fNone]

/-- Sign and magnitude make up a code. -/
theorem Fmt.sign_add_magnitude {x : Nat} (h0 : 0 < f.bits) (hx : x < 2 ^ f.bits) :
    f.sign (x / 2 ^ (f.bits - 1) % 2 == 1) + x % 2 ^ (f.bits - 1) = x := by
  have hlt : x / 2 ^ (f.bits - 1) < 2 := by
    rw [Nat.div_lt_iff_lt_mul (Nat.two_pow_pos _), ← Nat.pow_succ', Nat.succ_eq_add_one, Nat.sub_add_cancel h0]
    exact hx
  have hsign : f.sign (x / 2 ^ (f.bits - 1) % 2 == 1) = 2 ^ (f.bits - 1) * (x / 2 ^ (f.bits - 1)) := by
    rcases Nat.lt_succ_iff_lt_or_eq.1 hlt with h | h
    · simp [Fmt.sign, Nat.lt_one_iff.1 h]
    · simp [Fmt.sign, h]
  rw [hsign, Nat.div_add_mod]

/-- A finite code: a subnormal without the implicit bit, any other with it (R87). -/
theorem Fmt.decode_finite {x : Nat} (hn : (f.decode x).isNan = false) (hi : (f.decode x).isInf = false) :
    f.decode x = .fin (x / 2 ^ (f.bits - 1) % 2 == 1)
      (if x / 2 ^ f.mbits % 2 ^ f.ebits = 0 then x % 2 ^ f.mbits else x % 2 ^ f.mbits + 2 ^ f.mbits)
      ((if x / 2 ^ f.mbits % 2 ^ f.ebits = 0 then 1 else (x / 2 ^ f.mbits % 2 ^ f.ebits : Nat)) - (f.bias : Int) - f.mbits) false := by
  revert hn hi
  unfold Fmt.decode
  simp only
  split
  · split <;> simp [FV.isNan, FV.isInf]
  · split
    · simp [FV.isNan]
    · intro _ _
      split <;> simp_all

/-- The magnitude of a code is its exponent field over its mantissa field. -/
theorem Fmt.magnitude_eq {x : Nat} (hb : f.bits = f.ebits + f.mbits + 1) :
    x % 2 ^ (f.bits - 1) = x / 2 ^ f.mbits % 2 ^ f.ebits * 2 ^ f.mbits + x % 2 ^ f.mbits := by
  rw [hb, Nat.add_sub_cancel, Nat.add_comm f.ebits, Nat.pow_add, Nat.mod_mul, Nat.mul_comm, Nat.add_comm]

/-- Every finite value of a format rounds to its own code without a flag, in every mode (R98). -/
theorem Fmt.round_decode (md : Mode) {x : Nat} (hb : f.bits = f.ebits + f.mbits + 1) (hx : x < 2 ^ f.bits)
    (hn : (f.decode x).isNan = false) (hi : (f.decode x).isInf = false) (hmax : x % 2 ^ (f.bits - 1) ≤ f.maxMag) :
    f.round (f.decode x) md = (x, fNone) := by
  have hsum := Fmt.sign_add_magnitude (f := f) (by omega) hx
  have hmag := Fmt.magnitude_eq (x := x) hb
  have hlow : x % 2 ^ f.mbits < 2 ^ f.mbits := Nat.mod_lt _ (Nat.two_pow_pos _)
  rw [Fmt.decode_finite hn hi]
  generalize (x / 2 ^ (f.bits - 1) % 2 == 1) = neg at hsum ⊢
  generalize x / 2 ^ f.mbits % 2 ^ f.ebits = e at hmag ⊢
  generalize x % 2 ^ f.mbits = m at hmag hlow ⊢
  by_cases he : e = 0
  · subst he
    by_cases hm : m = 0
    · have : f.sign neg = x := by simpa [hmag, hm] using hsum
      simp [Fmt.round, hm, this]
    · have hlog : Nat.log2 m < f.mbits := (Nat.log2_lt hm).2 hlow
      have hmant : (1 - (f.bias : Int) - f.mbits - (1 - (f.bias : Int) - f.mbits)).toNat * 2 ^ f.mbits + m = x % 2 ^ (f.bits - 1) := by
        simp [hmag]
      simp only [if_true, Nat.cast_one]
      rw [Fmt.round_at_quantum md hm (by omega) (hmant ▸ hmax), hmant, hsum]
  · have hlog : Nat.log2 (m + 2 ^ f.mbits) = f.mbits :=
      (Nat.log2_eq_iff (by omega)).2 ⟨by omega, by rw [Nat.pow_succ]; omega⟩
    have hmant : ((e : Int) - (f.bias : Int) - f.mbits - (1 - (f.bias : Int) - f.mbits)).toNat * 2 ^ f.mbits + (m + 2 ^ f.mbits) =
        x % 2 ^ (f.bits - 1) := by
      have hexp : ((e : Int) - (f.bias : Int) - f.mbits - (1 - (f.bias : Int) - f.mbits)).toNat = e - 1 := by omega
      rw [hexp, hmag, Nat.add_comm m, ← Nat.add_assoc, ← Nat.succ_mul, Nat.succ_eq_add_one, Nat.sub_add_cancel (by omega)]
    simp only [if_neg he]
    rw [Fmt.round_at_quantum md (by omega) (by rw [hlog]; omega) (hmant ▸ hmax), hmant, hsum]

/-- A code of E5M2 above its largest finite magnitude is an infinity or a NaN. -/
theorem e5m2_finite_le : ∀ x < 2 ^ 8, (fmtE5m2.decode x).isNan = false → (fmtE5m2.decode x).isInf = false →
    x % 2 ^ 7 ≤ fmtE5m2.maxMag := by decide +kernel
/-- A code of E4M3 above its largest finite magnitude is the NaN (R88). -/
theorem e4m3_finite_le : ∀ x < 2 ^ 8, (fmtE4m3.decode x).isNan = false → x % 2 ^ 7 ≤ fmtE4m3.maxMag := by decide +kernel

end

/-! ### What a conversion writes -/

theorem intEnc_lt (w : Nat) (v : Int) : intEnc w v < 2 ^ w := by
  have h : 0 < (2 : Int) ^ w := by positivity
  have hlt : v % 2 ^ w < 2 ^ w := Int.emod_lt_of_pos v h
  have hnn : 0 ≤ v % 2 ^ w := Int.emod_nonneg v (ne_of_gt h)
  unfold intEnc
  zify
  rwa [Int.toNat_of_nonneg hnn]

/-- A signed element is the two's complement of its encoding. -/
theorem intVal_signed {t : EType} (hs : t.signed = true) (x : Nat) : intVal t x = (BitVec.ofNat t.width x).toInt := by
  have hw : 0 < t.width := by cases t <;> decide
  have hp : 2 ^ t.width = 2 * 2 ^ (t.width - 1) := by rw [← Nat.pow_succ', Nat.succ_eq_add_one, Nat.sub_add_cancel hw]
  rw [intVal, BitVec.toInt_eq_toNat_cond, BitVec.toNat_ofNat]
  simp only [hs, Bool.true_and, decide_eq_true_eq]
  push_cast
  split <;> split <;> omega

theorem intVal_unsigned {t : EType} (hs : t.signed = false) (x : Nat) : intVal t x = (x % 2 ^ t.width : Nat) := by
  simp [intVal, hs]

theorem EType.isInt_of_signed {t : EType} (hs : t.signed = true) : t.isInt = true := by
  cases t <;> simp_all [EType.signed, EType.isInt]

/-- An integer element keeps its value as an integer type of 64 bits. -/
theorem fcvtExtend_signed {t : EType} (hs : t.signed = true) (x : Nat) :
    fcvtExtend t x = ((BitVec.ofNat t.width x).signExtend 64).toNat := by
  rw [fcvtExtend, if_pos (EType.isInt_of_signed hs), intEnc, intVal_signed hs, BitVec.signExtend, BitVec.toNat_ofInt]
  rfl

/-- An element of a type without sign is zero-extended. -/
theorem fcvtExtend_unsigned {t : EType} (hs : t.signed = false) {x : Nat} (hx : t.isInt = true → x < 2 ^ t.width) :
    fcvtExtend t x = x := by
  rw [fcvtExtend]
  split
  · next hi =>
    have hw : 2 ^ t.width ≤ 2 ^ 64 := Nat.pow_le_pow_right (by decide) (by cases t <;> decide)
    have hlt := hx hi
    rw [intEnc, intVal_unsigned hs, Nat.mod_eq_of_lt hlt]
    omega
  · rfl

/-- A conversion of a floating-point value to an integer type gives one of its encodings (R104). -/
theorem convertVal_toInt_lt {td ts : EType} (hs : ts.isInt = false) (hd : td.isInt = true) (x : Nat) (md : Mode) :
    (convertVal td ts x md).1 < 2 ^ td.width := by
  rw [convertVal, if_neg (by simp [hs])]
  simp only [hd, if_true]
  cases decodeFp ts x <;> exact intEnc_lt _ _

theorem fptType_isInt (t : FpT) : (fptType t).isInt = false := by cases t <;> rfl

end Sys2Proof.Machine

namespace Sys2Proof.Spec
open Sys2Proof.Machine

section
variable {i : Instr} {s : State} {d : XReg}

/-- An instruction of the scalar side that writes one register and sets flags. -/
theorem result_of_write {v : Word64} {g : BitVec 8} {p : Word64 → Prop}
    (he : exec i s = .next (s.setMySc ((s.mySc.wx d v).setFlags g).retire)) (hp : p v) : Result i s d p g :=
  ⟨_, he, v, hp, rfl, (congrArg (Scalar.rx · d) (s.setSc_sc s.cur _)).trans (Scalar.rx_wx_same _ d _)⟩

/-- One that writes a rounded result with its flags (R138). -/
theorem fpResult_of_write {r : Nat × Flags} (he : exec i s = .next (s.setMySc (s.mySc.fpWrite d r).retire)) : FpResult i s d r :=
  result_of_write he rfl

/-- A conversion writes its result extended to 64 bits (R104, R138). -/
theorem fpResult_of_fcvt {a : XReg} {td ts : EType} {r : Rnd} {y : Nat} (he : exec i s = s.fcvt d a td ts r)
    (hy : fcvtExtend td (convertVal td ts ((s.mySc.rx a).toNat % 2 ^ ts.width) (rndMode r s.mySc.frm)).1 = y) :
    FpResult i s d (y, (convertVal td ts ((s.mySc.rx a).toNat % 2 ^ ts.width) (rndMode r s.mySc.frm)).2) :=
  fpResult_of_write (he.trans (by rw [← hy]; rfl))

end

theorem scalarFloatingPoint : ScalarFloatingPoint := by
  refine ⟨fun o s => fpResult_of_write rfl, fun o s => fpResult_of_write rfl, fun o s => fpResult_of_write rfl,
    fun o s => fpResult_of_write rfl, fun o s => fpResult_of_write rfl, fun o t r s => fpResult_of_write rfl,
    fun o s => ⟨fpResult_of_write rfl, fpResult_of_write rfl⟩, fun o t c s => fpResult_of_write ?_,
    fun o t s => result_of_write (v := BitVec.ofNat 64 _) ?_ rfl, fun o s => ⟨fpResult_of_fcvt rfl ?_, fpResult_of_fcvt rfl ?_⟩⟩
  case _ =>
    have hbit : ∀ b : Bool, (if b then 1 else 0 : Nat) = b.toNat := by decide
    rw [← hbit]
    rfl
  case _ =>
    rw [Scalar.setFlags, show ∀ f : BitVec 8, f ||| 0 = f from fun f => BitVec.or_zero]
    rfl
  case _ => exact if_neg (by simp [fptType_isInt])
  case _ =>
    cases hs : o.o.signed with
    | true => exact fcvtExtend_signed hs _
    | false => exact fcvtExtend_unsigned hs fun hi => convertVal_toInt_lt (fptType_isInt o.t) hi _ _

/-- Worked values of Table 6-2's formats, by evaluation. -/
theorem floatingPointExamples : FloatingPointExamples := by
  unfold FloatingPointExamples
  decide +kernel

theorem smallFormatsRoundTrip : SmallFormatsRoundTrip := by
  intro md t ht x hx hn hi
  simp only [List.mem_cons, List.not_mem_nil, or_false] at ht
  rcases ht with rfl | rfl | rfl
  · exact Fmt.round_decode (f := fmtE5m2) md rfl hx hn hi (e5m2_finite_le x hx hn hi)
  · exact Fmt.round_decode (f := fmtE4m3) md rfl hx hn hi (e4m3_finite_le x hx hn)
  · exact Fmt.round_decode (f := fmtE2m1) md rfl hx hn hi (Nat.le_of_lt_succ (Nat.mod_lt _ (by decide)))

end Sys2Proof.Spec

namespace Sys2Proof.Proofs
open Sys2Proof.Machine Sys2Proof.Spec

/-- Settles O9: each instruction by the write that it makes, the small formats because their values lie at their own quantum. -/
theorem scalarFloats : Obligations.ScalarFloats := ⟨scalarFloatingPoint, floatingPointExamples, smallFormatsRoundTrip⟩

end Sys2Proof.Proofs

/-! PROOFS. O16: the floating-point words of a block (R102, R105, R192, R196). -/
namespace Sys2Proof.Machine

/-- A floating-point word of an accepted type writes its active elements in the format of the type (R195, R196). -/
theorem Block.fp_ok {b : Block} {s : State} {d : VReg} {m : MSel} {t : EType} {k : Fmt} (f : Fmt → Nat → Nat × Flags)
    (ht : t.isFp = true) (hw : t.width ≤ b.sc.ew) (hk : fmtOf t = some k) :
    b.fp s d m t f = .ok (b.lanewise s d t.width m (f k)) := by
  unfold Block.fp
  rw [hk, ht]
  exact (ok_bind _ Block.illIf_false).trans (ok_bind _ (Block.fits_ok hw))

end Sys2Proof.Machine

namespace Sys2Proof.Spec
open Sys2Proof.Machine

section
variable {i : Instr} {s : State} {b b' : Block} {f : Word} (hb : s.me.block = some b) (he : exec i s = s.onBlock f)
include hb he

/-- A word that does not fault goes on with the block that it leaves. -/
theorem goes_of_word {p : Block → Prop} (hf : f s b = .ok b') (hentry : b'.entry = b.entry) (hwords : b'.words = b.words)
    (hhdr : b'.hdr = b.hdr) (hp : p b') : Goes i s b p :=
  ⟨b', he.trans (s.onBlock_ok f b b' hb hf), hentry, hwords, hhdr, hp⟩

theorem lanewise_of_word {d : VReg} {w : Nat} {m : MSel} {res : Nat → Nat × Flags} (hd : Declares b d) (hw : w ≤ b.sc.ew)
    (hf : f s b = .ok (b.lanewise s d w m res)) : Lanewise i s b d w m (fun j => (res j).1) (fun j => (res j).2) := by
  obtain ⟨hactive, hmasked, htail, hothers, hframe⟩ := b.lanewise_spec s d w m res hd hw
  exact goes_of_word hb he hf rfl rfl rfl ⟨⟨hactive, hmasked, htail, hothers⟩, hframe⟩

end

section
variable {i : Instr} {s : State} {b : Block}

/-- A word that is one `Block.fp` writes its elements lane by lane. -/
theorem fpLanes_of_fp {d : VReg} {t : EType} {m : MSel} (res : State → Block → Fmt → Nat → Nat × Flags)
    (he : exec i s = s.onBlock fun s b => b.fp s d m t (res s b)) : FpLanes i s b d t m (res s b) :=
  fun hb ht hw hd _ hk => lanewise_of_word hb he hd hw (Block.fp_ok _ ht hw hk)

/-- Two sources, combined exactly and rounded once. -/
theorem fpLanes_of_fp2 (o : VE2r) (op : Mode → FV → FV → FV × Flags) (he : exec i s = s.onBlock (wordFp2 o op)) :
    FpLanes i s b o.d o.t o.m fun k j => Once k (b.mode o.r) (op (b.mode o.r) (b.fv s k o.a j) (b.fv s k o.b j)) :=
  fpLanes_of_fp (fun s b k j => rounded k (b.mode o.r) (op (b.mode o.r) (b.fv s k o.a j) (b.fv s k o.b j))) he

/-- Three sources. -/
theorem fpLanes_of_fp3 (o : VE3r) (op : Mode → FV → FV → FV → FV × Flags) (he : exec i s = s.onBlock (wordFp3 o op)) :
    FpLanes i s b o.d o.t o.m fun k j =>
      Once k (b.mode o.r) (op (b.mode o.r) (b.fv s k o.a j) (b.fv s k o.b j) (b.fv s k o.c j)) :=
  fpLanes_of_fp (fun s b k j => rounded k (b.mode o.r) (op (b.mode o.r) (b.fv s k o.a j) (b.fv s k o.b j) (b.fv s k o.c j))) he

/-- A word that gives an element another sign (R89, R196). -/
theorem fpLanes_of_sign (d : VReg) (a : VSrc) (m : MSel) (t : EType) (sg : Fmt → State → Block → Nat → Bool)
    (he : exec i s = s.onBlock (wordSign d a m t sg)) :
    FpLanes i s b d t m fun k j => (if (k.decode (elem (b.v s a.r) j k.bits)).isNan then k.nan.getD 0
      else elem (b.v s a.r) j k.bits % 2 ^ (k.bits - 1) + k.sign (sg k s b j), 0) := by
  refine cast (congrArg (FpLanes i s b d t m) ?_) (fpLanes_of_fp (b := b) _ he)
  funext k j
  exact (apply_ite (·, fNone) _ _ _).symm

end

end Sys2Proof.Spec

namespace Sys2Proof.Proofs
open Sys2Proof.Machine Sys2Proof.Spec

/-- Settles O16: each word is one operation on the elements of its format, rounded once. -/
theorem blockFloatWords : Obligations.BlockFloatWords := by
  intro s b
  refine ⟨fun o => ⟨?_, ?_, ?_, ?_⟩, fun o => ⟨?_, ?_, ?_⟩, fun o => ?_, fun o => ⟨?_, ?_, ?_⟩, fun o => ⟨?_, ?_⟩⟩
  · exact fpLanes_of_fp2 o (fun md x y => FV.add md x y) rfl
  · exact fpLanes_of_fp2 o (fun md x y => FV.sub md x y) rfl
  · exact fpLanes_of_fp2 o (fun _ x y => FV.mul x y) rfl
  · exact fpLanes_of_fp2 o (fun _ x y => FV.div x y) rfl
  · exact fpLanes_of_fp3 o (fun md x y z => FV.fma md x y z) rfl
  · exact fpLanes_of_fp3 o (fun md x y z => FV.fma md x y z.neg) rfl
  · exact fpLanes_of_fp3 o (fun md x y z => FV.fma md x.neg y z) rfl
  · exact fpLanes_of_fp (fun s b k i => rounded k (b.mode o.r) (b.fv s k o.a i).sqrt) rfl
  · exact fpLanes_of_fp (fun s b k i => k.minMax false (elem (b.v s o.a.r) i k.bits) (elem (b.v s o.b.r) i k.bits)) rfl
  · exact fpLanes_of_fp (fun s b k i => k.minMax true (elem (b.v s o.a.r) i k.bits) (elem (b.v s o.b.r) i k.bits)) rfl
  · exact fpLanes_of_sign o.d o.a o.m o.t (signAt o.b) rfl
  · exact fpLanes_of_sign o.d o.a o.m o.t (fun _ _ _ _ => false) rfl
  · exact fpLanes_of_sign o.d o.a o.m o.t (fun k s b i => !signAt o.a k s b i) rfl

end Sys2Proof.Proofs

/-! PROOFS. O19, first part: segments and the tree of a reduction (R106, R208). -/
namespace Sys2Proof.Machine

/-! ### Segments -/

theorem Block.headOf_none (b : Block) (s : State) (i : Nat) : b.headOf s none i = 0 := by cases i <;> rfl

theorem Block.headOf_le (b : Block) (s : State) (seg : MSel) : ∀ i, b.headOf s seg i ≤ i
  | 0 => Nat.le_refl 0
  | i + 1 => by
    unfold Block.headOf
    cases seg with
    | none => exact Nat.zero_le _
    | some r =>
      simp only
      split
      · exact Nat.le_refl _
      · exact Nat.le_succ_of_le (Block.headOf_le b s (some r) i)

/-- A segment holds every element from its head to any of its own. -/
theorem Block.headOf_between (b : Block) (s : State) (seg : MSel) {k : Nat} :
    ∀ {i}, b.headOf s seg i ≤ k → k ≤ i → b.headOf s seg k = b.headOf s seg i
  | 0, _, hk => by rw [Nat.le_zero.1 hk]
  | i + 1, hhead, hk => by
    cases seg with
    | none => simp [Block.headOf_none]
    | some r =>
      rcases Nat.le_succ_iff.1 hk with hki | rfl
      · by_cases hbit : (b.m s r).getLsbD (i + 1) = true
        · have : b.headOf s (some r) (i + 1) = i + 1 := by simp [Block.headOf, hbit]
          omega
        · have hsame : b.headOf s (some r) (i + 1) = b.headOf s (some r) i := by simp [Block.headOf, hbit]
          rw [hsame] at hhead ⊢
          exact Block.headOf_between b s (some r) hhead hki
      · rfl

section
variable (b : Block) (s : State) (seg : MSel)

theorem Block.headOf_headOf (i : Nat) : b.headOf s seg (b.headOf s seg i) = b.headOf s seg i :=
  b.headOf_between s seg (Nat.le_refl _) (b.headOf_le s seg i)

/-- The elements of a segment follow each other from its head. -/
theorem Block.segment_eq_range' (h : Nat) : ∀ vl, ∃ n, ((List.range vl).filter fun i => b.headOf s seg i == h) = List.range' h n
  | 0 => ⟨0, rfl⟩
  | vl + 1 => by
    obtain ⟨n, hn⟩ := Block.segment_eq_range' h vl
    have hmem : ∀ i, (i < vl ∧ b.headOf s seg i = h) ↔ h ≤ i ∧ i < h + n := fun i => by
      rw [← List.mem_range'_1, ← hn, List.mem_filter, List.mem_range, beq_iff_eq]
    rw [List.range_succ, List.filter_append, hn]
    by_cases hv : b.headOf s seg vl = h
    · have hle : h ≤ vl := hv ▸ b.headOf_le s seg vl
      have hstart : h < vl → b.headOf s seg (vl - 1) = h := fun hlt =>
        (b.headOf_between s seg (i := vl) (by omega) (Nat.sub_le _ _)).trans hv
      have hlast := hmem (vl - 1)
      have htop := hmem (h + n - 1)
      have hend : h + n = vl := by
        rcases Nat.lt_or_ge h vl with hlt | hge
        · have := hlast.1 ⟨by omega, hstart hlt⟩
          have := (htop.2 ⟨by omega, by omega⟩).1
          omega
        · rcases Nat.eq_zero_or_pos n with rfl | hpos
          · omega
          · have := (htop.2 ⟨by omega, by omega⟩).1
            omega
      exact ⟨n + 1, by simp [hv, List.range'_concat, hend]⟩
    · exact ⟨n, by simp [hv]⟩

/-- The active elements of the segment with head `h`, in order. -/
def Block.segVals (t : EType) (a : VSrc) (m : MSel) (h : Nat) : List Nat :=
  ((List.range b.sc.vl).filter fun i => b.headOf s seg i == h && b.active s m i).map fun i => elem (b.v s a.r) i t.width

/-- Without a segment mask the one segment holds every active element. -/
theorem Block.segVals_none (t : EType) (a : VSrc) (m : MSel) :
    b.segVals s none t a m 0 = (b.actives s m).map fun i => elem (b.v s a.r) i t.width := by
  simp [Block.segVals, Block.actives, Block.headOf_none]

end

/-! ### The tree -/

/-- One node of the tree over its two halves. -/
def redJoin (f : Nat → Nat → Nat × Flags) : Option Nat × Flags → Option Nat × Flags → Option Nat × Flags
  | (some x, p), (some y, q) => (some (f x y).1, p ||| q ||| (f x y).2)
  | (some x, p), (none, q) => (some x, p ||| q)
  | (none, p), (y, q) => (y, p ||| q)

theorem redTree_succ (f : Nat → Nat → Nat × Flags) (leaf : Nat → Option Nat) (k j : Nat) :
    redTree f leaf (k + 1) j = redJoin f (redTree f leaf k (2 * j)) (redTree f leaf k (2 * j + 1)) := by
  rw [redTree]
  rcases redTree f leaf k (2 * j) with ⟨_ | x, p⟩ <;> rcases redTree f leaf k (2 * j + 1) with ⟨_ | y, q⟩ <;> rfl

/-- The leaves that are present under a node. -/
def leavesUnder (leaf : Nat → Option Nat) (k j : Nat) : List Nat := (List.range' (j * 2 ^ k) (2 ^ k)).filterMap leaf

theorem leavesUnder_succ (leaf : Nat → Option Nat) (k j : Nat) :
    leavesUnder leaf (k + 1) j = leavesUnder leaf k (2 * j) ++ leavesUnder leaf k (2 * j + 1) := by
  have h1 : j * 2 ^ (k + 1) = 2 * j * 2 ^ k := by ring
  have h2 : (2 * j + 1) * 2 ^ k = 2 * j * 2 ^ k + 2 ^ k := by ring
  rw [leavesUnder, leavesUnder, leavesUnder, h1, h2, ← List.filterMap_append, List.range'_append_1, Nat.pow_succ, Nat.mul_two]

/-- What holds of each leaf, and of a node where it holds of the halves, holds of every node over the leaves under it. -/
theorem redTree_induction {f : Nat → Nat → Nat × Flags} {leaf : Nat → Option Nat} {motive : List Nat → Option Nat × Flags → Prop}
    (hleaf : ∀ i, motive (leaf i).toList (leaf i, fNone))
    (hjoin : ∀ l l' r r', motive l r → motive l' r' → motive (l ++ l') (redJoin f r r')) :
    ∀ k j, motive (leavesUnder leaf k j) (redTree f leaf k j)
  | 0, j => by
    have : leavesUnder leaf 0 j = (leaf j).toList := by
      simp only [leavesUnder, Nat.pow_zero, Nat.mul_one, List.range'_one, List.filterMap_cons, List.filterMap_nil]
      cases leaf j <;> rfl
    rw [this]
    exact hleaf j
  | k + 1, j => by
    rw [redTree_succ, leavesUnder_succ]
    exact hjoin _ _ _ _ (redTree_induction hleaf hjoin k _) (redTree_induction hleaf hjoin k _)

theorem le_two_pow_clog2 (n : Nat) : n ≤ 2 ^ clog2 n := by
  unfold clog2
  split
  · omega
  · have := Nat.lt_log2_self (n := n - 1)
    omega

/-- The leaves of a whole tree: those below its size that are present. -/
theorem leavesUnder_root (p : Nat → Bool) (g : Nat → Nat) (n : Nat) :
    leavesUnder (fun j => if j < n && p j then some (g j) else none) (clog2 n) 0 = ((List.range n).filter p).map g := by
  obtain ⟨d, hd⟩ := Nat.exists_eq_add_of_le (le_two_pow_clog2 n)
  have habove : ((List.range d).map (n + ·)).filterMap (fun j => if j < n && p j then some (g j) else none) = [] := by
    simp
  have hbelow : (List.range n).filterMap (fun j => if j < n && p j then some (g j) else none) = ((List.range n).filter p).map g := by
    rw [← List.filterMap_eq_map, List.filterMap_filter]
    refine List.filterMap_congr fun j hj => ?_
    simp [List.mem_range.1 hj]
  rw [leavesUnder, Nat.zero_mul, ← List.range_eq_range', hd, List.range_add, List.filterMap_append, habove, hbelow, List.append_nil]

section
variable {b : Block} {s : State} {op : RedOp} {t : EType} {md : Mode} {a : VSrc} {m seg : MSel} {h : Nat}

/-- What a reduction of a segment comes to, by what its tree keeps over the active elements. -/
theorem Block.segRed_of_motive {motive : List Nat → Option Nat × Flags → Prop}
    (hnone : motive [] (none, fNone)) (hone : ∀ i, motive [elem (b.v s a.r) i t.width] (some (elem (b.v s a.r) i t.width), fNone))
    (hjoin : ∀ l l' r r', motive l r → motive l' r' → motive (l ++ l') (redJoin (combine op t md) r r')) :
    ∃ r : Option Nat × Flags, motive (b.segVals s seg t a m h) r ∧
      b.segRed s op t md a m seg h = (canonNan t (r.1.getD (emptyRed op t)), r.2) := by
  obtain ⟨n, hn⟩ := b.segment_eq_range' s seg h b.sc.vl
  have hlen : ((List.range b.sc.vl).filter fun i => b.headOf s seg i == h).length = n := by rw [hn, List.length_range']
  have hvals : b.segVals s seg t a m h =
      ((List.range n).filter fun j => b.active s m (h + j)).map fun j => elem (b.v s a.r) (h + j) t.width := by
    have hsplit : ((List.range b.sc.vl).filter fun i => b.headOf s seg i == h && b.active s m i) =
        (List.range' h n).filter fun i => b.active s m i := by
      rw [← hn, List.filter_filter]
      exact List.filter_congr fun i _ => Bool.and_comm _ _
    rw [Block.segVals, hsplit, List.range'_eq_map_range, List.filter_map, List.map_map]
    rfl
  have htree := redTree_induction (f := combine op t md)
    (leaf := fun j => if j < n && b.active s m (h + j) then some (elem (b.v s a.r) (h + j) t.width) else none)
    (motive := motive) (fun j => by split; exacts [hone _, hnone]) hjoin (clog2 n) 0
  rw [leavesUnder_root (fun j => b.active s m (h + j)) (fun j => elem (b.v s a.r) (h + j) t.width), ← hvals] at htree
  exact ⟨_, htree, by simp only [Block.segRed, hlen]⟩

end

end Sys2Proof.Machine

/-! PROOFS. O19, second part: what a reduction pushes and what it writes (R89, R106, R208). -/
namespace Sys2Proof.Machine

/-! ### Values of a reduction -/

theorem canonNan_emptyRed (op : RedOp) (t : EType) : canonNan t (emptyRed op t) = emptyRed op t := by
  cases op <;> cases t <;> decide +kernel

theorem EType.fmtOf_of_isInt {t : EType} (h : t.isInt = true) : fmtOf t = none := by
  cases t <;> simp_all [EType.isInt, fmtOf]

theorem canonNan_int {t : EType} (h : t.isInt = true) (x : Nat) : canonNan t x = x := by
  rw [canonNan, EType.fmtOf_of_isInt h]

/-- Two encodings of one integer are one. -/
theorem intVal_inj {t : EType} {x y : Nat} (hx : x < 2 ^ t.width) (hy : y < 2 ^ t.width) (h : intVal t x = intVal t y) : x = y := by
  cases hs : t.signed with
  | true =>
    rw [intVal_signed hs, intVal_signed hs] at h
    have := congrArg BitVec.toNat (BitVec.eq_of_toInt_eq h)
    rwa [BitVec.toNat_ofNat, BitVec.toNat_ofNat, Nat.mod_eq_of_lt hx, Nat.mod_eq_of_lt hy] at this
  | false =>
    rw [intVal_unsigned hs, intVal_unsigned hs, Nat.mod_eq_of_lt hx, Nat.mod_eq_of_lt hy] at h
    exact Int.ofNat_inj.1 h

theorem pushVal_fp {t : EType} (h : t.isFp = true) (x : Nat) : pushVal t x = x := by
  cases t <;> simp_all [pushVal, EType.isFp, EType.signed]

theorem emptyRed_int_sum {t : EType} (h : t.isInt = true) : emptyRed .sum t = 0 := by
  rw [emptyRed, EType.fmtOf_of_isInt h]

/-! ### What a tree keeps -/

/-- At most one leaf passes up as it is. -/
def LoneLeaf (l : List Nat) (r : Option Nat × Flags) : Prop :=
  (l = [] → r = (none, fNone)) ∧ ∀ x, l = [x] → r = (some x, fNone)
/-- A node is the sum of its leaves modulo 2^w. -/
def SumsTo (w : Nat) (l : List Nat) (r : Option Nat × Flags) : Prop := r.1.getD 0 = l.sum % 2 ^ w ∧ r.2 = fNone
/-- A node is one of its leaves of the greatest key. -/
def Greatest (key : Nat → Int) (l : List Nat) (r : Option Nat × Flags) : Prop :=
  (r.1 = none → l = []) ∧ (∀ v, r.1 = some v → v ∈ l ∧ ∀ y ∈ l, key y ≤ key v) ∧ r.2 = fNone

section
variable {f : Nat → Nat → Nat × Flags} {l l' : List Nat} {r r' : Option Nat × Flags}

theorem LoneLeaf.leaf (x : Nat) : LoneLeaf [x] (some x, fNone) :=
  ⟨fun h => (List.cons_ne_nil x [] h).elim, fun _ h => by rw [(List.cons.inj h).1]⟩
theorem LoneLeaf.none : LoneLeaf [] (.none, fNone) := ⟨fun _ => rfl, fun x h => (List.cons_ne_nil x [] h.symm).elim⟩
theorem LoneLeaf.join (hl : LoneLeaf l r) (hl' : LoneLeaf l' r') : LoneLeaf (l ++ l') (redJoin f r r') := by
  refine ⟨fun h => ?_, fun x h => ?_⟩
  · obtain ⟨h1, h2⟩ := List.append_eq_nil_iff.1 h
    rw [hl.1 h1, hl'.1 h2]
    rfl
  · rcases List.append_eq_singleton_iff.1 h with ⟨h1, h2⟩ | ⟨h1, h2⟩
    · rw [hl.1 h1, hl'.2 x h2]
      rfl
    · rw [hl.2 x h1, hl'.1 h2]
      rfl

/-- A node of sums: an absent half counts as 0. -/
theorem redJoin_sum {w : Nat} (hf : ∀ x y, f x y = ((x + y) % 2 ^ w, fNone)) (hlt : r.1.getD 0 < 2 ^ w) (hlt' : r'.1.getD 0 < 2 ^ w)
    (hp : r.2 = fNone) (hq : r'.2 = fNone) : SumsTo w [r.1.getD 0, r'.1.getD 0] (redJoin f r r') := by
  rcases r with ⟨_ | x, p⟩ <;> rcases r' with ⟨_ | y, q⟩ <;> simp only at hp hq <;> subst hp hq <;> refine ⟨?_, ?_⟩
  all_goals simp_all [redJoin, fNone, Nat.mod_eq_of_lt]

theorem SumsTo.join {w : Nat} (hf : ∀ x y, f x y = ((x + y) % 2 ^ w, fNone)) (hl : SumsTo w l r) (hl' : SumsTo w l' r') :
    SumsTo w (l ++ l') (redJoin f r r') := by
  obtain ⟨hv, hp⟩ := hl
  obtain ⟨hv', hq⟩ := hl'
  have hlt : ∀ n, n % 2 ^ w < 2 ^ w := fun n => Nat.mod_lt n (Nat.two_pow_pos w)
  obtain ⟨hsum, hflag⟩ := redJoin_sum hf (hv ▸ hlt _) (hv' ▸ hlt _) hp hq
  refine ⟨hsum.trans ?_, hflag⟩
  rw [hv, hv', List.sum_append]
  simp [Nat.add_mod]

theorem Greatest.join {key : Nat → Int} (hf : ∀ x y, f x y = (if key x < key y then y else x, fNone)) (hl : Greatest key l r)
    (hl' : Greatest key l' r') : Greatest key (l ++ l') (redJoin f r r') := by
  obtain ⟨hnil, hbest, hp⟩ := hl
  obtain ⟨hnil', hbest', hq⟩ := hl'
  rcases r with ⟨_ | x, p⟩ <;> rcases r' with ⟨_ | y, q⟩ <;> simp only at hp hq <;> subst hp hq
  · exact ⟨fun _ => by simp [hnil rfl, hnil' rfl], fun v hv => (by cases hv), rfl⟩
  · exact ⟨fun h => (by cases h), fun v hv => by simpa [hnil rfl] using hbest' v hv, rfl⟩
  · exact ⟨fun h => (by cases h), fun v hv => by simpa [hnil' rfl] using hbest v hv, rfl⟩
  · obtain ⟨hx, hxs⟩ := hbest x rfl
    obtain ⟨hy, hys⟩ := hbest' y rfl
    refine ⟨fun h => (by cases h), fun v hv => ?_, by simp [redJoin, hf, fNone]⟩
    obtain rfl : v = if key x < key y then y else x := by simpa [redJoin, hf] using hv.symm
    split
    · next hlt =>
      refine ⟨List.mem_append_right _ hy, fun z hz => ?_⟩
      rcases List.mem_append.1 hz with hz | hz
      · exact (hxs z hz).trans hlt.le
      · exact hys z hz
    · next hge =>
      refine ⟨List.mem_append_left _ hx, fun z hz => ?_⟩
      rcases List.mem_append.1 hz with hz | hz
      · exact hxs z hz
      · exact (hys z hz).trans (not_lt.1 hge)

end

section
variable {b : Block} {s : State} {t : EType} {md : Mode} {a : VSrc} {m seg : MSel} {h : Nat}

/-- A segment with no active element gives the value of the empty reduction (R106). -/
theorem Block.segRed_empty {op : RedOp} (hv : b.segVals s seg t a m h = []) :
    b.segRed s op t md a m seg h = (emptyRed op t, 0) := by
  obtain ⟨r, hr, hred⟩ := Block.segRed_of_motive (b := b) (s := s) (op := op) (t := t) (md := md) (a := a) (m := m) (seg := seg) (h := h)
    LoneLeaf.none (fun _ => LoneLeaf.leaf _) fun _ _ _ _ => LoneLeaf.join
  rw [hred, hr.1 hv]
  exact Prod.ext (canonNan_emptyRed op t) rfl

/-- One with a single active element gives that element without a flag, a NaN as the canonical one (R89, R106). -/
theorem Block.segRed_single {op : RedOp} {x : Nat} (hv : b.segVals s seg t a m h = [x]) :
    b.segRed s op t md a m seg h = (canonNan t x, 0) := by
  obtain ⟨r, hr, hred⟩ := Block.segRed_of_motive (b := b) (s := s) (op := op) (t := t) (md := md) (a := a) (m := m) (seg := seg) (h := h)
    LoneLeaf.none (fun _ => LoneLeaf.leaf _) fun _ _ _ _ => LoneLeaf.join
  rw [hred, hr.2 x hv]
  rfl

theorem combine_sum_int (ht : t.isInt = true) (x y : Nat) : combine .sum t md x y = ((x + y) % 2 ^ t.width, fNone) := by
  rw [combine, EType.fmtOf_of_isInt ht]
  refine Prod.ext ?_ rfl
  show (((x : Int) + y) % 2 ^ t.width).toNat = _
  rw [show ((x : Int) + y) % 2 ^ t.width = ((x + y) % 2 ^ t.width : Nat) by push_cast; rfl, Int.toNat_natCast]
theorem combine_max_int (ht : t.isInt = true) (x y : Nat) :
    combine .max t md x y = (if intVal t x < intVal t y then y else x, fNone) := by
  rw [combine, EType.fmtOf_of_isInt ht]
theorem combine_min_int (ht : t.isInt = true) (x y : Nat) :
    combine .min t md x y = (if -intVal t x < -intVal t y then y else x, fNone) := by
  rw [combine, EType.fmtOf_of_isInt ht]
  simp only [neg_lt_neg_iff]

/-- Integer sums wrap (R208). -/
theorem Block.segRed_int_sum (ht : t.isInt = true) :
    b.segRed s .sum t md a m seg h = ((b.segVals s seg t a m h).sum % 2 ^ t.width, 0) := by
  obtain ⟨r, ⟨hval, hflag⟩, hred⟩ := Block.segRed_of_motive (b := b) (s := s) (op := .sum) (t := t) (md := md) (a := a) (m := m)
    (seg := seg) (h := h) (motive := SumsTo t.width) ⟨by simp, rfl⟩ (fun i => ⟨by simp [elem_mod], rfl⟩)
    fun _ _ _ _ => SumsTo.join (combine_sum_int ht)
  rw [hred, hflag, canonNan_int ht, emptyRed_int_sum ht, hval]
  rfl

/-- An integer reduction that keeps the greatest key gives the active element of that key (R208). -/
theorem Block.segRed_int_greatest {op : RedOp} {key : Nat → Int} (ht : t.isInt = true)
    (hop : ∀ x y, combine op t md x y = (if key x < key y then y else x, fNone))
    (hkey : ∀ x y, x < 2 ^ t.width → y < 2 ^ t.width → key x = key y → x = y) {x : Nat} (hx : x ∈ b.segVals s seg t a m h)
    (hmax : ∀ y ∈ b.segVals s seg t a m h, key y ≤ key x) : b.segRed s op t md a m seg h = (x, 0) := by
  obtain ⟨r, ⟨hnone, hbest, hflag⟩, hred⟩ := Block.segRed_of_motive (b := b) (s := s) (op := op) (t := t) (md := md) (a := a) (m := m)
    (seg := seg) (h := h) (motive := Greatest key) ⟨fun _ => rfl, fun v hv => (by cases hv), rfl⟩
    (fun i => ⟨fun h => (Option.some_ne_none _ h).elim, fun v hv => by cases hv; simp, rfl⟩) fun _ _ _ _ => Greatest.join hop
  have hlt : ∀ y ∈ b.segVals s seg t a m h, y < 2 ^ t.width := fun y hy => by
    obtain ⟨i, _, rfl⟩ := List.mem_map.1 hy
    exact elem_lt _ _ _
  rw [hred, hflag, canonNan_int ht]
  cases hr : r.1 with
  | none => rw [hnone hr] at hx; cases hx
  | some v =>
    obtain ⟨hv, hvs⟩ := hbest v hr
    exact Prod.ext (hkey v x (hlt v hv) (hlt x hx) (le_antisymm (hmax v hv) (hvs x hx))) rfl

end

/-! ### What a reduction leaves -/

section
variable {b : Block} {s : State} {op : RedOp} {t : EType} {md : Block → Mode} {a : VSrc} {m seg : MSel}

theorem Block.push_ok (x : Nat) (h : b.pushes.length < 16) :
    b.push x = .ok { b with pushes := b.pushes ++ [BitVec.ofNat 64 x] } := if_neg (Nat.not_le.2 h)

/-- `.X` pushes the one result of its register. -/
theorem wordRed_push (hw : t.width ≤ b.sc.ew) (hp : b.pushes.length < 16) {r : Nat × Flags}
    (hr : b.segRed s op t (md b) a m none 0 = r) : wordRed op none a m t md none s b = .ok { b with
      pushes := b.pushes ++ [BitVec.ofNat 64 (pushVal t r.1)], flags := b.flags ||| r.2, pos := b.pos + 1 } := by
  subst hr
  exact (ok_bind _ (Block.fits_ok hw)).trans ((ok_bind _ Block.illIf_false).trans (ok_bind _ (Block.push_ok _ hp)))

/-- Elements of a destination outside the mask policy. -/
theorem Block.elem_putAll {d : VReg} {w : Nat} (f : Nat → Nat) {k : Nat} (hd : b.declares d) (hw : w ≤ b.sc.ew) (hk : k < b.sc.vlm) :
    elem ((b.putAll s d w f).v s d) k w =
      if k < b.sc.vl then f k % 2 ^ w else if vtTp b.sc.vt then 0 else elem (b.v s d) k w := by
  rw [Block.putAll, Block.v_setV _ _ _ _ _ hd, if_pos rfl, elem_vecDest _ _ _ _ _ hw hk]
  split
  · rfl
  · split
    · exact Nat.zero_mod _
    · exact elem_mod _ _ _

/-- The bits that flags set one after the other. -/
theorem getLsbD_foldl_or {α : Type} (g : α → Flags) (j : Nat) : ∀ (l : List α) (z : Flags),
    (l.foldl (fun f i => f ||| g i) z).getLsbD j = (z.getLsbD j || l.any fun i => (g i).getLsbD j)
  | [], z => by simp
  | i :: l, z => by rw [List.foldl_cons, getLsbD_foldl_or g j l, BitVec.getLsbD_or, List.any_cons, Bool.or_assoc]

end

end Sys2Proof.Machine

namespace Sys2Proof.Spec
open Sys2Proof.Machine

section
variable {i : Instr} {s : State} {b : Block} {op : RedOp} {t : EType} {md : Block → Mode} {a : VSrc} {m seg : MSel}

/-- A reduction with `.X`. -/
theorem pushes_of_wordRed {f : Word} {r : Nat × Flags} (hb : s.me.block = some b) (he : exec i s = s.onBlock f)
    (hf : f s b = wordRed op none a m t md none s b) (hw : t.width ≤ b.sc.ew) (hp : b.pushes.length < 16)
    (hr : b.segRed s op t (md b) a m none 0 = r) : Pushes i s b (pushVal t r.1) r.2 :=
  goes_of_word hb he (hf.trans (wordRed_push hw hp hr)) rfl rfl rfl rfl

/-- A reduction to a register. -/
theorem reducesTo_of_wordRed {f : Word} {d : VReg} (hb : s.me.block = some b) (he : exec i s = s.onBlock f)
    (hf : f s b = wordRed op (some d) a m t md seg s b) (hw : t.width ≤ b.sc.ew) (hd : Declares b d) :
    ReducesTo i s b d t.width seg fun k => b.segRed s op t (md b) a m seg k := by
  refine goes_of_word hb he (hf.trans (ok_bind _ (Block.fits_ok hw))) rfl rfl rfl ⟨rfl, fun r hr => ?_, fun k hk hl => ?_,
    fun k hk hl => ?_, fun j => ?_⟩
  · exact (Block.v_setV _ _ _ _ _ hd).trans (if_neg hr)
  · refine (Block.elem_putAll _ hd hw hk).trans ?_
    rw [if_pos hl]
    simp only [beq_iff_eq]
    split
    · rfl
    · exact elem_mod _ _ _
  · exact (Block.elem_putAll _ hd hw hk).trans (if_neg (Nat.not_lt.2 hl))
  · refine (BitVec.getLsbD_or ..).trans (congrArg _ ((getLsbD_foldl_or _ j _ _).trans ?_))
    rw [List.any_filter]
    simp [fNone, beq_eq_decide]

end

theorem blockIntegerReductions : BlockIntegerReductions := by
  intro s b o hb hd hseg ht hw hp xs
  have hxs : b.segVals s none o.t o.a o.m 0 = xs := b.segVals_none s o.t o.a o.m
  have hword : ∀ op, wordIred op o s b = wordRed op none o.a o.m o.t (fun _ => .rne) none s b := fun op => by
    unfold wordIred
    rw [ht, hd, hseg]
    exact ok_bind _ Block.illIf_false
  have hpush : ∀ {i op r}, exec i s = s.onBlock (wordIred op o) → b.segRed s op o.t .rne o.a o.m none 0 = r →
      Pushes i s b (pushVal o.t r.1) r.2 := fun he hr => pushes_of_wordRed hb he (hword _) hw hp hr
  refine ⟨hpush (op := .sum) (r := (_, 0)) rfl (hxs ▸ Block.segRed_int_sum ht),
    fun x hx hmax => hpush (op := .max) (r := (x, 0)) rfl ?_, fun x hx hmin => hpush (op := .min) (r := (x, 0)) rfl ?_, fun hnil => ⟨?_, ?_⟩⟩
  · rw [← hxs] at hx hmax
    exact Block.segRed_int_greatest ht (combine_max_int ht) (fun _ _ => intVal_inj) hx hmax
  · rw [← hxs] at hx hmin
    exact Block.segRed_int_greatest ht (combine_min_int ht) (fun _ _ h h' he => intVal_inj h h' (neg_inj.1 he)) hx
      fun y hy => neg_le_neg (hmin y hy)
  · have := hpush (i := .vredmax o) (op := .max) rfl (Block.segRed_empty (hxs.trans hnil))
    rwa [show emptyRed .max o.t = _ by rw [emptyRed, EType.fmtOf_of_isInt ht]] at this
  · have := hpush (i := .vredmin o) (op := .min) rfl (Block.segRed_empty (hxs.trans hnil))
    rwa [show emptyRed .min o.t = _ by rw [emptyRed, EType.fmtOf_of_isInt ht]] at this

end Sys2Proof.Spec

/-! PROOFS. O19, third part: scans, and the statement (R107, R208, R209). -/
namespace Sys2Proof.Machine

/-! ### A destination of some elements -/

/-- An element without a result keeps its value. -/
theorem Block.putV_getD (b : Block) (s : State) (d : VReg) (w : Nat) (m : MSel) (res : Nat → Option Nat) :
    b.putV s d w m res = b.putV s d w m fun i => some ((res i).getD (elem (b.v s d) i w)) := by
  unfold Block.putV
  refine congrArg (fun f => b.setV d (vecDest (b.v s d) b.sc w f)) (funext fun i => ?_)
  simp only [Block.cell, Option.getD_some]

/-! ### Scans -/

section
variable (f : Nat → Nat → Nat × Flags) (head : Nat → Nat) (act : Nat → Bool)

@[simp] theorem scanRound_length (d : Nat) (y : List (Option Nat)) : (scanRound f head act d y).1.length = y.length := by
  simp [scanRound]

/-- One round joins an element with the one at its distance, within its segment. -/
theorem scanRound_getD {d i : Nat} {y : List (Option Nat)} (hi : i < y.length) : (scanRound f head act d y).1.getD i none =
    if d ≤ i - head i then (redJoin f (y.getD i none, fNone) (y.getD (i - d) none, fNone)).1 else y.getD i none := by
  have hcells : ∀ g : Nat → Option Nat × Flags,
      (((List.range y.length).map g).map (·.1)).getD i none = (g i).1 := fun g => by
    simp [List.getD, List.getElem?_range hi]
  simp only [scanRound]
  rw [hcells]
  split
  · cases y.getD i none <;> cases y.getD (i - d) none <;> rfl
  · rfl

/-- What each round keeps, doubling its distance, holds at the end; then the distance covers the list or every round ran. -/
theorem scanRounds_inv {P : Nat → List (Option Nat) → Prop} (hstep : ∀ d y, P d y → P (2 * d) (scanRound f head act d y).1) :
    ∀ n d y, P d y → ∃ e, P e (scanRounds f head act n d y).1 ∧ (y.length ≤ e ∨ e = 2 ^ n * d)
  | 0, d, y, h => ⟨d, h, .inr (Nat.one_mul d).symm⟩
  | n + 1, d, y, h => by
    rw [scanRounds]
    split
    · obtain ⟨e, he, hlast⟩ := scanRounds_inv hstep n (2 * d) _ (hstep d y h)
      rw [scanRound_length] at hlast
      exact ⟨e, he, hlast.imp_right fun h => h.trans (by ring)⟩
    · next hd => exact ⟨d, h, .inl (Nat.not_lt.1 hd)⟩

/-- An element that is active at the start has a value after every round. -/
theorem scanRound_isSome {d i : Nat} {y : List (Option Nat)} (hi : (y.getD i none).isSome) :
    ((scanRound f head act d y).1.getD i none).isSome := by
  have hlt : i < y.length := by
    by_contra hge
    simp [List.getD, List.getElem?_eq_none (Nat.not_lt.1 hge)] at hi
  rw [scanRound_getD f head act hlt]
  split
  · obtain ⟨x, hx⟩ := Option.isSome_iff_exists.1 hi
    rw [hx]
    cases y.getD (i - d) none <;> rfl
  · exact hi
theorem scanRounds_isSome {i : Nat} (n d : Nat) {y : List (Option Nat)} (hi : (y.getD i none).isSome) :
    ((scanRounds f head act n d y).1.getD i none).isSome :=
  (scanRounds_inv f head act (P := fun _ y => (y.getD i none).isSome) (fun _ _ => scanRound_isSome f head act) n d y hi).choose_spec.1

variable {f}

/-- A combination that sets no flag leaves a scan without one. -/
theorem scanRound_flags (hf : ∀ x y, (f x y).2 = fNone) (d : Nat) (y : List (Option Nat)) : (scanRound f head act d y).2 = fNone := by
  have hfold : ∀ cells : List (Option Nat × Flags), (∀ c ∈ cells, c.2 = fNone) → cells.foldl (fun f c => f ||| c.2) fNone = fNone := by
    intro cells hcells
    induction cells with
    | nil => rfl
    | cons c cs ih =>
      rw [List.foldl_cons, hcells c List.mem_cons_self]
      exact ih fun c hc => hcells c (List.mem_cons_of_mem _ hc)
  refine hfold _ fun c hc => ?_
  obtain ⟨i, _, rfl⟩ := List.mem_map.1 hc
  simp only
  split
  · split
    · simp only [hf, ite_self]
    · rfl
    · rfl
  · rfl
theorem scanRounds_flags (hf : ∀ x y, (f x y).2 = fNone) : ∀ n d y, (scanRounds f head act n d y).2 = fNone
  | 0, _, _ => rfl
  | n + 1, d, y => by
    rw [scanRounds]
    split
    · show (scanRound f head act d y).2 ||| (scanRounds f head act n (2 * d) _).2 = fNone
      rw [scanRound_flags head act hf, scanRounds_flags hf n]
      rfl
    · rfl

end

/-- After rounds of total distance d an element holds the sum, modulo 2^w, of the last d elements of its segment up to itself. -/
def ScanSums (x head : Nat → Nat) (w n d : Nat) (y : List (Option Nat)) : Prop :=
  y.length = n ∧ ∀ i, i < n → (y.getD i none).getD 0 = (∑ j ∈ Finset.Ico (max (head i) (i + 1 - d)) (i + 1), x j) % 2 ^ w

section
variable {f : Nat → Nat → Nat × Flags} {head x : Nat → Nat} {act : Nat → Bool} {w n d : Nat} {y : List (Option Nat)}

theorem ScanSums.round (hf : ∀ x y, f x y = ((x + y) % 2 ^ w, fNone)) (hle : ∀ i, head i ≤ i)
    (hhead : ∀ {k i}, head i ≤ k → k ≤ i → head k = head i)
    (h : ScanSums x head w n d y) : ScanSums x head w n (2 * d) (scanRound f head act d y).1 := by
  obtain ⟨hlen, hsum⟩ := h
  refine ⟨(scanRound_length ..).trans hlen, fun i hi => ?_⟩
  have hlei := hle i
  have hlt : ∀ k, k < n → (y.getD k none).getD 0 < 2 ^ w := fun k hk => by
    rw [hsum k hk]
    exact Nat.mod_lt _ (Nat.two_pow_pos w)
  rw [scanRound_getD f head act (hlen.symm ▸ hi)]
  split
  · next hd =>
    have hsame : head (i - d) = head i := hhead (by omega) (Nat.sub_le _ _)
    have hjoin : ∑ j ∈ Finset.Ico (max (head i) (i + 1 - 2 * d)) (i + 1), x j =
        ∑ j ∈ Finset.Ico (max (head (i - d)) (i - d + 1 - d)) (i - d + 1), x j +
          ∑ j ∈ Finset.Ico (max (head i) (i + 1 - d)) (i + 1), x j := by
      rw [hsame, show i - d + 1 - d = i + 1 - 2 * d by omega, show i - d + 1 = max (head i) (i + 1 - d) by omega]
      exact (Finset.sum_Ico_consecutive _ (by omega) (by omega)).symm
    rw [(redJoin_sum (r := (y.getD i none, fNone)) (r' := (y.getD (i - d) none, fNone)) hf (hlt i hi) (hlt _ (by omega)) rfl rfl).1,
      hjoin, List.sum_cons, List.sum_singleton, hsum i hi, hsum (i - d) (by omega), ← Nat.add_mod, Nat.add_comm]
  · next hd => rw [hsum i hi, show max (head i) (i + 1 - 2 * d) = max (head i) (i + 1 - d) by omega]

end

section
variable {b : Block} {s : State} {t : EType} {md : Mode} {a : VSrc} {m seg : MSel}

/-- The elements that a scan begins with. -/
def Block.scanLeaves (b : Block) (s : State) (t : EType) (a : VSrc) (m : MSel) : List (Option Nat) :=
  (List.range b.sc.vl).map fun i => if b.active s m i then some (elem (b.v s a.r) i t.width) else none

theorem Block.scanLeaves_getD {i : Nat} (hi : i < b.sc.vl) : (b.scanLeaves s t a m).getD i none =
    if b.active s m i then some (elem (b.v s a.r) i t.width) else none := by
  simp [Block.scanLeaves, List.getD, List.getElem?_range hi]

theorem Block.active_lt {i : Nat} (h : b.active s m i = true) : i < b.sc.vl := by
  unfold Block.active at h
  rw [Bool.and_assoc, Bool.and_eq_true, decide_eq_true_eq] at h
  exact h.1

theorem Block.scanLeaves_isSome {i : Nat} (h : b.active s m i = true) : ((b.scanLeaves s t a m).getD i none).isSome := by
  rw [Block.scanLeaves_getD (Block.active_lt h), h]
  rfl

/-- An element of a segment, 0 where it is not active. -/
def Block.term (b : Block) (s : State) (t : EType) (a : VSrc) (m : MSel) (j : Nat) : Nat :=
  if b.active s m j then elem (b.v s a.r) j t.width else 0

theorem Block.scanLeaves_sums : ScanSums (b.term s t a m) (b.headOf s seg) t.width b.sc.vl 1 (b.scanLeaves s t a m) := by
  refine ⟨by simp [Block.scanLeaves], fun i hi => ?_⟩
  have hle := b.headOf_le s seg i
  rw [Block.scanLeaves_getD hi, show max (b.headOf s seg i) (i + 1 - 1) = i by omega, Nat.Ico_succ_singleton, Finset.sum_singleton,
    Block.term]
  split
  · exact (elem_mod _ _ _).symm
  · exact (Nat.zero_mod _).symm

/-- The sum over the elements of a list that a test keeps. -/
theorem sum_map_filter (p : Nat → Bool) (g : Nat → Nat) (l : List Nat) :
    ((l.filter p).map g).sum = (l.map fun j => if p j then g j else 0).sum := by
  induction l with
  | nil => rfl
  | cons x l ih => cases hp : p x <;> simp [hp, ih]

/-- The active elements of the segment of i up to i, from its head on. -/
theorem Block.sum_segment (i : Nat) : (((List.range (i + 1)).filter fun j =>
      b.active s m j && decide (b.headOf s seg j = b.headOf s seg i)).map fun j => elem (b.v s a.r) j t.width).sum =
    ∑ j ∈ Finset.Ico (b.headOf s seg i) (i + 1), b.term s t a m j := by
  have hle := b.headOf_le s seg i
  rw [sum_map_filter]
  show (∑ j ∈ Finset.range (i + 1), _) = _
  rw [Finset.range_eq_Ico, ← Finset.sum_Ico_consecutive _ (Nat.zero_le (b.headOf s seg i)) (by omega), Finset.sum_eq_zero, Nat.zero_add]
  · refine Finset.sum_congr rfl fun j hj => ?_
    obtain ⟨hlo, hhi⟩ := Finset.mem_Ico.1 hj
    simp [b.headOf_between s seg hlo (Nat.le_of_lt_succ hhi), Block.term]
  · intro j hj
    have hlt := (Finset.mem_Ico.1 hj).2
    have hne : b.headOf s seg j ≠ b.headOf s seg i := by have := b.headOf_le s seg j; omega
    simp [hne]

theorem Block.vlm_le (b : Block) : b.sc.vlm ≤ 4096 :=
  Nat.div_le_div_left (c := 2) (Nat.le_self_pow (Nat.succ_ne_zero _) 2) two_pos

/-- An integer scan gives an active element the sum of its segment up to itself (R209). -/
theorem Block.scan_int (ht : t.isInt = true) {i : Nat} (hi : i < b.sc.vlm) (hact : b.active s m i = true) :
    ((scanRounds (combine .sum t md) (b.headOf s seg) (fun i => b.active s m i) 12 1 (b.scanLeaves s t a m)).1.getD i none).getD 0 =
      (((List.range (i + 1)).filter fun j =>
        b.active s m j && decide (b.headOf s seg j = b.headOf s seg i)).map fun j => elem (b.v s a.r) j t.width).sum % 2 ^ t.width := by
  have hi4096 := hi.trans_le b.vlm_le
  have hvl := Block.active_lt hact
  obtain ⟨e, ⟨_, hsum⟩, hlast⟩ := scanRounds_inv (combine .sum t md) (b.headOf s seg) (fun i => b.active s m i)
    (fun _ _ => ScanSums.round (combine_sum_int ht) (b.headOf_le s seg) (b.headOf_between s seg)) 12 1 _
    (b.scanLeaves_sums (s := s) (t := t) (a := a) (m := m))
  have hlen : (b.scanLeaves s t a m).length = b.sc.vl := b.scanLeaves_sums (seg := seg).1
  rw [hsum i hvl, Block.sum_segment, show max (b.headOf s seg i) (i + 1 - e) = b.headOf s seg i by omega]

end

end Sys2Proof.Machine

namespace Sys2Proof.Spec
open Sys2Proof.Machine

section
variable {s : State} {b b' : Block} {d : VReg} {w : Nat} {m : MSel} {f : Nat → Nat}

/-- The write rule of a destination that gives some elements a result and leaves the others (R192). -/
theorem Lanes.of_putV {res : Nat → Option Nat} (hd : Declares b d) (hw : w ≤ b.sc.ew) (hb' : b'.shV = (b.putV s d w m res).shV)
    (hf : ∀ i, i < b.sc.vlm → b.active s m i = true → (res i).getD (elem (b.v s d) i w) % 2 ^ w = f i % 2 ^ w) :
    Lanes s b b' d w m f := by
  obtain ⟨hactive, hmasked, htail, hothers, _⟩ :=
    b.lanewise_spec s d w m (fun i => ((res i).getD (elem (b.v s d) i w), fNone)) hd hw
  have hv : ∀ r, b'.v s r = (b.lanewise s d w m fun i => ((res i).getD (elem (b.v s d) i w), fNone)).v s r := fun r => by
    rw [Block.putV_getD] at hb'
    unfold Block.v
    rw [hb']
    rfl
  simp only [← hv] at hactive hmasked htail hothers
  exact ⟨fun i hi ha => (hactive i hi ha).trans (hf i hi ha), hmasked, htail, hothers⟩

/-- A scan that sets flags `g` writes the values that its rounds leave (R209). -/
theorem wordScan_ok {a : VSrc} {t : EType} {md : Block → Mode} {seg : MSel} (hw : t.width ≤ b.sc.ew) :
    let r := scanRounds (combine .sum t (md b)) (b.headOf s seg) (fun i => b.active s m i) 12 1 (b.scanLeaves s t a m)
    wordScan d a m t md seg s b =
      .ok ((b.putV s d t.width m fun i => (r.1.getD i none).map (canonNan t)).addFlags r.2).advance := by
  unfold wordScan Block.scanLeaves
  dsimp only
  generalize scanRounds _ _ _ _ _ _ = r
  exact ok_bind _ (Block.fits_ok hw)

/-- An active element has a value at the end of a scan. -/
theorem scan_value {a : VSrc} {t : EType} (g : Nat → Nat → Nat × Flags) (head : Nat → Nat) (i old : Nat) (ha : b.active s m i = true) :
    let r := scanRounds g head (fun i => b.active s m i) 12 1 (b.scanLeaves s t a m)
    ((r.1.getD i none).map (canonNan t)).getD old = canonNan t ((r.1.getD i none).getD 0) := by
  obtain ⟨x, hx⟩ := Option.isSome_iff_exists.1
    (scanRounds_isSome g head (fun i => b.active s m i) 12 1 (Block.scanLeaves_isSome (t := t) (a := a) ha))
  simp only [hx, Option.map_some, Option.getD_some]

end

/-- A word that checks a class of types first (R195). -/
theorem ok_of_illIf {b : Block} {c : Bool} {x : Except Trap Block} (hc : c = false) : (do b.illIf c; x) = x := by
  rw [hc]
  exact ok_bind _ Block.illIf_false

theorem wordFred_eq {o : VRedArgs} {op : RedOp} {s : State} {b : Block} (ht : o.t.isFp = true) :
    wordFred op o s b = wordRed op o.d o.a o.m o.t (fun b => b.mode o.r) o.seg s b := by
  unfold wordFred
  exact ok_of_illIf (by rw [ht]; rfl)
theorem wordIred_eq {o : VRedIArgs} {op : RedOp} {s : State} {b : Block} (ht : o.t.isInt = true) :
    wordIred op o s b = wordRed op o.d o.a o.m o.t (fun _ => .rne) o.seg s b := by
  unfold wordIred
  exact ok_of_illIf (by rw [ht]; rfl)

theorem combine_sum_flags {t : EType} {md : Mode} (ht : t.isInt = true) (x y : Nat) : (combine .sum t md x y).2 = fNone := by
  rw [combine_sum_int ht]

theorem Block.flagsOf_zero (b : Block) (s : State) (m : MSel) : b.flagsOf s m (fun _ => 0) = 0 := by
  unfold Block.flagsOf
  induction b.actives s m with
  | nil => rfl
  | cons x l ih => rwa [List.foldl_cons, show fNone ||| (0 : Flags) = fNone from rfl]

theorem blockScans : BlockScans := by
  intro s b hb
  refine ⟨fun o ht hw hd => ?_, fun o ht hw hd => ?_⟩
  · have hok := (ok_of_illIf (b := b) (c := !o.t.isInt) (x := wordScan o.d o.a o.m o.t (fun _ => .rne) o.seg s b) (by rw [ht]; rfl)).trans
      (wordScan_ok hw)
    refine goes_of_word hb (f := fun s b => do b.illIf (!o.t.isInt); wordScan o.d o.a o.m o.t (fun _ => .rne) o.seg s b) rfl hok rfl rfl rfl
      ⟨Lanes.of_putV hd hw rfl fun i hi ha => ?_, ?_⟩
    · rw [scan_value _ _ _ _ ha, canonNan_int ht, Block.scan_int ht hi ha, Nat.mod_mod]
    · rw [Block.flagsOf_zero, scanRounds_flags _ _ (combine_sum_flags ht)]
      rfl
  · have hok := (ok_of_illIf (b := b) (c := !o.t.isFp) (x := wordScan o.d o.a o.m o.t (fun b => b.mode o.r) o.seg s b) (by rw [ht]; rfl)).trans
      (wordScan_ok hw)
    exact goes_of_word hb (f := fun s b => do b.illIf (!o.t.isFp); wordScan o.d o.a o.m o.t (fun b => b.mode o.r) o.seg s b) rfl hok rfl rfl rfl
      ⟨Lanes.of_putV hd hw rfl fun i _ ha => congrArg (· % 2 ^ o.t.width) (scan_value _ _ _ _ ha), rfl⟩

theorem blockSegmentReductions : BlockSegmentReductions := by
  intro s b hb
  refine ⟨fun o d hd ht hw hdecl => ?_, fun o d hd ht hw hdecl => ?_, fun o hd hseg ht hw hp => ?_,
    fun op t md a m seg h => ⟨fun hnone => ?_, fun j hj hh ha hone => ?_⟩⟩
  · have hred : ∀ {i op}, exec i s = s.onBlock (wordFred op o) →
        ReducesTo i s b d o.t.width o.seg fun k => b.segRed s op o.t (b.mode o.r) o.a o.m o.seg k :=
      fun he => reducesTo_of_wordRed (md := fun b => b.mode o.r) hb he ((wordFred_eq ht).trans (by rw [hd])) hw hdecl
    exact ⟨hred rfl, hred rfl, hred rfl⟩
  · have hred : ∀ {i op}, exec i s = s.onBlock (wordIred op o) →
        ReducesTo i s b d o.t.width o.seg fun k => b.segRed s op o.t .rne o.a o.m o.seg k :=
      fun he => reducesTo_of_wordRed (md := fun _ => .rne) hb he ((wordIred_eq ht).trans (by rw [hd])) hw hdecl
    exact ⟨hred rfl, hred rfl, hred rfl⟩
  · have hpush : ∀ {i op}, exec i s = s.onBlock (wordFred op o) → Pushes i s b (b.segRed s op o.t (b.mode o.r) o.a o.m none 0).1
        (b.segRed s op o.t (b.mode o.r) o.a o.m none 0).2 := fun {i op} he => by
      have := pushes_of_wordRed (md := fun b => b.mode o.r)
        (r := b.segRed s op o.t (b.mode o.r) o.a o.m none 0) hb he ((wordFred_eq ht).trans (by rw [hd, hseg])) hw hp rfl
      rwa [pushVal_fp ht] at this
    exact ⟨hpush rfl, hpush rfl, hpush rfl⟩
  · refine Block.segRed_empty ?_
    rw [Block.segVals, List.map_eq_nil_iff, List.filter_eq_nil_iff]
    intro k hk
    simp only [Bool.and_eq_true, beq_iff_eq, not_and, Bool.not_eq_true]
    exact hnone k (List.mem_range.1 hk)
  · refine Block.segRed_single ?_
    have hfilter : (List.range b.sc.vl).filter (fun i => b.headOf s seg i == h && b.active s m i) =
        (List.range b.sc.vl).filter (· == j) := by
      refine List.filter_congr fun k hk => ?_
      by_cases hkj : k = j
      · simp [hkj, hh, ha]
      · rw [beq_false_of_ne hkj]
        by_cases hkh : b.headOf s seg k = h
        · rw [hone k (List.mem_range.1 hk) hkh hkj, Bool.and_false]
        · rw [beq_false_of_ne hkh, Bool.false_and]
    rw [Block.segVals, hfilter, List.filter_beq, List.nodup_range.count, if_pos (List.mem_range.2 hj)]
    rfl

end Sys2Proof.Spec

namespace Sys2Proof.Proofs
open Sys2Proof.Machine Sys2Proof.Spec

/-- Settles O19: reductions by what their tree keeps at each node, scans by the window that their rounds double. -/
theorem blockReductionsAndScans : Obligations.BlockReductionsAndScans :=
  ⟨blockIntegerReductions, blockSegmentReductions, blockScans⟩

end Sys2Proof.Proofs

/-! PROOFS. O21: regions, loops, joins and their gradients (R218 to R226). -/
namespace Sys2Proof.Machine

/-! ### Masks of arms -/

/-- A bit of a mask made from bits. -/
theorem getLsbD_maskOf (f : Nat → Bool) {n : Nat} (hn : n ≤ 4096) (i : Nat) : (maskOf f n).getLsbD i = (decide (i < n) && f i) := by
  have hlt := packNat_lt 1 (fun i => (f i).toNat) n
  rw [Nat.one_mul] at hlt
  rw [maskOf, BitVec.getLsbD_ofNat, packBits]
  by_cases hi : i < n
  · have hdigit := packNat_digit 1 (fun i => (f i).toNat) i n hi 0
    rw [Nat.zero_mul, Nat.add_zero, Nat.one_mul] at hdigit
    rw [Nat.pow_one] at hdigit
    rw [Nat.testBit_eq_decide_div_mod_eq, hdigit]
    have h4096 : i < 4096 := by omega
    cases f i <;> simp [hi, h4096]
  · rw [Nat.testBit_lt_two_pow (hlt.trans_le (Nat.pow_le_pow_right two_pos (Nat.not_lt.1 hi)))]
    simp [hi]

section
variable {b : Block} {s : State}

theorem Block.weighted_ok (h : 16 ≤ b.sc.ew) : b.weighted = .ok () := if_neg (Nat.not_lt.2 h)

/-! ### Regions -/

/-- The elements for which an arm of a new region runs (R219). -/
def Block.armRuns (b : Block) (s : State) (r : WReg) : MBits := maskOf (fun i => decide (i < b.sc.vl) && b.inrun i && b.runs s r i) 512

theorem Block.armRuns_getLsbD (r : WReg) {i : Nat} (hi : i < 512) :
    (b.armRuns s r).getLsbD i = (decide (i < b.sc.vl) && b.inrun i && b.runs s r i) := by
  rw [Block.armRuns, getLsbD_maskOf _ (by omega), decide_eq_true hi, Bool.true_and]

theorem Arms.list_head (a : Arms) : ∃ ws, a.list = a.w0 :: ws := ⟨_, rfl⟩

variable (b s) in
/-- The block after WBEGIN. -/
def Block.opened (arms : Arms) (pf : Bool) : Block :=
  { b with arms := .region arms.list (arms.list.map (b.armRuns s)) (arms.list.map fun _ => 0) pf 0 b.pos :: b.arms, pos := b.pos + 1 }

/-- The first arm of a new region runs. -/
theorem Block.opened_inrun (arms : Arms) (pf : Bool) (i : Nat) : (b.opened s arms pf).inrun i = ((b.armRuns s arms.w0).getLsbD i && b.inrun i) := by
  obtain ⟨ws, hws⟩ := Arms.list_head arms
  simp [Block.opened, Block.inrun, ArmEntry.lets, hws]

theorem wordWbegin_ok {arms : Arms} {pf : Bool} (hew : 16 ≤ b.sc.ew) (h8 : b.arms.length < 8) :
    wordWbegin arms pf s b = .ok (b.opened s arms pf) :=
  (ok_bind _ (Block.weighted_ok hew)).trans (if_neg (Nat.not_le.2 h8))
theorem wordWbegin_full {arms : Arms} {pf : Bool} (hew : 16 ≤ b.sc.ew) (h8 : 8 ≤ b.arms.length) :
    wordWbegin arms pf s b = .error b.format :=
  (ok_bind _ (Block.weighted_ok hew)).trans (if_pos h8)

section
variable {ws : List WReg} {runs prns : List MBits} {pf : Bool} {cur site : Nat} {r : List ArmEntry}
  (hew : 16 ≤ b.sc.ew)
include hew

theorem wordWnext_region (h : b.arms = .region ws runs prns pf cur site :: r) : wordWnext s b =
    if cur + 1 = ws.length then .error b.format else .ok { b with arms := .region ws runs prns pf (cur + 1) site :: r, pos := b.pos + 1 } := by
  refine (ok_bind _ (Block.weighted_ok hew)).trans ?_
  rw [h]
  rfl
theorem wordWend_region (h : b.arms = .region ws runs prns pf cur site :: r) : wordWend s b =
    if cur + 1 = ws.length then .ok { b with arms := r, pos := b.pos + 1 } else .error b.format := by
  refine (ok_bind _ (Block.weighted_ok hew)).trans ?_
  rw [h]
  rfl

/-- WNEXT and WEND fault where the innermost entry is no region (R221). -/
theorem wordWnext_wordWend_other (h : ∀ ws runs prns pf cur site r, b.arms ≠ .region ws runs prns pf cur site :: r) :
    wordWnext s b = .error b.format ∧ wordWend s b = .error b.format := by
  refine ⟨(ok_bind _ (Block.weighted_ok hew)).trans ?_, (ok_bind _ (Block.weighted_ok hew)).trans ?_⟩
  all_goals
    match harms : b.arms with
    | [] => rfl
    | .loop .. :: _ => rfl
    | .region ws runs prns pf cur site :: r => exact absurd harms (h ws runs prns pf cur site r)

end

/-! ### Loops -/

variable (b) in
/-- The block after WCONT at distance `dist`, of a loop with these live elements and trips inside the entries `rest` (R226). -/
def Block.continued (dist : Nat) (live : MBits) (trips : Nat) (rest : List ArmEntry) : Block :=
  if live ≠ 0 ∧ trips < b.sc.wlim.toNat then { b with arms := .loop b.pos live trips :: rest, pos := b.pos - dist }
  else { b with arms := rest, flags := b.flags |||
    (if (List.range b.sc.vl).any fun i => live.getLsbD i && rest.all fun a => a.lets i then 0x80 else 0), pos := b.pos + 1 }

variable (b) in
theorem Block.continued_frame (dist : Nat) (live : MBits) (trips : Nat) (rest : List ArmEntry) :
    let b' := b.continued dist live trips rest
    b'.entry = b.entry ∧ b'.words = b.words ∧ b'.hdr = b.hdr := by
  unfold Block.continued
  split <;> exact ⟨rfl, rfl, rfl⟩

/-- WCONT at distance `body` would begin a loop of its own: the innermost entry is no region that it leaves and no loop of its site. -/
def Block.beginsLoop (b : Block) (body : Nat) : Prop :=
  ∀ e r, b.arms = e :: r → (∃ ws runs prns pf cur site, e = .region ws runs prns pf cur site ∧ site < body) ∨
    ∃ site live trips, e = .loop site live trips ∧ site ≠ b.pos

section
variable {w : WReg} {dist : Fin 256} (hew : 16 ≤ b.sc.ew) (hpos : 0 < dist.val) (hle : dist.val ≤ b.pos)
include hew hpos hle

/-- WCONT of the innermost loop. -/
theorem wordWcont_again {live : MBits} {trips : Nat} {r : List ArmEntry} (h : b.arms = .loop b.pos live trips :: r) :
    wordWcont w dist s b = .ok (b.continued dist (maskOf (fun i => live.getLsbD i && b.runs s w i) 512) (trips + 1) r) := by
  have hdist : ¬ (dist.val = 0 ∨ b.pos < dist.val) := by omega
  unfold wordWcont
  rw [if_neg hdist]
  refine (ok_bind _ (Block.weighted_ok hew)).trans ?_
  simp only [h, if_true, Option.isNone_some, Bool.false_eq_true, false_and, if_false, Block.continued]
  split <;> rfl

/-- WCONT of a loop that it begins. -/
theorem wordWcont_first (h8 : b.arms.length < 8) (h : b.beginsLoop (b.pos - dist.val)) :
    wordWcont w dist s b =
      .ok (b.continued dist (maskOf (fun i => decide (i < b.sc.vl) && b.inrun i && b.runs s w i) 512) 1 b.arms) := by
  have hdist : ¬ (dist.val = 0 ∨ b.pos < dist.val) := by omega
  have hfull : ¬ 8 ≤ b.arms.length := Nat.not_le.2 h8
  unfold wordWcont
  rw [if_neg hdist]
  refine (ok_bind _ (Block.weighted_ok hew)).trans ?_
  generalize maskOf _ _ = live
  match harms : b.arms with
  | [] =>
    rw [harms] at hfull
    simp only [Option.isNone_none, Bool.false_eq_true, hfull, and_false, if_false, Block.continued]
    split <;> rfl
  | e :: r =>
    rw [harms] at hfull
    rcases h e r harms with ⟨ws, runs, prns, pf, cur, site, rfl, hsite⟩ | ⟨site, live, trips, rfl, hsite⟩
    · simp only [Option.isNone_none, hfull, Nat.not_le.2 hsite, decide_false, Bool.false_eq_true, and_false, if_false, Block.continued]
      split <;> rfl
    · simp only [Option.isNone_none, hfull, hsite, Bool.false_eq_true, and_false, if_false, Block.continued]
      split <;> rfl

end

end

end Sys2Proof.Machine

namespace Sys2Proof.Spec
open Sys2Proof.Machine

theorem blockRegions : BlockRegions := by
  intro s b hb hew
  refine ⟨fun arms pf h8 => ?_, fun arms pf h8 => ?_,
    fun ws runs prns pf cur site r harms => ⟨fun hcur => ?_, fun hcur => ?_⟩, fun hother => ?_⟩
  · refine goes_of_word hb (i := .wbegin arms pf) rfl (wordWbegin_ok hew h8) rfl rfl rfl ⟨arms.list.map (b.armRuns s), rfl, List.length_map ..,
      fun k r hr => ⟨b.armRuns s r, by rw [List.getElem?_map, hr]; rfl, fun i hi => Block.armRuns_getLsbD r hi⟩, fun i hi => ?_⟩
    rw [Block.opened_inrun, Block.armRuns_getLsbD _ hi]
    cases b.inrun i <;> simp
  · exact aborts_of_word hb (wordWbegin_full hew h8) rfl
  · exact ⟨goes_of_word hb (i := .wnext) rfl ((wordWnext_region hew harms).trans (if_neg hcur)) rfl rfl rfl rfl,
      aborts_of_word hb ((wordWend_region (s := s) hew harms).trans (if_neg hcur)) rfl⟩
  · exact ⟨goes_of_word hb (i := .wend) rfl ((wordWend_region hew harms).trans (if_pos hcur)) rfl rfl rfl rfl,
      aborts_of_word hb ((wordWnext_region (s := s) hew harms).trans (if_pos hcur)) rfl⟩
  · obtain ⟨hnext, hend⟩ := wordWnext_wordWend_other (s := s) hew hother
    exact ⟨aborts_of_word hb hnext rfl, aborts_of_word hb hend rfl⟩

theorem blockLoops : BlockLoops := by
  intro s b w dist hb hew hpos hle
  have hgoes : ∀ {live : MBits} {f : Nat → Bool} {trips : Nat} {rest : List ArmEntry},
      (∀ i, live.getLsbD i = (decide (i < 512) && f i)) → wordWcont w dist s b = .ok (b.continued dist live trips rest) →
      Goes (.wcont w dist) s b fun b' => ∃ live : MBits, (∀ i, live.getLsbD i = (decide (i < 512) && f i)) ∧
        b' = b.continued dist live trips rest := fun {live f trips rest} hlive hok => by
    obtain ⟨hentry, hwords, hhdr⟩ := b.continued_frame dist live trips rest
    exact goes_of_word hb rfl hok hentry hwords hhdr ⟨live, hlive, rfl⟩
  exact ⟨fun live0 trips r harms => hgoes (getLsbD_maskOf _ (by omega)) (wordWcont_again hew hpos hle harms),
    fun h8 hnew => hgoes (getLsbD_maskOf _ (by omega)) (wordWcont_first hew hpos hle h8 hnew)⟩

theorem wordWjoin_ok {s : State} {b : Block} {o : WJoinArgs} {k : Fmt} (hew : 16 ≤ b.sc.ew) (hk : fmtOf o.t = some k)
    (ht : o.t.isFp = true) (hw : o.t.width ≤ b.sc.ew) :
    let ts := fun i => b.terms s k o.a.r o.arms.list i
    wordWjoin o s b = .ok ((b.putV s o.d o.t.width o.m fun i => if (ts i).isEmpty then none else some (joinVal k (b.mode o.r) (ts i)).1).addFlags
      (b.flagsOf s o.m fun i => if (ts i).isEmpty then fWV else (joinVal k (b.mode o.r) (ts i)).2)).advance := by
  unfold wordWjoin
  rw [ht, hk]
  exact (ok_bind _ Block.illIf_false).trans ((ok_bind _ (Block.weighted_ok hew)).trans (ok_bind _ (Block.fits_ok hw)))

theorem blockJoins : BlockJoins := by
  intro s b hb hew
  refine ⟨fun o k hk ht hw hd => ?_, fun o hw hd => ?_, fun o hw hd => ?_⟩
  · refine goes_of_word hb (i := .wjoin o) rfl (wordWjoin_ok hew hk ht hw) rfl rfl rfl ⟨Lanes.of_putV hd hw rfl fun i _ _ => ?_, ?_⟩
    · simp only
      split <;> rfl
    · simp only [Block.advance, Block.addFlags, apply_ite Prod.snd]
      rfl
  · exact lanewise_of_word hb (f := wordWgjoin o) rfl hd hw ((ok_bind _ (Block.weighted_ok hew)).trans (ok_bind _ (Block.fits_ok hw)))
  · exact lanewise_of_word hb (f := wordWgramp o) rfl hd hw ((ok_bind _ (Block.weighted_ok hew)).trans (ok_bind _ (Block.fits_ok hw)))

end Sys2Proof.Spec

namespace Sys2Proof.Proofs
open Sys2Proof.Machine Sys2Proof.Spec

/-- Settles O21: each word by the block that it leaves or the fault that it ends in. -/
theorem blockControl : Obligations.BlockControl := ⟨blockRegions, blockLoops, blockJoins⟩

end Sys2Proof.Proofs

/-! PROOFS. O27, first part: what accesses leave of memory, of the scratchpads and of the tasks; the elements that are located (R160, R258). -/
namespace Sys2Proof.Machine

/-! ### Memory and the scratchpads -/

/-- `t` has what memory and every scratchpad hold as `s` has it; the caches of translations and records may differ. -/
structure SameStored (s t : State) : Prop where
  mem : t.mem = s.mem
  scratch : ∀ c, (t.core c).scratch = (s.core c).scratch
  base : ∀ c, (t.core c).scratchBase = (s.core c).scratchBase

theorem SameStored.refl (s : State) : SameStored s s := ⟨rfl, fun _ => rfl, fun _ => rfl⟩
theorem SameStored.trans {s t u : State} (h : SameStored s t) (k : SameStored t u) : SameStored s u :=
  ⟨k.mem.trans h.mem, fun c => (k.scratch c).trans (h.scratch c), fun c => (k.base c).trans (h.base c)⟩

theorem Core.scratchAt_congr {j k : Core} (hs : k.scratch = j.scratch) (hb : k.scratchBase = j.scratchBase) :
    ∀ n off, k.scratchAt off n = j.scratchAt off n
  | 0, _ => rfl
  | n + 1, off => by simp only [Core.scratchAt, Core.scratchFree, hs, hb, Core.scratchAt_congr hs hb n]

theorem Core.putScratch_congr (bs : List Byte) : ∀ {j k : Core} (off : Nat), k.scratch = j.scratch → k.scratchBase = j.scratchBase →
    (k.putScratch off bs).scratch = (j.putScratch off bs).scratch ∧ (k.putScratch off bs).scratchBase = (j.putScratch off bs).scratchBase := by
  induction bs with
  | nil => exact fun _ hs hb => ⟨hs, hb⟩
  | cons b bs ih =>
    intro j k off hs hb
    exact ih (off + 1) (by simp only [Core.scratchFree, hs, hb]) hb

theorem SameStored.loadLoc {s t : State} (h : SameStored s t) (l : Loc) (n : Nat) : t.loadLoc l n = s.loadLoc l n := by
  cases l with
  | mem pa => exact congrArg (·.bytes pa n) h.mem
  | uc pa => exact congrArg (·.bytes pa n) h.mem
  | win c off => exact Core.scratchAt_congr (h.scratch c) (h.base c) n off

theorem SameStored.loadLe {s t : State} (h : SameStored s t) (l : Loc) (n : Nat) : t.loadLe l n = s.loadLe l n :=
  congrArg leNat (h.loadLoc l n)
theorem SameStored.readElem {s t : State} (h : SameStored s t) (l : Loc) (i w : Nat) : t.readElem l i w = s.readElem l i w := by
  simp only [State.readElem, h.loadLe]

/-- A core that differs from another in what no byte is read from. -/
theorem SameStored.setCore (s : State) (c : CoreIx) {k : Core} (hs : k.scratch = (s.core c).scratch) (hb : k.scratchBase = (s.core c).scratchBase) :
    SameStored s (s.setCore c k) := by
  refine ⟨rfl, fun d => ?_, fun d => ?_⟩
  all_goals
    rw [State.setCore_eq]
    split
  · next h => exact h ▸ hs
  · rfl
  · next h => exact h ▸ hb
  · rfl

theorem SameStored.setDie (s : State) (d : DieIx) (x : Die) : SameStored s (s.setDie d x) := ⟨rfl, fun _ => rfl, fun _ => rfl⟩

/-- Stores that leave the same bytes: those of one core and one store. -/
theorem SameStored.storePhys {s t : State} (h : SameStored s t) (c : CoreIx) (pa : Nat) (bs : List Byte) :
    SameStored (s.storePhys (some c) pa bs) (t.storePhys (some c) pa bs) := by
  have hcores : ∀ (u : State) d, ((u.storePhys (some c) pa bs).core d).scratch = (u.core d).scratch ∧
      ((u.storePhys (some c) pa bs).core d).scratchBase = (u.core d).scratchBase := fun u d => by
    have hu : (u.storePhys (some c) pa bs).core d =
        (u.setCore c ((u.core c).seeStore (u.mem.putBytes pa bs) pa bs.length)).core d := by
      simp only [State.core, State.storePhys_cores, State.setCore]
    rw [hu, State.setCore_eq]
    split
    · next hd => subst hd; exact ⟨rfl, rfl⟩
    · exact ⟨rfl, rfl⟩
  refine ⟨by simp only [State.storePhys_mem, h.mem], fun d => ?_, fun d => ?_⟩
  · rw [(hcores t d).1, (hcores s d).1, h.scratch]
  · rw [(hcores t d).2, (hcores s d).2, h.base]

theorem SameStored.storeLoc {s t : State} (h : SameStored s t) (c : CoreIx) (l : Loc) (bs : List Byte) :
    SameStored (s.storeLoc (some c) l bs) (t.storeLoc (some c) l bs) := by
  cases l with
  | mem pa => exact h.storePhys c pa bs
  | uc pa =>
    obtain ⟨hmem, hscratch, hbase⟩ := h.storePhys c pa bs
    exact ⟨hmem, hscratch, hbase⟩
  | win k off =>
    obtain ⟨hscratch, hbase⟩ := Core.putScratch_congr bs off (h.scratch k) (h.base k)
    refine ⟨h.mem, fun d => ?_, fun d => ?_⟩
    all_goals
      simp only [State.storeLoc, State.setCore_eq]
      split
    · exact hscratch
    · exact h.scratch d
    · exact hbase
    · exact h.base d

theorem SameStored.storeLe {s t : State} (h : SameStored s t) (c : CoreIx) (l : Loc) (n x : Nat) :
    SameStored (s.storeLe (some c) l n x) (t.storeLe (some c) l n x) := h.storeLoc c l _
theorem SameStored.writeElem {s t : State} (h : SameStored s t) (c : CoreIx) (l : Loc) (i w x : Nat) :
    SameStored (s.writeElem c l i w x) (t.writeElem c l i w x) := by
  simp only [State.writeElem, h.loadLe]
  split
  · exact h.storeLe c l 1 _
  · exact h.storeLe c l (w / 8) _

/-! ### Translations and records that are kept -/

theorem State.fillTlb_sameStored (s : State) (g : Agent) (a : Word64) : SameStored s (s.fillTlb g a) := by
  unfold State.fillTlb
  split
  · exact .refl s
  · split
    · exact .refl s
    · dsimp only
      split
      · refine .trans ?_ (.setDie _ _ _)
        exact SameStored.setCore s _ rfl rfl
      · refine .trans ?_ (.setDie _ _ _)
        exact SameStored.setCore s _ rfl rfl
      · exact .setDie s _ _

/-- What a fold of steps that keep what is stored keeps. -/
theorem SameStored.foldl {α : Type} {f : State → α → State} (hf : ∀ s x, SameStored s (f s x)) (xs : List α) (s : State) :
    SameStored s (xs.foldl f s) := by
  induction xs generalizing s with
  | nil => exact .refl s
  | cons x xs ih => exact (hf s x).trans (ih _)

theorem State.fillAddrs_sameStored (s : State) (g : Agent) (as : List Word64) : SameStored s (s.fillAddrs g as) := by
  unfold State.fillAddrs
  split
  · exact .foldl (fun s a => s.fillTlb_sameStored g a) as s
  · exact .refl s

theorem State.readAt_sameStored (s : State) (k : Option CoreIx) (l : Loc) (n : Nat) : SameStored s (s.readAt k l n) := by
  cases l <;> exact ⟨rfl, fun _ => rfl, fun _ => rfl⟩

theorem State.accessAt_sameStored (s : State) (g : Agent) (as : List Word64) : SameStored s (s.accessAt g as) := by
  unfold State.accessAt
  dsimp only
  split
  · exact s.fillAddrs_sameStored g as
  · refine (s.fillAddrs_sameStored g as).trans (.foldl (fun s a => ?_) as _)
    split
    · exact s.readAt_sameStored none _ 1
    · exact .refl s

theorem State.accessAt_tasks (s : State) (g : Agent) (as : List Word64) : (s.accessAt g as).tasks = s.tasks := by
  unfold State.accessAt
  dsimp only
  split
  · exact s.fillAddrs_tasks g as
  · refine (foldl_tasks _ (fun s a => ?_) as _).trans (s.fillAddrs_tasks g as)
    split
    · next l _ => cases l <;> rfl
    · rfl

/-- What the read of a record keeps: what is stored, the tasks, and the choices of the run. -/
theorem State.readRecord_keeps {s t : State} {g : Agent} {a : Word64} {r : BitVec 512} (h : s.readRecord g a = .ok (r, t)) :
    SameStored s t ∧ t.tasks = s.tasks ∧ t.choices = s.choices := by
  have hfill : SameStored s (s.fillTlb g a) ∧ (s.fillTlb g a).tasks = s.tasks ∧ (s.fillTlb g a).choices = s.choices :=
    ⟨s.fillTlb_sameStored g a, s.fillTlb_tasks g a, (s.fillTlb_loadKeeps g a).choices⟩
  obtain ⟨l, -, h⟩ := Except.of_bind_ok h
  split at h
  · dsimp only at h
    split at h
    · cases h; exact hfill
    · rw [show t = _ from (congrArg Prod.snd (Except.ok.inj h)).symm]
      split
      · next c pa _ _ _ _ => exact ⟨hfill.1.trans (SameStored.setCore _ c rfl rfl), hfill.2⟩
      · exact hfill
  · cases h; exact hfill

theorem State.issueRecord_keeps (s : State) (a : XReg) : SameStored s (s.issueRecord a).2 ∧ (s.issueRecord a).2.tasks = s.tasks ∧
    (s.issueRecord a).2.choices = s.choices := by
  have hself : SameStored s s ∧ s.tasks = s.tasks ∧ s.choices = s.choices := ⟨.refl s, rfl, rfl⟩
  unfold State.issueRecord
  dsimp only
  split
  · exact hself
  · split
    · next h => exact State.readRecord_keeps h
    · exact hself

/-! ### Faults of addresses -/

theorem State.place_error {s : State} {g : Agent} {a : Word64} {n i : Nat} {k : Kind} {t : Trap}
    (h : s.place g a n k i = .error t) : t.elem = i ∧ t.addr = a := by
  unfold State.place at h
  split at h
  · split at h <;> cases h; exact ⟨rfl, rfl⟩
  · cases h; exact ⟨rfl, rfl⟩
  · split at h
    · cases h; exact ⟨rfl, rfl⟩
    · split at h <;> cases h; exact ⟨rfl, rfl⟩

theorem Except.of_bind_error {ε α β : Type} {x : Except ε α} {f : α → Except ε β} {t : ε} (h : (x >>= f) = .error t) :
    x = .error t ∨ ∃ a, x = .ok a ∧ f a = .error t := by
  cases x with
  | error e => exact .inl (congrArg Except.error (Except.error.inj h))
  | ok a => exact .inr ⟨a, rfl, h⟩
theorem Except.of_check_error {ε β : Type} {c : Prop} [Decidable c] {e t : ε} {f : Unit → Except ε β}
    (h : (if c then Except.error e >>= f else f ()) = .error t) : t = e ∨ f () = .error t := by
  split at h
  · exact .inl (Except.error.inj h).symm
  · exact .inr h

/-- A fault of an element access names the element and the address. -/
theorem State.vecLoc_error {s : State} {g : Agent} {a : Word64} {n al i : Nat} {k : Kind} {t : Trap}
    (h : s.vecLoc g a n al k i = .error t) : t.elem = i ∧ t.addr = a := by
  rcases Except.of_bind_error h with h | ⟨l, -, h⟩
  · unfold State.vecPlace at h
    rcases Except.of_check_error h with rfl | h
    · exact ⟨rfl, rfl⟩
    rcases Except.of_bind_error h with h | ⟨l, -, h⟩
    · exact State.place_error h
    rcases Except.of_check_error h with rfl | h
    · exact ⟨rfl, rfl⟩
    rcases Except.of_check_error h with rfl | h
    · exact ⟨rfl, rfl⟩
    rcases Except.of_check_error h with rfl | h
    · exact ⟨rfl, rfl⟩
    cases h
  · rcases Except.of_check_error h with rfl | h
    · exact ⟨rfl, rfl⟩
    cases h

end Sys2Proof.Machine

/-! PROOFS. O27, second part: the elements below a faulting one, and its trap (R160, R313). -/
namespace Sys2Proof.Machine

/-! ### The elements that are located -/

theorem State.actives_ordered (s : State) (sc : Scalar) (m : MSel) : (s.actives sc m).Pairwise (· < ·) := List.pairwise_lt_range.filter _

theorem State.mem_actives {s : State} {sc : Scalar} {m : MSel} {k : Nat} :
    k ∈ s.actives sc m ↔ k < sc.vl ∧ sc.vstart.toNat ≤ k ∧ s.selects m k = true := by
  simp only [State.actives, State.active, List.mem_filter, List.mem_range, Bool.and_eq_true, decide_eq_true_eq]
  tauto

/-- The elements below a number, in order. -/
def below (is : List Nat) (j : Nat) : List Nat := is.filter fun k => decide (k < j)

theorem mem_below {is : List Nat} {j k : Nat} : k ∈ below is j ↔ k ∈ is ∧ k < j := by
  simp [below, List.mem_filter]

/-- The lowest element that faults ends the elements that are located. -/
theorem locateBy_fault {loc : Nat → Word64 → Except Trap Loc} {addrs : Nat → List Word64} {at_ : Nat → List Loc} {j : Nat} {t : Trap} :
    ∀ {is : List Nat}, is.Pairwise (· < ·) → j ∈ is → (addrs j).mapM (loc j) = .error t →
      (∀ k ∈ is, k < j → (addrs k).mapM (loc k) = .ok (at_ k)) →
      locateBy loc addrs is = ((below is j).map fun k => (k, at_ k), some t)
  | i :: is, hord, hj, hfault, hok => by
    obtain ⟨hlt, hord⟩ := List.pairwise_cons.1 hord
    rcases List.mem_cons.1 hj with rfl | hj
    · have hnone : below (j :: is) j = [] := List.filter_eq_nil_iff.2 fun k hk => by
        rcases List.mem_cons.1 hk with rfl | hk
        · simp
        · simpa using (hlt k hk).le
      rw [hnone, locateBy, hfault]
      rfl
    · have hij := hlt j hj
      have ih := locateBy_fault hord hj hfault fun k hk => hok k (List.mem_cons_of_mem _ hk)
      have hcons : below (i :: is) j = i :: below is j := List.filter_cons_of_pos (by simpa using hij)
      rw [hcons, locateBy, hok i List.mem_cons_self hij, ih]
      rfl

/-- Without an error in a register no element is cut off. -/
theorem State.cutBad_of_sound {α : Type} {s : State} (h : s.me.badRegs = []) (e : Entry) (q : List (Nat × α) × Option Trap) :
    s.cutBad e q = q := by
  simp [State.cutBad, State.badRead, h]

theorem length_of_mapM_ok {α β ε : Type} {f : α → Except ε β} : ∀ {l : List α} {r : List β}, l.mapM f = .ok r → r.length = l.length
  | [], r, h => by cases h; rfl
  | a :: l, r, h => by
    rw [List.mapM_cons] at h
    obtain ⟨b, -, h⟩ := Except.of_bind_ok h
    obtain ⟨bs, hbs, h⟩ := Except.of_bind_ok h
    cases h
    rw [List.length_cons, List.length_cons, length_of_mapM_ok hbs]

/-- A fault of a field is a fault of its element. -/
theorem mapM_vecLoc_error {s : State} {g : Agent} {n al i : Nat} {k : Kind} {t : Trap} : ∀ {as : List Word64},
    as.mapM (fun a => s.vecLoc g a n al k i) = .error t → t.elem = i
  | a :: as, h => by
    rw [List.mapM_cons] at h
    rcases Except.of_bind_error h with h | ⟨l, -, h⟩
    · exact (State.vecLoc_error h).1
    rcases Except.of_bind_error h with h | ⟨ls, -, h⟩
    · exact mapM_vecLoc_error h
    · cases h

/-! ### The trap of an element -/

theorem Context.unpark_regs (x : Context) : x.unpark.regs = x.regs := by unfold Context.unpark; split <;> rfl

theorem State.entryTrap_mem (s : State) (e : Entry) (t : Trap) (f : BitVec 8) (blk : Bool) : (s.entryTrap e t f blk).mem = s.mem := rfl
theorem State.entryTrap_sameStored (s : State) (e : Entry) (t : Trap) (f : BitVec 8) (blk : Bool) :
    SameStored s (s.entryTrap e t f blk) := ⟨rfl, fun _ => rfl, fun _ => rfl⟩
theorem State.entryTrap_v (s : State) (e : Entry) (t : Trap) (f : BitVec 8) (blk : Bool) :
    (s.entryTrap e t f blk).me.regs.v = s.me.regs.v := by
  obtain ⟨h, hme⟩ := Spec.entryTrap_me s e t f blk
  rw [hme, s.takeTrap_me]
  show s.me.unpark.regs.v = _
  rw [Context.unpark_regs]

theorem State.entryTrap_vreg (s : State) (e : Entry) (t : Trap) (f : BitVec 8) (blk : Bool) (r : VReg) :
    (s.entryTrap e t f blk).vreg r = s.vreg r := by
  rw [State.vreg, s.entryTrap_v]
  rfl

end Sys2Proof.Machine

namespace Sys2Proof.Spec
open Sys2Proof.Machine

/-- The trap of an entry that captured the replayed scalar side, from a state in which the element's instruction has changed no more than
vector registers and memory. -/
theorem faultedAt_of_entryTrap {s z : State} {e : Entry} {t : Trap} {j : Nat} (he : e.chk = s.mySc.replay) (hj : t.elem = j)
    (hcur : z.cur = s.cur) (hothers : ∀ c, c ≠ s.cur → z.ctx c = s.ctx c) (hm : z.me.regs.m = s.me.regs.m)
    (hw : z.me.regs.w = s.me.regs.w) : FaultedAt s (z.entryTrap e t 0 false) j t := by
  obtain ⟨h, hme⟩ := entryTrap_me z e t 0 false
  rw [z.takeTrap_me] at hme
  have hsc : (z.entryTrap e t 0 false).mySc = (s.mySc.replay.setFlags 0).clearVtf.enterTrap t s.mySc.replay.pc false := by
    rw [← he]
    exact congrArg (·.regs.sc) hme
  have hctx : ∀ c, c ≠ s.cur → (z.entryTrap e t 0 false).ctx c = s.ctx c := fun c hc => calc
    _ = (z.takeTrap z.cur (e.chk.setFlags 0) t e.chk.pc false).ctx c := State.setCtx_ne _ _ _ _ (show c ≠ z.cur from hcur ▸ hc)
    _ = z.ctx c := State.setCtx_ne _ _ _ _ (hcur ▸ hc)
    _ = s.ctx c := hothers c hc
  unfold FaultedAt
  rw [hsc, hme]
  refine ⟨rfl, rfl, congrArg (BitVec.ofNat 12) hj, congrArg (BitVec.ofNat 12) hj, s.mySc.replay_pc, rfl, ?_, s.mySc.replay_vl,
    s.mySc.replay_x, s.mySc.replay_instret,
    (congrArg Regs.m (Context.unpark_regs _)).trans hm, (congrArg Regs.w (Context.unpark_regs _)).trans hw, rfl, hctx⟩
  show s.mySc.replay.stvec &&& ~~~3#64 = _
  rw [s.mySc.replay_eq]

/-- Translation for an agent looks at nothing that an issue changes. -/
theorem issued_vecLoc (u : State) (post : Scalar → Scalar) (c : CtxIx) (sc : Scalar) (a : Word64) (n al : Nat) (k : Kind) (i : Nat) :
    (u.issued post).vecLoc (agentOf c sc) a n al k i = u.vecLoc (agentOf c sc) a n al k i :=
  SameMaps.vecLoc (s := u) (t := u.issued post) ⟨rfl, rfl, rfl, rfl, rfl, rfl, rfl⟩ rfl a n al k i

/-- The instruction is performed as it issues, on `u`, which is `s` once a record has been read, by an entry that captures the scalar side
of `s`. -/
structure PerformedAs (i : Instr) (s u : State) (e : Entry) (post : Scalar → Scalar) (p : Perf) : Prop where
  exec_eq : exec i s = .next ((p e (u.issued post)).finish e)
  stored : SameStored s u
  tasks : u.tasks = s.tasks
  chk : e.chk = s.mySc.replay
  passed : e.passed = none
  sound : s.me.badRegs = []

section
variable {i : Instr} {s u : State} {e : Entry} {post : Scalar → Scalar} {p : Perf}

theorem performedAs_of_viq {rcd : Option (BitVec 512)} (he : exec i s = s.viq i rcd post p) (hn : s.performsNow i = true) :
    PerformedAs i s s (s.entryFor i { Captured.none with rcd := rcd }) post p :=
  ⟨he.trans (s.viqWith_now i _ post p hn), .refl s, rfl, rfl, rfl, ((s.performsNow_iff i).1 hn).2.1⟩

theorem State.issued_ctx (post : Scalar → Scalar) (c : CtxIx) : (s.issued post).ctx c = if c = s.cur then
    { s.me.setSc (s.issuedSc post) with holds := s.me.holds.filter fun h => !h.of s.mySc } else s.ctx c := by
  split
  · next h => exact h ▸ s.issued_me post
  · next h => exact s.issued_ctx_ne post c h

namespace PerformedAs
variable (h : PerformedAs i s u e post p)
include h

theorem me : u.me = s.me := by rw [State.me, State.cur_of_tasks h.tasks, State.ctx_of_tasks h.tasks]
theorem mySc : u.mySc = s.mySc := congrArg (·.regs.sc) h.me
theorem cur : (u.issued post).cur = s.cur := show u.cur = s.cur from State.cur_of_tasks h.tasks
theorem others {c : CtxIx} (hc : c ≠ s.cur) : (u.issued post).ctx c = s.ctx c := by
  rw [u.issued_ctx_ne post c (by rwa [State.cur_of_tasks h.tasks]), State.ctx_of_tasks h.tasks]
theorem regs : (u.issued post).me.regs = { s.me.regs with sc := u.issuedSc post } := by
  rw [u.issued_me, h.me]; rfl
theorem vreg (r : VReg) : (u.issued post).vreg r = s.vreg r := by
  rw [u.issued_vreg, State.vreg, h.me]; rfl
theorem selects (m : MSel) (k : Nat) : (u.issued post).selects m k = s.selects m k := by
  rw [u.issued_selects]
  cases m <;> simp only [State.selects, State.mreg, h.me]
theorem actives (m : MSel) : (u.issued post).actives e.chk m = s.actives s.mySc.replay m := by
  simp only [State.actives, State.active, h.selects, h.chk]
theorem agent : e.agent (u.issued post).cur = agentOf s.cur s.mySc.replay := by
  rw [Entry.agent, h.cur, h.chk, h.passed]; rfl
theorem issued_stored : SameStored s (u.issued post) := h.stored.trans ⟨rfl, fun _ => rfl, fun _ => rfl⟩
theorem issued_sound : (u.issued post).me.badRegs = [] := by
  rw [u.issued_me, h.me]; exact h.sound
/-- What a trap of the instruction leaves, from a state in which it has changed no more than vector registers and memory. -/
theorem faultedAt {z : State} {t : Trap} {j : Nat} (hj : t.elem = j) (hcur : z.cur = s.cur)
    (hothers : ∀ c, c ≠ s.cur → z.ctx c = s.ctx c) (hm : z.me.regs.m = s.me.regs.m) (hw : z.me.regs.w = s.me.regs.w) :
    FaultedAt s (z.entryTrap e t 0 false) j t := faultedAt_of_entryTrap h.chk hj hcur hothers hm hw

end PerformedAs

end

end Sys2Proof.Spec

/-! PROOFS. O27, third part: a faulting element of a vector load (R160, R161). -/
namespace Sys2Proof.Machine

/-! ### Registers of a load -/

/-- Element k of the register that a load with a fault leaves (R160). -/
theorem elem_loadDest_fault {old : VBits} {sc : Scalar} {w lim k : Nat} {f : Nat → Option Nat} (hw : w ≤ sc.ew) (hk : k < sc.vlm) :
    elem (loadDest old sc w lim true f) k w =
      if sc.vl ≤ k ∨ k < sc.vstart.toNat ∨ lim ≤ k then elem old k w
      else match f k with
        | some x => x % 2 ^ w
        | none => if vtMp sc.vt then 0 else elem old k w := by
  simp only [loadDest, Bool.not_true, Bool.and_false, Bool.false_eq_true, if_false]
  rw [elem_pack _ _ _ _ _ hk (vlmax_mul _ _ hw)]
  by_cases hvl : sc.vl ≤ k
  · simp [hvl, elem_mod]
  · by_cases hout : k < sc.vstart.toNat ∨ lim ≤ k
    · simp [hvl, hout, elem_mod]
    · simp only [hvl, hout, Bool.or_eq_true, decide_eq_true_eq, or_self, if_false]
      cases f k with
      | some x => rfl
      | none =>
        show (if vtMp sc.vt then 0 else elem old k w) % 2 ^ w = _
        split
        · exact Nat.zero_mod _
        · exact elem_mod _ _ _

/-- What a load has read of field `f` of element `i`. -/
def fieldVal (vals : List (Nat × List Nat)) (f i : Nat) : Option Nat := (vals.find? fun p => p.1 == i).bind fun p => p.2[f]?

theorem fieldVal_map {g : Nat → List Nat} {f k : Nat} : ∀ {is : List Nat}, k ∈ is → fieldVal (is.map fun i => (i, g i)) f k = (g k)[f]?
  | i :: is, hk => by
    by_cases hik : i = k
    · simp [fieldVal, hik]
    · have ih := fieldVal_map (g := g) (f := f) ((List.mem_cons.1 hk).resolve_left (Ne.symm hik))
      unfold fieldVal at ih ⊢
      rw [List.map_cons, List.find?_cons_of_neg (by simpa using hik), ih]

/-- What a load reads of its elements. -/
def State.readElems (s : State) (w : Nat) (ls : Located) : List (Nat × List Nat) :=
  ls.map fun p => (p.1, p.2.map fun l => s.readElem l p.1 w)

theorem State.fieldVal_readElems (s : State) {w f k : Nat} {is : List Nat} {loc : Nat → List Loc} (hk : k ∈ is) :
    fieldVal (s.readElems w (is.map fun i => (i, loc i))) f k = ((loc k)[f]?).map fun l => s.readElem l k w := by
  rw [State.readElems, List.map_map, Function.comp_def, fieldVal_map (g := fun i => (loc i).map fun l => s.readElem l i w) hk,
    List.getElem?_map]

/-- A load's values in the registers of its fields. -/
def State.putLoads (s : State) (sc : Scalar) (w lim : Nat) (fault : Bool) (vals : List (Nat × List Nat)) (fields : List (VReg × Nat)) :
    State :=
  fields.foldl (fun s r => s.setV r.1 (loadDest (s.vreg r.1) sc w lim fault (fieldVal vals r.2))) s

section
variable {sc : Scalar} {w lim : Nat} {fault : Bool} {vals : List (Nat × List Nat)}

/-- A load writes vector registers and nothing else. -/
theorem State.putLoads_frame : ∀ (fields : List (VReg × Nat)) (s : State), let t := s.putLoads sc w lim fault vals fields
    t.cur = s.cur ∧ (∀ c, c ≠ s.cur → t.ctx c = s.ctx c) ∧ t.me.regs.m = s.me.regs.m ∧ t.me.regs.w = s.me.regs.w ∧
      t.mem = s.mem
  | [], s => ⟨rfl, fun _ _ => rfl, rfl, rfl, rfl⟩
  | r :: fields, s => by
    obtain ⟨hcur, hothers, hm, hw, hmem⟩ :=
      State.putLoads_frame fields (s.setV r.1 (loadDest (s.vreg r.1) sc w lim fault (fieldVal vals r.2)))
    refine ⟨hcur, fun c hc => (hothers c hc).trans (State.setCtx_ne _ _ _ _ hc), hm.trans ?_, hw.trans ?_, hmem⟩
    · rw [State.setV_me]
    · rw [State.setV_me]

theorem State.putLoads_vreg_ne {r : VReg} {fields : List (VReg × Nat)} {s : State} (h : r ∉ fields.map Prod.fst) :
    (s.putLoads sc w lim fault vals fields).vreg r = s.vreg r := by
  induction fields generalizing s with
  | nil => rfl
  | cons q fields ih =>
    rw [List.map_cons, List.mem_cons, not_or] at h
    exact (ih h.2).trans (State.vreg_setV_ne _ _ _ _ h.1)

theorem State.putLoads_vreg {r : VReg} {f : Nat} {fields : List (VReg × Nat)} {s : State} (hd : (fields.map Prod.fst).Nodup)
    (h : (r, f) ∈ fields) :
    (s.putLoads sc w lim fault vals fields).vreg r = loadDest (s.vreg r) sc w lim fault (fieldVal vals f) := by
  induction fields generalizing s with
  | nil => cases h
  | cons q fields ih =>
    rw [List.map_cons, List.nodup_cons] at hd
    rcases List.mem_cons.1 h with rfl | h
    · exact (State.putLoads_vreg_ne hd.1).trans (State.vreg_setV_same _ _ _)
    · have hne : r ≠ q.1 := fun e => hd.1 (e ▸ List.mem_map_of_mem h)
      refine (ih hd.2 h).trans ?_
      rw [State.vreg_setV_ne _ _ _ _ hne]

end

/-- A load of which an element faults: the elements below it are read. -/
theorem State.vload_fault {s : State} {e : Entry} {w : Nat} {m : MSel} {regs : List VReg} {addrs : Nat → List Word64} {ls : Located}
    {t : Trap} (hs : s.me.badRegs = [])
    (hl : s.locate (e.agent s.cur) .read (elemBytes w) (elemBytes w) addrs (s.actives e.chk m) = (ls, some t)) :
    let u := s.fillTlbs (e.agent s.cur) addrs ls
    s.vload e w m regs addrs = .trap (u.putLoads e.chk w t.elem true (u.readElems w ls) regs.zipIdx) t := by
  simp only [State.vload, hl, State.cutBad_of_sound hs]
  rfl

theorem leNat_lt : ∀ bs : List Byte, leNat bs < 256 ^ bs.length
  | [] => Nat.one_pos
  | b :: bs => by
    have ih := leNat_lt bs
    have hb := b.isLt
    rw [leNat, List.length_cons, Nat.pow_succ]
    omega
theorem State.loadLoc_length (s : State) (l : Loc) (n : Nat) : (s.loadLoc l n).length = n := by
  have hscratch : ∀ (k : Core) n off, (k.scratchAt off n).length = n := fun k n => by
    induction n with
    | zero => exact fun _ => rfl
    | succ n ih => exact fun off => congrArg (· + 1) (ih (off + 1))
  cases l with
  | mem pa => simp [State.loadLoc, Memory.bytes_eq]
  | uc pa => simp [State.loadLoc, Memory.bytes_eq]
  | win c off => exact hscratch _ n off
theorem State.readElem_lt (s : State) (l : Loc) (i w : Nat) : s.readElem l i w < 2 ^ w := by
  unfold State.readElem
  split
  · exact Nat.mod_lt _ (Nat.two_pow_pos w)
  · have hlt := leNat_lt (s.loadLoc l (w / 8))
    rw [s.loadLoc_length, show (256 : Nat) = 2 ^ 8 by rfl, ← Nat.pow_mul] at hlt
    exact hlt.trans_le (Nat.pow_le_pow_right two_pos (Nat.mul_div_le w 8))

theorem nodup_fieldRegs (v : VReg) (n : Nat) : (fieldRegs v n).Nodup := by
  refine List.Nodup.filterMap (fun i j r hi hj => ?_) List.nodup_range
  simp only [vregAdd, Option.mem_def, Option.dite_none_right_eq_some, Option.some.injEq] at hi hj
  obtain ⟨_, rfl⟩ := hi
  obtain ⟨_, hj⟩ := hj
  have := congrArg Fin.val hj
  simp only at this
  omega

theorem length_fieldRegs_le (v : VReg) (n : Nat) : (fieldRegs v n).length ≤ n :=
  (List.length_filterMap_le _ _).trans List.length_range.le

end Sys2Proof.Machine

namespace Sys2Proof.Spec
open Sys2Proof.Machine

section
variable {i : Instr} {s u : State} {w : Nat} {m : MSel} {regs : List VReg} {addrs : Nat → List Word64}

/-- The elements below the faulting one are located where they are found before the issue. -/
theorem PerformedAs.locate_fault {e : Entry} {post : Scalar → Scalar} {p : Perf} {kind : Kind} {j : Nat} {t : Trap} {loc : Nat → List Loc}
    (h : PerformedAs i s u e post p)
    (hj : j ∈ s.actives s.mySc.replay m)
    (hfault : ((addrs j).mapM fun a => u.vecLoc (agentOf s.cur s.mySc.replay) a (elemBytes w) (elemBytes w) kind j) = .error t)
    (hok : ∀ k ∈ s.actives s.mySc.replay m, k < j →
      ((addrs k).mapM fun a => u.vecLoc (agentOf s.cur s.mySc.replay) a (elemBytes w) (elemBytes w) kind k) = .ok (loc k)) :
    (u.issued post).locate (e.agent (u.issued post).cur) kind (elemBytes w) (elemBytes w) addrs ((u.issued post).actives e.chk m) =
      ((below (s.actives s.mySc.replay m) j).map fun k => (k, loc k), some t) := by
  rw [h.actives, h.agent]
  unfold State.locate
  simp only [issued_vecLoc]
  exact locateBy_fault (s.actives_ordered _ m) hj hfault hok

theorem vLoadFaults_of_performed (hw : w ≤ s.mySc.ew) (hregs : regs.Nodup) (hlen : ∀ k, regs.length ≤ (addrs k).length)
    (hp : s.performsNow i = true → ∃ e post p, PerformedAs i s u e post p ∧
      p e (u.issued post) = (u.issued post).vload e w m regs addrs) : VLoadFaults i s u w m regs addrs := by
  intro j t loc hn hj hfault hok
  obtain ⟨e, post, p, h, hrun⟩ := hp hn
  have hload := State.vload_fault (regs := regs) h.issued_sound (h.locate_fault hj hfault hok)
  dsimp only at hload
  obtain rfl : t.elem = j := mapM_vecLoc_error hfault
  generalize hfill : (u.issued post).fillTlbs _ _ _ = f at hload
  have hstored : SameStored s f := h.issued_stored.trans (hfill ▸ State.accessAt_sameStored _ _ _)
  have htasks : f.tasks = (u.issued post).tasks := hfill ▸ State.accessAt_tasks _ _ _
  have hcur : f.cur = s.cur := (State.cur_of_tasks htasks).trans h.cur
  have hme : f.me = (u.issued post).me := by rw [State.me, State.cur_of_tasks htasks, State.ctx_of_tasks htasks]
  have hvreg : ∀ r, f.vreg r = s.vreg r := fun r => by rw [← h.vreg r, State.vreg, hme]; rfl
  generalize hvals : f.readElems w _ = vals at hload
  obtain ⟨zcur, zothers, zm, zw, zmem⟩ := f.putLoads_frame (sc := e.chk) (w := w) (lim := t.elem) (fault := true) (vals := vals) regs.zipIdx
  refine ⟨_, h.exec_eq.trans (by rw [hrun, hload]; rfl), h.faultedAt rfl (zcur.trans hcur) (fun c hc => ?_) (zm.trans ?_) (zw.trans ?_),
    fun a => congrArg (·.byte a) (zmem.trans hstored.mem), fun r hr => ?_, fun n r hr k hk => ?_⟩
  · rw [zothers c (by rwa [hcur]), State.ctx_of_tasks htasks, h.others hc]
  · rw [hme, h.regs]
  · rw [hme, h.regs]
  · refine (State.entryTrap_vreg ..).trans ((State.putLoads_vreg_ne ?_).trans (hvreg r))
    rwa [List.zipIdx_map_fst]
  · have hdest : (f.putLoads e.chk w t.elem true vals regs.zipIdx).vreg r = loadDest (s.vreg r) e.chk w t.elem true (fieldVal vals n) := by
      rw [State.putLoads_vreg (by rwa [List.zipIdx_map_fst]) (List.mk_mem_zipIdx_iff_getElem?.2 hr), hvreg]
    rw [(State.entryTrap_vreg ..).trans hdest, elem_loadDest_fault (by rwa [h.chk, Scalar.replay_ew]) (by rwa [h.chk]), h.chk]
    refine ⟨fun hout => if_pos (by tauto), fun hact hlow => ?_⟩
    obtain ⟨hvl, hvs, -⟩ := State.mem_actives.1 hact
    have hfield : n < (loc k).length := by
      rw [length_of_mapM_ok (hok k hact hlow)]
      exact (List.getElem?_eq_some_iff.1 hr).1.trans_le (hlen k)
    rw [if_neg (by omega), ← hvals, State.fieldVal_readElems f (mem_below.2 ⟨hact, hlow⟩), List.getElem?_eq_getElem hfield]
    exact (Nat.mod_eq_of_lt (State.readElem_lt ..)).trans (hstored.readElem ..)

end

/-! ### The addressing modes -/

/-- An instruction that works under a record is performed on the state in which it has read it. -/
theorem performedAs_of_withRecord {i : Instr} {s u : State} {a : XReg} {w : Nat} {r : BitVec 512} {post : Scalar → Scalar} {p : Perf}
    (he : exec i s = s.withRecord a fun k s => s.viqWith i k post p) (hr : RecordRead s u a w r) (hn : s.performsNow i = true) :
    ∃ e, PerformedAs i s u e post p ∧ e.rcd = some r := by
  obtain ⟨k, hk, hrcd, -⟩ := hr
  obtain ⟨hstored, htasks, hchoices⟩ := s.issueRecord_keeps a
  obtain ⟨hdrained, hsound, -⟩ := (s.performsNow_iff i).1 hn
  have hgo : s.withRecord a (fun k s => s.viqWith i k post p) = (s.issueRecord a).2.viqWith i (s.issueRecord a).1 post p := by
    unfold State.withRecord
    dsimp only
    split
    · rfl
    · exact s.issueRead_drained _ hdrained
  rw [hk] at hgo hstored htasks hchoices
  have hme : u.me = s.me := by rw [State.me, State.cur_of_tasks htasks, State.ctx_of_tasks htasks]
  have hnow : u.performsNow i = true := by rwa [State.performsNow, hme, hchoices]
  refine ⟨u.entryFor i k, ⟨he.trans (hgo.trans (u.viqWith_now i k post p hnow)), hstored, htasks, ?_, rfl, hsound⟩, hrcd⟩
  exact congrArg (fun x : Context => x.regs.sc.replay) hme

theorem widthBad_eq_false {sc : Scalar} {w : Nat} {unit idx : Bool} (hw : w ≤ sc.ew) (h : 8 ≤ w ∨ unit = true ∧ idx = false) :
    widthBad sc w unit idx = false := by
  rcases h with h | ⟨rfl, rfl⟩
  · simp [widthBad, hw, h, h.trans hw]
  · simp [widthBad, hw]

section
variable {i : Instr} {s : State} {v : VReg} {m : MSel} {e : EwSel} {unit idx : Bool} {addr : State → Scalar → Nat → Word64}
  {addrs : Nat → List Word64}

/-- A load with one address per element. -/
theorem vLoadFaults_of_perfLoad (hx : exec i s = s.viq i none id (perfLoad v m (ewBits e) unit idx addr))
    (hw : widthNow e s ≤ s.mySc.ew) (hwide : 8 ≤ widthNow e s ∨ unit = true ∧ idx = false)
    (haddr : ∀ k, addrs k = [addr (s.issued id) s.mySc.replay k]) : VLoadFaults i s s (widthNow e s) m [v] addrs := by
  obtain rfl : addrs = fun k => [addr (s.issued id) s.mySc.replay k] := funext haddr
  refine vLoadFaults_of_performed hw (List.nodup_singleton v) (fun _ => le_rfl) fun hn => ⟨_, _, _, performedAs_of_viq hx hn, ?_⟩
  have hwidth : ewBits e s.mySc.replay = widthNow e s := s.mySc.replay_ewBits e
  have hbad : widthBad s.mySc.replay (ewBits e s.mySc.replay) unit idx = false := by
    rw [hwidth]
    exact widthBad_eq_false (by rwa [Scalar.replay_ew]) hwide
  rw [← hwidth]
  exact if_neg ((Bool.not_eq_true _).mpr hbad)

end

theorem unitAddr_eq (s : State) (a : XReg) (e : EwSel) (u : State) (k : Nat) :
    unitAddr s a (widthNow e s) k = [addrUnit a (ewBits e) u s.mySc.replay k] := by
  simp [unitAddr, addrUnit, widthNow]
theorem strideAddr_eq (s : State) (a b : XReg) (u : State) (k : Nat) : strideAddr s a b k = [addrStride a b u s.mySc.replay k] := by
  simp [strideAddr, addrStride]
theorem indexed_eq (s : State) (a : XReg) (x : VReg) (post : Scalar → Scalar) (k : Nat) :
    indexed s a x k = addrIndex a x (s.issued post) s.mySc.replay k := by
  simp [indexed, addrIndex]
theorem fieldAddrs_eq (s : State) (a : XReg) (n w : Nat) : fieldAddrs s a n w = addrFields a n w s.mySc.replay := by
  funext k
  simp [fieldAddrs, addrFields]

theorem shapeBad_replay (r : BitVec 512) (sc : Scalar) (w : Nat) : shapeBad r sc.replay w = shapeBad r sc w := by
  rw [shapeBad, Scalar.replay_vl, shapeBad]

/-- The entry of an instruction whose width is accepted passes the checks that come before every element (R159). -/
theorem widthBad_of_wideOk {s : State} {e : EwSel} {n : Entry} (hn : n.chk = s.mySc.replay) (hw : WideOk e s) (idx : Bool) :
    widthBad n.chk (ewBits e n.chk) false idx = false := by
  rw [hn, s.mySc.replay_ewBits]
  exact widthBad_eq_false (by rw [Scalar.replay_ew]; exact hw.2) (.inl hw.1)

/-- VLDG. -/
theorem perfVldg_eq {s z : State} {e : Entry} {o : VMem} {n : Fin 9} (he : e.chk = s.mySc.replay) (hw : WideOk o.e s) :
    perfVldg o n e z = z.vload e (widthNow o.e s) o.m (fieldRegs o.v n.val) (fieldAddrs s o.a n.val (widthNow o.e s)) := by
  have hwidth : ewBits o.e e.chk = widthNow o.e s := he ▸ s.mySc.replay_ewBits o.e
  refine (if_neg ((Bool.not_eq_true _).mpr (widthBad_of_wideOk he hw false))).trans ?_
  rw [hwidth, fieldAddrs_eq, he]

/-- VLD2 under the record that it read. -/
theorem perfVld2_eq {s z : State} {e : Entry} {o : VMem} {r : BitVec 512} (he : e.chk = s.mySc.replay) (hw : WideOk o.e s)
    (hr : e.rcd = some r) (hbad : shapeBad r s.mySc (widthNow o.e s) = false) :
    perfVld2 o e z = z.vload e (widthNow o.e s) o.m [o.v] (shapeAddr r) := by
  have hwidth : ewBits o.e e.chk = widthNow o.e s := he ▸ s.mySc.replay_ewBits o.e
  have hrec : e.record z o.a = .ok r := by rw [Entry.record, hr]
  have hshape : shapeBad r e.chk (ewBits o.e e.chk) = false := by rw [hwidth, he, shapeBad_replay, hbad]
  refine (if_neg ((Bool.not_eq_true _).mpr (widthBad_of_wideOk he hw false))).trans ?_
  rw [hrec]
  refine (if_neg ((Bool.not_eq_true _).mpr hshape)).trans ?_
  rw [hwidth]
  rfl

theorem loadFaultsArePrecise : LoadFaultsArePrecise := by
  intro s
  refine ⟨fun o hw => ?_, fun o b hw => ?_, fun o x hw => ?_, fun o n hw => ?_, fun o u r hw hr => ?_⟩
  · exact vLoadFaults_of_perfLoad rfl hw (.inr ⟨rfl, rfl⟩) (unitAddr_eq s o.a o.e _)
  · exact vLoadFaults_of_perfLoad rfl hw.2 (.inl hw.1) (strideAddr_eq s o.a b _)
  · exact vLoadFaults_of_perfLoad rfl hw.2 (.inl hw.1) fun k => congrArg (fun a => [a]) (indexed_eq s o.a x id k)
  · refine vLoadFaults_of_performed hw.2 (nodup_fieldRegs _ _) (fun k => ?_) fun hn =>
      ⟨_, _, _, performedAs_of_viq (p := perfVldg o n) rfl hn, perfVldg_eq rfl hw⟩
    simpa [fieldAddrs] using length_fieldRegs_le o.v n.val
  · refine vLoadFaults_of_performed hw.2 (List.nodup_singleton _) (fun _ => le_rfl) fun hn => ?_
    obtain ⟨e, hperf, hrcd⟩ := performedAs_of_withRecord (i := .vld2 o) (p := perfVld2 o) rfl hr hn
    obtain ⟨_, _, _, hbad⟩ := hr
    exact ⟨e, _, _, hperf, perfVld2_eq hperf.chk hw hrcd hbad⟩

end Sys2Proof.Spec

/-! PROOFS. O27, fourth part: a faulting element of a vector store, and its progress word (R160, R161, R168). -/
namespace Sys2Proof.Machine

/-! ### The elements that a store writes -/

theorem State.vreg_of_tasks {s t : State} (h : t.tasks = s.tasks) (r : VReg) : t.vreg r = s.vreg r := by
  rw [State.vreg, State.me, State.cur_of_tasks h, State.ctx_of_tasks h]; rfl

theorem State.selects_of_tasks {s t : State} (h : t.tasks = s.tasks) (m : MSel) (k : Nat) : t.selects m k = s.selects m k := by
  cases m with
  | none => rfl
  | some r => simp only [State.selects, State.mreg, State.me, State.cur_of_tasks h, State.ctx_of_tasks h]

/-- The elements `is` written at their locations, with the values `val`. -/
def State.storeElems (s : State) (c : CoreIx) (w : Nat) (val : VReg → Nat → Nat) (regs : List VReg) (loc : Nat → List Loc)
    (is : List Nat) : State :=
  is.foldl (fun u k => ((loc k).zip regs).foldl (fun u q => u.writeElem c q.1 k w (val q.2 k)) u) s

/-- The progress word of a notifying store written after its elements (R168). -/
def State.storeProgress (s : State) (ntf : Bool) (c : CoreIx) (pw : Loc) (n : Nat) : State :=
  if ntf then s.storeLe (some c) pw 8 n else s

section
variable {c : CoreIx} {w : Nat} {val : VReg → Nat → Nat} {regs : List VReg} {loc : Nat → List Loc} {is : List Nat} {ntf : Bool} {pw : Loc}
  {n : Nat}

theorem State.storeElems_tasks (s : State) : (s.storeElems c w val regs loc is).tasks = s.tasks :=
  foldl_tasks _ (fun s _ => foldl_tasks _ (fun s _ => s.writeElem_tasks ..) _ s) is s

theorem State.storeProgress_tasks (s : State) : (s.storeProgress ntf c pw n).tasks = s.tasks := by
  unfold State.storeProgress
  split
  · exact s.storeLe_tasks ..
  · rfl

theorem SameStored.storeElems {s t : State} (h : SameStored s t) :
    SameStored (s.storeElems c w val regs loc is) (t.storeElems c w val regs loc is) :=
  List.foldl_rel h fun _ _ _ _ h => List.foldl_rel h fun _ _ _ _ h => h.writeElem ..

theorem SameStored.storeProgress {s t : State} (h : SameStored s t) :
    SameStored (s.storeProgress ntf c pw n) (t.storeProgress ntf c pw n) := by
  unfold State.storeProgress
  split
  · exact h.storeLe ..
  · exact h

/-- No register changes under the stores of the elements: their values are those before the first. -/
theorem State.storeElems_eq (s : State) : (is.map fun k => (k, loc k)).foldl (fun s p =>
      (p.2.zip regs).foldl (fun s (q : Loc × VReg) => s.writeElem c q.1 p.1 w (elem (s.vreg q.2) p.1 w)) s) s =
    s.storeElems c w (fun r k => elem (s.vreg r) k w) regs loc is := by
  rw [List.foldl_map]
  refine (List.foldl_rel (r := fun (t u : State) => t = u ∧ t.tasks = s.tasks) ⟨rfl, rfl⟩ fun k _ t u h => ?_).1
  refine List.foldl_rel (r := fun (t u : State) => t = u ∧ t.tasks = s.tasks) h fun q _ t u h => ?_
  obtain ⟨rfl, h⟩ := h
  exact ⟨by rw [State.vreg_of_tasks h], (t.writeElem_tasks ..).trans h⟩

/-- A store of `n` bytes leaves every byte outside them. -/
theorem State.storeLe_byte {s : State} {l : Loc} {a x : Nat} (hwf : s.mem.wf = true)
    (ha : ∀ pa, l = .mem pa ∨ l = .uc pa → a < pa ∨ pa + n ≤ a) :
    (s.storeLe (some c) l n x).mem.wf = true ∧ (s.storeLe (some c) l n x).mem.byte a = s.mem.byte a := by
  have hput : ∀ pa, a < pa ∨ pa + n ≤ a →
      (s.mem.putBytes pa (leBytes n x)).wf = true ∧ (s.mem.putBytes pa (leBytes n x)).byte a = s.mem.byte a := fun pa h => by
    refine ⟨Memory.putBytes_wf _ _ _ hwf, ?_⟩
    rw [Memory.byte_putBytes _ _ _ _ hwf, if_neg (by rw [leBytes_length]; omega)]
  cases l with
  | mem pa =>
    rw [State.storeLe, State.storeLoc_mem_mem]
    exact hput pa (ha pa (.inl rfl))
  | uc pa =>
    show (s.storePhys (some c) pa (leBytes n x)).mem.wf = true ∧ (s.storePhys (some c) pa (leBytes n x)).mem.byte a = _
    rw [State.storePhys_mem]
    exact hput pa (ha pa (.inr rfl))
  | win k off => exact ⟨hwf, rfl⟩

theorem State.writeElem_byte {s : State} {l : Loc} {k a x : Nat} (hwf : s.mem.wf = true)
    (ha : ∀ pa, l = .mem pa ∨ l = .uc pa → a < pa ∨ pa + elemBytes w ≤ a) :
    (s.writeElem c l k w x).mem.wf = true ∧ (s.writeElem c l k w x).mem.byte a = s.mem.byte a := by
  unfold State.writeElem
  unfold elemBytes at ha
  split
  · next hw => exact State.storeLe_byte hwf (by simpa [hw] using ha)
  · next hw => exact State.storeLe_byte hwf (by simpa [hw] using ha)

theorem State.storeElems_byte {s : State} {a : Nat} (hwf : s.mem.wf = true)
    (ha : ∀ k ∈ is, ∀ pa, Loc.mem pa ∈ loc k ∨ Loc.uc pa ∈ loc k → a < pa ∨ pa + elemBytes w ≤ a) :
    (s.storeElems c w val regs loc is).mem.wf = true ∧ (s.storeElems c w val regs loc is).mem.byte a = s.mem.byte a := by
  refine List.foldlRecOn (motive := fun t : State => t.mem.wf = true ∧ t.mem.byte a = s.mem.byte a) is _ ⟨hwf, rfl⟩ fun t ht k hk => ?_
  refine List.foldlRecOn (motive := fun t : State => t.mem.wf = true ∧ t.mem.byte a = s.mem.byte a) _ _ ht fun u hu q hq => ?_
  have hloc : q.1 ∈ loc k := (List.of_mem_zip (a := q.1) (b := q.2) hq).1
  obtain ⟨hwf', hbyte⟩ := State.writeElem_byte (c := c) (l := q.1) (k := k) (w := w) (a := a) (x := val q.2 k) hu.1
    fun pa h => ha k hk pa (h.imp (fun h => by rwa [h] at hloc) fun h => by rwa [h] at hloc)
  exact ⟨hwf', hbyte.trans hu.2⟩

theorem State.storeProgress_byte {s : State} {a : Nat} (hwf : s.mem.wf = true)
    (ha : ntf = true → ∀ pa, pw = .mem pa ∨ pw = .uc pa → a < pa ∨ pa + 8 ≤ a) :
    (s.storeProgress ntf c pw n).mem.byte a = s.mem.byte a := by
  unfold State.storeProgress
  split
  · next h => exact (State.storeLe_byte hwf (ha h)).2
  · rfl

/-! ### A store that faults -/

/-- A notifying store locates its progress word first (R168). -/
theorem State.progress_ok {s : State} {e : Entry}
    (h : ntf = true → s.vecLoc (e.agent s.cur) e.chk.pwaddr 8 8 .write e.chk.vstart.toNat = .ok pw) :
    s.progress e ntf = .ok (if ntf then some pw else none) := by
  unfold State.progress
  cases ntf with
  | false => rfl
  | true =>
    simp only [h rfl]
    rfl

theorem State.vstore_fault {s : State} {e : Entry} {m : MSel} {addrs : Nat → List Word64} {t : Trap} (hs : s.me.badRegs = [])
    (hpw : s.progress e ntf = .ok (if ntf then some pw else none))
    (hl : s.locate (e.agent s.cur) .write (elemBytes w) (elemBytes w) addrs (s.actives e.chk m) = (is.map fun k => (k, loc k), some t)) :
    ∃ z, s.vstore e w m regs addrs ntf = .trap z t ∧ z.tasks = s.tasks ∧
      SameStored ((s.storeElems (CtxIx.core s.cur) w (fun r k => elem (s.vreg r) k w) regs loc is).storeProgress ntf (CtxIx.core s.cur) pw
        (s.countActive e.chk m t.elem)) z := by
  have hfilled := State.accessAt_sameStored s (e.agent s.cur) ((is.map fun k => (k, loc k)).flatMap fun p => addrs p.1)
  have htasks := State.accessAt_tasks s (e.agent s.cur) ((is.map fun k => (k, loc k)).flatMap fun p => addrs p.1)
  simp only [State.vstore, hpw, hl, State.cutBad_of_sound hs, State.fillTlbs, State.storeElems_eq, State.vreg_of_tasks htasks]
  generalize s.accessAt _ _ = f at hfilled htasks
  have hcount : f.countActive e.chk m t.elem = s.countActive e.chk m t.elem := by
    simp only [State.countActive, State.active, State.selects_of_tasks htasks]
  cases ntf with
  | false =>
    simp only [Bool.false_eq_true, if_false, State.storeProgress]
    refine ⟨_, rfl, by rw [State.storeElems_tasks, htasks], ?_⟩
    exact hfilled.storeElems
  | true =>
    simp only [if_true, State.storeProgress, limitOf, hcount]
    refine ⟨_, rfl, by rw [State.fillAddrs_tasks, State.storeLe_tasks, State.storeElems_tasks, htasks], ?_⟩
    exact .trans (hfilled.storeElems.storeLe _ _ _ _) (State.fillAddrs_sameStored _ _ _)

end

end Sys2Proof.Machine

namespace Sys2Proof.Spec
open Sys2Proof.Machine

section
variable {i : Instr} {s u : State} {w : Nat} {m : MSel} {regs : List VReg} {addrs : Nat → List Word64} {ntf : Bool} {e : Entry}
  {post : Scalar → Scalar} {p : Perf}

/-- What the trap of a store leaves where the store has kept every context. -/
theorem PerformedAs.faultedAt_of_tasks {z : State} {t : Trap} {j : Nat} (h : PerformedAs i s u e post p) (hz : z.tasks = (u.issued post).tasks)
    (hj : t.elem = j) : FaultedAt s (z.entryTrap e t 0 false) j t ∧ (z.entryTrap e t 0 false).me.regs.v = s.me.regs.v := by
  have hcur : z.cur = s.cur := (State.cur_of_tasks hz).trans h.cur
  have hme : z.me = (u.issued post).me := by rw [State.me, State.cur_of_tasks hz, State.ctx_of_tasks hz]
  refine ⟨h.faultedAt hj hcur (fun c hc => (State.ctx_of_tasks hz c).trans (h.others hc)) ?_ ?_, (z.entryTrap_v ..).trans ?_⟩
  all_goals rw [hme, h.regs]

theorem PerformedAs.progress {pw : Except Trap Loc} (h : PerformedAs i s u e post p)
    (hpw : u.vecLoc (agentOf s.cur s.mySc.replay) s.mySc.replay.pwaddr 8 8 .write s.mySc.replay.vstart.toNat = pw) :
    (u.issued post).vecLoc (e.agent (u.issued post).cur) e.chk.pwaddr 8 8 .write e.chk.vstart.toNat = pw := by
  rw [h.agent, h.chk, issued_vecLoc, hpw]

/-- The instruction is a store of elements of width `w`, once its word and the address of its progress word are accepted. -/
def StoresAs (i : Instr) (s u : State) (w : Nat) (m : MSel) (regs : List VReg) (addrs : Nat → List Word64) (ntf : Bool) : Prop :=
  s.performsNow i = true → (ntf = true → s.mySc.replay.pwaddr ≠ 0) → ∃ e post p, PerformedAs i s u e post p ∧
    p e (u.issued post) = (u.issued post).vstore e w m regs addrs ntf

theorem StoresAs.vStoreFaults (hp : StoresAs i s u w m regs addrs ntf) : VStoreFaults i s u w m regs addrs ntf := by
  intro j t loc pw hcanon hn hj hfault hok hpw
  obtain ⟨e, post, p, h, hrun⟩ := hp hn fun hntf => (hpw hntf).1
  obtain rfl : t.elem = j := mapM_vecLoc_error hfault
  obtain ⟨z, hstore, htasks, hstored⟩ := State.vstore_fault (regs := regs) (pw := pw) h.issued_sound
    (State.progress_ok fun hntf => h.progress (hpw hntf).2) (h.locate_fault hj hfault hok)
  obtain ⟨hfaulted, hv⟩ := h.faultedAt_of_tasks htasks rfl
  have hcount : (u.issued post).countActive e.chk m t.elem = s.countActive s.mySc.replay m t.elem := by
    simp only [State.countActive, State.active, h.selects, h.chk]
  simp only [h.cur, h.vreg, hcount] at hstored
  have hleft : SameStored ((s.storeElems (CtxIx.core s.cur) w (fun r k => elem (s.vreg r) k w) regs loc
      (below (s.actives s.mySc.replay m) t.elem)).storeProgress ntf (CtxIx.core s.cur) pw (s.countActive s.mySc.replay m t.elem))
      (z.entryTrap e t 0 false) :=
    (h.issued_stored.storeElems.storeProgress.trans hstored).trans (z.entryTrap_sameStored ..)
  refine ⟨_, h.exec_eq.trans (by rw [hrun, hstore]; rfl), hfaulted, hv, fun l n => hleft.loadLoc l n, fun a helems hprog => ?_⟩
  obtain ⟨hwf, hbyte⟩ := State.storeElems_byte (c := CtxIx.core s.cur) (w := w) (val := fun r k => elem (s.vreg r) k w) (regs := regs)
    hcanon.1 helems
  exact (congrArg (·.byte a) hleft.mem).trans ((State.storeProgress_byte hwf hprog).trans hbyte)

theorem StoresAs.progressFaults (hp : StoresAs i s u w m regs addrs true) : ProgressFaults i s u := by
  intro t hn hpw0 hfault
  obtain ⟨e, post, p, h, hrun⟩ := hp hn fun _ => hpw0
  obtain ⟨helem, haddr⟩ := State.vecLoc_error hfault
  have htrap : (u.issued post).vstore e w m regs addrs true = .trap (u.issued post) t := by
    have hprog : (u.issued post).progress e true = .error t := by
      simp only [State.progress, h.progress hfault]
      rfl
    simp only [State.vstore, hprog]
  obtain ⟨hfaulted, hv⟩ := h.faultedAt_of_tasks rfl helem
  exact ⟨_, h.exec_eq.trans (by rw [hrun, htrap]; rfl), hfaulted, haddr, hv,
    fun l n => (h.issued_stored.trans ((u.issued post).entryTrap_sameStored ..)).loadLoc l n⟩

theorem StoresAs.faults (hp : StoresAs i s u w m regs addrs ntf) :
    VStoreFaults i s u w m regs addrs ntf ∧ (ntf = true → ProgressFaults i s u) := by
  refine ⟨hp.vStoreFaults, fun hntf => ?_⟩
  subst hntf
  exact hp.progressFaults

end

/-! ### The addressing modes -/

/-- The address of a progress word that is accepted (R168). -/
theorem pwaddr_ok {sc : Scalar} {ntf : Bool} (h : ntf = true → sc.pwaddr ≠ 0) : (ntf && sc.pwaddr == 0) = false := by
  cases ntf with
  | false => rfl
  | true => exact beq_false_of_ne (h rfl)

section
variable {i : Instr} {s : State} {v : VReg} {m : MSel} {e : EwSel} {unit idx ntf : Bool} {addr : State → Scalar → Nat → Word64}
  {addrs : Nat → List Word64} {post : Scalar → Scalar}

/-- A store with one address per element. -/
theorem storesAs_of_perfStore (hx : exec i s = s.viq i none post (perfStore v m (ewBits e) unit idx ntf addr))
    (hw : widthNow e s ≤ s.mySc.ew) (hwide : 8 ≤ widthNow e s ∨ unit = true ∧ idx = false)
    (haddr : ∀ k, addrs k = [addr (s.issued post) s.mySc.replay k]) : StoresAs i s s (widthNow e s) m [v] addrs ntf := by
  obtain rfl : addrs = fun k => [addr (s.issued post) s.mySc.replay k] := funext haddr
  refine fun hn hpw => ⟨_, _, _, performedAs_of_viq hx hn, ?_⟩
  have hwidth : ewBits e s.mySc.replay = widthNow e s := s.mySc.replay_ewBits e
  have hbad : widthBad s.mySc.replay (ewBits e s.mySc.replay) unit idx = false := by
    rw [hwidth]
    exact widthBad_eq_false (by rwa [Scalar.replay_ew]) hwide
  have hchecks : (widthBad s.mySc.replay (ewBits e s.mySc.replay) unit idx || (ntf && s.mySc.replay.pwaddr == 0)) = false := by
    rw [hbad, pwaddr_ok hpw]
    rfl
  rw [← hwidth]
  exact if_neg ((Bool.not_eq_true _).mpr hchecks)

end

section
variable {s z : State} {e : Entry} {o : VStore} {ntf : Bool}

theorem storeChecks_ok (he : e.chk = s.mySc.replay) (hw : WideOk o.e s) (hpw : ntf = true → s.mySc.replay.pwaddr ≠ 0) :
    (widthBad e.chk (ewBits o.e e.chk) false false || (ntf && e.chk.pwaddr == 0)) = false := by
  rw [widthBad_of_wideOk he hw, he, pwaddr_ok hpw]
  rfl

/-- VSTG. -/
theorem perfVstg_eq {n : Fin 9} (he : e.chk = s.mySc.replay) (hw : WideOk o.e s) (hpw : ntf = true → s.mySc.replay.pwaddr ≠ 0) :
    perfVstg o n ntf e z = z.vstore e (widthNow o.e s) o.m (fieldRegs o.v n.val) (fieldAddrs s o.a n.val (widthNow o.e s)) ntf := by
  have hwidth : ewBits o.e e.chk = widthNow o.e s := he ▸ s.mySc.replay_ewBits o.e
  refine (if_neg ((Bool.not_eq_true _).mpr (storeChecks_ok he hw hpw))).trans ?_
  rw [hwidth, fieldAddrs_eq, he]

/-- VST2 under the record that it read. -/
theorem perfVst2_eq {r : BitVec 512} (he : e.chk = s.mySc.replay) (hw : WideOk o.e s) (hpw : ntf = true → s.mySc.replay.pwaddr ≠ 0)
    (hr : e.rcd = some r) (hbad : shapeBad r s.mySc (widthNow o.e s) = false) :
    perfVst2 o ntf e z = z.vstore e (widthNow o.e s) o.m [o.v] (shapeAddr r) ntf := by
  have hwidth : ewBits o.e e.chk = widthNow o.e s := he ▸ s.mySc.replay_ewBits o.e
  have hrec : e.record z o.a = .ok r := by rw [Entry.record, hr]
  have hshape : shapeBad r e.chk (ewBits o.e e.chk) = false := by rw [hwidth, he, shapeBad_replay, hbad]
  refine (if_neg ((Bool.not_eq_true _).mpr (storeChecks_ok he hw hpw))).trans ?_
  rw [hrec]
  refine (if_neg ((Bool.not_eq_true _).mpr hshape)).trans ?_
  rw [hwidth]
  rfl

end

theorem storeFaultsArePrecise : StoreFaultsArePrecise := by
  intro s
  refine ⟨fun o hw => ?_, fun o b hw => ?_, fun o x ntf hw => ?_, fun o n ntf hw => ?_, fun o ntf u r hw hr => ?_⟩
  · exact (storesAs_of_perfStore (i := .vst o) rfl hw (.inr ⟨rfl, rfl⟩) (unitAddr_eq s o.a o.e _)).faults
  · have hplain : StoresAs (.vsts o b) s s _ _ _ _ false :=
      storesAs_of_perfStore rfl hw.2 (.inl hw.1) (strideAddr_eq s o.a b _)
    have hntf : StoresAs (.vstsNtf o b) s s _ _ _ _ true :=
      storesAs_of_perfStore rfl hw.2 (.inl hw.1) (strideAddr_eq s o.a b _)
    exact ⟨hplain.vStoreFaults, hntf.vStoreFaults, hntf.progressFaults⟩
  · exact (storesAs_of_perfStore (i := .vstx o x ntf) rfl hw.2 (.inl hw.1) fun k =>
      congrArg (fun a => [a]) (indexed_eq s o.a x (ntfEnds ntf) k)).faults
  · have hstores : StoresAs (.vstg o n ntf) s s (widthNow o.e s) o.m (fieldRegs o.v n.val) (fieldAddrs s o.a n.val (widthNow o.e s)) ntf :=
      fun hn hpw => ⟨_, _, _, performedAs_of_viq (p := perfVstg o n ntf) rfl hn, perfVstg_eq rfl hw hpw⟩
    exact hstores.faults
  · have hstores : StoresAs (.vst2 o ntf) s u (widthNow o.e s) o.m [o.v] (shapeAddr r) ntf := fun hn hpw => by
      obtain ⟨e, hperf, hrcd⟩ := performedAs_of_withRecord (i := .vst2 o ntf) (p := perfVst2 o ntf) rfl hr hn
      obtain ⟨_, _, _, hbad⟩ := hr
      exact ⟨e, _, _, hperf, perfVst2_eq hperf.chk hw hpw hrcd hbad⟩
    exact hstores.faults

end Sys2Proof.Spec

/-! PROOFS. O27, last part: what had started chained on a load that faults, and the statement (R313, R316, R317). -/
namespace Sys2Proof.Machine

/-! ### The entries that had started -/

section
variable {h : Entry} {ds : List VReg} {k : Nat}

/-- What is recorded of a started entry: it is one of the younger entries, and the element is the first of an element group. -/
def Started (h : Entry) (ys : List Entry) (p : Entry × Nat) : Prop := p.1 ∈ ys ∧ p.2 % groupSize h.chk = 0

theorem Started.younger {y : Entry} {ys : List Entry} {p : Entry × Nat} (hp : Started h ys p) : Started h (y :: ys) p :=
  ⟨List.mem_cons_of_mem y hp.1, hp.2⟩

/-- At most `room` entries are recorded, each as one that had started (R317). -/
theorem State.chained_started : ∀ (ys : List Entry) (gs : List Nat) (s : State) (room : Nat) (older : List Entry),
    (s.chained h ds k room older ys gs).2.length ≤ room ∧ ∀ p ∈ (s.chained h ds k room older ys gs).2, Started h ys p
  | [], gs, s, room, older => by
    unfold State.chained
    exact ⟨Nat.zero_le _, fun p hp => (by cases hp)⟩
  | y :: ys, [], s, room, older => by
    unfold State.chained
    exact ⟨Nat.zero_le _, fun p hp => (by cases hp)⟩
  | y :: ys, g :: gs, s, room, older => by
    have hskip := State.chained_started ys gs s room (y :: older)
    have hstart : ∀ (t : State) n, ¬ (room = 0 ∨ k / groupSize h.chk = 0) → n % groupSize h.chk = 0 →
        let r := (t.chained h ds k (room - 1) older ys gs).2
        ((y, n) :: r).length ≤ room ∧ ∀ p ∈ (y, n) :: r, Started h (y :: ys) p := fun t n hroom hn => by
      obtain ⟨hlen, hall⟩ := State.chained_started ys gs t (room - 1) older
      refine ⟨by rw [List.length_cons]; omega, fun p hp => ?_⟩
      rcases List.mem_cons.1 hp with rfl | hp
      · exact ⟨List.mem_cons_self, hn⟩
      · exact (hall p hp).younger
    unfold State.chained
    dsimp only
    split
    · exact ⟨Nat.zero_le _, fun p hp => (by cases hp)⟩
    · next hroom =>
      split
      · exact ⟨hskip.1, fun p hp => (hskip.2 p hp).younger⟩
      · split
        · exact hstart s 0 hroom (Nat.zero_mod _)
        · refine hstart _ _ hroom ?_
          rcases Nat.le_total (min (g - 1) (k / groupSize h.chk) * groupSize h.chk) (y.chk.vstart.toNat / groupSize h.chk * groupSize h.chk)
            with hle | hle
          · rw [show Nat.max _ _ = _ from max_eq_right hle, Nat.mul_mod_left]
          · rw [show Nat.max _ _ = _ from max_eq_left hle]
            exact Nat.mul_mod_left _ _
        · exact ⟨hskip.1, fun p hp => (hskip.2 p hp).younger⟩

/-- Where none had started, nothing is performed and none is recorded. -/
theorem State.chained_none {s : State} : ∀ {ys : List Entry} {gs : List Nat} {room : Nat} {older : List Entry}, (∀ n ∈ gs, n = 0) →
    s.chained h ds k room older ys gs = (s, [])
  | [], _, _, _, _ => by unfold State.chained; rfl
  | _ :: _, [], _, _, _ => by unfold State.chained; rfl
  | y :: ys, g :: gs, room, older, hz => by
    unfold State.chained
    dsimp only
    split
    · rfl
    · rw [if_pos (.inl (hz g List.mem_cons_self))]
      exact State.chained_none fun n hn => hz n (List.mem_cons_of_mem g hn)

end

/-! ### What is recorded of them -/

theorem Scalar.recordVtf_nil (sc : Scalar) : sc.recordVtf [] = sc := by
  have hvtf : (Vector.ofFn fun i : Fin 4 => sc.vtf[i.val]) = sc.vtf := Vector.ext fun i hi => by simp
  simp only [Scalar.recordVtf, List.getElem?_nil, hvtf]

theorem Context.keepRecorded_eq (r : List (Entry × Nat)) (x : Context) : ∃ hs, x.keepRecorded r = { x with holds := hs } := by
  induction r generalizing x with
  | nil => exact ⟨x.holds, rfl⟩
  | cons p r ih => exact ih _

theorem State.setMySc_me (s : State) (sc : Scalar) : (s.setMySc sc).me = s.me.setSc sc := s.setCtx_same _ _

/-- Recording changes the VTFs of the acting context and what is kept for replays. -/
theorem State.recordStarted_me (s : State) (r : List (Entry × Nat)) :
    ∃ hs, (s.recordStarted r).me = { s.me.setSc (s.mySc.recordVtf r) with holds := hs } := by
  unfold State.recordStarted
  cases r with
  | nil => exact ⟨s.me.holds, by rw [Scalar.recordVtf_nil]; rfl⟩
  | cons p r =>
    obtain ⟨hs, hkeep⟩ := Context.keepRecorded_eq (p :: r) (s.setMySc (s.mySc.recordVtf (p :: r))).me
    refine ⟨hs, ?_⟩
    rw [List.isEmpty_cons, if_neg Bool.false_ne_true, State.setMe_me, hkeep, State.setMySc_me]

theorem State.recordStarted_sameStored (s : State) (r : List (Entry × Nat)) : SameStored s (s.recordStarted r) := by
  unfold State.recordStarted
  split
  · exact .refl s
  · exact ⟨rfl, fun _ => rfl, fun _ => rfl⟩

/-- A VTF that no started entry takes is not valid after a trap (R318). -/
theorem Scalar.clearVtf_getLsbD (sc : Scalar) (i : Fin 4) : sc.clearVtf.vtf[i.val].getLsbD 0 = false := by
  simp [Scalar.clearVtf]

/-! ### The lanes take the oldest entry -/

section
variable {s : State} {gs : List Nat} {e : Entry} {rest : List Entry} {p : Perf} (hb : s.me.block = none)
  (hpark : s.me.entryParked = false) (hv : s.me.viq = e :: rest) (hpass : e.passed = none) (hperf : perfOf e.instr = some p)
include hb hpark hv hpass hperf

theorem State.startChained_eq : s.startChained gs = match (s.setMe { s.me with viq := rest }).performSound e p with
    | .trap v t f false =>
      let q := v.chained e (loadDests e.instr) t.elem 4 [] rest gs
      (q.1.entryTrap e t f false).recordStarted q.2
    | _ => s.perform 0 := by
  have hfinish : s.finishPassed = s := by
    unfold State.finishPassed
    rw [hv]
    simp only [List.length_cons, State.finish, hv, hpass]
    rfl
  unfold State.startChained
  simp only [hfinish, hb, hpark, hv, hperf]
  rfl

end

end Sys2Proof.Machine

namespace Sys2Proof.Spec
open Sys2Proof.Machine

/-- The trap of an entry with the started ones recorded: SCAUSE, SEPC, empty queues, and the VTFs (R313, R316). -/
theorem recorded_trap (u : State) (e : Entry) (t : Trap) (f : BitVec 8) (r : List (Entry × Nat)) :
    let z := (u.entryTrap e t f false).recordStarted r
    z.mySc.scause = t.cause.code ∧ z.mySc.sepc = e.chk.pc ∧ z.me.viq = [] ∧ z.me.block = none ∧ SameStored u z ∧
      (∀ (i : Fin 4) y, r[i.val]? = some y → z.mySc.vtf[i.val] = vtfWord e.chk.pc y.1.chk.pc y.2) ∧
      ∀ i : Fin 4, r[i.val]? = none → z.mySc.vtf[i.val].getLsbD 0 = false := by
  obtain ⟨h, htrap⟩ := entryTrap_me u e t f false
  obtain ⟨hs, hrec⟩ := (u.entryTrap e t f false).recordStarted_me r
  have hsc : (u.entryTrap e t f false).mySc = (e.chk.setFlags f).clearVtf.enterTrap t e.chk.pc false :=
    (congrArg (·.regs.sc) htrap).trans (u.takeTrap_mySc ..)
  have hz : ((u.entryTrap e t f false).recordStarted r).mySc = ((e.chk.setFlags f).clearVtf.enterTrap t e.chk.pc false).recordVtf r :=
    (congrArg (·.regs.sc) hrec).trans (congrArg (·.recordVtf r) hsc)
  have hlanes : (u.entryTrap e t f false).me.viq = [] ∧ (u.entryTrap e t f false).me.block = none := by
    rw [htrap, u.takeTrap_me]
    exact ⟨rfl, rfl⟩
  intro z
  rw [show z.mySc = _ from hz, show z.me = _ from hrec]
  refine ⟨rfl, rfl, hlanes.1, hlanes.2, (u.entryTrap_sameStored ..).trans (State.recordStarted_sameStored _ r), fun i y hy => ?_, fun i hi => ?_⟩
  · simp only [Scalar.recordVtf, Vector.getElem_ofFn, hy]
    rfl
  · simp only [Scalar.recordVtf, Vector.getElem_ofFn, hi]
    exact Scalar.clearVtf_getLsbD _ i

theorem chainedStartsAreRecorded : ChainedStartsAreRecorded := by
  refine ⟨fun s c gs rest hag hpow => step_next hag hpow rfl, fun s gs e rest p hb hpark hv hpass htask hperf => ?_⟩
  have hstart := State.startChained_eq (gs := gs) hb hpark hv hpass hperf
  refine ⟨fun t hdone => ?_, fun v t f htrap => ?_⟩
  · rw [hdone] at hstart
    rw [hstart, State.perform_zero hv hperf, if_pos htask, hdone]
    rfl
  · rw [htrap] at hstart
    rw [hstart]
    obtain ⟨hlen, hall⟩ := State.chained_started (h := e) (ds := loadDests e.instr) (k := t.elem) rest gs v 4 []
    obtain ⟨hcause, hepc, hviq, hblock, hstored, hvtf, hclear⟩ := recorded_trap (v.chained e (loadDests e.instr) t.elem 4 [] rest gs).1 e t f
      (v.chained e (loadDests e.instr) t.elem 4 [] rest gs).2
    exact ⟨hlen, hall, State.chained_none, hcause, hepc, hviq, hblock, hstored.mem, hstored.loadLoc, hvtf, hclear⟩

end Sys2Proof.Spec

namespace Sys2Proof.Proofs
open Sys2Proof.Machine Sys2Proof.Spec

/-- Settles O27: the elements below the faulting one by what is located up to it, the trap by what it restores, and the started entries by
induction on the younger ones. -/
theorem vectorFaultsArePrecise : Obligations.VectorFaultsArePrecise :=
  ⟨loadFaultsArePrecise, storeFaultsArePrecise, chainedStartsAreRecorded⟩

end Sys2Proof.Proofs

/-! PROOFS. O34: MGACC makes a NaN of the region that it promotes canonical (R89, R112). -/
namespace Sys2Proof.Machine

/-- A shape record of one element in one row from gradient slot 0 on: dim0 and dim1 are 1, every other field is 0. -/
def oneSlotRecord : BitVec 512 := BitVec.ofNat 512 (2 ^ 64 + 2 ^ 96)
/-- The region of that record: BF16, to be promoted at one lost addition, which it has counted. -/
def dueRegion : GradRegion := ⟨0, 1, 1, 2, 0, 1, 1⟩

/-- Context 0 holds a task, a band and the tile state, and the record of the word at its PC; its quad has the region that is due, whose
slot is a NaN other than the canonical one; no mask bit is set. -/
def nanSlotState : State :=
  let s := State.reset
  let sc := { Scalar.reset with mgrant := 16, mstate := 3 }
  let s := s.setCtx 0 { s.ctx 0 with
    task := some ⟨0, 0⟩, regs := { Regs.reset with sc := sc }
    holds := [⟨sc.pc, sc.sup, sc.ulinh, false, some oneSlotRecord, 0⟩] }
  s.setQuad 0 { s.quad 0 with regions := [dueRegion], grad := fset 0 [] 0 0x7F81 }

/-- MGACC of accumulator 0 under m0, which selects no row. -/
def maskedMgacc : MsArgs := ⟨0, 5, some 0, none⟩

/-- Gradient slot 0 of quad 0 where an instruction completes. -/
def slotAfter (o : Host.Outcome State Fault Refusal) : Option Nat :=
  match o with
  | .next t => some ((t.quad 0).slot 0)
  | _ => none

/-- The record that is kept for the replay of an instruction is the one that it works under (R241). -/
theorem State.issueRecord_of_hold {s : State} {h : Hold} {r : BitVec 512} (a : XReg) (hh : s.me.holdOf s.mySc = some h)
    (hr : h.rcd = some r) : s.issueRecord a = (⟨some r, 0, h.done⟩, s) := by
  simp [State.issueRecord, hh, hr]

theorem mgacc_widens_nan : slotAfter (exec (.mgacc maskedMgacc) nanSlotState) = some 0x7FC00000 := by decide +kernel

end Sys2Proof.Machine

namespace Sys2Proof.Proofs
open Sys2Proof.Machine Sys2Proof.Spec

/-- Refutes O34: promotion gives a NaN slot 0x7F81 that no addition touches the canonical 0x7FC00000, where the statement has its bits
moved up, 0x7F810000. -/
theorem not_matrixMemory : ¬ Obligations.MatrixMemory := by
  intro h
  obtain ⟨_, hmgacc, _, _⟩ := h nanSlotState oneSlotRecord
  obtain ⟨t, ht, _, _, _, hslots, _, _⟩ := hmgacc maskedMgacc dueRegion ⟨some oneSlotRecord, 0, 0⟩ nanSlotState
    (State.issueRecord_of_hold _ (h := ⟨Scalar.reset.pc, Scalar.reset.sup, Scalar.reset.ulinh, false, some oneSlotRecord, 0⟩)
      (by decide +kernel) rfl) rfl (by decide +kernel) (by decide +kernel) (by decide +kernel) (by decide +kernel) (by decide +kernel)
  have hclaim : (t.quad 0).slot 0 = 0x7F810000 := (hslots 0 0 Nat.one_pos Nat.one_pos).trans (by decide +kernel)
  have hmodel := mgacc_widens_nan
  rw [ht] at hmodel
  exact absurd (hclaim.symm.trans (Option.some.inj hmodel)) (by decide)

end Sys2Proof.Proofs

/-! PROOFS. O2, first part: fields of a word, and the codes of its operands (R114 to R116, R128). -/
namespace Sys2Proof

/-! ### One field of a number -/

/-- A summand whose bits all lie above a field does not show in it. -/
@[simp] theorem fld_add_of_high {x y lo n : Nat} (h : x % 2 ^ (lo + n) = 0) : fld (x + y) lo n = fld y lo n := by
  obtain ⟨k, rfl⟩ := Nat.dvd_of_mod_eq_zero h
  rw [fld, fld, Nat.pow_add, Nat.mul_assoc, Nat.add_comm, Nat.add_mul_div_left _ _ (Nat.two_pow_pos lo), Nat.add_mul_mod_self_left]
/-- Nor does one whose bits all lie below it. -/
@[simp] theorem fld_add_of_low {x y lo n : Nat} (h : x % 2 ^ lo + y < 2 ^ lo) : fld (x + y) lo n = fld x lo n := by
  have hd : (x + y) / 2 ^ lo = x / 2 ^ lo := by
    conv_lhs => rw [← Nat.div_add_mod x (2 ^ lo), Nat.add_assoc]
    rw [Nat.mul_add_div (Nat.two_pow_pos lo), Nat.div_eq_of_lt h, Nat.add_zero]
  rw [fld, fld, hd]
/-- The same where the parts stand in the other order. -/
theorem fld_add_of_high_right {x y lo n : Nat} (h : y % 2 ^ (lo + n) = 0) : fld (x + y) lo n = fld x lo n := by
  rw [Nat.add_comm, fld_add_of_high h]
theorem fld_add_of_low_left {x y lo n : Nat} (h : y % 2 ^ lo + x < 2 ^ lo) : fld (x + y) lo n = fld y lo n := by
  rw [Nat.add_comm, fld_add_of_low h]
@[simp] theorem fld_mul {x m lo n : Nat} (hm : m = 2 ^ lo) (hx : x < 2 ^ n) : fld (x * m) lo n = x := by
  rw [fld, hm, Nat.mul_div_cancel _ (Nat.two_pow_pos lo), Nat.mod_eq_of_lt hx]
@[simp] theorem fld_self {x n : Nat} (hx : x < 2 ^ n) : fld x 0 n = x := by
  rw [fld, Nat.pow_zero, Nat.div_one, Nat.mod_eq_of_lt hx]
@[simp] theorem fld_of_dvd {x lo n : Nat} (h : x % 2 ^ (lo + n) = 0) : fld x lo n = 0 := by
  rw [← Nat.add_zero x, fld_add_of_high h, fld, Nat.zero_div, Nat.zero_mod]
@[simp] theorem fld_of_lt {x lo n : Nat} (h : x < 2 ^ lo) : fld x lo n = 0 := by
  rw [fld, Nat.div_eq_of_lt h, Nat.zero_mod]
/-- A constant that the encoder adds is `k` in the field that it marks. -/
theorem fld_const (k : Nat) {x lo n : Nat} (hx : x = k * 2 ^ lo) (hk : k < 2 ^ n) : fld x lo n = k := by
  rw [hx, fld_mul rfl hk]
/-- Above a cut the number is its upper part, below it its lower part. -/
theorem fld_above {x y k lo n : Nat} (hk : k ≤ lo) (hy : y < 2 ^ k) : fld (x * 2 ^ k + y) lo n = fld x (lo - k) n := by
  obtain ⟨j, rfl⟩ := Nat.exists_eq_add_of_le hk
  rw [fld, fld, Nat.pow_add, ← Nat.div_div_eq_div_mul, Nat.mul_comm x, Nat.mul_add_div (Nat.two_pow_pos k), Nat.div_eq_of_lt hy,
    Nat.add_zero, Nat.add_sub_cancel_left]
theorem fld_below {x y k lo n : Nat} (h : lo + n ≤ k) : fld (x * 2 ^ k + y) lo n = fld y lo n :=
  fld_add_of_high (Nat.mod_eq_zero_of_dvd (Dvd.dvd.mul_left (Nat.pow_dvd_pow 2 h) x))

/-! ### Codes -/

@[simp] theorem scopeOf_scopeCode (c : Scope) : scopeOf (scopeCode c) = some c := by cases c <;> rfl
@[simp] theorem etypeOf_etypeCode (t : EType) : etypeOf (etypeCode t) = some t := by cases t <;> rfl
@[simp] theorem fptOf_fptCode (t : FpT) : fptOf (fptCode t) = some t := by cases t <;> rfl
@[simp] theorem mattOf_mattCode (t : MatT) : mattOf (mattCode t) = some t := by cases t <;> rfl
@[simp] theorem rndOf_rndCode (r : Rnd) : rndOf (rndCode r) = some r := by cases r <;> rfl
@[simp] theorem ewselOf_ewselCode (e : EwSel) : ewselOf (ewselCode e) = some e := by cases e <;> rfl
@[simp] theorem ldsizeOf_ldsizeCode (z : LdSize) : ldsizeOf (ldsizeCode z) = some z := by cases z <;> rfl
@[simp] theorem stsizeOf_stsizeCode (z : StSize) : stsizeOf (stsizeCode z) = some z := by cases z <;> rfl
@[simp] theorem extsizeOf_extsizeCode (z : ExtSize) : extsizeOf (extsizeCode z) = some z := by cases z <;> rfl
@[simp] theorem amoopOf_amoopCode (o : AmoOp) : amoopOf (amoopCode o) = some o := by cases o <;> rfl
@[simp] theorem aordOf_aordCode (o : AOrd) : aordOf (aordCode o) = some o := by cases o <;> rfl
@[simp] theorem sredopOf_sredopCode (o : SredOp) : sredopOf (sredopCode o) = some o := by cases o <;> rfl
@[simp] theorem rredtOf_rredtCode (t : RredT) : rredtOf (rredtCode t) = some t := by cases t <;> rfl
@[simp] theorem condOf_condCode (c : Cond) : condOf (condCode c) = some c := by cases c <;> rfl
@[simp] theorem nquantOf_nquantCode (q : NQuant) : nquantOf (nquantCode q) = some q := by cases q <;> rfl
@[simp] theorem mselOf_mselCode (m : MSel) : mselOf (mselCode m) = some m := by
  cases m with
  | none => rfl
  | some r => exact dif_pos r.isLt
@[simp] theorem mregOf_val (r : MReg) : mregOf r.val = some r := dif_pos r.isLt
@[simp] theorem mdstOf_add (d : Fin 4) : mdstOf (d.val + 8) = some d := dif_pos ⟨Nat.le_add_left 8 _, by omega⟩
@[simp] theorem vregOf_val (r : VReg) : vregOf r.val = .ok r := dif_pos r.isLt

theorem scopeCode_lt (c : Scope) : scopeCode c < 8 := by cases c <;> decide
theorem etypeCode_lt (t : EType) : etypeCode t < 32 := by cases t <;> decide
theorem fptCode_lt (t : FpT) : fptCode t < 8 := by cases t <;> decide
theorem mattCode_lt (t : MatT) : mattCode t < 8 := by cases t <;> decide
theorem rndCode_lt (r : Rnd) : rndCode r < 8 := by cases r <;> decide
theorem ewselCode_lt (e : EwSel) : ewselCode e < 8 := by cases e <;> decide
theorem ldsizeCode_lt (z : LdSize) : ldsizeCode z < 8 := by cases z <;> decide
theorem stsizeCode_lt (z : StSize) : stsizeCode z < 8 := by cases z <;> decide
theorem extsizeCode_lt (z : ExtSize) : extsizeCode z < 4 := by cases z <;> decide
theorem amoopCode_lt (o : AmoOp) : amoopCode o < 9 := by cases o <;> decide
theorem aordCode_lt (o : AOrd) : aordCode o < 4 := by cases o <;> decide
theorem sredopCode_lt (o : SredOp) : sredopCode o < 16 := by cases o <;> decide
theorem rredtCode_lt (t : RredT) : rredtCode t < 8 := by cases t <;> decide
theorem condCode_lt (c : Cond) : condCode c < 8 := by cases c <;> decide
theorem nquantCode_lt (q : NQuant) : nquantCode q < 4 := by cases q <;> decide
theorem mselCode_lt (m : MSel) : mselCode m < 16 := by
  cases m with
  | none => decide
  | some r => exact Nat.lt_trans r.isLt (by decide)

@[simp] theorem toNat_beq_one (b : Bool) : (b.toNat == 1) = b := by cases b <;> rfl

/-! ### Checks that pass -/

@[simp] theorem need_some {α : Type} (a : α) : need (some a) = .ok a := rfl
@[simp] theorem illIf_false : illIf false = .ok () := rfl
@[simp] theorem rangeIf_false : rangeIf false = .ok () := rfl
@[simp] theorem bind_of_ok {α β : Type} (a : α) (f : α → Except Defect β) : (Except.ok a >>= f) = f a := rfl
@[simp] theorem pure_eq_ok {α : Type} (a : α) : (pure a : Except Defect α) = .ok a := rfl

/-- A check of the decoder and a condition of a well-formed instruction say the same. -/
theorem not_or_iff (x y : Bool) : (!x || y) = true ↔ (x && !y) = false := by
  cases x <;> cases y <;> decide

/-! ### The words of the S format -/

section
variable {op fn : Nat} {d a b : XReg}

@[simp] theorem fld_encSA_op (hop : op < 64) (h : fn < 2 ^ 11) : fld (encSA op d a b fn) 26 6 = op := by simp only [fld, encSA]; omega
@[simp] theorem fld_encSA_d (h : fn < 2 ^ 11) : fld (encSA op d a b fn) 21 5 = d := by simp only [fld, encSA]; omega
@[simp] theorem fld_encSA_a (h : fn < 2 ^ 11) : fld (encSA op d a b fn) 16 5 = a := by simp only [fld, encSA]; omega
@[simp] theorem fld_encSA_b (h : fn < 2 ^ 11) : fld (encSA op d a b fn) 11 5 = b := by simp only [fld, encSA]; omega
@[simp] theorem fld_encSA_regs (h : fn < 2 ^ 11) : fld (encSA op d a b fn) 11 15 = d.val * 1024 + a.val * 32 + b.val := by
  simp only [fld, encSA]; omega
@[simp] theorem fld_encSA_fn {lo n : Nat} (h : lo + n ≤ 11) : fld (encSA op d a b fn) lo n = fld fn lo n := by
  rw [show encSA op d a b fn = (op * 2 ^ 15 + d.val * 2 ^ 10 + a.val * 2 ^ 5 + b.val) * 2 ^ 11 + fn by unfold encSA; omega, fld_below h]
theorem encSA_lt (hop : op < 64) (h : fn < 2 ^ 11) : encSA op d a b fn < 2 ^ 32 := by unfold encSA; omega

theorem encSQ_eq_encSA {c k s : Nat} : encSQ op d a b c k s = encSA op d a b (c * 2 ^ 8 + k * 2 ^ 7 + s) := by
  unfold encSQ encSA; omega
end

section
variable {op imm : Nat} {d a : XReg}

@[simp] theorem fld_encSI_op (hop : op < 64) (h : imm < 2 ^ 16) : fld (encSI op d a imm) 26 6 = op := by simp only [fld, encSI]; omega
@[simp] theorem fld_encSI_d (h : imm < 2 ^ 16) : fld (encSI op d a imm) 21 5 = d := by simp only [fld, encSI]; omega
@[simp] theorem fld_encSI_a (h : imm < 2 ^ 16) : fld (encSI op d a imm) 16 5 = a := by simp only [fld, encSI]; omega
@[simp] theorem fld_encSI_imm {lo n : Nat} (h : lo + n ≤ 16) : fld (encSI op d a imm) lo n = fld imm lo n := by
  rw [show encSI op d a imm = (op * 2 ^ 10 + d.val * 2 ^ 5 + a.val) * 2 ^ 16 + imm by unfold encSI; omega, fld_below h]
theorem encSI_lt (hop : op < 64) (h : imm < 2 ^ 16) : encSI op d a imm < 2 ^ 32 := by unfold encSI; omega
end

section
variable {op v a b m c e s lo n : Nat}

@[simp] theorem fld_encSV_op (hop : op < 64) (h : v < 64 ∧ a < 32 ∧ b < 32 ∧ m < 16 ∧ c < 2 ∧ e < 8 ∧ s < 4) :
    fld (encSV op v a b m c e s) 26 6 = op := by simp only [fld, encSV]; omega
@[simp] theorem fld_encSV_v (h : a < 32 ∧ b < 32 ∧ m < 16 ∧ c < 2 ∧ e < 8 ∧ s < 4) (hlo : 20 ≤ lo ∧ lo + n ≤ 26) :
    fld (encSV op v a b m c e s) lo n = fld v (lo - 20) n := by
  rw [show encSV op v a b m c e s = (op * 2 ^ 6 + v) * 2 ^ 20 + (a * 2 ^ 15 + b * 2 ^ 10 + m * 2 ^ 6 + c * 2 ^ 5 + e * 2 ^ 2 + s) by
    unfold encSV; omega, fld_above hlo.1 (by omega), fld_below (by omega)]
@[simp] theorem fld_encSV_a (ha : a < 32) (h : b < 32 ∧ m < 16 ∧ c < 2 ∧ e < 8 ∧ s < 4) : fld (encSV op v a b m c e s) 15 5 = a := by
  simp only [fld, encSV]; omega
@[simp] theorem fld_encSV_b (h : m < 16 ∧ c < 2 ∧ e < 8 ∧ s < 4) (hlo : 10 ≤ lo ∧ lo + n ≤ 15) :
    fld (encSV op v a b m c e s) lo n = fld b (lo - 10) n := by
  rw [show encSV op v a b m c e s = (op * 2 ^ 16 + v * 2 ^ 10 + a * 2 ^ 5 + b) * 2 ^ 10 + (m * 2 ^ 6 + c * 2 ^ 5 + e * 2 ^ 2 + s) by
    unfold encSV; omega, fld_above hlo.1 (by omega),
    show op * 2 ^ 16 + v * 2 ^ 10 + a * 2 ^ 5 + b = (op * 2 ^ 11 + v * 2 ^ 5 + a) * 2 ^ 5 + b by omega, fld_below (by omega)]
@[simp] theorem fld_encSV_m (hm : m < 16) (h : c < 2 ∧ e < 8 ∧ s < 4) : fld (encSV op v a b m c e s) 6 4 = m := by
  simp only [fld, encSV]; omega
@[simp] theorem fld_encSV_c (hc : c < 2) (h : e < 8 ∧ s < 4) : fld (encSV op v a b m c e s) 5 1 = c := by simp only [fld, encSV]; omega
@[simp] theorem fld_encSV_e (hs : s < 4) (hlo : 2 ≤ lo ∧ lo + n ≤ 5) : fld (encSV op v a b m c e s) lo n = fld e (lo - 2) n := by
  rw [show encSV op v a b m c e s = (op * 2 ^ 24 + v * 2 ^ 18 + a * 2 ^ 13 + b * 2 ^ 8 + m * 2 ^ 4 + c * 2 ^ 3 + e) * 2 ^ 2 + s by
    unfold encSV; omega, fld_above hlo.1 hs, show op * 2 ^ 24 + v * 2 ^ 18 + a * 2 ^ 13 + b * 2 ^ 8 + m * 2 ^ 4 + c * 2 ^ 3 + e =
      (op * 2 ^ 21 + v * 2 ^ 15 + a * 2 ^ 10 + b * 2 ^ 5 + m * 2 + c) * 2 ^ 3 + e by omega, fld_below (by omega)]
@[simp] theorem fld_encSV_s (h : lo + n ≤ 2) : fld (encSV op v a b m c e s) lo n = fld s lo n := by
  rw [show encSV op v a b m c e s = (op * 2 ^ 24 + v * 2 ^ 18 + a * 2 ^ 13 + b * 2 ^ 8 + m * 2 ^ 4 + c * 2 ^ 3 + e) * 2 ^ 2 + s by
    unfold encSV; omega, fld_below h]
theorem encSV_lt (hop : op < 64) (h : v < 64 ∧ a < 32 ∧ b < 32 ∧ m < 16 ∧ c < 2 ∧ e < 8 ∧ s < 4) : encSV op v a b m c e s < 2 ^ 32 := by
  unfold encSV; omega
end

section
variable {op acc va xa mr mc c s lo n : Nat}

@[simp] theorem fld_encSM_op (hop : op < 64) (h : acc < 4 ∧ va < 64 ∧ xa < 32 ∧ mr < 16 ∧ mc < 16 ∧ c < 2 ∧ s < 16) :
    fld (encSM op acc va xa mr mc c s) 26 6 = op := by simp only [fld, encSM]; omega
@[simp] theorem fld_encSM_acc (ha : acc < 4) (h : va < 64 ∧ xa < 32 ∧ mr < 16 ∧ mc < 16 ∧ c < 2 ∧ s < 16) :
    fld (encSM op acc va xa mr mc c s) 24 2 = acc := by simp only [fld, encSM]; omega
@[simp] theorem fld_encSM_va (h : xa < 32 ∧ mr < 16 ∧ mc < 16 ∧ c < 2 ∧ s < 16) (hlo : 18 ≤ lo ∧ lo + n ≤ 24) :
    fld (encSM op acc va xa mr mc c s) lo n = fld va (lo - 18) n := by
  rw [show encSM op acc va xa mr mc c s = (op * 2 ^ 8 + acc * 2 ^ 6 + va) * 2 ^ 18 +
      (xa * 2 ^ 13 + mr * 2 ^ 9 + mc * 2 ^ 5 + c * 2 ^ 4 + s) by unfold encSM; omega, fld_above hlo.1 (by omega),
    show op * 2 ^ 8 + acc * 2 ^ 6 + va = (op * 2 ^ 2 + acc) * 2 ^ 6 + va by omega, fld_below (by omega)]
@[simp] theorem fld_encSM_xa (hx : xa < 32) (h : mr < 16 ∧ mc < 16 ∧ c < 2 ∧ s < 16) : fld (encSM op acc va xa mr mc c s) 13 5 = xa := by
  simp only [fld, encSM]; omega
@[simp] theorem fld_encSM_mr (hm : mr < 16) (h : mc < 16 ∧ c < 2 ∧ s < 16) : fld (encSM op acc va xa mr mc c s) 9 4 = mr := by
  simp only [fld, encSM]; omega
@[simp] theorem fld_encSM_mc (hm : mc < 16) (h : c < 2 ∧ s < 16) : fld (encSM op acc va xa mr mc c s) 5 4 = mc := by
  simp only [fld, encSM]; omega
@[simp] theorem fld_encSM_c (hc : c < 2) (h : s < 16) : fld (encSM op acc va xa mr mc c s) 4 1 = c := by simp only [fld, encSM]; omega
@[simp] theorem fld_encSM_s (h : lo + n ≤ 4) : fld (encSM op acc va xa mr mc c s) lo n = fld s lo n := by
  rw [show encSM op acc va xa mr mc c s = (op * 2 ^ 22 + acc * 2 ^ 20 + va * 2 ^ 14 + xa * 2 ^ 9 + mr * 2 ^ 5 + mc * 2 + c) * 2 ^ 4 + s by
    unfold encSM; omega, fld_below h]
/-- Fields that run over two operands, which words without those operands hold 0 in. -/
@[simp] theorem fld_encSM_va_xa (h : va < 64 ∧ xa < 32 ∧ mr < 16 ∧ mc < 16 ∧ c < 2 ∧ s < 16) :
    fld (encSM op acc va xa mr mc c s) 13 11 = va * 32 + xa := by simp only [fld, encSM]; omega
@[simp] theorem fld_encSM_acc_va (h : acc < 4 ∧ va < 64 ∧ xa < 32 ∧ mr < 16 ∧ mc < 16 ∧ c < 2 ∧ s < 16) :
    fld (encSM op acc va xa mr mc c s) 18 8 = acc * 64 + va := by simp only [fld, encSM]; omega
@[simp] theorem fld_encSM_acc_high (h : acc < 4 ∧ va < 64 ∧ xa < 32 ∧ mr < 16 ∧ mc < 16 ∧ c < 2 ∧ s < 16) :
    fld (encSM op acc va xa mr mc c s) 23 3 = acc * 2 + va / 32 := by simp only [fld, encSM]; omega
@[simp] theorem fld_encSM_c_s (h : c < 2 ∧ s < 16) : fld (encSM op acc va xa mr mc c s) 0 5 = c * 16 + s := by
  simp only [fld, encSM]; omega
theorem encSM_lt (hop : op < 64) (h : acc < 4 ∧ va < 64 ∧ xa < 32 ∧ mr < 16 ∧ mc < 16 ∧ c < 2 ∧ s < 16) :
    encSM op acc va xa mr mc c s < 2 ^ 32 := by unfold encSM; omega
@[simp] theorem smAll_encSM (h : c < 2 ∧ s < 16) : smAll (encSM op acc va xa 15 15 c s) = true := by
  rw [smAll, beq_iff_eq]; simp only [fld, encSM]; omega
end

end Sys2Proof

/-! PROOFS. O2, second part: the words of the S format read back (R119 to R127). -/
namespace Sys2Proof
open Sys2Proof.Machine

/-- The decoder reads the instruction from its word. -/
def RoundTrips (i : Instr) : Prop := ∀ n w, encode i = some (n, w) → decodeTableWord n w = some i

theorem RoundTrips.scalar {i : Instr} {w : Nat} (he : encode i = some (32, w)) (hw : w < 2 ^ 32) (hd : decodeS w = .ok i) :
    RoundTrips i := by
  intro n v hv
  obtain ⟨rfl, rfl⟩ := Prod.mk.inj (Option.some.inj (he.symm.trans hv))
  have hb : decodeBytes (leBytes 4 w) = .ok i := by
    rw [decodeBytes, leBytes_length, if_pos rfl, leNat_leBytes, Nat.mod_eq_of_lt (by omega), hd]
  simp only [decodeTableWord, hb]

/-- An SQ word is an SA word whose function field holds scope, blocking and operation (Table 7-1). -/
theorem RoundTrips.queueForm {i : Instr} {op c k s : Nat} {d a b : XReg} (he : encode i = some (32, encSQ op d a b c k s)) (hop : op < 64)
    (hfn : c * 2 ^ 8 + k * 2 ^ 7 + s < 2 ^ 11) (hd : decodeS (encSA op d a b (c * 2 ^ 8 + k * 2 ^ 7 + s)) = .ok i) : RoundTrips i := by
  rw [encSQ_eq_encSA] at he
  exact .scalar he (encSA_lt hop hfn) hd

/-! ### Opcodes 0x01 to 0x10 (R119 to R122) -/

theorem registerOps_roundTrip (o : X3) : ∀ i ∈ [Instr.add o, .sub o, .and o, .or o, .xor o, .andn o, .orn o, .sll o, .srl o, .sra o,
    .slt o, .sltn o, .min o, .max o, .minn o, .maxn o, .mul o, .mulh o, .mulhn o, .div o, .divn o, .rem o, .remn o], RoundTrips i := by
  simp only [List.forall_mem_cons, List.not_mem_nil, false_implies, implies_true, and_true]
  and_intros <;> refine .scalar rfl (encSA_lt (by decide) (by decide)) ?_ <;> simp (disch := omega) [decodeS, decOp01, xregAt]

theorem unaryOps_roundTrip (o : X2) : ∀ i ∈ [Instr.clz o, .ctz o, .popc o], RoundTrips i := by
  simp only [List.forall_mem_cons, List.not_mem_nil, false_implies, implies_true, and_true]
  and_intros <;> refine .scalar rfl (encSA_lt (by decide) (by decide)) ?_ <;> simp (disch := omega) [decodeS, decOp01, xregAt]

theorem extensions_roundTrip (o : XExt) : ∀ i ∈ [Instr.sext o, .zext o], RoundTrips i := by
  have hs := extsizeCode_lt o.s
  simp only [List.forall_mem_cons, List.not_mem_nil, false_implies, implies_true, and_true]
  and_intros <;> refine .scalar rfl (encSA_lt (by decide) (by omega)) ?_ <;> simp (disch := omega) [decodeS, decOp01, xregAt]

theorem shiftImms_roundTrip (o : XSh) : ∀ i ∈ [Instr.slli o, .srli o, .srai o], RoundTrips i := by
  simp only [List.forall_mem_cons, List.not_mem_nil, false_implies, implies_true, and_true]
  and_intros <;> refine .scalar rfl (encSA_lt (by decide) (by omega)) ?_ <;> simp (disch := omega) [decodeS, decOp01, xregAt]

theorem immediates_roundTrip (o : XImm) : ∀ i ∈ [Instr.addi o, .andi o, .ori o, .xori o, .slti o], RoundTrips i := by
  simp only [List.forall_mem_cons, List.not_mem_nil, false_implies, implies_true, and_true]
  and_intros <;> refine .scalar rfl (encSI_lt (by decide) o.i.isLt) ?_ <;> simp (disch := omega) [decodeS, ximmAt, xregAt]

theorem shori_roundTrip (o : XImm) (h : o.a ≠ 0) : RoundTrips (.shori o) := by
  refine .scalar rfl (encSI_lt (by decide) o.i.isLt) ?_
  simp (disch := omega) [decodeS, decOp07, ximmAt, xregAt, h]

theorem lih_roundTrip (d : XReg) (i : BitVec 16) : RoundTrips (.lih d i) := by
  refine .scalar rfl (encSI_lt (by decide) i.isLt) ?_
  simp (disch := omega) [decodeS, decOp07, xregAt]

theorem loadStores_roundTrip (d a : XReg) (off : BitVec 12) (z : LdSize) (y : StSize) :
    ∀ i ∈ [Instr.ld d a off z, .st d a off y], RoundTrips i := by
  have hz := ldsizeCode_lt z
  have hy := stsizeCode_lt y
  simp only [List.forall_mem_cons, List.not_mem_nil, false_implies, implies_true, and_true]
  and_intros <;> refine .scalar rfl (encSI_lt (by decide) (by omega)) ?_ <;>
    simp (disch := omega) [decodeS, decOp08, xregAt, fld_const 1]

theorem indexedLoadStores_roundTrip (o : X3) (c : Scope) (z : LdSize) (y : StSize) :
    ∀ i ∈ [Instr.ldx o z, .stx o y, .ldAcq o c z, .stRel o c y], RoundTrips i := by
  have hz := ldsizeCode_lt z
  have hy := stsizeCode_lt y
  have hc := scopeCode_lt c
  simp only [List.forall_mem_cons, List.not_mem_nil, false_implies, implies_true, and_true]
  and_intros <;> refine .scalar rfl (encSA_lt (by decide) (by omega)) ?_ <;>
    simp (disch := omega) [decodeS, decOp09, xregAt, fld_const 1]

theorem amo_roundTrip (o : AmoArgs) : RoundTrips (.amo o) := by
  have hc := scopeCode_lt o.scope
  have hr := aordCode_lt o.ord
  have ho := amoopCode_lt o.op
  have hw := o.dword.toNat_lt
  refine .scalar rfl (encSA_lt (by decide) (by omega)) ?_
  have h9 : amoopCode o.op ≠ 9 := by omega
  simp (disch := omega) [decodeS, decOp09, xregAt, fld_const 1, h9]

theorem cas_roundTrip (o : CasArgs) : RoundTrips (.cas o) := by
  have hc := scopeCode_lt o.scope
  have hr := aordCode_lt o.ord
  have hw := o.dword.toNat_lt
  refine .scalar rfl (encSA_lt (by decide) (by omega)) ?_
  simp (disch := omega) [decodeS, decOp09, xregAt, fld_const 1]

theorem branches_roundTrip (o : Br) : ∀ i ∈ [Instr.beq o, .bne o, .blt o, .bge o, .bltn o, .bgen o], RoundTrips i := by
  simp only [List.forall_mem_cons, List.not_mem_nil, false_implies, implies_true, and_true]
  and_intros <;> refine .scalar rfl (encSI_lt (by decide) o.o.isLt) ?_ <;> simp (disch := omega) [decodeS, brAt, xregAt]

theorem jal_roundTrip (d : XReg) (i : BitVec 16) : RoundTrips (.jal d i) := by
  refine .scalar rfl (encSI_lt (by decide) i.isLt) ?_
  simp (disch := omega) [decodeS, decOp10, xregAt]

theorem jalr_roundTrip (o : XImm) (h : o.a ≠ 0) : RoundTrips (.jalr o) := by
  refine .scalar rfl (encSI_lt (by decide) o.i.isLt) ?_
  simp (disch := omega) [decodeS, decOp10, ximmAt, xregAt, h]

/-! ### Opcodes 0x11 to 0x16 (R123) -/

theorem fpOps_roundTrip (o : Fp3) : ∀ i ∈ [Instr.fadd o, .fsub o, .fmul o, .ffma o, .fdiv o], RoundTrips i := by
  have hr := rndCode_lt o.r
  have ht := fptCode_lt o.t
  simp only [List.forall_mem_cons, List.not_mem_nil, false_implies, implies_true, and_true]
  and_intros <;> refine .scalar rfl (encSA_lt (by decide) (by omega)) ?_ <;>
    simp (disch := omega) [decodeS, decOp11, xregAt]

theorem fpMinMax_roundTrip (o : Fp3n) : ∀ i ∈ [Instr.fmin o, .fmax o], RoundTrips i := by
  have ht := fptCode_lt o.t
  simp only [List.forall_mem_cons, List.not_mem_nil, false_implies, implies_true, and_true]
  and_intros <;> refine .scalar rfl (encSA_lt (by decide) (by omega)) ?_ <;>
    simp (disch := omega) [decodeS, decOp11, xregAt, rnd07, fld_const 7]

theorem fpUnary_roundTrip (o : X2) (t : FpT) (r : Rnd) : ∀ i ∈ [Instr.fsqrt o t r, .fclass o t], RoundTrips i := by
  have hr := rndCode_lt r
  have ht := fptCode_lt t
  simp only [List.forall_mem_cons, List.not_mem_nil, false_implies, implies_true, and_true]
  and_intros <;> refine .scalar rfl (encSA_lt (by decide) (by omega)) ?_ <;>
    simp (disch := omega) [decodeS, decOp11, xregAt, rnd07, fld_const 7]

theorem fcmp_roundTrip (o : X3) (t : FpT) (c : Cond) : RoundTrips (.fcmp o t c) := by
  have hc := condCode_lt c
  have ht := fptCode_lt t
  refine .scalar rfl (encSA_lt (by decide) (by omega)) ?_
  simp (disch := omega) [decodeS, decOp11, xregAt]

theorem fpConversions_roundTrip (o : FpCvt) (h : o.o.fcvtOk = true) :
    ∀ i ∈ [Instr.fcvtToFp o, .fcvtFromFp o], RoundTrips i := by
  have hr := rndCode_lt o.r
  have ht := fptCode_lt o.t
  simp only [List.forall_mem_cons, List.not_mem_nil, false_implies, implies_true, and_true]
  and_intros <;> refine .scalar rfl (encSA_lt (by decide) (by omega)) ?_ <;>
    simp (disch := omega) [decodeS, decOp11, xregAt, Nat.mod_eq_of_lt (etypeCode_lt o.o), h]

theorem csrAccesses_roundTrip (o : X2) (c : BitVec 12) :
    ∀ i ∈ [Instr.csrr o.d c, .csrw o.a c, .csrs o c, .csrc o c], RoundTrips i := by
  simp only [List.forall_mem_cons, List.not_mem_nil, false_implies, implies_true, and_true]
  and_intros <;> refine .scalar rfl (encSI_lt (by decide) (by omega)) ?_ <;>
    simp (disch := omega) [decodeS, decOp12, xregAt, fld_const 1, fld_const 2, fld_const 3]

theorem fences_roundTrip (c : Scope) : ∀ i ∈ [Instr.fenceLd c, .fenceSt c, .fenceAll c, .ifence], RoundTrips i := by
  have hc := scopeCode_lt c
  have hcore : scopeOf 0 = some .core := rfl
  simp only [List.forall_mem_cons, List.not_mem_nil, false_implies, implies_true, and_true]
  and_intros <;> refine .queueForm rfl (by decide) (by omega) ?_ <;> simp (disch := omega) [decodeS, decOp13, hcore]

theorem bar_roundTrip (c : Scope) (h : c ≠ .sys) : RoundTrips (.bar c) := by
  have hc := scopeCode_lt c
  refine .queueForm rfl (by decide) (by omega) ?_
  simp (disch := omega) [decodeS, decOp13, beq_eq_false_iff_ne.2 h]

theorem system_roundTrip (d a b : XReg) : ∀ i ∈ [Instr.syscall, .brk, .sret, .xpop d, .feat d b, .uliret, .tlbinv a b, .srinv a, .waite,
    .texit, .launch a, .tstop ⟨d, a⟩], RoundTrips i := by
  simp only [List.forall_mem_cons, List.not_mem_nil, false_implies, implies_true, and_true]
  and_intros <;> refine .scalar rfl (encSA_lt (by decide) (by decide)) ?_ <;> simp (disch := omega) [decodeS, decOp14, xregAt]

theorem vfetch_roundTrip (o : BitVec 26) : RoundTrips (.vfetch o) := by
  refine .scalar rfl (by omega) ?_
  simp (disch := omega) [decodeS, decOp15, fld_const 21]

theorem vfetchx_roundTrip (a : XReg) : RoundTrips (.vfetchx a) := by
  have he : encode (.vfetchx a) = some (32, encSI 22 0 a 0) := by simp [encode, encSA, encSI]
  refine .scalar he (encSI_lt (by decide) (by decide)) ?_
  simp (disch := omega) [decodeS, decOp16, xregAt]

end Sys2Proof

/-! PROOFS. O2, third part: vector memory, matrix, queue and object words read back (R124 to R127). -/
namespace Sys2Proof
open Sys2Proof.Machine

/-! ### What the readers of an SV word find -/

section
variable {op b c s : Nat} {v : VReg} {a : XReg} {m : MSel} {e : EwSel} (h : b < 32 ∧ c < 2 ∧ s < 4)
include h

theorem vmemAt_encSV : vmemAt (encSV op v.val a.val b (mselCode m) c (ewselCode e) s) = .ok ⟨v, a, m, e⟩ := by
  have hm := mselCode_lt m
  have he := ewselCode_lt e
  simp (disch := omega) [vmemAt, svA, xregAt]

end

theorem vstoreAt_encSV {op b s : Nat} (o : VStore) (h : b < 32 ∧ s < 4) :
    vstoreAt (encSV op o.v.val o.a.val b (mselCode o.m) o.ch.toNat (ewselCode o.e) s) = .ok o := by
  have hc := o.ch.toNat_lt
  have he := ewselCode_lt o.e
  rw [vstoreAt, vmemAt_encSV ⟨h.1, hc, h.2⟩]
  simp (disch := omega) [svCh]

/-! ### Opcodes 0x18 to 0x1E, and the stores of 0x22 (R124) -/

theorem lengths_roundTrip (o : X2) (t : BitVec 11) (b : XReg) :
    ∀ i ∈ [Instr.vsetl o t, .vsetlx ⟨o.d, o.a, b⟩], RoundTrips i := by
  simp only [List.forall_mem_cons, List.not_mem_nil, false_implies, implies_true, and_true]
  and_intros <;> refine .scalar rfl (encSI_lt (by decide) (by omega)) ?_ <;>
    simp (disch := omega) [decodeS, decOp18, xregAt, fld_const 1]

theorem vldxAcq_roundTrip (v : VReg) (a : XReg) (i : VReg) (m : MSel) (c : Scope) : RoundTrips (.vldxAcq v a i m c) := by
  have hm := mselCode_lt m
  have hc := scopeCode_lt c
  refine .scalar rfl (encSV_lt (by decide) (by omega)) ?_
  simp (disch := omega) [decodeS, decOp19, svA, idxChAt, xregAt, Nat.div_add_mod']

theorem strip_roundTrip (c p : XReg) (n : Fin 4) (o : BitVec 14) (h : p.val + n.val ≤ 31) : RoundTrips (.strip c p n o) := by
  refine .scalar rfl (encSI_lt (by decide) (by omega)) ?_
  simp (disch := omega) [decodeS, decOp1A, xregAt, Nat.not_lt.2 h]

theorem setfib_roundTrip (o : X2) (mo : MReg) (t : BitVec 11) : RoundTrips (.setfib o mo t) := by
  refine .scalar rfl (encSI_lt (by decide) (by omega)) ?_
  simp (disch := omega) [decodeS, decOp1B, xregAt]

theorem vprf_roundTrip (a b : XReg) (e : EwSel) : RoundTrips (.vprf a b e) := by
  have he := ewselCode_lt e
  refine .scalar rfl (encSV_lt (by decide) (by omega)) ?_
  simp (disch := omega) [decodeS, decOp1C, svA, svB, svCh, xregAt]

theorem vectorLoads_roundTrip (o : VMem) (b : XReg) : ∀ i ∈ [Instr.vsplat o, .vld o, .vlds o b, .vld2 o], RoundTrips i := by
  have hm := mselCode_lt o.m
  have he := ewselCode_lt o.e
  simp only [List.forall_mem_cons, List.not_mem_nil, false_implies, implies_true, and_true]
  and_intros <;> refine .scalar rfl (encSV_lt (by decide) (by omega)) ?_ <;>
    simp (disch := omega) [decodeS, decOp1C, decOp1D, vmemAt_encSV, svB, svCh, xregAt]

theorem vldg_roundTrip (o : VMem) (n : Fin 9) (hn : 2 ≤ n.val) (hv : o.v.val + n.val ≤ 48) : RoundTrips (.vldg o n) := by
  have hm := mselCode_lt o.m
  have he := ewselCode_lt o.e
  refine .scalar rfl (encSV_lt (by decide) (by omega)) ?_
  have h2 : ¬ n.val < 2 := by omega
  have h8 : ¬ 8 < n.val := by omega
  have h48 : ¬ 48 < o.v.val + n.val := by omega
  simp (disch := omega) [decodeS, decOp1D, vmemAt_encSV, svCh, h2, h8, h48]

theorem vst_roundTrip (o : VstArgs) (h : (o.rel || o.scope == .core) = true) : RoundTrips (.vst o) := by
  have hm := mselCode_lt o.m
  have he := ewselCode_lt o.e
  have hc := scopeCode_lt o.scope
  have hr := o.rel.toNat_lt
  have hn := o.ntf.toNat_lt
  have hch := o.ch.toNat_lt
  have hs : (o.scope != .core && !o.rel) = false := by
    rw [bne, ← Bool.not_or, Bool.or_comm, h, Bool.not_true]
  refine .scalar rfl (encSV_lt (by decide) (by omega)) ?_
  simp (disch := omega) [decodeS, decOp1E, vmemAt_encSV, svCh, hs]

theorem vectorStores_roundTrip (o : VStore) (b : XReg) (ntf : Bool) :
    ∀ i ∈ [Instr.vstsNtf o b, .vsts o b, .vst2 o ntf, .vstb o b, .vstbNtf o b], RoundTrips i := by
  have hm := mselCode_lt o.m
  have he := ewselCode_lt o.e
  have hn := ntf.toNat_lt
  have hch := o.ch.toNat_lt
  simp only [List.forall_mem_cons, List.not_mem_nil, false_implies, implies_true, and_true]
  and_intros <;> refine .scalar rfl (encSV_lt (by decide) (by omega)) ?_ <;>
    simp (disch := omega) [decodeS, decOp19, decOp1E, decOp22, vstoreAt_encSV, svB, xregAt]

theorem vstg_roundTrip (o : VStore) (n : Fin 9) (ntf : Bool) (hn : 2 ≤ n.val) (hv : o.v.val + n.val ≤ 48) :
    RoundTrips (.vstg o n ntf) := by
  have hm := mselCode_lt o.m
  have he := ewselCode_lt o.e
  have hf := ntf.toNat_lt
  have hch := o.ch.toNat_lt
  refine .scalar rfl (encSV_lt (by decide) (by omega)) ?_
  have h0 : (n.val - 1 == 0) = false := beq_eq_false_iff_ne.2 (by omega)
  have h1 : n.val - 1 + 1 = n.val := by omega
  have h48 : ¬ 48 < o.v.val + n.val := by omega
  simp (disch := omega) [decodeS, decOp1E, vstoreAt_encSV, h0, h1, h48]

/-! ### Opcodes 0x1F to 0x27 (R124, R125) -/

theorem vldx_roundTrip (o : VMem) (i : VReg) : RoundTrips (.vldx o i) := by
  have hm := mselCode_lt o.m
  have he := ewselCode_lt o.e
  refine .scalar rfl (encSV_lt (by decide) (by omega)) ?_
  simp (disch := omega) [decodeS, decOp1F, vmemAt_encSV, idxChAt, Nat.div_add_mod']

theorem vstx_roundTrip (o : VStore) (i : VReg) (ntf : Bool) : RoundTrips (.vstx o i ntf) := by
  have hm := mselCode_lt o.m
  have he := ewselCode_lt o.e
  have hf := ntf.toNat_lt
  have hch := o.ch.toNat_lt
  refine .scalar rfl (encSV_lt (by decide) (by omega)) ?_
  simp (disch := omega) [decodeS, decOp20, vstoreAt_encSV, Nat.div_add_mod']

theorem vldw_roundTrip (v : VReg) (a : XReg) (i : VReg) (mo : MReg) (e : EwSel) (h : v.val ≤ 46) : RoundTrips (.vldw v a i mo e) := by
  have he := ewselCode_lt e
  refine .scalar rfl (encSV_lt (by decide) (by omega)) ?_
  simp (disch := omega) [decodeS, decOp21, svA, idxChAt, xregAt, Nat.div_add_mod', Nat.not_lt.2 h]

theorem vldb_roundTrip (v : VReg) (a b : XReg) (mo : MReg) (e : EwSel) : RoundTrips (.vldb v a b mo e) := by
  have he := ewselCode_lt e
  refine .scalar rfl (encSV_lt (by decide) (by omega)) ?_
  simp (disch := omega) [decodeS, decOp22, svA, svB, svCh, xregAt]

theorem vamo_roundTrip (o : VamoArgs) (h : o.v.val ≤ 46) : RoundTrips (.vamo o) := by
  have hm := mselCode_lt o.m
  have hc := scopeCode_lt o.scope
  have hr := aordCode_lt o.ord
  have ho := amoopCode_lt o.op
  have hw := o.dword.toNat_lt
  refine .scalar rfl (encSV_lt (by decide) (by omega)) ?_
  simp (disch := omega) [decodeS, decOp23, svA, xregAt, Nat.div_add_mod', Nat.not_lt.2 h]

/-- VSRED takes the widths from 32 bits upward, and that of VT. -/
theorem four_le_ewselCode {e : EwSel} (h : (e == .w32 || e == .w64 || e == .vt) = true) : 4 ≤ ewselCode e := by
  revert h; cases e <;> decide
theorem vsred_roundTrip (o : VStore) (op : SredOp) (hv : o.v.val ≤ 46) (h4 : 4 ≤ ewselCode o.e) : RoundTrips (.vsred o op) := by
  have hm := mselCode_lt o.m
  have he := ewselCode_lt o.e
  have ho := sredopCode_lt op
  have hch := o.ch.toNat_lt
  refine .scalar rfl (encSV_lt (by decide) (by omega)) ?_
  simp (disch := omega) [decodeS, decOp24, vstoreAt_encSV, Nat.not_lt.2 hv, Nat.not_lt.2 h4]

theorem vrred_roundTrip (o : VStore) (t : RredT) (ntf ord : Bool) : RoundTrips (.vrred o t ntf ord) := by
  have hm := mselCode_lt o.m
  have he := ewselCode_lt o.e
  have ht := rredtCode_lt t
  have hch := o.ch.toNat_lt
  have hf := ntf.toNat_lt
  have ho := ord.toNat_lt
  refine .scalar rfl (encSV_lt (by decide) (by omega)) ?_
  simp (disch := omega) [decodeS, decOp24, vstoreAt_encSV]

theorem feeds_roundTrip (v : VReg) (f : FeedIx) (a b : XReg) (st : Fin 16) (c : Bool) (m : MSel) (e : EwSel) :
    ∀ i ∈ [Instr.fcfg f a b st c e, .fld v f, .fst v f m c e, .fend f a m e], RoundTrips i := by
  have hm := mselCode_lt m
  have he := ewselCode_lt e
  have hc := c.toNat_lt
  simp only [List.forall_mem_cons, List.not_mem_nil, false_implies, implies_true, and_true]
  and_intros <;> refine .scalar rfl (encSV_lt (by decide) (by omega)) ?_ <;>
    simp (disch := omega) [decodeS, decOp25, vmemAt, svA, svB, svCh, xregAt]

theorem activations_roundTrip (o : X3) (t : Byte) : ∀ i ∈ [Instr.apush o.a o.b t, .apop o t], RoundTrips i := by
  simp only [List.forall_mem_cons, List.not_mem_nil, false_implies, implies_true, and_true]
  and_intros <;> refine .scalar rfl (encSA_lt (by decide) (by omega)) ?_ <;>
    simp (disch := omega) [decodeS, decOp26, xregAt]

theorem nsend_roundTrip (o : NsendArgs) (h : (Instr.nsend o).wf = true) : RoundTrips (.nsend o) := by
  have hq := nquantCode_lt o.q
  have he := o.ef.toNat_lt
  have hr := o.rfBf16.toNat_lt
  have hb := o.bar.toNat_lt
  have hc := o.compl.toNat_lt
  have hs := o.srcBf16.toNat_lt
  simp only [Instr.wf, Bool.and_eq_true, not_or_iff, ← decide_not, Nat.not_le, bne, Bool.not_not] at h
  obtain ⟨⟨h1, h2⟩, h3⟩ := h
  refine .scalar rfl (encSA_lt (by decide) (by omega)) ?_
  simp (disch := omega) [-Order.lt_add_one_iff, decodeS, decOp27, xregAt, h1, h2, h3]

/-! ### Opcodes 0x28 to 0x2D (R126) -/

theorem bands_roundTrip (o : X2) : ∀ i ∈ [Instr.matt o, .mattB o, .mdet, .mten, .mtdis], RoundTrips i := by
  simp only [List.forall_mem_cons, List.not_mem_nil, false_implies, implies_true, and_true]
  and_intros <;> refine .scalar rfl (encSA_lt (by decide) (by decide)) ?_ <;> simp (disch := omega) [decodeS, decOp28, xregAt]

theorem mzero_roundTrip (acc : AccIx) : RoundTrips (.mzero acc) := by
  refine .scalar rfl (encSM_lt (by decide) (by omega)) ?_
  simp (disch := omega) [decodeS, decOp29, smAcc]

theorem mopa_roundTrip (acc : AccIx) (v : VSrc) (k : Fin 512) (mr mc : MSel) : RoundTrips (.mopa acc v k mr mc) := by
  have hr := mselCode_lt mr
  have hc := mselCode_lt mc
  have hv := v.ch.toNat_lt
  refine .scalar rfl (encSM_lt (by decide) (by omega)) ?_
  simp (disch := omega) [decodeS, decOp2A, smAcc, Nat.div_add_mod']

theorem mopav_roundTrip (acc : AccIx) (v : VSrc) (b : VReg) (mr mc : MSel) (t : MatT) : RoundTrips (.mopav acc v b mr mc t) := by
  have hr := mselCode_lt mr
  have hc := mselCode_lt mc
  have hv := v.ch.toNat_lt
  have ht := mattCode_lt t
  refine .scalar rfl (encSM_lt (by decide) (by omega)) ?_
  simp (disch := omega) [decodeS, decOp2B, smAcc, Nat.div_add_mod']

theorem accumulatorMoves_roundTrip (acc : AccIx) (v : VSrc) (i : Fin 128) (col : Bool) :
    ∀ x ∈ [Instr.mrds acc v.r i col, .mwrs acc v i col], RoundTrips x := by
  have hv := v.ch.toNat_lt
  have hc := col.toNat_lt
  simp only [List.forall_mem_cons, List.not_mem_nil, false_implies, implies_true, and_true]
  and_intros <;> refine .scalar rfl (encSM_lt (by decide) (by omega)) ?_ <;>
    simp (disch := omega) [decodeS, decOp2C, smAcc, Nat.div_add_mod']

theorem matrixMemory_roundTrip (o : MsArgs) (l : Fin 16) :
    ∀ i ∈ [Instr.mstt o, .mgacc o, .mgst o.a, .mwld o.a none, .mwld o.a (some l)], RoundTrips i := by
  have hr := mselCode_lt o.mr
  have hc := mselCode_lt o.mc
  have hl : (16 + l.val) / 32 = 0 := by omega
  simp only [List.forall_mem_cons, List.not_mem_nil, false_implies, implies_true, and_true]
  and_intros <;> refine .scalar rfl (encSM_lt (by decide) (by omega)) ?_ <;>
    simp (disch := omega) [decodeS, decOp2D, smAcc, smA, xregAt, hl, fld_const 1]

/-! ### Opcodes 0x30 to 0x35 (R127) -/

theorem queueControls_roundTrip (d a b : XReg) (c : Scope) :
    ∀ i ∈ [Instr.qinit a b c, .qcnt ⟨d, a⟩ c, .qclose a c], RoundTrips i := by
  have hc := scopeCode_lt c
  simp only [List.forall_mem_cons, List.not_mem_nil, false_implies, implies_true, and_true]
  and_intros <;> refine .queueForm rfl (by decide) (by omega) ?_ <;> simp (disch := omega) [decodeS, decOp30, xregAt]

theorem scalarQueues_roundTrip (o : QArgs) : ∀ i ∈ [Instr.qenqX o, .qenqM o, .qdeqM o], RoundTrips i := by
  have hc := scopeCode_lt o.scope
  have hb := o.blk.toNat_lt
  simp only [List.forall_mem_cons, List.not_mem_nil, false_implies, implies_true, and_true]
  and_intros <;> refine .queueForm rfl (by decide) (by omega) ?_ <;> simp (disch := omega) [decodeS, decOp31, xregAt]

theorem qdeqX_roundTrip (o : QArgs) (h : (!o.blk || o.b == 0) = true) : RoundTrips (.qdeqX o) := by
  have hc := scopeCode_lt o.scope
  have hb := o.blk.toNat_lt
  have hx : (o.blk && o.b != 0) = false := (not_or_iff _ _).1 h
  refine .queueForm rfl (by decide) (by omega) ?_
  simp (disch := omega) [decodeS, decOp31, xregAt, hx]

theorem vectorQueues_roundTrip (o : QvArgs) : ∀ i ∈ [Instr.qenqV o, .qdeqV o], RoundTrips i := by
  have hc := scopeCode_lt o.scope
  have hb := o.blk.toNat_lt
  simp only [List.forall_mem_cons, List.not_mem_nil, false_implies, implies_true, and_true]
  and_intros <;> refine .queueForm rfl (by decide) (by omega) ?_ <;> simp (disch := omega) [decodeS, decOp32, xregAt]

theorem objects_roundTrip (o : X3) : ∀ i ∈ [Instr.binit o, .barr o.a o.b, .barrRel o.a o.b, .bwait o, .bphase ⟨o.d, o.a⟩, .sigdec o.a o.b,
    .sigwait o.a, .uliarm o, .pfenceCore, .pfenceDie], RoundTrips i := by
  simp only [List.forall_mem_cons, List.not_mem_nil, false_implies, implies_true, and_true]
  and_intros <;> refine .queueForm rfl (by decide) (by decide) ?_ <;>
    simp (disch := omega) [decodeS, decOp33, decOp34, decOp35, xregAt, fld_const 2]

end Sys2Proof

/-! PROOFS. O2, fourth part: the words of the E format read back (R128 to R130). -/
namespace Sys2Proof
open Sys2Proof.Machine

/-! ### The fields of Table 7-10 -/

/-- Every field fits the place that Table 7-10 gives it. -/
structure EF.Fits (f : EF) : Prop where
  op : f.op < 2 ^ 8
  vd : f.vd < 2 ^ 6
  va : f.va < 2 ^ 6
  vb : f.vb < 2 ^ 6
  vc : f.vc < 2 ^ 6
  mask : f.mask < 2 ^ 4
  ty : f.ty < 2 ^ 5
  sty : f.sty < 2 ^ 4
  rnd : f.rnd < 2 ^ 3
  imm : f.imm < 2 ^ 13

/-- The fields of a word are those it was written from. -/
theorem efOf_encEF {f : EF} (h : f.Fits) : efOf (encEF f) = f := by
  obtain ⟨op, vd, va, vb, vc, ca, cb, cc, mask, ty, sty, rnd, imm⟩ := f
  obtain ⟨hop, hvd, hva, hvb, hvc, hmask, hty, hsty, hrnd, himm⟩ := h
  have hca := ca.toNat_lt
  have hcb := cb.toNat_lt
  have hcc := cc.toNat_lt
  have chain : ∀ {x : Nat} {b : Bool}, x = b.toNat → (x == 1) = b := by rintro x b rfl; exact toNat_beq_one b
  simp only [efOf, encEF, EF.mk.injEq]
  refine ⟨?_, ?_, ?_, ?_, ?_, chain ?_, chain ?_, chain ?_, ?_, ?_, ?_, ?_, ?_⟩ <;> simp only [fld] at * <;> omega

theorem encEF_lt {f : EF} (h : f.Fits) : encEF f < 2 ^ 64 := by
  obtain ⟨hop, hvd, hva, hvb, hvc, hmask, hty, hsty, hrnd, himm⟩ := h
  have hca := f.ca.toNat_lt
  have hcb := f.cb.toNat_lt
  have hcc := f.cc.toNat_lt
  unfold encEF; omega

theorem RoundTrips.element {i : Instr} {w : Nat} (he : encode i = some (64, w)) (hw : w < 2 ^ 64) (hd : decodeE w = .ok i) :
    RoundTrips i := by
  intro n v hv
  obtain ⟨rfl, rfl⟩ := Prod.mk.inj (Option.some.inj (he.symm.trans hv))
  have hb : decodeBytes (leBytes 8 w) = .ok i := by
    rw [decodeBytes, leBytes_length, if_neg (by decide), if_pos rfl, leNat_leBytes, Nat.mod_eq_of_lt (by omega), hd]
  simp only [decodeTableWord, hb]

/-- A word that the encoder writes from fields is decoded by its fields. -/
theorem RoundTrips.ofFields {i : Instr} {f : EF} (he : encode i = some (64, encEF f)) (hf : f.Fits)
    (hd : ∀ w, efOf w = f → decodeE w = .ok i) : RoundTrips i :=
  .element he (encEF_lt hf) (hd _ (efOf_encEF hf))

theorem stop_roundTrip : RoundTrips .stop := by
  rintro n w ⟨⟩
  decide

/-! ### The operand groups -/

theorem redD_lt (d : Option VReg) : redD d < 48 := by
  cases d with
  | none => decide
  | some r => exact r.isLt
theorem redImm_lt (d : Option VReg) (seg : MSel) : redImm d seg < 32 := by
  have hs := mselCode_lt seg
  unfold redImm
  split <;> omega
theorem redImm_mod (d : Option VReg) (seg : MSel) : redImm d seg % 2 = if d.isSome then 0 else 1 := by
  unfold redImm
  split <;> omega
theorem redImm_div (d : Option VReg) (seg : MSel) : redImm d seg / 2 = mselCode seg := by
  unfold redImm
  split <;> omega

section
variable {op : Nat} (hop : op < 2 ^ 8)
include hop

theorem VE2r.fits (o : VE2r) : (o.ef op).Fits := by
  have hm := mselCode_lt o.m
  have ht := etypeCode_lt o.t
  have hr := rndCode_lt o.r
  constructor <;> simp only [VE2r.ef] <;> omega
theorem VE3r.fits (o : VE3r) : (o.ef op).Fits := by
  have hm := mselCode_lt o.m
  have ht := etypeCode_lt o.t
  have hr := rndCode_lt o.r
  constructor <;> simp only [VE3r.ef] <;> omega
theorem VE1r.fits (o : VE1r) : (o.ef op).Fits := by
  have hm := mselCode_lt o.m
  have ht := etypeCode_lt o.t
  have hr := rndCode_lt o.r
  constructor <;> simp only [VE1r.ef] <;> omega
theorem VE2.fits (o : VE2) : (o.ef op).Fits := by
  have hm := mselCode_lt o.m
  have ht := etypeCode_lt o.t
  constructor <;> simp only [VE2.ef] <;> omega
theorem VE1.fits (o : VE1) : (o.ef op).Fits := by
  have hm := mselCode_lt o.m
  have ht := etypeCode_lt o.t
  constructor <;> simp only [VE1.ef] <;> omega
theorem VE1i.fits (o : VE1i) : (o.ef op).Fits := by
  have hm := mselCode_lt o.m
  have ht := etypeCode_lt o.t
  constructor <;> simp only [VE1i.ef] <;> omega
theorem VCmpArgs.fits (o : VCmpArgs) : (o.ef op).Fits := by
  have hm := mselCode_lt o.m
  have ht := etypeCode_lt o.t
  have hc := condCode_lt o.c
  constructor <;> simp only [VCmpArgs.ef] <;> omega
theorem MOp.fits (o : MOp) : (o.ef op).Fits := by
  have hm := mselCode_lt o.m
  constructor <;> simp only [MOp.ef] <;> omega
theorem VRedArgs.fits (o : VRedArgs) : (o.ef op).Fits := by
  have hd := redD_lt o.d
  have hm := mselCode_lt o.m
  have ht := etypeCode_lt o.t
  have hr := rndCode_lt o.r
  have hi := redImm_lt o.d o.seg
  constructor <;> simp only [VRedArgs.ef] <;> omega
theorem VRedIArgs.fits (o : VRedIArgs) : (o.ef op).Fits := by
  have hd := redD_lt o.d
  have hm := mselCode_lt o.m
  have ht := etypeCode_lt o.t
  have hi := redImm_lt o.d o.seg
  constructor <;> simp only [VRedIArgs.ef] <;> omega

end

section
variable {ok : EType → Bool} {op : Nat}

@[simp] theorem VE2r.ef_op (o : VE2r) : (o.ef op).op = op := rfl
@[simp] theorem VE3r.ef_op (o : VE3r) : (o.ef op).op = op := rfl
@[simp] theorem VE1r.ef_op (o : VE1r) : (o.ef op).op = op := rfl
@[simp] theorem VE2.ef_op (o : VE2) : (o.ef op).op = op := rfl
@[simp] theorem VE1.ef_op (o : VE1) : (o.ef op).op = op := rfl
@[simp] theorem VE1i.ef_op (o : VE1i) : (o.ef op).op = op := rfl
@[simp] theorem VCmpArgs.ef_op (o : VCmpArgs) : (o.ef op).op = op := rfl
@[simp] theorem MOp.ef_op (o : MOp) : (o.ef op).op = op := rfl
@[simp] theorem VRedArgs.ef_op (o : VRedArgs) : (o.ef op).op = op := rfl
@[simp] theorem VRedIArgs.ef_op (o : VRedIArgs) : (o.ef op).op = op := rfl

theorem ve2r_ef (o : VE2r) (h : ok o.t = true) : (o.ef op).ve2r ok = .ok o := by
  simp [EF.ve2r, VE2r.ef, EF.noC, EF.m, EF.etype, EF.noS, EF.r, EF.immLt, EF.d, EF.a, EF.b, h]
theorem ve3r_ef (o : VE3r) (h : ok o.t = true) : (o.ef op).ve3r ok = .ok o := by
  simp [EF.ve3r, VE3r.ef, EF.m, EF.etype, EF.noS, EF.r, EF.immLt, EF.d, EF.a, EF.b, EF.c, h]
theorem ve1r_ef (o : VE1r) (h : ok o.t = true) : (o.ef op).ve1r ok = .ok o := by
  simp [EF.ve1r, VE1r.ef, EF.noB, EF.noC, EF.m, EF.etype, EF.noS, EF.r, EF.immLt, EF.d, EF.a, h]
theorem ve2_ef (o : VE2) (h : ok o.t = true) : (o.ef op).ve2 ok = .ok o := by
  simp [EF.ve2, VE2.ef, EF.noC, EF.m, EF.etype, EF.noS, EF.r07, rnd07, EF.immLt, EF.d, EF.a, EF.b, h]
theorem ve1_ef (o : VE1) (h : ok o.t = true) : (o.ef op).ve1 ok = .ok o := by
  simp [EF.ve1, VE1.ef, EF.noB, EF.noC, EF.m, EF.etype, EF.noS, EF.r07, rnd07, EF.immLt, EF.d, EF.a, h]
theorem ve1i_ef (o : VE1i) (h : ok o.t = true) : (o.ef op).ve1i ok = .ok o := by
  simp [EF.ve1i, VE1i.ef, EF.noB, EF.noC, EF.m, EF.etype, EF.noS, EF.r07, rnd07, EF.immLt, EF.d, EF.a, h, Nat.not_le.2 o.i.isLt]
theorem vcmp_ef (o : VCmpArgs) (h : ok o.t = true) : (o.ef op).vcmp ok = .ok o := by
  simp [EF.vcmp, VCmpArgs.ef, EF.noC, EF.m, EF.etype, EF.noS, EF.r07, rnd07, EF.immLt, EF.a, EF.b, h, Nat.not_le.2 (condCode_lt o.c)]
theorem mop_ef (o : MOp) : (o.ef op).mop = .ok o := by
  simp [EF.mop, MOp.ef, EF.noC, EF.m, EF.noT, EF.noS, EF.r07, rnd07, EF.immLt]
theorem vred_ef (o : VRedArgs) (h : ok o.t = true) (hx : (o.d.isSome || o.seg.isNone) = true) : (o.ef op).vred ok = .ok o := by
  obtain ⟨d, a, m, t, r, seg⟩ := o
  have hi := Nat.not_le.2 (redImm_lt d seg)
  cases d with
  | some d =>
    simp [EF.vred, VRedArgs.ef, EF.noB, EF.noC, EF.m, EF.etype, EF.noS, EF.r, EF.immLt, EF.d, EF.a, h, redImm_mod, redImm_div, redD, hi]
  | none =>
    obtain rfl : seg = none := Option.isNone_iff_eq_none.1 hx
    simp [EF.vred, VRedArgs.ef, EF.noB, EF.noC, EF.m, EF.etype, EF.noS, EF.r, EF.immLt, EF.a, h, redImm_mod, redImm_div, redD, hi]
theorem vredi_ef (o : VRedIArgs) (h : o.t.isInt = true) (hx : (o.d.isSome || o.seg.isNone) = true) : (o.ef op).vredi = .ok o := by
  obtain ⟨d, a, m, t, seg⟩ := o
  have hi := Nat.not_le.2 (redImm_lt d seg)
  cases d with
  | some d =>
    simp [EF.vredi, VRedIArgs.ef, EF.noB, EF.noC, EF.m, EF.etype, EF.noS, EF.r07, rnd07, EF.immLt, EF.d, EF.a, h, redImm_mod, redImm_div,
      redD, hi]
  | none =>
    obtain rfl : seg = none := Option.isNone_iff_eq_none.1 hx
    simp [EF.vredi, VRedIArgs.ef, EF.noB, EF.noC, EF.m, EF.etype, EF.noS, EF.r07, rnd07, EF.immLt, EF.a, h, redImm_mod, redImm_div, redD, hi]
end

end Sys2Proof

/-! PROOFS. O2, fifth part: each word of the E format reads back (R128 to R130). -/
namespace Sys2Proof
open Sys2Proof.Machine

/-! ### Words of one operand group -/

theorem fpBinary_roundTrip (o : VE2r) (h : o.t.isFp = true) : ∀ i ∈ [Instr.vfadd o, .vfsub o, .vfmul o, .vfdiv o], RoundTrips i := by
  simp only [List.forall_mem_cons, List.not_mem_nil, false_implies, implies_true, and_true]
  and_intros <;> refine .ofFields rfl (o.fits (by decide)) fun w hw => ?_ <;> rw [decodeE, hw] <;>
    simp [ve2r_ef o h]

theorem fpFused_roundTrip (o : VE3r) (h : o.t.isFp = true) : ∀ i ∈ [Instr.vfma o, .vfms o, .vfnma o], RoundTrips i := by
  simp only [List.forall_mem_cons, List.not_mem_nil, false_implies, implies_true, and_true]
  and_intros <;> refine .ofFields rfl (o.fits (by decide)) fun w hw => ?_ <;> rw [decodeE, hw] <;>
    simp [ve3r_ef o h]

theorem vfsqrt_roundTrip (o : VE1r) (h : o.t.isFp = true) : RoundTrips (.vfsqrt o) := by
  refine .ofFields rfl (o.fits (by decide)) fun w hw => ?_
  rw [decodeE, hw]
  simp [ve1r_ef o h]

theorem fpSelect_roundTrip (o : VE2) (h : o.t.isFp = true) : ∀ i ∈ [Instr.vfmin o, .vfmax o, .vfsgn o], RoundTrips i := by
  simp only [List.forall_mem_cons, List.not_mem_nil, false_implies, implies_true, and_true]
  and_intros <;> refine .ofFields rfl (o.fits (by decide)) fun w hw => ?_ <;> rw [decodeE, hw] <;>
    simp [ve2_ef o h]

theorem fpSign_roundTrip (o : VE1) (h : o.t.isFp = true) : ∀ i ∈ [Instr.vfabs o, .vfneg o], RoundTrips i := by
  simp only [List.forall_mem_cons, List.not_mem_nil, false_implies, implies_true, and_true]
  and_intros <;> refine .ofFields rfl (o.fits (by decide)) fun w hw => ?_ <;> rw [decodeE, hw] <;>
    simp [ve1_ef o h]

theorem integerOps_roundTrip (o : VE2) (h : o.t.isInt = true) : ∀ i ∈ [Instr.vadd o, .vsub o, .vmul o, .vmulh o, .vmulhn o, .vand o,
    .vor o, .vxor o, .vsll o, .vsrl o, .vsra o, .vmin o, .vmax o, .vminn o, .vmaxn o, .vsadd o, .vssub o, .vsaddn o, .vssubn o],
    RoundTrips i := by
  simp only [List.forall_mem_cons, List.not_mem_nil, false_implies, implies_true, and_true]
  and_intros <;> refine .ofFields rfl (o.fits (by decide)) fun w hw => ?_ <;> rw [decodeE, hw] <;>
    simp [ve2_ef o h]

theorem vfcmp_roundTrip (o : VCmpArgs) (h : o.t.isFp = true) : RoundTrips (.vfcmp o) := by
  refine .ofFields rfl (o.fits (by decide)) fun w hw => ?_
  rw [decodeE, hw]
  simp [vcmp_ef o h]

theorem vcmp_roundTrip (o : VCmpArgs) (h : o.t.isInt = true) : RoundTrips (.vcmp o) := by
  refine .ofFields rfl (o.fits (by decide)) fun w hw => ?_
  rw [decodeE, hw]
  simp [vcmp_ef o h]

theorem maskLogic_roundTrip (o : MOp) : ∀ i ∈ [Instr.mand o, .mor o, .mxor o, .mandn o], RoundTrips i := by
  simp only [List.forall_mem_cons, List.not_mem_nil, false_implies, implies_true, and_true]
  and_intros <;> refine .ofFields rfl (o.fits (by decide)) fun w hw => ?_ <;> rw [decodeE, hw] <;>
    simp [mop_ef o]

theorem vmov_roundTrip (o : VE1) : RoundTrips (.vmov o) := by
  refine .ofFields rfl (o.fits (by decide)) fun w hw => ?_
  rw [decodeE, hw]
  simp [ve1_ef o]

theorem vbcast_roundTrip (o : VE1i) : RoundTrips (.vbcast o) := by
  refine .ofFields rfl (o.fits (by decide)) fun w hw => ?_
  rw [decodeE, hw]
  simp [ve1i_ef o]

theorem slides_roundTrip (o : VE1i) (h : notE8m0 o.t = true) : ∀ i ∈ [Instr.vslup o, .vsldn o], RoundTrips i := by
  simp only [List.forall_mem_cons, List.not_mem_nil, false_implies, implies_true, and_true]
  and_intros <;> refine .ofFields rfl (o.fits (by decide)) fun w hw => ?_ <;> rw [decodeE, hw] <;>
    simp [ve1i_ef o h]

theorem vperm_roundTrip (o : VE2) (h : notE8m0 o.t = true) : RoundTrips (.vperm o) := by
  refine .ofFields rfl (o.fits (by decide)) fun w hw => ?_
  rw [decodeE, hw]
  simp [ve2_ef o h]

theorem compressions_roundTrip (o : VE1) (h : notE8m0 o.t = true) : ∀ i ∈ [Instr.vcomp o, .vexpd o, .vmatch o], RoundTrips i := by
  simp only [List.forall_mem_cons, List.not_mem_nil, false_implies, implies_true, and_true]
  and_intros <;> refine .ofFields rfl (o.fits (by decide)) fun w hw => ?_ <;> rw [decodeE, hw] <;>
    simp [ve1_ef o h]

theorem fpReductions_roundTrip (o : VRedArgs) (h : o.t.isFp = true) (hx : (o.d.isSome || o.seg.isNone) = true) : ∀ i ∈ [Instr.vfredsum o,
    .vfredmax o, .vfredmin o], RoundTrips i := by
  simp only [List.forall_mem_cons, List.not_mem_nil, false_implies, implies_true, and_true]
  and_intros <;> refine .ofFields rfl (o.fits (by decide)) fun w hw => ?_ <;> rw [decodeE, hw] <;>
    simp [vred_ef o h hx]

theorem integerReductions_roundTrip (o : VRedIArgs) (h : o.t.isInt = true) (hx : (o.d.isSome || o.seg.isNone) = true) :
    ∀ i ∈ [Instr.vredsum o, .vredmax o, .vredmin o], RoundTrips i := by
  simp only [List.forall_mem_cons, List.not_mem_nil, false_implies, implies_true, and_true]
  and_intros <;> refine .ofFields rfl (o.fits (by decide)) fun w hw => ?_ <;> rw [decodeE, hw] <;>
    simp [vredi_ef o h hx]

/-! ### Words with operands of their own -/

/-- The five bits of a source type stand in two fields (R130). -/
theorem src_of_split {f : EF} {t : EType} (hs : f.sty = etypeCode t % 16) (hi : f.imm = etypeCode t / 16) : f.src = some t := by
  have ht := etypeCode_lt t
  rw [EF.src, hs, hi, show etypeCode t / 16 % 2 * 16 + etypeCode t % 16 = etypeCode t by omega, etypeOf_etypeCode]

theorem vdot_roundTrip (o : VDotArgs) (h : vdotOk o.t o.st = true) : RoundTrips (.vdot o) := by
  have hm := mselCode_lt o.m
  have ht := etypeCode_lt o.t
  have hs := etypeCode_lt o.st
  refine .ofFields rfl (by constructor <;> dsimp only <;> omega) fun w hw => ?_
  have hi : ¬ 2 ≤ etypeCode o.st / 16 := by omega
  rw [decodeE, hw]
  simp [EF.noC, EF.m, EF.r07, rnd07, EF.immLt, EF.d, EF.a, EF.b, src_of_split (t := o.st), h, hi]

theorem mset_roundTrip (d : Fin 4) (m : MSel) (v : Bool) : RoundTrips (.mset d m v) := by
  have hm := mselCode_lt m
  have hv := v.toNat_lt
  refine .ofFields rfl (by constructor <;> dsimp only [efNone] <;> omega) fun w hw => ?_
  rw [decodeE, hw]
  simp [efNone, EF.noA, EF.noB, EF.noC, EF.m, EF.noT, EF.noS, EF.r07, rnd07, EF.immLt, Nat.not_le.2 hv]

theorem maskPushes_roundTrip (a : MReg) (m : MSel) : ∀ i ∈ [Instr.mpopc a m, .mfirst a m], RoundTrips i := by
  have hm := mselCode_lt m
  simp only [List.forall_mem_cons, List.not_mem_nil, false_implies, implies_true, and_true]
  and_intros <;> refine .ofFields rfl (by constructor <;> dsimp only [efNone] <;> omega) fun w hw => ?_ <;> rw [decodeE, hw] <;>
    simp [efNone, EF.mpush, EF.noD, EF.noB, EF.noC, EF.m, EF.noT, EF.noS, EF.r07, rnd07, EF.immLt]

theorem vcvt_roundTrip (o : VCvtArgs) (h : notE8m0 o.t = true) (hst : (o.st == .e8m0) = false) : RoundTrips (.vcvt o) := by
  have hm := mselCode_lt o.m
  have ht := etypeCode_lt o.t
  have hs := etypeCode_lt o.st
  have hr := rndCode_lt o.r
  refine .ofFields rfl (by constructor <;> dsimp only <;> omega) fun w hw => ?_
  have hi : ¬ 2 ≤ etypeCode o.st / 16 := by omega
  rw [decodeE, hw]
  simp [EF.noB, EF.noC, EF.m, EF.etype, EF.r, EF.immLt, EF.d, EF.a, src_of_split (t := o.st), h, hst, hi]

theorem vqmx_roundTrip (o : VQmxArgs) (h : o.t.mxElem = true) (hst : o.st.isFp = true) (hd : o.sd ≠ o.d) : RoundTrips (.vqmx o) := by
  have hm := mselCode_lt o.m
  have ht := etypeCode_lt o.t
  have hs := etypeCode_lt o.st
  have hr := rndCode_lt o.r
  refine .ofFields rfl (by constructor <;> dsimp only <;> omega) fun w hw => ?_
  have hi : ¬ 2 ≤ etypeCode o.st / 16 := by omega
  have hne : (o.sd.val == o.d.val) = false := beq_eq_false_iff_ne.2 fun e => hd (Fin.ext e)
  rw [decodeE, hw]
  simp [EF.noC, EF.m, EF.etype, EF.r, EF.immLt, EF.d, EF.a, src_of_split (t := o.st), h, hst, hi, hne]

theorem vext_roundTrip (a : VSrc) (t : EType) (i : Fin 4096) (h : notE8m0 t = true) : RoundTrips (.vext a t i) := by
  have ht := etypeCode_lt t
  refine .ofFields rfl (by constructor <;> dsimp only [efNone] <;> omega) fun w hw => ?_
  rw [decodeE, hw]
  simp [efNone, EF.noD, EF.noB, EF.noC, EF.m15, EF.etype, EF.noS, EF.r07, rnd07, EF.immLt, EF.a, h, Nat.not_le.2 i.isLt]

theorem viota_roundTrip (d : VReg) (m : MSel) (t : EType) (h : t.isInt = true) : RoundTrips (.viota d m t) := by
  have hm := mselCode_lt m
  have ht := etypeCode_lt t
  refine .ofFields rfl (by constructor <;> dsimp only [efNone] <;> omega) fun w hw => ?_
  rw [decodeE, hw]
  simp [efNone, EF.noA, EF.noB, EF.noC, EF.m, EF.etype, EF.noS, EF.r07, rnd07, EF.immLt, EF.d, h]

/-- The segment mask of a scan. -/
theorem seg_of_imm {f : EF} {seg : MSel} (h : f.imm = mselCode seg * 2) : f.seg = .ok seg := by
  have hs := mselCode_lt seg
  have hi : ¬ 32 ≤ mselCode seg * 2 := by omega
  simp [EF.seg, EF.immLt, h, hi]

theorem vfscan_roundTrip (o : VScanArgs) (h : o.t.isFp = true) : RoundTrips (.vfscan o) := by
  have hm := mselCode_lt o.m
  have ht := etypeCode_lt o.t
  have hr := rndCode_lt o.r
  have hs := mselCode_lt o.seg
  refine .ofFields rfl (by constructor <;> dsimp only <;> omega) fun w hw => ?_
  rw [decodeE, hw]
  simp [EF.noB, EF.noC, EF.m, EF.etype, EF.noS, EF.r, EF.d, EF.a, seg_of_imm (seg := o.seg), h]

theorem vscan_roundTrip (o : VScanIArgs) (h : o.t.isInt = true) : RoundTrips (.vscan o) := by
  have hm := mselCode_lt o.m
  have ht := etypeCode_lt o.t
  have hs := mselCode_lt o.seg
  refine .ofFields rfl (by constructor <;> dsimp only <;> omega) fun w hw => ?_
  rw [decodeE, hw]
  simp [EF.noB, EF.noC, EF.m, EF.etype, EF.noS, EF.r07, rnd07, EF.d, EF.a, seg_of_imm (seg := o.seg), h]

/-! ### Weights, regions and block memory -/

theorem wramp_roundTrip (a c : VSrc) (m : MSel) (k : WReg) : RoundTrips (.wramp a c m k) := by
  have hm := mselCode_lt m
  refine .ofFields rfl (by constructor <;> dsimp only <;> omega) fun w hw => ?_
  rw [decodeE, hw]
  simp (disch := omega) [EF.noD, EF.noB, EF.m, EF.noT, EF.noS, EF.r07, rnd07, EF.immLt, EF.a, EF.c, EF.wn, wregAt, Nat.not_le.2 k.isLt]

theorem wcmp_roundTrip (a : MReg) (m : MSel) (k : WReg) : RoundTrips (.wcmp a m k) := by
  have hm := mselCode_lt m
  refine .ofFields rfl (by constructor <;> dsimp only [efNone] <;> omega) fun w hw => ?_
  rw [decodeE, hw]
  simp (disch := omega) [efNone, EF.noD, EF.noB, EF.noC, EF.m, EF.noT, EF.noS, EF.r07, rnd07, EF.immLt, EF.wn, wregAt, Nat.not_le.2 k.isLt]

theorem wcomp_roundTrip (m : MSel) (d k : WReg) : RoundTrips (.wcomp m d k) := by
  have hm := mselCode_lt m
  refine .ofFields rfl (by constructor <;> dsimp only [efNone] <;> omega) fun w hw => ?_
  have hi : ¬ 64 ≤ d.val + k.val * 8 := by omega
  rw [decodeE, hw]
  simp (disch := omega) [efNone, EF.noD, EF.noA, EF.noB, EF.noC, EF.m, EF.noT, EF.noS, EF.r07, rnd07, EF.immLt, EF.wn, wregAt,
    fld_add_of_high_right, fld_add_of_low_left, hi]

theorem wmul_roundTrip (m : MSel) (d k l : WReg) : RoundTrips (.wmul m d k l) := by
  have hm := mselCode_lt m
  refine .ofFields rfl (by constructor <;> dsimp only [efNone] <;> omega) fun w hw => ?_
  have hi : ¬ 512 ≤ d.val + k.val * 8 + l.val * 64 := by omega
  rw [decodeE, hw]
  simp (disch := omega) [efNone, EF.noD, EF.noA, EF.noB, EF.noC, EF.m, EF.noT, EF.noS, EF.r07, rnd07, EF.immLt, EF.wn, wregAt,
    fld_add_of_high_right, fld_add_of_low_left, hi]

theorem wmovToWeight_roundTrip (a : VSrc) (m : MSel) (t : EType) (r : Rnd) (k : WReg) (h : t.wmovOk = true) :
    RoundTrips (.wmov (.toWeight a) m t r k) := by
  have hm := mselCode_lt m
  have ht := etypeCode_lt t
  have hr := rndCode_lt r
  refine .ofFields rfl (by constructor <;> dsimp only <;> omega) fun w hw => ?_
  rw [decodeE, hw]
  simp (disch := omega) [EF.noD, EF.noB, EF.noC, EF.m, EF.etype, EF.noS, EF.r, EF.a, EF.wn, wregAt, h]

theorem wmovToVector_roundTrip (d : VReg) (m : MSel) (t : EType) (r : Rnd) (k : WReg) (h : t.wmovOk = true) :
    RoundTrips (.wmov (.toVector d) m t r k) := by
  have hm := mselCode_lt m
  have ht := etypeCode_lt t
  have hr := rndCode_lt r
  refine .ofFields rfl (by constructor <;> dsimp only <;> omega) fun w hw => ?_
  rw [decodeE, hw]
  simp (disch := omega) [EF.noA, EF.noB, EF.noC, EF.m, EF.etype, EF.noS, EF.r, EF.d, EF.wn, wregAt, h, fld_const 1]

theorem wn_of_fld {f : EF} {k : Nat} {r : WReg} (h : fld f.imm (3 * k) 3 = r.val) : f.wn k = r := by
  rw [EF.wn, wregAt, h, Fin.ofNat_val_eq_self]

/-- Arm weights, with a bit above them that is not theirs. -/
theorem arms_of_fields {f : EF} {a : Arms} {p : Nat} (hs : f.sty = a.count) (hi : f.imm = a.imm + p * 4096) (h : a.unusedZero = true) :
    f.arms = .ok a := by
  have hn := a.n.isLt
  have h2 : ¬ a.n.val + 2 < 2 := by omega
  have h4 : ¬ 4 < a.n.val + 2 := by omega
  rw [Arms.imm] at hi
  have hw0 : f.wn 0 = a.w0 := wn_of_fld (by rw [hi]; simp only [fld]; omega)
  have hw1 : f.wn 1 = a.w1 := wn_of_fld (by rw [hi]; simp only [fld]; omega)
  have hw2 : f.wn 2 = a.w2 := wn_of_fld (by rw [hi]; simp only [fld]; omega)
  have hw3 : f.wn 3 = a.w3 := wn_of_fld (by rw [hi]; simp only [fld]; omega)
  simp [EF.arms, hs, Arms.count, h2, h4, hw0, hw1, hw2, hw3, h]

theorem wbegin_roundTrip (a : Arms) (pf : Bool) (hz : a.unusedZero = true) (hd : a.distinct = true) : RoundTrips (.wbegin a pf) := by
  have hp := pf.toNat_lt
  have hi : a.imm < 4096 := by unfold Arms.imm; omega
  have hc : a.count ≤ 4 := by unfold Arms.count; omega
  have hpf : fld (a.imm + pf.toNat * 4096) 12 1 = pf.toNat := by simp only [fld]; omega
  refine .ofFields rfl (by constructor <;> dsimp only [efNone] <;> omega) fun w hw => ?_
  rw [decodeE, hw]
  simp [efNone, EF.noD, EF.noA, EF.noB, EF.noC, EF.m15, EF.noT, EF.r07, rnd07, arms_of_fields (a := a) (p := pf.toNat), hz, hd, hpf]

theorem regionMarks_roundTrip : ∀ i ∈ [Instr.wnext, .wend], RoundTrips i := by
  simp only [List.forall_mem_cons, List.not_mem_nil, false_implies, implies_true, and_true]
  and_intros <;> refine .ofFields rfl (by constructor <;> decide) fun w hw => ?_ <;> rw [decodeE, hw] <;>
    simp [efNone, EF.noD, EF.noA, EF.noB, EF.noC, EF.m15, EF.noT, EF.noS, EF.r07, rnd07, EF.immLt]

theorem wjoin_roundTrip (o : WJoinArgs) (h : o.t.isFp = true) (hz : o.arms.unusedZero = true) (hr : o.a.r.val + o.arms.count ≤ 48) :
    RoundTrips (.wjoin o) := by
  have hm := mselCode_lt o.m
  have ht := etypeCode_lt o.t
  have hrnd := rndCode_lt o.r
  have hi : o.arms.imm < 4096 := by unfold Arms.imm; omega
  have hc : o.arms.count ≤ 4 := by unfold Arms.count; omega
  refine .ofFields rfl (by constructor <;> dsimp only <;> omega) fun w hw => ?_
  rw [decodeE, hw]
  simp [EF.noB, EF.noC, EF.m, EF.etype, EF.r, EF.immLt, EF.d, EF.a, arms_of_fields (a := o.arms) (p := 0), h, hz, Nat.not_lt.2 hr,
    Nat.not_le.2 hi]

theorem wgjoin_roundTrip (o : WGJoinArgs) : RoundTrips (.wgjoin o) := by
  have hm := mselCode_lt o.m
  have hr := rndCode_lt o.r
  have hf : etypeOf 1 = some .f32 := rfl
  refine .ofFields rfl (by constructor <;> dsimp only <;> omega) fun w hw => ?_
  have hi : ¬ 64 ≤ o.wa.val + o.wb.val * 8 := by omega
  rw [decodeE, hw]
  simp (disch := omega) [EF.m, EF.etype, EF.noS, EF.r, EF.immLt, EF.d, EF.a, EF.b, EF.c, EF.wn, wregAt, fld_add_of_high_right,
    fld_add_of_low_left, hf, hi]

theorem wgramp_roundTrip (o : WGRampArgs) : RoundTrips (.wgramp o) := by
  have hm := mselCode_lt o.m
  have hr := rndCode_lt o.r
  have hf : etypeOf 1 = some .f32 := rfl
  refine .ofFields rfl (by constructor <;> dsimp only <;> omega) fun w hw => ?_
  rw [decodeE, hw]
  simp (disch := omega) [EF.noB, EF.m, EF.etype, EF.noS, EF.r, EF.immLt, EF.d, EF.a, EF.c, EF.wn, wregAt, hf, Nat.not_le.2 o.w.isLt]

theorem wcont_roundTrip (k : WReg) (dist : Fin 256) (h : dist ≠ 0) : RoundTrips (.wcont k dist) := by
  refine .ofFields rfl (by constructor <;> dsimp only [efNone] <;> omega) fun w hw => ?_
  have hi : ¬ 2048 ≤ k.val + dist.val * 8 := by omega
  have hd : (k.val + dist.val * 8) / 8 = dist.val := by omega
  rw [decodeE, hw]
  simp (disch := omega) [efNone, EF.noD, EF.noA, EF.noB, EF.noC, EF.m15, EF.noT, EF.noS, EF.r07, rnd07, EF.immLt, EF.wn, wregAt,
    fld_add_of_high_right, hi, hd, h]

theorem lde_roundTrip (o : LdeArgs) (h : 8 ≤ o.t.width) : RoundTrips (.lde o) := by
  have hm := mselCode_lt o.m
  have ht := etypeCode_lt o.t
  refine .ofFields rfl (by constructor <;> dsimp only <;> omega) fun w hw => ?_
  rw [decodeE, hw]
  simp [EF.noB, EF.noC, EF.m, EF.etype, EF.noS, EF.r07, rnd07, EF.d, EF.a, h]

theorem ste_roundTrip (o : SteArgs) (h : 8 ≤ o.t.width) : RoundTrips (.ste o) := by
  have hm := mselCode_lt o.m
  have ht := etypeCode_lt o.t
  refine .ofFields rfl (by constructor <;> dsimp only <;> omega) fun w hw => ?_
  rw [decodeE, hw]
  simp [EF.noD, EF.noC, EF.m, EF.etype, EF.noS, EF.r07, rnd07, EF.a, EF.b, h]

theorem wsta_roundTrip (o : WstaArgs) (h : o.t.isFp = true) : RoundTrips (.wsta o) := by
  have hm := mselCode_lt o.m
  have ht := etypeCode_lt o.t
  have hr := rndCode_lt o.r
  refine .ofFields rfl (by constructor <;> dsimp only <;> omega) fun w hw => ?_
  rw [decodeE, hw]
  simp (disch := omega) [EF.noD, EF.noC, EF.m, EF.etype, EF.noS, EF.r, EF.immLt, EF.a, EF.b, EF.wn, wregAt, h, Nat.not_le.2 o.w.isLt]

end Sys2Proof

/-! PROOFS. O2: the round trip, from the lemma about each group of words. -/
namespace Sys2Proof
open Sys2Proof.Machine

/-- Every well-formed instruction reads back: each from the lemma about its group of words; a device event has no word. -/
theorem roundTrips_of_wf (i : Instr) (h : i.wf = true) : RoundTrips i := by
  cases i
  case add o | sub o | and o | or o | xor o | andn o | orn o | sll o | srl o | sra o | slt o | sltn o | min o | max o | minn o | maxn o
      | mul o | mulh o | mulhn o | div o | divn o | rem o | remn o => exact registerOps_roundTrip o _ (by simp)
  case clz o | ctz o | popc o => exact unaryOps_roundTrip o _ (by simp)
  case sext o | zext o => exact extensions_roundTrip o _ (by simp)
  case slli o | srli o | srai o => exact shiftImms_roundTrip o _ (by simp)
  case addi o | andi o | ori o | xori o | slti o => exact immediates_roundTrip o _ (by simp)
  case shori o => exact shori_roundTrip o (bne_iff_ne.1 h)
  case lih d i => exact lih_roundTrip d i
  case ld d a off z => exact loadStores_roundTrip d a off z .b _ (by simp)
  case st d a off z => exact loadStores_roundTrip d a off .b z _ (by simp)
  case ldx o z => exact indexedLoadStores_roundTrip o .core z .b _ (by simp)
  case stx o z => exact indexedLoadStores_roundTrip o .core .b z _ (by simp)
  case ldAcq o c z => exact indexedLoadStores_roundTrip o c z .b _ (by simp)
  case stRel o c z => exact indexedLoadStores_roundTrip o c .b z _ (by simp)
  case amo o => exact amo_roundTrip o
  case cas o => exact cas_roundTrip o
  case beq o | bne o | blt o | bge o | bltn o | bgen o => exact branches_roundTrip o _ (by simp)
  case jal d i => exact jal_roundTrip d i
  case jalr o => exact jalr_roundTrip o (bne_iff_ne.1 h)
  case fadd o | fsub o | fmul o | ffma o | fdiv o => exact fpOps_roundTrip o _ (by simp)
  case fmin o | fmax o => exact fpMinMax_roundTrip o _ (by simp)
  case fsqrt o t r => exact fpUnary_roundTrip o t r _ (by simp)
  case fclass o t => exact fpUnary_roundTrip o t .rne _ (by simp)
  case fcmp o t c => exact fcmp_roundTrip o t c
  case fcvtToFp o | fcvtFromFp o => exact fpConversions_roundTrip o h _ (by simp)
  case csrr d c => exact csrAccesses_roundTrip ⟨d, 0⟩ c _ (by simp)
  case csrw a c => exact csrAccesses_roundTrip ⟨0, a⟩ c _ (by simp)
  case csrs o c | csrc o c => exact csrAccesses_roundTrip o c _ (by simp)
  case fenceLd c | fenceSt c | fenceAll c => exact fences_roundTrip c _ (by simp)
  case ifence => exact fences_roundTrip .core _ (by simp)
  case bar c => exact bar_roundTrip c (bne_iff_ne.1 h)
  case syscall | brk | sret | uliret | waite | texit => exact system_roundTrip 0 0 0 _ (by simp)
  case xpop d => exact system_roundTrip d 0 0 _ (by simp)
  case feat d n => exact system_roundTrip d 0 n _ (by simp)
  case tlbinv a b => exact system_roundTrip 0 a b _ (by simp)
  case srinv a | launch a => exact system_roundTrip 0 a 0 _ (by simp)
  case tstop o => exact system_roundTrip o.d o.a 0 _ (by simp)
  case vfetch o => exact vfetch_roundTrip o
  case vfetchx a => exact vfetchx_roundTrip a
  case vsetl o t => exact lengths_roundTrip o t 0 _ (by simp)
  case vsetlx o => exact lengths_roundTrip ⟨o.d, o.a⟩ 0 o.b _ (by simp)
  case vldxAcq v a i m c => exact vldxAcq_roundTrip v a i m c
  case strip c p n o => exact strip_roundTrip c p n o (of_decide_eq_true h)
  case setfib o mo t => exact setfib_roundTrip o mo t
  case vprf a b e => exact vprf_roundTrip a b e
  case vsplat o | vld o | vld2 o => exact vectorLoads_roundTrip o 0 _ (by simp)
  case vlds o b => exact vectorLoads_roundTrip o b _ (by simp)
  case vldg o n =>
    simp only [Instr.wf, Bool.and_eq_true, decide_eq_true_eq] at h
    exact vldg_roundTrip o n h.1 h.2
  case vst o => exact vst_roundTrip o h
  case vstsNtf o b | vsts o b | vstb o b | vstbNtf o b => exact vectorStores_roundTrip o b false _ (by simp)
  case vst2 o ntf => exact vectorStores_roundTrip o 0 ntf _ (by simp)
  case vstg o n ntf =>
    simp only [Instr.wf, Bool.and_eq_true, decide_eq_true_eq] at h
    exact vstg_roundTrip o n ntf h.1 h.2
  case vldx o i => exact vldx_roundTrip o i
  case vstx o i ntf => exact vstx_roundTrip o i ntf
  case vldw v a i mo e => exact vldw_roundTrip v a i mo e (of_decide_eq_true h)
  case vldb v a b mo e => exact vldb_roundTrip v a b mo e
  case vamo o => exact vamo_roundTrip o (of_decide_eq_true h)
  case vsred o op =>
    simp only [Instr.wf, Bool.and_eq_true, decide_eq_true_eq] at h
    exact vsred_roundTrip o op h.1 (four_le_ewselCode h.2)
  case vrred o t ntf ord => exact vrred_roundTrip o t ntf ord
  case fcfg f a b st c e => exact feeds_roundTrip 0 f a b st c none e _ (by simp)
  case fld v f => exact feeds_roundTrip v f 0 0 0 false none .vt _ (by simp)
  case fst v f m c e => exact feeds_roundTrip v f 0 0 0 c m e _ (by simp)
  case fend f a m e => exact feeds_roundTrip 0 f a 0 0 false m e _ (by simp)
  case apush a b t => exact activations_roundTrip ⟨0, a, b⟩ t _ (by simp)
  case apop o t => exact activations_roundTrip o t _ (by simp)
  case nsend o => exact nsend_roundTrip o h
  case matt o | mattB o => exact bands_roundTrip o _ (by simp)
  case mdet | mten | mtdis => exact bands_roundTrip ⟨0, 0⟩ _ (by simp)
  case mzero acc => exact mzero_roundTrip acc
  case mopa acc v k mr mc => exact mopa_roundTrip acc v k mr mc
  case mopav acc v b mr mc t => exact mopav_roundTrip acc v b mr mc t
  case mrds acc v i col => exact accumulatorMoves_roundTrip acc ⟨v, false⟩ i col _ (by simp)
  case mwrs acc v i col => exact accumulatorMoves_roundTrip acc v i col _ (by simp)
  case mstt o | mgacc o => exact matrixMemory_roundTrip o 0 _ (by simp)
  case mgst a => exact matrixMemory_roundTrip ⟨0, a, none, none⟩ 0 _ (by simp)
  case mwld a l =>
    cases l with
    | none => exact matrixMemory_roundTrip ⟨0, a, none, none⟩ 0 _ (by simp)
    | some l => exact matrixMemory_roundTrip ⟨0, a, none, none⟩ l _ (by simp)
  case qinit a b c => exact queueControls_roundTrip 0 a b c _ (by simp)
  case qcnt o c => exact queueControls_roundTrip o.d o.a 0 c _ (by simp)
  case qclose a c => exact queueControls_roundTrip 0 a 0 c _ (by simp)
  case qenqX o | qenqM o | qdeqM o => exact scalarQueues_roundTrip o _ (by simp)
  case qdeqX o => exact qdeqX_roundTrip o h
  case qenqV o | qdeqV o => exact vectorQueues_roundTrip o _ (by simp)
  case binit o | bwait o | uliarm o => exact objects_roundTrip o _ (by simp)
  case barr a b | barrRel a b | sigdec a b => exact objects_roundTrip ⟨0, a, b⟩ _ (by simp)
  case bphase o => exact objects_roundTrip ⟨o.d, o.a, 0⟩ _ (by simp)
  case sigwait a => exact objects_roundTrip ⟨0, a, 0⟩ _ (by simp)
  case pfenceCore | pfenceDie => exact objects_roundTrip ⟨0, 0, 0⟩ _ (by simp)
  case stop => exact stop_roundTrip
  case vfadd o | vfsub o | vfmul o | vfdiv o => exact fpBinary_roundTrip o h _ (by simp)
  case vfma o | vfms o | vfnma o => exact fpFused_roundTrip o h _ (by simp)
  case vfsqrt o => exact vfsqrt_roundTrip o h
  case vfmin o | vfmax o | vfsgn o => exact fpSelect_roundTrip o h _ (by simp)
  case vfabs o | vfneg o => exact fpSign_roundTrip o h _ (by simp)
  case vadd o | vsub o | vmul o | vmulh o | vmulhn o | vand o | vor o | vxor o | vsll o | vsrl o | vsra o | vmin o | vmax o | vminn o
      | vmaxn o | vsadd o | vssub o | vsaddn o | vssubn o => exact integerOps_roundTrip o h _ (by simp)
  case vdot o => exact vdot_roundTrip o h
  case vfcmp o => exact vfcmp_roundTrip o h
  case vcmp o => exact vcmp_roundTrip o h
  case mand o | mor o | mxor o | mandn o => exact maskLogic_roundTrip o _ (by simp)
  case mset d m v => exact mset_roundTrip d m v
  case mpopc a m | mfirst a m => exact maskPushes_roundTrip a m _ (by simp)
  case vcvt o =>
    simp only [Instr.wf, Bool.and_eq_true, bne_iff_ne] at h
    exact vcvt_roundTrip o (bne_iff_ne.2 h.1) (beq_eq_false_iff_ne.2 h.2)
  case vqmx o =>
    simp only [Instr.wf, Bool.and_eq_true, bne_iff_ne] at h
    obtain ⟨⟨ht, hst⟩, hd⟩ := h
    exact vqmx_roundTrip o ht hst hd
  case vmov o => exact vmov_roundTrip o
  case vbcast o => exact vbcast_roundTrip o
  case vext a t i => exact vext_roundTrip a t i h
  case viota d m t => exact viota_roundTrip d m t h
  case vslup o | vsldn o => exact slides_roundTrip o h _ (by simp)
  case vperm o => exact vperm_roundTrip o h
  case vcomp o | vexpd o | vmatch o => exact compressions_roundTrip o h _ (by simp)
  case vfredsum o | vfredmax o | vfredmin o =>
    obtain ⟨ht, hx⟩ := Bool.and_eq_true_iff.1 h
    exact fpReductions_roundTrip o ht hx _ (by simp)
  case vredsum o | vredmax o | vredmin o =>
    obtain ⟨ht, hx⟩ := Bool.and_eq_true_iff.1 h
    exact integerReductions_roundTrip o ht hx _ (by simp)
  case vfscan o => exact vfscan_roundTrip o h
  case vscan o => exact vscan_roundTrip o h
  case wramp a c m k => exact wramp_roundTrip a c m k
  case wcmp a m k => exact wcmp_roundTrip a m k
  case wcomp m d k => exact wcomp_roundTrip m d k
  case wmul m d k l => exact wmul_roundTrip m d k l
  case wmov dir m t r k =>
    cases dir with
    | toWeight a => exact wmovToWeight_roundTrip a m t r k h
    | toVector d => exact wmovToVector_roundTrip d m t r k h
  case wbegin a pf =>
    obtain ⟨hz, hd⟩ := Bool.and_eq_true_iff.1 h
    exact wbegin_roundTrip a pf hz hd
  case wnext | wend => exact regionMarks_roundTrip _ (by simp)
  case wjoin o =>
    simp only [Instr.wf, Bool.and_eq_true, decide_eq_true_eq] at h
    obtain ⟨⟨ht, hz⟩, hr⟩ := h
    exact wjoin_roundTrip o ht hz hr
  case wgjoin o => exact wgjoin_roundTrip o
  case wgramp o => exact wgramp_roundTrip o
  case wcont k dist => exact wcont_roundTrip k dist (bne_iff_ne.1 h)
  case lde o => exact lde_roundTrip o (of_decide_eq_true h)
  case ste o => exact ste_roundTrip o (of_decide_eq_true h)
  case wsta o => exact wsta_roundTrip o h
  all_goals exact fun _ _ he => nomatch he

end Sys2Proof

namespace Sys2Proof.Proofs

/-- Settles O2: each group of words is read back field by field, and every instruction belongs to one. -/
theorem encodeDecodeRoundTrip : Obligations.EncodeDecodeRoundTrip := by
  unfold Obligations.EncodeDecodeRoundTrip
  exact fun i n w h he => roundTrips_of_wf i h n w he

/-- Settles O1: the decoder runs on each of the seven words. -/
theorem wordsDecode : Obligations.WordsDecode := by
  unfold Obligations.WordsDecode
  exact ⟨rfl, rfl, rfl, rfl, rfl, rfl, rfl⟩

end Sys2Proof.Proofs

/-! PROOFS. O3: what the decoder answers (R114, R117, R118). -/
namespace Sys2Proof.Machine

/-! ### What a reader of fields can answer -/

/-- Whatever a reader answers has a property: `Yields` for any type of operand. -/
def Reads {α : Type} (P : α → Prop) (x : Except Defect α) : Prop := ∀ a, x = .ok a → P a

section
variable {α β : Type} {P : α → Prop} {Q : β → Prop}

theorem Reads.ok {a : α} (h : P a) : Reads P (.ok a) := fun _ ha => by cases ha; exact h
theorem Reads.error (d : Defect) : Reads P (.error d) := fun _ ha => by cases ha
theorem Reads.bind {x : Except Defect β} {f : β → Except Defect α} (hx : Reads Q x) (h : ∀ b, Q b → Reads P (f b)) :
    Reads P (x >>= f) := fun a ha => by
  obtain ⟨b, hb, hf⟩ := Except.of_bind_ok ha
  exact h b (hx b hb) a hf
/-- A step whose answer does not matter. -/
theorem Reads.step {x : Except Defect β} {f : β → Except Defect α} (h : ∀ b, Reads P (f b)) : Reads P (x >>= f) :=
  .bind (Q := fun _ => True) (fun _ _ => trivial) fun b _ => h b
theorem reads_illIf (c : Bool) : Reads (fun _ => c = false) (illIf c) := fun _ h => by
  cases c with
  | false => rfl
  | true => cases h
theorem reads_rangeIf (c : Bool) : Reads (fun _ => c = false) (rangeIf c) := fun _ h => by
  cases c with
  | false => rfl
  | true => cases h
theorem Reads.check {c : Bool} {f : Unit → Except Defect α} (h : c = false → Reads P (f ())) : Reads P (illIf c >>= f) :=
  .bind (reads_illIf c) fun _ hc => h hc
theorem Reads.range {c : Bool} {f : Unit → Except Defect α} (h : c = false → Reads P (f ())) : Reads P (rangeIf c >>= f) :=
  .bind (reads_rangeIf c) fun _ hc => h hc
theorem reads_need (x : Option α) : Reads (fun a => x = some a) (need x) := fun a h => by
  cases x with
  | none => cases h
  | some b => cases h; rfl

end

/-- The instruction is well formed, no device event, and has a word of `n` bits. -/
def HasWord (n : Nat) (i : Instr) : Prop := i.wf = true ∧ isEvent i = false ∧ ∃ v, encode i = some (n, v)

theorem fld_lt (w lo n : Nat) : fld w lo n < 2 ^ n := Nat.mod_lt _ (Nat.two_pow_pos n)
theorem xregAt_val (w lo : Nat) : (xregAt w lo).val = fld w lo 5 := Nat.mod_eq_of_lt (fld_lt w lo 5)

/-! ### Opcodes whose words are well formed whatever their operands are -/

theorem plainOpcodes_read (w : Nat) : ∀ d ∈ [decOp01, decOp08, decOp09, decOp12, decOp14, decOp15, decOp16, decOp18, decOp19, decOp1B,
    decOp1C,
    decOp1F, decOp20, decOp22, decOp25, decOp26, decOp28, decOp29, decOp2A, decOp2B, decOp2C, decOp2D, decOp30, decOp32, decOp33, decOp34,
    decOp35], Reads (HasWord 32) (d w) := by
  simp only [List.forall_mem_cons, List.not_mem_nil, false_implies, implies_true, and_true]
  and_intros
  all_goals
    dsimp only [decOp01, decOp08, decOp09, decOp12, decOp14, decOp15, decOp16, decOp18, decOp19, decOp1B, decOp1C, decOp1F, decOp20,
      decOp22,
      decOp25, decOp26, decOp28, decOp29, decOp2A, decOp2B, decOp2C, decOp2D, decOp30, decOp32, decOp33, decOp34, decOp35]
    repeat' first
      | exact .ok ⟨rfl, rfl, _, rfl⟩
      | exact .error _
      | refine .step fun _ => ?_
      | split

/-! ### Opcodes with a check that a well-formed instruction passes -/

theorem decOp07_reads (w : Nat) : Reads (HasWord 32) (decOp07 w) := by
  unfold decOp07
  split
  · exact .ok ⟨rfl, rfl, _, rfl⟩
  · next h => exact .ok ⟨bne_iff_ne.2 h, rfl, _, rfl⟩

theorem decOp10_reads (w : Nat) : Reads (HasWord 32) (decOp10 w) := by
  unfold decOp10
  split
  · exact .ok ⟨rfl, rfl, _, rfl⟩
  · next h => exact .ok ⟨bne_iff_ne.2 h, rfl, _, rfl⟩

theorem decOp11_reads (w : Nat) : Reads (HasWord 32) (decOp11 w) := by
  unfold decOp11
  refine .step fun t => ?_
  split
  case h_1 | h_2 | h_3 | h_4 | h_5 | h_9 => exact .step fun _ => .ok ⟨rfl, rfl, _, rfl⟩
  case h_7 | h_8 => exact .step fun _ => .ok ⟨rfl, rfl, _, rfl⟩
  case h_6 | h_10 => exact .step fun _ => .step fun _ => .ok ⟨rfl, rfl, _, rfl⟩
  case h_11 | h_12 => exact .step fun r => .step fun o => .check fun h => .ok ⟨Eq.mp (Bool.not_eq_false' _) h, rfl, _, rfl⟩
  case h_13 => exact .error _

theorem decOp13_reads (w : Nat) : Reads (HasWord 32) (decOp13 w) := by
  unfold decOp13
  refine .step fun _ => .step fun c => ?_
  split
  case h_1 | h_2 | h_3 => exact .ok ⟨rfl, rfl, _, rfl⟩
  case h_4 => exact .step fun _ => .ok ⟨rfl, rfl, _, rfl⟩
  case h_5 => exact .check fun h => .ok ⟨bne_iff_ne.2 (beq_eq_false_iff_ne.1 h), rfl, _, rfl⟩
  case h_6 => exact .error _

theorem decOp1A_reads (w : Nat) : Reads (HasWord 32) (decOp1A w) := by
  refine .check fun h => .ok ⟨decide_eq_true ?_, rfl, _, rfl⟩
  have hn : (Fin.ofNat 4 (fld w 14 2)).val = fld w 14 2 := Nat.mod_eq_of_lt (fld_lt w 14 2)
  rw [xregAt_val, hn]
  exact Nat.not_lt.1 (of_decide_eq_false h)

theorem decOp1D_reads (w : Nat) : Reads (HasWord 32) (decOp1D w) := by
  refine .step fun _ => ?_
  dsimp only
  split
  case h_1 | h_4 => exact .step fun _ => .step fun _ => .ok ⟨rfl, rfl, _, rfl⟩
  case h_2 => exact .step fun _ => .ok ⟨rfl, rfl, _, rfl⟩
  case h_3 =>
    refine .check fun hn => .step fun o => .range fun hv => .ok ⟨?_, rfl, _, rfl⟩
    rw [Bool.or_eq_false_iff, decide_eq_false_iff_not, decide_eq_false_iff_not] at hn
    have hmod : (Fin.ofNat 9 (fld w 10 5)).val = fld w 10 5 := Nat.mod_eq_of_lt (by omega)
    have hv' := of_decide_eq_false hv
    simp only [Instr.wf, hmod, Bool.and_eq_true, decide_eq_true_eq]
    omega

theorem decOp1E_reads (w : Nat) : Reads (HasWord 32) (decOp1E w) := by
  unfold decOp1E
  split
  case h_1 =>
    refine .step fun c => .check fun h => .step fun o => .ok ⟨?_, rfl, _, rfl⟩
    have hr := fld_lt w 11 1
    simp only [Instr.wf, Bool.or_eq_true, beq_iff_eq]
    simp only [Bool.and_eq_false_iff, bne_eq_false_iff_eq, beq_eq_false_iff_ne] at h
    exact h.symm.imp_left fun h0 => by omega
  case h_2 => exact .step fun _ => .ok ⟨rfl, rfl, _, rfl⟩
  case h_3 =>
    refine .check fun hn => .step fun o => .range fun hv => .ok ⟨?_, rfl, _, rfl⟩
    have h8 := fld_lt w 12 3
    have hmod : (Fin.ofNat 9 (fld w 12 3 + 1)).val = fld w 12 3 + 1 := Nat.mod_eq_of_lt (by omega)
    have h0 := beq_eq_false_iff_ne.1 (Bool.or_eq_false_iff.1 hn).1
    have hv' := of_decide_eq_false hv
    simp only [Instr.wf, hmod, Bool.and_eq_true, decide_eq_true_eq]
    omega
  case h_4 => exact .step fun _ => .step fun _ => .ok ⟨rfl, rfl, _, rfl⟩

theorem decOp21_reads (w : Nat) : Reads (HasWord 32) (decOp21 w) :=
  .step fun _ => .step fun _ => .step fun _ => .step fun _ => .range fun hv => .step fun _ =>
    .ok ⟨decide_eq_true (Nat.not_lt.1 (of_decide_eq_false hv)), rfl, _, rfl⟩

theorem decOp23_reads (w : Nat) : Reads (HasWord 32) (decOp23 w) :=
  .step fun _ => .step fun _ => .step fun _ => .step fun _ => .step fun _ => .step fun _ => .range fun hv =>
    .ok ⟨decide_eq_true (Nat.not_lt.1 (of_decide_eq_false hv)), rfl, _, rfl⟩

theorem vstoreAt_reads (w : Nat) : Reads (fun o => ewselOf (fld w 2 3) = some o.e) (vstoreAt w) :=
  .bind (Q := fun o : VMem => ewselOf (fld w 2 3) = some o.e)
    (.step fun _ => .bind (reads_need _) fun _ he => .step fun _ => .ok he) fun _ he => .ok he

/-- The codes from 4 upward are the widths 32 and 64 and that of VT. -/
theorem ewselOf_of_four_le {n : Nat} {e : EwSel} (h : ewselOf n = some e) (hn : 4 ≤ n) : (e == .w32 || e == .w64 || e == .vt) = true := by
  revert h
  unfold ewselOf
  split
  case h_1 | h_2 | h_3 | h_4 => omega
  case h_5 | h_6 | h_7 => rintro ⟨⟩; rfl
  case h_8 => exact fun h => nomatch h

theorem decOp24_reads (w : Nat) : Reads (HasWord 32) (decOp24 w) := by
  refine .step fun _ => ?_
  split
  · refine .step fun _ => .step fun _ => .check fun h4 => .bind (vstoreAt_reads w) fun o he => .range fun hv => .ok ⟨?_, rfl, _, rfl⟩
    exact Bool.and_eq_true_iff.2 ⟨decide_eq_true (Nat.not_lt.1 (of_decide_eq_false hv)),
      ewselOf_of_four_le he (Nat.not_lt.1 (of_decide_eq_false h4))⟩
  · exact .step fun _ => .step fun _ => .ok ⟨rfl, rfl, _, rfl⟩

theorem decOp27_reads (w : Nat) : Reads (HasWord 32) (decOp27 w) := by
  refine .step fun _ => .step fun q => .check fun h1 => .check fun h2 => .check fun h3 => .ok ⟨?_, rfl, _, rfl⟩
  simp only [Instr.wf, xregAt_val]
  simp only [Bool.and_eq_false_iff, decide_eq_false_iff_not, Nat.not_lt] at h1 h2 h3
  simp only [Bool.and_eq_true, Bool.or_eq_true, Bool.not_eq_true', decide_eq_true_eq, bne]
  exact ⟨⟨h1, h2⟩, h3⟩

theorem decOp31_reads (w : Nat) : Reads (HasWord 32) (decOp31 w) := by
  refine .step fun c => ?_
  dsimp only
  split
  case h_1 | h_3 | h_4 => exact .ok ⟨rfl, rfl, _, rfl⟩
  case h_2 =>
    exact .check fun h => .ok ⟨(not_or_iff _ _).2 h, rfl, _, rfl⟩
  case h_5 => exact .error _

/-- Along the opcodes of Table 7-4. -/
theorem decodeS_reads (w : Nat) : Reads (HasWord 32) (decodeS w) := by
  unfold decodeS
  split
  -- 0x02 to 0x06, 0x0A to 0x0F
  case h_2 | h_3 | h_4 | h_5 | h_6 | h_10 | h_11 | h_12 | h_13 | h_14 | h_15 => exact .ok ⟨rfl, rfl, _, rfl⟩
  case h_7 => exact decOp07_reads w
  case h_16 => exact decOp10_reads w
  case h_17 => exact decOp11_reads w
  case h_19 => exact decOp13_reads w
  case h_25 => exact decOp1A_reads w
  case h_28 => exact decOp1D_reads w
  case h_29 => exact decOp1E_reads w
  case h_32 => exact decOp21_reads w
  case h_34 => exact decOp23_reads w
  case h_35 => exact decOp24_reads w
  case h_38 => exact decOp27_reads w
  case h_46 => exact decOp31_reads w
  case h_51 => exact .error _
  all_goals exact plainOpcodes_read w _ (by simp)

end Sys2Proof.Machine

/-! PROOFS. O3: what the decoder answers for a word of the E format (R128 to R130). -/
namespace Sys2Proof.Machine

/-! ### What the readers of an operand group answer -/

section
variable (f : EF) (ok : EType → Bool)

theorem etype_reads : Reads (fun t => ok t = true) (f.etype ok) :=
  .step fun _ => .check fun h => .ok (Eq.mp (Bool.not_eq_false' _) h)

theorem ve2r_reads : Reads (fun o => ok o.t = true) (f.ve2r ok) :=
  .step fun _ => .step fun _ => .bind (etype_reads f ok) fun _ h => .step fun _ => .step fun _ => .step fun _ => .step fun _ =>
  .step fun _ =>
    .step fun _ => .ok h
theorem ve3r_reads : Reads (fun o => ok o.t = true) (f.ve3r ok) :=
  .step fun _ => .bind (etype_reads f ok) fun _ h => .step fun _ => .step fun _ => .step fun _ => .step fun _ => .step fun _ =>
  .step fun _ =>
    .step fun _ => .ok h
theorem ve1r_reads : Reads (fun o => ok o.t = true) (f.ve1r ok) :=
  .step fun _ => .step fun _ => .step fun _ => .bind (etype_reads f ok) fun _ h => .step fun _ => .step fun _ => .step fun _ =>
  .step fun _ =>
    .step fun _ => .ok h
theorem ve2_reads : Reads (fun o => ok o.t = true) (f.ve2 ok) :=
  .step fun _ => .step fun _ => .bind (etype_reads f ok) fun _ h => .step fun _ => .step fun _ => .step fun _ => .step fun _ =>
  .step fun _ =>
    .step fun _ => .ok h
theorem ve1_reads : Reads (fun o => ok o.t = true) (f.ve1 ok) :=
  .step fun _ => .step fun _ => .step fun _ => .bind (etype_reads f ok) fun _ h => .step fun _ => .step fun _ => .step fun _ =>
  .step fun _ =>
    .step fun _ => .ok h
theorem ve1i_reads : Reads (fun o => ok o.t = true) (f.ve1i ok) :=
  .step fun _ => .step fun _ => .step fun _ => .bind (etype_reads f ok) fun _ h => .step fun _ => .step fun _ => .step fun _ =>
  .step fun _ =>
    .step fun _ => .ok h
theorem vcmp_reads : Reads (fun o => ok o.t = true) (f.vcmp ok) :=
  .step fun _ => .step fun _ => .bind (etype_reads f ok) fun _ h => .step fun _ => .step fun _ => .step fun _ => .step fun _ =>
  .step fun _ =>
    .step fun _ => .step fun _ => .ok h

theorem vred_reads : Reads (fun o => (ok o.t && (o.d.isSome || o.seg.isNone)) = true) (f.vred ok) := by
  refine .step fun _ => .step fun _ => .step fun _ => .bind (etype_reads f ok) fun t h => .step fun _ => .step fun _ => .step fun _ =>
    .step fun seg => ?_
  split
  · refine .check fun hx => .step fun _ => .ok (Bool.and_eq_true_iff.2 ⟨h, ?_⟩)
    cases seg with
    | none => rfl
    | some r => exact Bool.noConfusion (Bool.or_eq_false_iff.1 hx).2
  · exact .step fun _ => .step fun _ => .ok (Bool.and_eq_true_iff.2 ⟨h, rfl⟩)
theorem vredi_reads : Reads (fun o => (o.t.isInt && (o.d.isSome || o.seg.isNone)) = true) f.vredi := by
  refine .step fun _ => .step fun _ => .step fun _ => .bind (etype_reads f _) fun t h => .step fun _ => .step fun _ => .step fun _ =>
    .step fun seg => ?_
  split
  · refine .check fun hx => .step fun _ => .ok (Bool.and_eq_true_iff.2 ⟨h, ?_⟩)
    cases seg with
    | none => rfl
    | some r => exact Bool.noConfusion (Bool.or_eq_false_iff.1 hx).2
  · exact .step fun _ => .step fun _ => .ok (Bool.and_eq_true_iff.2 ⟨h, rfl⟩)
theorem arms_reads : Reads (fun a => a.unusedZero = true) f.arms :=
  .step fun _ => .check fun h => .ok (Eq.mp (Bool.not_eq_false' _) h)

end

theorem vregOf_reads (n : Nat) : Reads (fun r => r.val = n) (vregOf n) := fun r h => by
  unfold vregOf at h
  split at h
  · cases h; rfl
  · cases h

/-! ### Words with a check of their own -/

/-- R203: the scales of VQMX go to another register than its codes. -/
theorem vqmx_wf (f : EF) {t st : EType} {d sd : VReg} {a : VSrc} {m : MSel} {r : Rnd} (ht : t.mxElem = true) (hst : (!st.isFp) = false)
    (hne : (f.cb || f.vb == f.vd) = false) (hd : d.val = f.vd) (hsd : sd.val = f.vb) : (Instr.vqmx ⟨d, a, sd, m, t, st, r⟩).wf = true := by
  have hx : sd ≠ d := fun e => beq_eq_false_iff_ne.1 (Bool.or_eq_false_iff.1 hne).2 (by rw [← hsd, ← hd, e])
  simp only [Instr.wf, ht, Eq.mp (Bool.not_eq_false' _) hst, bne_iff_ne.2 hx, Bool.and_self]

/-- R130: a distance of WCONT that is not 0 stays so in its eight bits. -/
theorem wcont_wf {k : WReg} {n : Nat} (hlt : decide (2 ^ 11 ≤ n) = false) (h0 : ¬ n / 8 = 0) :
    (Instr.wcont k (Fin.ofNat 256 (n / 8))).wf = true := by
  have hn : n < 2 ^ 11 := Nat.not_le.1 (of_decide_eq_false hlt)
  refine bne_iff_ne.2 fun e => h0 ?_
  have hv : n / 8 % 256 = 0 := congrArg Fin.val e
  omega

/-- Along the values of op8 (R129, R130). -/
theorem decodeE_reads (w : Nat) : Reads (HasWord 64) (decodeE w) := by
  unfold decodeE
  dsimp only
  split
  -- 0x01: STOP
  case h_1 => exact .step fun _ => .ok ⟨rfl, rfl, _, rfl⟩
  -- 0x02 to 0x0E, floating point
  case h_2 | h_3 | h_4 | h_8 => exact .bind (ve2r_reads _ _) fun _ h => .ok ⟨h, rfl, _, rfl⟩
  case h_5 | h_6 | h_7 => exact .bind (ve3r_reads _ _) fun _ h => .ok ⟨h, rfl, _, rfl⟩
  case h_9 => exact .bind (ve1r_reads _ _) fun _ h => .ok ⟨h, rfl, _, rfl⟩
  case h_10 | h_11 | h_14 => exact .bind (ve2_reads _ _) fun _ h => .ok ⟨h, rfl, _, rfl⟩
  case h_12 | h_13 => exact .bind (ve1_reads _ _) fun _ h => .ok ⟨h, rfl, _, rfl⟩
  -- 0x40 to 0x53, integer
  case h_15 | h_16 | h_17 | h_18 | h_19 | h_20 | h_21 | h_22 | h_23 | h_24 | h_25 | h_26 | h_27 | h_28 | h_29 | h_30 | h_31 | h_32 | h_33 =>
    exact .bind (ve2_reads _ _) fun _ h => .ok ⟨h, rfl, _, rfl⟩
  case h_34 =>
    exact .step fun _ => .step fun _ => .step fun _ => .step fun _ => .step fun _ => .step fun _ => .check fun h => .step fun _ =>
      .step fun _ =>
      .step fun _ => .ok ⟨Eq.mp (Bool.not_eq_false' _) h, rfl, _, rfl⟩
  -- 0x70 to 0x78, compares and masks
  case h_35 | h_36 => exact .bind (vcmp_reads _ _) fun _ h => .ok ⟨h, rfl, _, rfl⟩
  case h_37 | h_38 | h_39 | h_40 | h_42 | h_43 => exact .step fun _ => .ok ⟨rfl, rfl, _, rfl⟩
  case h_41 =>
    exact .step fun _ => .step fun _ => .step fun _ => .step fun _ => .step fun _ => .step fun _ => .step fun _ => .step fun _ =>
      .step fun _ =>
      .ok ⟨rfl, rfl, _, rfl⟩
  -- 0x90 to 0x95, conversions and moves
  case h_44 =>
    exact .step fun _ => .step fun _ => .step fun _ => .bind (etype_reads _ _) fun _ ht => .step fun _ => .step fun _ => .step fun _ =>
      .check fun hs => .step fun _ => .step fun _ =>
        .ok ⟨Bool.and_eq_true_iff.2 ⟨ht, bne_iff_ne.2 (beq_eq_false_iff_ne.1 hs)⟩, rfl, _, rfl⟩
  case h_45 =>
    exact .check fun hne => .step fun _ => .step fun _ => .bind (etype_reads _ _) fun _ ht => .step fun _ => .step fun _ => .step fun _ =>
      .check fun hs => .bind (vregOf_reads _) fun _ hd => .step fun _ => .bind (vregOf_reads _) fun _ hsd =>
        .ok ⟨vqmx_wf _ ht hs hne hd hsd, rfl, _, rfl⟩
  case h_46 => exact .step fun _ => .ok ⟨rfl, rfl, _, rfl⟩
  case h_47 => exact .step fun _ => .ok ⟨rfl, rfl, _, rfl⟩
  case h_48 =>
    exact .step fun _ => .step fun _ => .step fun _ => .step fun _ => .bind (etype_reads _ _) fun _ h => .step fun _ => .step fun _ =>
      .step fun _ => .step fun _ => .ok ⟨h, rfl, _, rfl⟩
  case h_49 =>
    exact .step fun _ => .step fun _ => .step fun _ => .step fun _ => .bind (etype_reads _ _) fun _ h => .step fun _ => .step fun _ =>
      .step fun _ => .step fun _ => .ok ⟨h, rfl, _, rfl⟩
  -- 0xB0 to 0xBF, permutations, reductions and scans
  case h_50 | h_51 => exact .bind (ve1i_reads _ _) fun _ h => .ok ⟨h, rfl, _, rfl⟩
  case h_52 => exact .bind (ve2_reads _ _) fun _ h => .ok ⟨h, rfl, _, rfl⟩
  case h_53 | h_54 | h_55 => exact .bind (ve1_reads _ _) fun _ h => .ok ⟨h, rfl, _, rfl⟩
  case h_56 | h_57 | h_58 => exact .bind (vred_reads _ _) fun _ h => .ok ⟨h, rfl, _, rfl⟩
  case h_59 | h_60 | h_61 => exact .bind (vredi_reads _) fun _ h => .ok ⟨h, rfl, _, rfl⟩
  case h_62 | h_63 =>
    exact .step fun _ => .step fun _ => .step fun _ => .bind (etype_reads _ _) fun _ h => .step fun _ => .step fun _ => .step fun _ =>
      .step fun _ => .step fun _ => .ok ⟨h, rfl, _, rfl⟩
  -- 0xD0 to 0xDB, weights and regions
  case h_64 | h_65 | h_66 | h_67 | h_70 | h_71 =>
    repeat refine .step fun _ => ?_
    exact .ok ⟨rfl, rfl, _, rfl⟩
  case h_68 =>
    refine .step fun _ => .step fun _ => .step fun _ => .bind (etype_reads _ _) fun _ h => .step fun _ => .step fun _ => .step fun _ => ?_
    split <;> exact .step fun _ => .step fun _ => .ok ⟨h, rfl, _, rfl⟩
  case h_69 =>
    exact .step fun _ => .step fun _ => .step fun _ => .step fun _ => .step fun _ => .step fun _ => .step fun _ =>
      .bind (arms_reads _) fun _ hz =>
      .check fun hd => .ok ⟨Bool.and_eq_true_iff.2 ⟨hz, Eq.mp (Bool.not_eq_false' _) hd⟩, rfl, _, rfl⟩
  case h_72 =>
    exact .step fun _ => .step fun _ => .step fun _ => .bind (etype_reads _ _) fun _ ht => .step fun _ => .step fun _ =>
      .bind (arms_reads _) fun _ hz =>
      .step fun _ => .step fun _ => .range fun hr => .ok ⟨Bool.and_eq_true_iff.2 ⟨Bool.and_eq_true_iff.2 ⟨ht, hz⟩,
        decide_eq_true (Nat.not_lt.1 (of_decide_eq_false hr))⟩, rfl, _, rfl⟩
  case h_73 | h_74 =>
    repeat refine .step fun _ => ?_
    exact .ok ⟨rfl, rfl, _, rfl⟩
  case h_75 =>
    refine .step fun _ => .step fun _ => .step fun _ => .step fun _ => .step fun _ => .step fun _ => .step fun _ => .step fun _ =>
      .check fun hlt => ?_
    split
    · exact .error _
    · next h0 => exact .ok ⟨wcont_wf hlt h0, rfl, _, rfl⟩
  -- 0xE0 to 0xE2, block memory
  case h_76 | h_77 =>
    exact .step fun _ => .step fun _ => .step fun _ => .bind (etype_reads _ _) fun _ h => .step fun _ => .step fun _ => .step fun _ =>
      .step fun _ => .ok ⟨h, rfl, _, rfl⟩
  case h_78 =>
    exact .step fun _ => .step fun _ => .step fun _ => .bind (etype_reads _ _) fun _ h => .step fun _ => .step fun _ => .step fun _ =>
      .step fun _ => .step fun _ => .ok ⟨h, rfl, _, rfl⟩
  case h_79 => exact .error _

end Sys2Proof.Machine

namespace Sys2Proof.Spec
open Sys2Proof.Machine

theorem decodedIsWellFormed : DecodedIsWellFormed :=
  ⟨decodeS_reads, decodeE_reads⟩

/-- Each opcode that Table 7-4 leaves out falls to the decoder's last case. -/
theorem unassignedOpcodesIllegal : UnassignedOpcodesIllegal := by
  intro w hw hop
  have hfld : fld w 26 6 = w / 2 ^ 26 := Nat.mod_eq_of_lt (by omega)
  generalize w / 2 ^ 26 = op at hfld hop
  fin_cases hop <;> (rw [decodeS, hfld]; rfl)

end Sys2Proof.Spec

namespace Sys2Proof.Proofs
open Sys2Proof.Spec

/-- Settles O3: along every branch of the two decoders the checks passed are what well-formedness asks; an opcode of no table has no
branch. -/
theorem decoderAnswersTheTable : Obligations.DecoderAnswersTheTable :=
  ⟨decodedIsWellFormed, unassignedOpcodesIllegal⟩

end Sys2Proof.Proofs

/-! PROOFS. O6: branches and jumps (R122, R142). -/
namespace Sys2Proof.Machine

/-! ### The arms of the branches and the jumps -/

theorem exec_beq (o : Br) (s : State) : exec (.beq o) s = s.branch o fun a b => a == b := rfl
theorem exec_bne (o : Br) (s : State) : exec (.bne o) s = s.branch o fun a b => a != b := rfl
theorem exec_blt (o : Br) (s : State) : exec (.blt o) s = s.branch o fun a b => a.slt b := rfl
theorem exec_bge (o : Br) (s : State) : exec (.bge o) s = s.branch o fun a b => !a.slt b := rfl
theorem exec_bltn (o : Br) (s : State) : exec (.bltn o) s = s.branch o fun a b => a.ult b := rfl
theorem exec_bgen (o : Br) (s : State) : exec (.bgen o) s = s.branch o fun a b => !a.ult b := rfl
theorem exec_jal (d : XReg) (i : BitVec 16) (s : State) : exec (.jal d i) s = execJal d i s := rfl
theorem exec_jalr (o : XImm) (s : State) : exec (.jalr o) s = execJalr o s := rfl

/-- The two low bits of a word are zero where four divides it. -/
theorem and_three_eq_zero_iff (t : Word64) : t &&& 3 = 0 ↔ t.toNat % 4 = 0 := by
  rw [← BitVec.toNat_inj, BitVec.toNat_and]
  exact (Nat.and_two_pow_sub_one_eq_mod t.toNat 2).symm ▸ Iff.rfl

/-- A trap of the scalar pipe waits for older entries (R47; log entry 10). -/
theorem State.scalarTrap_undrained (s : State) (t : Trap) (h : s.me.drained = false) : s.scalarTrap t = s :=
  if_neg (by rw [h]; exact Bool.false_ne_true)

end Sys2Proof.Machine

namespace Sys2Proof.Spec
open Sys2Proof.Machine

/-! ### Branches -/

/-- A branch whose arm decides by `c` decides by what `c` says of the numbers. -/
theorem branchRow_of_exec {mk : Br → Instr} {c : Word64 → Word64 → Bool} {p : Word64 → Word64 → Prop}
    (he : ∀ o s, exec (mk o) s = s.branch o c) (hc : ∀ a b, c a b = true ↔ p a b) : BranchRow mk p := by
  refine fun o s => ⟨fun hp => ⟨_, he o s, ?_⟩, fun hp => ⟨_, he o s, ?_⟩⟩
  · rw [if_pos ((hc _ _).2 hp), branchTarget_eq]
  · rw [if_neg fun h => hp ((hc _ _).1 h)]; rfl

theorem branchesTakenAndNot : BranchesTakenAndNot := by
  refine ⟨branchRow_of_exec exec_beq fun a b => beq_iff_eq, branchRow_of_exec exec_bne fun a b => bne_iff_ne,
    branchRow_of_exec exec_blt fun a b => BitVec.slt_iff_toInt_lt, branchRow_of_exec exec_bge fun a b => ?_,
    branchRow_of_exec exec_bltn fun a b => BitVec.ult_iff_toNat_lt, branchRow_of_exec exec_bgen fun a b => ?_⟩
  · rw [Bool.not_eq_true', ← Bool.not_eq_true, BitVec.slt_iff_toInt_lt, Int.not_lt]
  · rw [Bool.not_eq_true', ← Bool.not_eq_true, BitVec.ult_iff_toNat_lt, Nat.not_lt]

/-! ### Jumps -/

theorem jal_jumps (d : XReg) (i : BitVec 16) (s : State) :
    JumpsTo (.jal d i) s (some (d, s.mySc.pc + 4)) (s.mySc.pc + BitVec.ofInt 64 (4 * i.toInt)) :=
  ⟨_, exec_jal d i s, by rw [branchTarget_eq]⟩

section
variable (o : XImm) (s : State)

theorem jalr_jumps (h : (s.mySc.rx o.a + BitVec.ofInt 64 o.i.toInt).toNat % 4 = 0) :
    JumpsTo (.jalr o) s (some (o.d, s.mySc.pc + 4)) (s.mySc.rx o.a + BitVec.ofInt 64 o.i.toInt) :=
  ⟨_, (exec_jalr o s).trans (if_pos ((and_three_eq_zero_iff _).2 h)), rfl⟩

theorem exec_jalr_misaligned (h : (s.mySc.rx o.a + BitVec.ofInt 64 o.i.toInt).toNat % 4 ≠ 0) :
    exec (.jalr o) s = .next (s.scalarTrap ⟨.misalign, 0, s.mySc.rx o.a + BitVec.ofInt 64 o.i.toInt⟩) :=
  (exec_jalr o s).trans (if_neg fun h0 => h ((and_three_eq_zero_iff _).1 h0))

end

theorem jumpsLinkAndMisalign : JumpsLinkAndMisalign := by
  refine ⟨jal_jumps, fun o s => ⟨jalr_jumps o s, fun hm hd => ?_, fun hm hd => ?_⟩, by decide⟩
  · exact trapsWith_of_scalarTrap .misalign _ hd (exec_jalr_misaligned o s hm)
  · exact ⟨_, exec_jalr_misaligned o s hm, s.scalarTrap_undrained _ hd⟩

/-! ### Words -/

theorem branchWords : BranchWords := by
  refine ⟨fun o => ⟨rfl, rfl, rfl, rfl, rfl, rfl⟩, fun d i => ?_, fun o => rfl⟩
  simp [encode, encSI]

end Sys2Proof.Spec

namespace Sys2Proof.Proofs
open Sys2Proof.Spec

/-- Settles O6: a branch by what its condition says of the numbers, JALR by the two low bits of its target. -/
theorem branchesAndJumps : Obligations.BranchesAndJumps :=
  ⟨branchesTakenAndNot, jumpsLinkAndMisalign, branchWords⟩

end Sys2Proof.Proofs

/-! PROOFS. O12: SYSCALL, BREAK, privileged instructions at user level, and SRET (R118, R147, R148, R313). -/
namespace Sys2Proof.Machine

theorem exec_syscall (s : State) : exec .syscall s = .next (s.pointTrap ⟨.syscall, 0, s.mySc.pc⟩) := rfl
theorem exec_brk (s : State) : exec .brk s = .next (s.pointTrap ⟨.brk, 0, s.mySc.pc⟩) := rfl

theorem State.privileged_user (s : State) (k : Unit → Host.Outcome State Fault Refusal) (h : s.mySc.sup = false) :
    s.privileged k = .next (s.pointTrap ⟨.priv, 0, s.mySc.pc⟩) :=
  if_neg (by rw [h]; exact Bool.false_ne_true)
theorem State.pointTrap_unsettled (s : State) (t : Trap) (h : s.me.settled = false) : s.pointTrap t = s :=
  if_neg (by rw [h]; exact Bool.false_ne_true)
/-- A trap at the fault point keeps the entries that have passed theirs. -/
theorem State.pointTrap_settled (s : State) (t : Trap) (h : s.me.settled = true) :
    s.pointTrap t = (s.takeTrap s.cur s.mySc t s.mySc.pc false).setMe
      { (s.takeTrap s.cur s.mySc t s.mySc.pc false).me with viq := s.me.viq, holds := s.me.holds } := if_pos h

/-- SRET leaves SPP as it was, with SIE set and SBLK clear (R148). -/
theorem sret_sstatus (x : BitVec 3) : (x &&& 1#3) ||| 2#3 = if x.getLsbD 0 then 3 else 2 := by
  revert x; decide

end Sys2Proof.Machine

namespace Sys2Proof.Spec
open Sys2Proof.Machine

theorem trapsAtFaultPoints_of_pointTrap {i : Instr} {s : State} (c : Cause) (a : Word64)
    (he : exec i s = .next (s.pointTrap ⟨c, 0, a⟩)) : TrapsAtFaultPoints i s c.code a := by
  refine ⟨fun hd => ?_, fun hs => ⟨_, he, ?_⟩, fun hs => ⟨_, he, s.pointTrap_unsettled _ hs⟩⟩
  · exact trapsWith_of_scalarTrap c a hd (he.trans (congrArg _ (s.pointTrap_drained _ hd)))
  · have hsc : (s.pointTrap ⟨c, 0, a⟩).mySc = s.mySc.clearVtf.enterTrap ⟨c, 0, a⟩ s.mySc.pc false := by
      rw [s.pointTrap_settled _ hs, State.setMe_mySc]
      exact s.takeTrap_mySc _ _ _ _
    beta_reduce
    rw [hsc, s.pointTrap_settled _ hs, State.setMe_me]
    refine ⟨⟨rfl, fun k hk => ?_⟩, rfl, rfl, rfl, rfl, rfl, rfl, rfl, ?_, rfl, rfl, rfl⟩
    · exact (State.setCtx_ne _ _ _ _ hk).trans (State.setCtx_ne _ _ _ _ hk)
    · change BitVec.ofNat 3 ((if s.mySc.sup then 1 else 0) + 0) = _
      split <;> rfl

theorem systemCallsTrap : SystemCallsTrap := fun s =>
  ⟨trapsAtFaultPoints_of_pointTrap .syscall _ (exec_syscall s), trapsAtFaultPoints_of_pointTrap .brk _ (exec_brk s)⟩

theorem privilegedInstructionsTrapAtUserLevel : PrivilegedInstructionsTrapAtUserLevel := fun s hu =>
  ⟨trapsAtFaultPoints_of_pointTrap .priv _ ((exec_sret s).trans (s.privileged_user _ hu)),
    fun a b => trapsAtFaultPoints_of_pointTrap .priv _ ((exec_tlbinv a b s).trans (s.privileged_user _ hu)),
    fun a b => trapsAtFaultPoints_of_pointTrap .priv _ ((exec_sigdec a b s).trans (s.privileged_user _ hu)),
    fun o => trapsAtFaultPoints_of_pointTrap .priv _ ((exec_tstop o s).trans (s.privileged_user _ hu))⟩

theorem exec_sret_supervisor {s : State} (hd : s.me.drained = true) (hs : s.mySc.sup = true) :
    exec .sret s = .next (s.setMySc { s.mySc.sret with instret := s.mySc.instret + 1 }) := by
  rw [exec_sret, execSret, s.privileged_sup _ hs, s.serial_drained _ hd]

theorem sretReturns : SretReturns := fun s hd hs => by
  refine ⟨_, exec_sret_supervisor hd hs, ?_⟩
  rw [Scalar.sret, sret_sstatus]

/-- SPP of a trap is the level it was taken at (R313). -/
theorem enterTrap_spp (sc : Scalar) (t : Trap) (epc : Word64) : (sc.enterTrap t epc false).sstatus.getLsbD 0 = sc.sup := by
  change (BitVec.ofNat 3 ((if sc.sup then 1 else 0) + 0)).getLsbD 0 = _
  cases sc.sup <;> rfl

theorem trapThenReturn : TrapThenReturn := by
  intro s tr hd
  dsimp only
  rw [s.scalarTrap_drained tr hd]
  have hsc := s.takeTrap_mySc s.mySc tr s.mySc.pc false
  have hdrained : (s.takeTrap s.cur s.mySc tr s.mySc.pc false).me.drained = true := by rw [s.takeTrap_me]; rfl
  have hsup : (s.takeTrap s.cur s.mySc tr s.mySc.pc false).mySc.sup = true := by rw [hsc]; rfl
  refine ⟨_, exec_sret_supervisor hdrained hsup, ?_⟩
  beta_reduce
  rw [State.setMySc_mySc, hsc]
  exact ⟨rfl, enterTrap_spp _ _ _, rfl, rfl, rfl⟩

end Sys2Proof.Spec

namespace Sys2Proof.Proofs
open Sys2Proof.Spec

/-- Settles O12: one trap at the fault point serves every case; a return undoes what the trap changed of pc and level. -/
theorem trapsAndReturns : Obligations.TrapsAndReturns :=
  ⟨systemCallsTrap, privilegedInstructionsTrapAtUserLevel, sretReturns, trapThenReturn⟩

end Sys2Proof.Proofs
